-- ==== Sys2Proof/Word.lean ====
section
/-! DEFINITION. The plain words of the machine and the small closed sets of names its fields use:
format tags (R39), rounding modes (R46), ports (R14), token classes (R32), sites (R24). -/

namespace Sys2Proof

/-- A 64-bit value: a payload, a register, a name word. -/
abbrev Word := BitVec 64

/-- One byte of memory. -/
abbrev Byte := BitVec 8

/-- A station word (R71). -/
abbrev StationWord := BitVec 128

/-- Format tags, in the order of their codes (R39). -/
inductive Fmt where
  | f64 | f32 | bf16 | f16 | e4m3 | e5m2 | i64 | i8
  deriving DecidableEq, Repr

/-- The code of a format tag (R39). -/
def Fmt.code : Fmt → BitVec 3
  | .f64 => 0 | .f32 => 1 | .bf16 => 2 | .f16 => 3
  | .e4m3 => 4 | .e5m2 => 5 | .i64 => 6 | .i8 => 7

/-- The format tag of a code (R39). -/
def Fmt.ofCode (c : BitVec 3) : Fmt :=
  if c = 0 then .f64 else if c = 1 then .f32 else if c = 2 then .bf16 else if c = 3 then .f16
  else if c = 4 then .e4m3 else if c = 5 then .e5m2 else if c = 6 then .i64 else .i8

/-- Rounding modes (R46). -/
inductive Round where
  | rne | rtz | rup | rdn
  deriving DecidableEq, Repr

/-- The code of a rounding mode (R46). -/
def Round.code : Round → BitVec 2
  | .rne => 0 | .rtz => 1 | .rup => 2 | .rdn => 3

/-- The rounding mode of a code (R46). -/
def Round.ofCode (c : BitVec 2) : Round :=
  if c = 0 then .rne else if c = 1 then .rtz else if c = 2 then .rup else .rdn

/-- Operand ports (R14). -/
inductive Port where
  | l | r | p | c
  deriving DecidableEq, Repr

/-- The code of a port (R14). -/
def Port.code : Port → BitVec 2
  | .l => 0 | .r => 1 | .p => 2 | .c => 3

/-- The port of a code (R14). -/
def Port.ofCode (k : BitVec 2) : Port :=
  if k = 0 then .l else if k = 1 then .r else if k = 2 then .p else .c

/-- Token classes (R32). -/
inductive Cls where
  | data | request | response | control
  deriving DecidableEq, Repr

/-- A site: die, grid row, grid column (R16, R24). -/
structure Site where
  die : Nat
  row : Nat
  col : Nat
  deriving DecidableEq, Repr

/-- Sites in the order die, grid row, grid column, as one number (rows are below 128, columns below 256). -/
def Site.key (x : Site) : Nat := x.die * 32768 + x.row * 256 + x.col

/-- The site of a key. -/
def Site.ofKey (k : Nat) : Site := ⟨k / 32768, k / 256 % 128, k % 256⟩

end Sys2Proof
end

