-- ==== Sys2Proof/Machine/Bits.lean ====
section
/-! DEFINITION. Bit fields, and finite maps held as lists of key and value in rising key order. -/

namespace Sys2Proof.Machine

/-- `w[hi:lo]` as a number (R5). -/
def field {n : Nat} (w : BitVec n) (hi lo : Nat) : Nat := (w.toNat >>> lo) % 2 ^ (hi + 1 - lo)

/-- Bit `i` of a word. -/
def bit {n : Nat} (w : BitVec n) (i : Nat) : Bool := w.toNat >>> i % 2 == 1

/-- `w` with `w[hi:lo]` replaced by the low bits of `v`. -/
def setField {n : Nat} (w : BitVec n) (hi lo v : Nat) : BitVec n :=
  BitVec.ofNat n
    (w.toNat - field w hi lo * 2 ^ lo + v % 2 ^ (hi + 1 - lo) * 2 ^ lo)

/-- One or zero. -/
def one (b : Bool) : Nat := if b then 1 else 0

/-- A finite map: keys strictly rising, absent keys at a default the reader names. -/
abbrev Map (α : Type) := List (Nat × α)

/-- The value at a key, if listed. -/
def Map.find {α : Type} : Map α → Nat → Option α
  | [], _ => none
  | (k, v) :: m, q => if q = k then some v else Map.find m q

/-- The value at a key, or the default. -/
def Map.get {α : Type} (m : Map α) (d : α) (q : Nat) : α := (Map.find m q).getD d

/-- The map with a key set, in rising key order. -/
def Map.put {α : Type} : Map α → Nat → α → Map α
  | [], q, x => [(q, x)]
  | (k, v) :: m, q, x =>
    if q < k then (q, x) :: (k, v) :: m
    else if q = k then (q, x) :: m
    else (k, v) :: Map.put m q x

/-- The map without a key. -/
def Map.del {α : Type} : Map α → Nat → Map α
  | [], _ => []
  | (k, v) :: m, q => if q = k then m else (k, v) :: Map.del m q

/-- The map with the value at a key changed, from the default where it is absent. -/
def Map.alter {α : Type} (m : Map α) (d : α) (q : Nat) (f : α → α) : Map α := Map.put m q (f (Map.get m d q))

/-- The values whose keys meet a test. -/
def Map.keep {α : Type} (m : Map α) (p : Nat → Bool) : Map α := m.filter (fun kv => p kv.1)

/-- The index of the first element that meets a test. -/
def firstIdx {α : Type} (p : α → Bool) : List α → Nat → Option Nat
  | [], _ => none
  | x :: xs, i => if p x then some i else firstIdx p xs (i + 1)

/-- The least element under a key, first of equals. -/
def leastBy {α : Type} (key : α → Nat) : List α → Option α
  | [] => none
  | x :: xs =>
    match leastBy key xs with
    | none => some x
    | some y => if key x ≤ key y then some x else some y

/-- The sum of a list of numbers. -/
def sumNat : List Nat → Nat
  | [] => 0
  | x :: xs => x + sumNat xs

/-- The sum of a list of integers. -/
def sumInt : List Int → Int
  | [] => 0
  | x :: xs => x + sumInt xs

/-- Little-endian bytes of a number (R6). -/
def leBytes : Nat → Nat → List Byte
  | 0, _ => []
  | n + 1, v => BitVec.ofNat 8 (v % 256) :: leBytes n (v / 256)

/-- The number of a little-endian byte list (R6). -/
def leNat : List Byte → Nat
  | [] => 0
  | b :: bs => b.toNat + 256 * leNat bs

/-- The signed reading of an `n`-bit number. -/
def signed (n v : Nat) : Int := if v % 2 ^ n < 2 ^ (n - 1) then (v % 2 ^ n : Nat) else ((v % 2 ^ n : Nat) : Int) - (2 ^ n : Nat)

/-- An integer modulo `2^n`, as a number. -/
def wrapNat (n : Nat) (x : Int) : Nat := (x % ((2 ^ n : Nat) : Int)).toNat

end Sys2Proof.Machine
end

