-- ==== Sys2Proof/Machine/Num.lean ====
section
/-! DEFINITION. Number formats to the bit (R39 to R45), exact values, the one rounding (R46, R47), conversion (R49 to
R54) and exact sums (R62). A finite value is a sign, a natural significand and a power of two: every sum and product of
the machine is exact on these before it is rounded once. -/

namespace Sys2Proof.Machine

/-- Lane width of a format (R39). -/
def Fmt.width : Fmt → Nat
  | .f64 | .i64 => 64
  | .f32 => 32
  | .bf16 | .f16 => 16
  | .e4m3 | .e5m2 | .i8 => 8

/-- Lanes per payload (R39). -/
def Fmt.lanes : Fmt → Nat
  | .f64 | .i64 => 1
  | .f32 => 2
  | .bf16 | .f16 => 4
  | .e4m3 | .e5m2 | .i8 => 8

/-- A floating-point format (R39). -/
def Fmt.isFloat : Fmt → Bool
  | .i64 | .i8 => false
  | _ => true

/-- Fraction width (R42). -/
def Fmt.frac : Fmt → Nat
  | .f64 => 52 | .f32 => 23 | .bf16 => 7 | .f16 => 10 | .e4m3 => 3 | .e5m2 => 2 | .i64 | .i8 => 0

/-- Exponent bias (R42). -/
def Fmt.bias : Fmt → Nat
  | .f64 => 1023 | .f32 | .bf16 => 127 | .f16 | .e5m2 => 15 | .e4m3 => 7 | .i64 | .i8 => 0

/-- The greatest finite pattern, sign 0 (R42). -/
def Fmt.maxFinite : Fmt → Nat
  | .f64 => 0x7FEFFFFFFFFFFFFF | .f32 => 0x7F7FFFFF | .bf16 => 0x7F7F | .f16 => 0x7BFF
  | .e4m3 => 0x7E | .e5m2 => 0x7B | .i64 => 0x7FFFFFFFFFFFFFFF | .i8 => 0x7F

/-- The canonical NaN (R42). -/
def Fmt.nan : Fmt → Nat
  | .f64 => 0x7FF8000000000000 | .f32 => 0x7FC00000 | .bf16 => 0x7FC0 | .f16 => 0x7E00
  | .e4m3 => 0x7F | .e5m2 => 0x7E | .i64 | .i8 => 0

/-- The sign bit of a pattern. -/
def signBit (f : Fmt) : Nat := 2 ^ (Fmt.width f - 1)

/-- A pattern with a sign. -/
def withSign (f : Fmt) (neg : Bool) (mag : Nat) : Nat := if neg then signBit f + mag else mag

/-- The format has infinities: every one but E4M3 (R42). -/
def Fmt.hasInf (f : Fmt) : Bool := f != .e4m3

/-- An exact value: not a number, an infinity, or (−1)^neg × m × 2^e with a signed zero. -/
inductive FVal where
  | nan
  | inf (neg : Bool)
  | fin (neg : Bool) (m : Nat) (e : Int)
  deriving DecidableEq, Repr

/-- The value of a pattern (R43). -/
def decodeF (f : Fmt) (bits : Nat) : FVal :=
  let neg := bits / signBit f % 2 == 1
  let mag := bits % signBit f
  let F := Fmt.frac f
  let e := mag / 2 ^ F
  let fr := mag % 2 ^ F
  if mag > Fmt.maxFinite f then
    (if Fmt.hasInf f && mag == Fmt.maxFinite f + 1 then .inf neg else .nan)
  else if e = 0 then .fin neg fr (1 - Fmt.bias f - F)
  else .fin neg (2 ^ F + fr) ((e : Int) - Fmt.bias f - F)

/-- Whether a truncated significand is rounded up (R46): `rem` of `2 ^ sh` was cut off. -/
def roundsUp (mode : Round) (neg : Bool) (sig rem sh : Nat) : Bool :=
  match mode with
  | .rne => 2 * rem > 2 ^ sh || (2 * rem == 2 ^ sh && sig % 2 == 1)
  | .rtz => false
  | .rup => !neg && rem > 0
  | .rdn => neg && rem > 0

/-- `m × 2^e` rounded to a multiple of `2^q`, counted in that unit. -/
def roundAt (mode : Round) (neg : Bool) (m : Nat) (e q : Int) : Nat :=
  if q ≤ e then m * 2 ^ (e - q).toNat
  else
    let sh := (q - e).toNat
    let sig := m / 2 ^ sh
    if roundsUp mode neg sig (m % 2 ^ sh) sh then sig + 1 else sig

/-- The exceptional classes of R55, in the order of their cause codes (R58). -/
inductive Cause where
  | invalid | overflow | conversion
  deriving DecidableEq, Repr

/-- The cause code of R58. -/
def Cause.code : Cause → Nat
  | .invalid => 1 | .overflow => 2 | .conversion => 3

/-- The lower of two causes (R59). -/
def minCause : Option Cause → Option Cause → Option Cause
  | none, c => c
  | c, none => c
  | some a, some b => if a.code ≤ b.code then some a else some b

/-- A lane's delivered pattern and its exceptional cause, if any. -/
structure LaneRes where
  bits  : Nat
  cause : Option Cause
  deriving DecidableEq, Repr

/-- What an overflow delivers (R47). -/
def overflowed (f : Fmt) (mode : Round) (sat neg : Bool) : LaneRes :=
  let toInf : Bool := match mode with
    | .rne => true | .rtz => false | .rup => !neg | .rdn => neg
  if sat || !toInf then ⟨withSign f neg (Fmt.maxFinite f), none⟩
  else if Fmt.hasInf f then ⟨withSign f neg (Fmt.maxFinite f + 1), some .overflow⟩
  else ⟨Fmt.nan f, some .overflow⟩

/-- The exact value `(−1)^neg × m × 2^e` rounded once to a format (R47). -/
def roundF (f : Fmt) (mode : Round) (sat neg : Bool) (m : Nat) (e : Int) : LaneRes :=
  if m = 0 then ⟨withSign f neg 0, none⟩ else
  let F := Fmt.frac f
  let qmin : Int := 1 - Fmt.bias f - F
  let q : Int := max qmin ((m.log2 : Int) + e - F)
  let mag := (q - qmin).toNat * 2 ^ F + roundAt mode neg m e q
  if mag > Fmt.maxFinite f then overflowed f mode sat neg else ⟨withSign f neg mag, none⟩

/-- An infinity that arises from infinite operands: it is delivered without poison where the format has one. In E4M3 it
is NaN with poison (R50, R55). -/
def infF (f : Fmt) (neg : Bool) : LaneRes :=
  if Fmt.hasInf f then ⟨withSign f neg (Fmt.maxFinite f + 1), none⟩ else ⟨Fmt.nan f, some .invalid⟩

/-- An infinite result of finite operands (R55): overflow class, or the greatest finite value under sat. -/
def infFromFinite (f : Fmt) (sat neg : Bool) : LaneRes :=
  if sat then ⟨withSign f neg (Fmt.maxFinite f), none⟩
  else if Fmt.hasInf f then ⟨withSign f neg (Fmt.maxFinite f + 1), some .overflow⟩
  else ⟨Fmt.nan f, some .overflow⟩

/-- The canonical NaN without new poison (R44). -/
def nanF (f : Fmt) : LaneRes := ⟨Fmt.nan f, none⟩

/-- The canonical NaN of an invalid operation (R55). -/
def invalidF (f : Fmt) : LaneRes := ⟨Fmt.nan f, some .invalid⟩

/-- A value delivered in a format, rounded once. -/
def deliverF (f : Fmt) (mode : Round) (sat : Bool) : FVal → LaneRes
  | .nan => nanF f
  | .inf neg => infF f neg
  | .fin neg m e => roundF f mode sat neg m e

/-- The negated value. -/
def FVal.neg : FVal → FVal
  | .nan => .nan
  | .inf s => .inf !s
  | .fin s m e => .fin (!s) m e

/-- The exact product, and whether it is 0 × ∞. -/
def FVal.mul : FVal → FVal → FVal × Bool
  | .nan, _ => (.nan, false)
  | _, .nan => (.nan, false)
  | .inf a, .inf b => (.inf (a != b), false)
  | .inf a, .fin b m _ => if m = 0 then (.nan, true) else (.inf (a != b), false)
  | .fin a m _, .inf b => if m = 0 then (.nan, true) else (.inf (a != b), false)
  | .fin a m e, .fin b n k => (.fin (a != b) (m * n) (e + k), false)

/-- A signed significand at exponent `q`, which is at most the value's own. -/
def FVal.scaled (q : Int) : FVal → Int
  | .fin neg m e => (if neg then -1 else 1) * ((m * 2 ^ (e - q).toNat : Nat) : Int)
  | _ => 0

/-- The least exponent among finite values. -/
def minExp : List FVal → Int → Int
  | [], q => q
  | .fin _ _ e :: xs, q => minExp xs (min e q)
  | _ :: xs, q => minExp xs q

/-- A negative zero. -/
def FVal.negZero : FVal → Bool
  | .fin true 0 _ => true
  | _ => false

/-- A positive zero. -/
def FVal.posZero : FVal → Bool
  | .fin false 0 _ => true
  | _ => false

/-- The exact sum of addends with the sign of a zero sum that R45 gives. `bad` says that some product was 0 × ∞.
The second component says that the sum is invalid (R55, R62). -/
def sumF (mode : Round) (bad : Bool) (xs : List FVal) : FVal × Bool :=
  if bad || (xs.contains (.inf false) && xs.contains (.inf true)) then (.nan, true)
  else if xs.contains .nan then (.nan, false)
  else if xs.contains (.inf false) then (.inf false, false)
  else if xs.contains (.inf true) then (.inf true, false)
  else
    let q := minExp xs 0
    let s := sumInt (xs.map (FVal.scaled q))
    if s = 0 then
      (if xs.all FVal.posZero then (.fin false 0 0, false)
       else (.fin (xs.all FVal.negZero || mode == .rdn) 0 0, false))
    else (.fin (s < 0) s.natAbs q, false)

/-- A sum of addends rounded once to a format. -/
def sumTo (f : Fmt) (mode : Round) (sat bad : Bool) (xs : List FVal) : LaneRes :=
  match sumF mode bad xs with
  | (_, true) => invalidF f
  | (v, false) => deliverF f mode sat v

/-- The products of paired values, and whether any is 0 × ∞. -/
def products : List FVal → List FVal → List FVal × Bool
  | x :: xs, y :: ys =>
    let p := FVal.mul x y
    let r := products xs ys
    (p.1 :: r.1, p.2 || r.2)
  | _, _ => ([], false)

/-- A finite value rounded to an integer (R51, R125). -/
def roundInt (mode : Round) (neg : Bool) (m : Nat) (e : Int) : Int :=
  let k : Int := (roundAt mode neg m e 0 : Nat)
  if neg then -k else k

/-- An integer clamped to a range. -/
def clampInt (lo hi x : Int) : Int := if x < lo then lo else if hi < x then hi else x

/-- Float to integer of `w` bits with range `lo … hi` (R51). -/
def floatToInt (w : Nat) (lo hi : Int) (mode : Round) (sat : Bool) : FVal → LaneRes
  | .nan => ⟨0, some .conversion⟩
  | .inf neg => ⟨wrapNat w (if neg then lo else hi), some .conversion⟩
  | .fin neg m e =>
    let x := roundInt mode neg m e
    if lo ≤ x && x ≤ hi then ⟨wrapNat w x, none⟩
    else ⟨wrapNat w (clampInt lo hi x), if sat then none else some .conversion⟩

/-- The signed range of a width. -/
def loS (w : Nat) : Int := -((2 ^ (w - 1) : Nat) : Int)
/-- The greatest value of the signed range. -/
def hiS (w : Nat) : Int := ((2 ^ (w - 1) : Nat) : Int) - 1

/-- An integer as an exact value. -/
def FVal.ofInt (x : Int) : FVal := .fin (x < 0) x.natAbs 0

/-- Conversion of one lane from a format to another (R49 to R52). Between equal formats it is R49's identity, which keeps the
bits of a NaN (DEDUCED, log entry 97). -/
def convert (src dst : Fmt) (mode : Round) (sat : Bool) (bits : Nat) : LaneRes :=
  if src = dst then ⟨bits, none⟩
  else if Fmt.isFloat src then
    (if Fmt.isFloat dst then deliverF dst mode sat (decodeF src bits)
     else floatToInt (Fmt.width dst) (loS (Fmt.width dst)) (hiS (Fmt.width dst)) mode sat (decodeF src bits))
  else
    let x := signed (Fmt.width src) bits
    if Fmt.isFloat dst then deliverF dst mode sat (.ofInt x)
    else if sat then ⟨wrapNat (Fmt.width dst) (clampInt (loS (Fmt.width dst)) (hiS (Fmt.width dst)) x), none⟩
    else ⟨wrapNat (Fmt.width dst) x, none⟩

/-- Lane `i` of a payload (R40). -/
def lane (f : Fmt) (p : Word) (i : Nat) : Nat := p.toNat / 2 ^ (Fmt.width f * i) % 2 ^ Fmt.width f

/-- The lanes of a payload, lane 0 first. -/
def lanesOf (f : Fmt) (p : Word) : List Nat := (List.range (Fmt.lanes f)).map (lane f p)

/-- A number from lanes of width `w`, lane 0 first. -/
def packNat (w : Nat) : List Nat → Nat
  | [] => 0
  | x :: xs => x % 2 ^ w + 2 ^ w * packNat w xs

/-- A payload from lanes, lane 0 in the least significant bits (R15); missing lanes are zero. -/
def packLanes (f : Fmt) (xs : List Nat) : Word := BitVec.ofNat 64 (packNat (Fmt.width f) xs)

/-- The lowest cause among lanes (R59). -/
def causeOf : List LaneRes → Option Cause
  | [] => none
  | r :: rs => minCause r.cause (causeOf rs)

/-- The `n` lanes that a payload of format `src` supplies to a computation in `dst` (R53): lane i feeds lane i, missing
lanes are zero, surplus lanes are ignored. -/
def convertLanes (src dst : Fmt) (mode : Round) (sat : Bool) (p : Word) : List LaneRes :=
  (List.range (Fmt.lanes dst)).map (fun i =>
    if i < Fmt.lanes src then convert src dst mode sat (lane src p i) else ⟨0, none⟩)

/-- The exact value 1.0 of a format (R121). -/
def oneOf (f : Fmt) : Nat := if Fmt.isFloat f then Fmt.bias f * 2 ^ Fmt.frac f else 1

/-- A NaN pattern. -/
def isNaN (f : Fmt) (bits : Nat) : Bool := decodeF f bits == .nan

/-- The order of two values, NaN apart, with −0 equal to +0. -/
def cmpF (a b : FVal) : Ordering :=
  match a, b with
  | .inf x, .inf y => if x = y then .eq else if x then .lt else .gt
  | .inf x, _ => if x then .lt else .gt
  | _, .inf y => if y then .gt else .lt
  | x, y => let q := minExp [x, y] 0; compare (FVal.scaled q x) (FVal.scaled q y)

/-- A 16-bit immediate in an operand format (R54), as a lane value with the invalid mark of an infinity in E4M3. -/
def immLane (f : Fmt) (imm : BitVec 16) : LaneRes :=
  if Fmt.isFloat f then (if isNaN .f16 imm.toNat then ⟨Fmt.nan f, none⟩ else convert .f16 f .rne false imm.toNat)
  else ⟨wrapNat (Fmt.width f) (signed 16 imm.toNat), none⟩

/-- The immediate fits its operand format (R54): an I8 immediate is the sign extension of its low byte, and a finite
floating immediate does not overflow. -/
def immFits (f : Fmt) (imm : BitVec 16) : Bool :=
  match f with
  | .i64 => true
  | .i8 => signed 16 imm.toNat == signed 8 imm.toNat
  | _ => (immLane f imm).cause != some .overflow

end Sys2Proof.Machine
end

