-- ==== Sys2Proof/Syntax.lean ====
section
/-! DEFINITION. The whole syntax: a station word's fields (R71), targets (R85), and one constructor per row of
spec/opcode_table.json. The first 157 constructors are station words; the others are the steps of the machine's own
units, which have no word: their arguments say which item of the state the step acts on, or what the outside world
brings in. -/

namespace Sys2Proof

/-- A target (R85). An absent target keeps its bits, which the loader requires to be zero. -/
structure Target where
  valid   : Bool
  die     : BitVec 5
  row     : BitVec 7
  col     : BitVec 8
  station : BitVec 9
  port    : Port
  deriving DecidableEq, Repr

/-- The fields of a station word below its opcode (R71). `rsv` is modifiers[2], which must be zero. -/
structure Fields where
  arity   : BitVec 2
  fmtOut  : Fmt
  lock    : Bool
  round   : Round
  sat     : Bool
  tagop   : BitVec 4
  reserve : BitVec 4
  imm     : Bool
  tri     : Bool
  rsv     : Bool
  svc     : Bool
  w32     : Bool
  imm16   : BitVec 16
  aux16   : BitVec 16
  a       : Target
  b       : Target
  deriving DecidableEq, Repr

/-- Where an uncorrectable error lies (R400). -/
inductive ErrorPlace where
  /-- Resident PE or operator state of a region. -/
  | live (region : Nat)
  /-- Parked state of an instance. -/
  | parked (inst : Nat)
  /-- A granule of a memory tile, and the tile port whose access found it (R273). -/
  | tileData (tile : Site) (granule port : Nat)
  /-- A slot record of a memory tile. -/
  | slotRecord (tile : Site) (pos : Nat)
  /-- A router buffer or a lane flit at a site, or a parity error of R421. -/
  | flit (x : Site)
  deriving DecidableEq, Repr

/-- One token slot of a drawbar beat (R388). -/
structure LinkSlot where
  token : BitVec 128
  dst   : BitVec 32
  src   : BitVec 32
  seq   : Nat
  deriving DecidableEq, Repr

/-- The kinds of a drawbar beat (R388). -/
inductive BeatKind where
  | data | idle | retry | streamAck | training
  deriving DecidableEq, Repr

/-- A drawbar beat as received (R388): its token slots, sequences, kind, source module, and the stream that a stream
acknowledgement names. `good` says whether its CRC is correct. -/
structure Beat where
  good    : Bool
  kind    : BeatKind
  slots   : List LinkSlot
  seq     : Nat
  ack     : Nat
  module  : Nat
  ackSite : BitVec 32
  ackSeq  : Nat
  deriving DecidableEq, Repr

/-- Where a fatal class arises (R422, R423): a die, and the site of it under R85, 0 for none. -/
structure Detector where
  die : Nat
  site : Nat
  deriving DecidableEq, Repr

/-- One instruction or step: one constructor per row of spec/opcode_table.json. Steps that the world outside causes come
last. -/
inductive Instr where
  /-- `add` (R109). -/
  | add (f : Fields)
  /-- `sub` (R109). -/
  | sub (f : Fields)
  /-- `mul` (R109). -/
  | mul (f : Fields)
  /-- `mulh` (R109). -/
  | mulh (f : Fields)
  /-- `mulhu` (R109). -/
  | mulhu (f : Fields)
  /-- `div` (R110). -/
  | div (f : Fields)
  /-- `divu` (R110). -/
  | divu (f : Fields)
  /-- `rem` (R110). -/
  | rem (f : Fields)
  /-- `remu` (R110). -/
  | remu (f : Fields)
  /-- `and` (R109). -/
  | and (f : Fields)
  /-- `or` (R109). -/
  | or (f : Fields)
  /-- `xor` (R109). -/
  | xor (f : Fields)
  /-- `andn` (R109). -/
  | andn (f : Fields)
  /-- `not` (R112). -/
  | not (f : Fields)
  /-- `shl` (R111). -/
  | shl (f : Fields)
  /-- `shr` (R111). -/
  | shr (f : Fields)
  /-- `sra` (R111). -/
  | sra (f : Fields)
  /-- `rotl` (R111). -/
  | rotl (f : Fields)
  /-- `min` (R109). -/
  | min (f : Fields)
  /-- `max` (R109). -/
  | max (f : Fields)
  /-- `minu` (R109). -/
  | minu (f : Fields)
  /-- `maxu` (R109). -/
  | maxu (f : Fields)
  /-- `abs` (R112). -/
  | abs (f : Fields)
  /-- `neg` (R112). -/
  | neg (f : Fields)
  /-- `clz` (R112). -/
  | clz (f : Fields)
  /-- `ctz` (R112). -/
  | ctz (f : Fields)
  /-- `popc` (R112). -/
  | popc (f : Fields)
  /-- `bswap` (R112). -/
  | bswap (f : Fields)
  /-- `addsat` (R109). -/
  | addsat (f : Fields)
  /-- `subsat` (R109). -/
  | subsat (f : Fields)
  /-- `lea` (R115). -/
  | lea (f : Fields)
  /-- `mad` (R113). -/
  | mad (f : Fields)
  /-- `dot8` (R113). -/
  | dot8 (f : Fields)
  /-- `cmp.eq` (R114). -/
  | cmpEq (f : Fields)
  /-- `cmp.ne` (R114). -/
  | cmpNe (f : Fields)
  /-- `cmp.lt` (R114). -/
  | cmpLt (f : Fields)
  /-- `cmp.le` (R114). -/
  | cmpLe (f : Fields)
  /-- `cmp.ltu` (R114). -/
  | cmpLtu (f : Fields)
  /-- `cmp.leu` (R114). -/
  | cmpLeu (f : Fields)
  /-- `sext` (R115). -/
  | sext (f : Fields)
  /-- `zext` (R115). -/
  | zext (f : Fields)
  /-- `bext` (R115). -/
  | bext (f : Fields)
  /-- `bins` (R115). -/
  | bins (f : Fields)
  /-- `fadd` (R118). -/
  | fadd (f : Fields)
  /-- `fsub` (R118). -/
  | fsub (f : Fields)
  /-- `fmul` (R118). -/
  | fmul (f : Fields)
  /-- `ffma` (R118). -/
  | ffma (f : Fields)
  /-- `ffms` (R118). -/
  | ffms (f : Fields)
  /-- `ffnma` (R118). -/
  | ffnma (f : Fields)
  /-- `fmin` (R119). -/
  | fmin (f : Fields)
  /-- `fmax` (R119). -/
  | fmax (f : Fields)
  /-- `fminn` (R119). -/
  | fminn (f : Fields)
  /-- `fmaxn` (R119). -/
  | fmaxn (f : Fields)
  /-- `fabs` (R120). -/
  | fabs (f : Fields)
  /-- `fneg` (R120). -/
  | fneg (f : Fields)
  /-- `fsgn` (R120). -/
  | fsgn (f : Fields)
  /-- `fcmp.eq` (R121). -/
  | fcmpEq (f : Fields)
  /-- `fcmp.lt` (R121). -/
  | fcmpLt (f : Fields)
  /-- `fcmp.le` (R121). -/
  | fcmpLe (f : Fields)
  /-- `fcmp.un` (R121). -/
  | fcmpUn (f : Fields)
  /-- `frcp` (R122). -/
  | frcp (f : Fields)
  /-- `frsq` (R122). -/
  | frsq (f : Fields)
  /-- `fsqrt` (R122). -/
  | fsqrt (f : Fields)
  /-- `fdiv` (R122). -/
  | fdiv (f : Fields)
  /-- `fexp2` (R123). -/
  | fexp2 (f : Fields)
  /-- `flog2` (R123). -/
  | flog2 (f : Fields)
  /-- `fscale` (R124). -/
  | fscale (f : Fields)
  /-- `fround` (R125). -/
  | fround (f : Fields)
  /-- `ffloor` (R125). -/
  | ffloor (f : Fields)
  /-- `fceil` (R125). -/
  | fceil (f : Fields)
  /-- `ftrunc` (R125). -/
  | ftrunc (f : Fields)
  /-- `fclass` (R126). -/
  | fclass (f : Fields)
  /-- `cvt` (R127). -/
  | cvt (f : Fields)
  /-- `cvt.i` (R127). -/
  | cvtI (f : Fields)
  /-- `cvt.f` (R127). -/
  | cvtF (f : Fields)
  /-- `retag` (R128). -/
  | retag (f : Fields)
  /-- `pack` (R129). -/
  | pack (f : Fields)
  /-- `unpack.lo` (R129). -/
  | unpackLo (f : Fields)
  /-- `unpack.hi` (R129). -/
  | unpackHi (f : Fields)
  /-- `shuf` (R130). -/
  | shuf (f : Fields)
  /-- `bcast` (R131). -/
  | bcast (f : Fields)
  /-- `lext` (R131). -/
  | lext (f : Fields)
  /-- `lins` (R131). -/
  | lins (f : Fields)
  /-- `hsum` (R132). -/
  | hsum (f : Fields)
  /-- `hmax` (R132). -/
  | hmax (f : Fields)
  /-- `hmin` (R132). -/
  | hmin (f : Fields)
  /-- `fdot` (R133). -/
  | fdot (f : Fields)
  /-- `steer` (R141). -/
  | steer (f : Fields)
  /-- `merge` (R141). -/
  | merge (f : Fields)
  /-- `mux` (R141). -/
  | mux (f : Fields)
  /-- `fan` (R141). -/
  | fan (f : Fields)
  /-- `sink` (R141). -/
  | sink (f : Fields)
  /-- `const` (R142). -/
  | const (f : Fields)
  /-- `invar` (R143). -/
  | invar (f : Fields)
  /-- `wave` (R145). -/
  | wave (f : Fields)
  /-- `tag.set` (R144). -/
  | tagSet (f : Fields)
  /-- `tag.inc` (R144). -/
  | tagInc (f : Fields)
  /-- `tag.split` (R144). -/
  | tagSplit (f : Fields)
  /-- `tag.join` (R144). -/
  | tagJoin (f : Fields)
  /-- `squash` (R146). -/
  | squash (f : Fields)
  /-- `call` (R148). -/
  | call (f : Fields)
  /-- `ret` (R148). -/
  | ret (f : Fields)
  /-- `frame.new` (R148). -/
  | frameNew (f : Fields)
  /-- `frame.free` (R148). -/
  | frameFree (f : Fields)
  /-- `acc` (R149). -/
  | acc (f : Fields)
  /-- `accmax` (R149). -/
  | accmax (f : Fields)
  /-- `count` (R150). -/
  | count (f : Fields)
  /-- `nwr` (R152). -/
  | nwr (f : Fields)
  /-- `nrd` (R153). -/
  | nrd (f : Fields)
  /-- `npeek` (R153). -/
  | npeek (f : Fields)
  /-- `nrel` (R154). -/
  | nrel (f : Fields)
  /-- `fold.set` (R155). -/
  | foldSet (f : Fields)
  /-- `fold.resize` (R155). -/
  | foldResize (f : Fields)
  /-- `fold.q` (R155). -/
  | foldQ (f : Fields)
  /-- `req.ld` (R160). -/
  | reqLd (f : Fields)
  /-- `req.st` (R160). -/
  | reqSt (f : Fields)
  /-- `req.ldo` (R161). -/
  | reqLdo (f : Fields)
  /-- `req.sto` (R161). -/
  | reqSto (f : Fields)
  /-- `atom.add` (R162). -/
  | atomAdd (f : Fields)
  /-- `atom.fadd` (R162). -/
  | atomFadd (f : Fields)
  /-- `atom.min` (R162). -/
  | atomMin (f : Fields)
  /-- `atom.max` (R162). -/
  | atomMax (f : Fields)
  /-- `atom.and` (R162). -/
  | atomAnd (f : Fields)
  /-- `atom.or` (R162). -/
  | atomOr (f : Fields)
  /-- `atom.xchg` (R162). -/
  | atomXchg (f : Fields)
  /-- `atom.cas` (R162). -/
  | atomCas (f : Fields)
  /-- `q.push` (R163). -/
  | qPush (f : Fields)
  /-- `q.pop` (R163). -/
  | qPop (f : Fields)
  /-- `q.peek` (R163). -/
  | qPeek (f : Fields)
  /-- `fence` (R164). -/
  | fence (f : Fields)
  /-- `trigger` (R165). -/
  | trigger (f : Fields)
  /-- `bar.arrive` (R166). -/
  | barArrive (f : Fields)
  /-- `bar.wait` (R166). -/
  | barWait (f : Fields)
  /-- `trap` (R167). -/
  | trap (f : Fields)
  /-- `report` (R167). -/
  | report (f : Fields)
  /-- `reinject` (R168). -/
  | reinject (f : Fields)
  /-- `ptest` (R169). -/
  | ptest (f : Fields)
  /-- `pclear` (R169). -/
  | pclear (f : Fields)
  /-- `couple` (R170). -/
  | couple (f : Fields)
  /-- `siteid` (R170). -/
  | siteid (f : Fields)
  /-- `clk` (R170). -/
  | clk (f : Fields)
  /-- `halt` (R170). -/
  | halt (f : Fields)
  /-- `brk` (R170). -/
  | brk (f : Fields)
  /-- `nop` (R170). -/
  | nop (f : Fields)
  /-- `mm.mode` (R433). -/
  | mmMode (f : Fields)
  /-- `mm.wload` (R178). -/
  | mmWload (f : Fields)
  /-- `mm.wswap` (R179). -/
  | mmWswap (f : Fields)
  /-- `mm.run` (R183). -/
  | mmRun (f : Fields)
  /-- `mm.orun` (R184). -/
  | mmOrun (f : Fields)
  /-- `mm.clr` (R180). -/
  | mmClr (f : Fields)
  /-- `mm.drain` (R185). -/
  | mmDrain (f : Fields)
  /-- `mm.mask` (R181). -/
  | mmMask (f : Fields)
  /-- `mm.rowstat` (R186). -/
  | mmRowstat (f : Fields)
  /-- `mm.scale` (R187). -/
  | mmScale (f : Fields)
  /-- `mm.bias` (R180). -/
  | mmBias (f : Fields)
  /-- `mm.act` (R188). -/
  | mmAct (f : Fields)
  /-- CONVERSION_STATION_FIRE (R92). -/
  | conversionStationFire (f : Fields)
  /-- TOKEN_ARRIVAL (R219). -/
  | tokenArrival (n : Nat)
  /-- READY_QUEUE_ENTRY (R222). -/
  | readyQueueEntry (x : Site)
  /-- RESULT_INJECTION (R105). -/
  | resultInjection (x : Site) (n : Nat)
  /-- COUPLING_TOKEN_ARRIVAL (R335). -/
  | couplingTokenArrival (n : Nat)
  /-- JOIN_FORWARD (R335). -/
  | joinForward (x : Site) (c st : Nat)
  /-- OPERATOR_COUPLING_FORWARD (R336). -/
  | operatorCouplingForward (x : Site)
  /-- SQUASH_TOKEN_ARRIVAL (R146). -/
  | squashTokenArrival (n : Nat)
  /-- TAG_ADMISSION (R228). -/
  | tagAdmission (r : Nat)
  /-- CABOOSE_RELEASE (R401). -/
  | cabooseRelease (r n : Nat)
  /-- STALL (R242). -/
  | stall (r : Nat)
  /-- FAULT_ENTRY_FREED (R140). -/
  | faultEntryFreed (r : Nat)
  /-- FEED_WORD (R177). -/
  | feedWord (n : Nat)
  /-- SYSTOLIC_STEP (R189). -/
  | systolicStep (x : Site)
  /-- NAME_WORD_WRITE (R256). -/
  | nameWordWrite (n : Nat)
  /-- STALLED_WORD_RETRY (R256). -/
  | stalledWordRetry (x : Site)
  /-- NAME_READ_REQUEST (R258). -/
  | nameReadRequest (n : Nat)
  /-- REQUEST_FORWARD (R265). -/
  | requestForward (n : Nat)
  /-- FOLD_SET_APPLY (R266). -/
  | foldSetApply (n : Nat)
  /-- FOLD_RESIZE_START (R264). -/
  | foldResizeStart (n : Nat)
  /-- FOLD_RESIZE_COMPLETE (R264). -/
  | foldResizeComplete (x : Site)
  /-- FOLD_QUERY_SERVE (R267). -/
  | foldQueryServe (n : Nat)
  /-- SCRUB_WRITEBACK (R416). -/
  | scrubWriteback (x : Site)
  /-- TILE_SCRUB_COMPLETE (R415). -/
  | tileScrubComplete (x : Site)
  /-- ARM (R194). -/
  | arm (n : Nat)
  /-- REWIND (R194). -/
  | rewind (n : Nat)
  /-- FLUSH (R194). -/
  | flush (n : Nat)
  /-- STATUS (R194). -/
  | status (n : Nat)
  /-- OPEN (R207). -/
  | gateOpen (n : Nat)
  /-- CLOSE (R194). -/
  | gateClose (n : Nat)
  /-- COPY (R215). -/
  | copy (n : Nat)
  /-- HOST_READ (R215). -/
  | hostRead (n : Nat)
  /-- HOST_WRITE (R215). -/
  | hostWrite (n : Nat)
  /-- NVME_READ (R215). -/
  | nvmeRead (n : Nat)
  /-- NVME_WRITE (R215). -/
  | nvmeWrite (n : Nat)
  /-- MIGRATE (R366). -/
  | migrate (n : Nat)
  /-- BOUND_TOKEN (R201). -/
  | boundToken (n : Nat)
  /-- LOAD_BASE_TOKEN (R201). -/
  | loadBaseToken (n : Nat)
  /-- ELEMENT_DATA_RETURN (R201). -/
  | elementDataReturn (n : Nat)
  /-- PASS_COMPLETION (R195). -/
  | passCompletion (x : Site)
  /-- STORE_DATA_TOKEN (R202). -/
  | storeDataToken (n : Nat)
  /-- GATHER_ITEM (R203). -/
  | gatherItem (n : Nat)
  /-- GATHER_MASK (R204). -/
  | gatherMask (n : Nat)
  /-- SCATTER_FIRING (R205). -/
  | scatterFiring (n : Nat)
  /-- LOOP_ITERATION (R230). -/
  | loopIteration (x : Site)
  /-- GATE_DATA (R207). -/
  | gateData (n : Nat)
  /-- GATE_COMPLETION (R207). -/
  | gateCompletion (n : Nat)
  /-- LOOKUP_POSITION (R208). -/
  | lookupPosition (n : Nat)
  /-- LOOKUP_ENTRY_RETURN (R208). -/
  | lookupEntryReturn (n : Nat)
  /-- REORDER_TOKEN (R209). -/
  | reorderToken (n : Nat)
  /-- DECODE_INPUT (R210). -/
  | decodeInput (n : Nat)
  /-- SIEVE_SCORE (R211). -/
  | sieveScore (n : Nat)
  /-- COMPARE_TOKEN (R212). -/
  | compareToken (n : Nat)
  /-- COMPARE_TIMEOUT (R212). -/
  | compareTimeout (x : Site)
  /-- PORT_REQUEST (R214). -/
  | portRequest (n : Nat)
  /-- FENCE_COMPLETE (R280). -/
  | fenceComplete (r n : Nat)
  /-- DRAWBAR_FORWARD (R216). -/
  | drawbarForward (n : Nat)
  /-- DRAWBAR_RECEIVE (R390). -/
  | drawbarReceive (module : Nat) (slot : LinkSlot)
  /-- TENDER_ACCESS (R359). -/
  | tenderAccess (n : Nat)
  /-- FILTER_WAIT_END (R359). -/
  | filterWaitEnd (n : Nat)
  /-- TRANSLATION_WALK_END (R354). -/
  | translationWalkEnd (n : Nat)
  /-- ENGINE_SLOT_FREED (R358). -/
  | engineSlotFreed (u : Nat)
  /-- PIN_GRANTED (R364). -/
  | pinGranted (n : Nat)
  /-- PAGE_RETIRE_RECORD (R365). -/
  | pageRetireRecord (n : Nat)
  /-- IMAGE_REGISTER (R329). -/
  | imageRegister
  /-- IMAGE_UNREGISTER (R329). -/
  | imageUnregister
  /-- LAUNCH_ARBITRATION (R344). -/
  | launchArbitration
  /-- INSTANCE_START (R346). -/
  | instanceStart (num : Nat)
  /-- INITIAL_DATA_WRITE (R347). -/
  | initialDataWrite (num : Nat)
  /-- INITIAL_TOKEN_INJECTION (R346). -/
  | initialTokenInjection (num : Nat)
  /-- INSTANCE_END (R342). -/
  | instanceEnd (num : Nat)
  /-- CONFIG_WORD_DELIVERY (R330). -/
  | configWordDelivery (r : Nat)
  /-- CONTEXT_RESIDENT (R331). -/
  | contextResident (r : Nat)
  /-- REGION_DRAINED (R337). -/
  | regionDrained (r : Nat)
  /-- PARK (R373). -/
  | park (r : Nat)
  /-- DRAIN_BUDGET_EXPIRY (R371). -/
  | drainBudgetExpiry (num : Nat)
  /-- INSTANCE_RESUME (R373). -/
  | instanceResume (num : Nat)
  /-- WAVE_MARK (R402). -/
  | waveMark (r : Nat)
  /-- ROLLBACK_COMPLETE (R406). -/
  | rollbackComplete (r : Nat)
  /-- DUMP_WRITTEN (R422). -/
  | dumpWritten
  /-- INVALIDATION_COMPLETE (R357). -/
  | invalidationComplete
  /-- RETRY_REQUEST (R389). -/
  | retryRequest (p : Nat)
  /-- LINK_SILENCE_TIMEOUT (R389). -/
  | linkSilenceTimeout (p : Nat)
  /-- LINK_LOSS (R390). -/
  | linkLoss (p : Nat)
  /-- STREAM_ACKNOWLEDGEMENT (R390). -/
  | streamAcknowledgement (x : Site) (seq : Nat)
  /-- STREAM_ACK_SEND (R390). -/
  | streamAckSend (x : Site)
  /-- MATCHING_ENTRY_GRANTED (R227). -/
  | matchingEntryGranted (x : Site) (n : Nat)
  /-- GANGED_LANE_TIMEOUT (R36). -/
  | gangedLaneTimeout (r n : Nat)
  /-- SCRUB_GRANULE (R416). -/
  | scrubGranule (x : Site) (fixed bad : Bool)
  /-- T2_PATROL (R417). -/
  | t2Patrol (stack : Nat) (fixed bad : Bool)
  /-- NVME_COMPLETION (R368). -/
  | nvmeCompletion (n status : Nat)
  /-- CXL_WRITE_TIMEOUT (R367). -/
  | cxlWriteTimeout (n : Nat)
  /-- GRACEFUL_RECONFIGURATION (R334). -/
  | gracefulReconfiguration (r : Nat) (v : Word)
  /-- REGION_FLUSH (R339). -/
  | regionFlush (r : Nat)
  /-- REGION_HALT (R375). -/
  | regionHalt (r : Nat)
  /-- REGION_RESUME (R375). -/
  | regionResume (r : Nat)
  /-- CLEAR_POISON_LOG (R349). -/
  | clearPoisonLog (r : Nat)
  /-- CLEAR_STALL (R349). -/
  | clearStall (r : Nat)
  /-- DEBUG_STEP (R377). -/
  | debugStep (die : Nat) (v : Word)
  /-- DEBUG_READ (R377). -/
  | debugRead (die : Nat)
  /-- PREEMPT_DRAIN_TO_WAVE (R371). -/
  | preemptDrainToWave (num : Nat)
  /-- PREEMPT_FORCED_SAVE (R372). -/
  | preemptForcedSave (num : Nat)
  /-- PREEMPT_RESUME (R373). -/
  | preemptResume (num : Nat)
  /-- STRIKE_REPORT (R399). -/
  | strikeReport (die : Nat) (tile : Bool) (sensor : Nat)
  /-- UNCORRECTABLE_ERROR (R400). -/
  | uncorrectableError (e : ErrorPlace)
  /-- INJECT_STRIKE (R418). -/
  | injectStrike (die : Nat)
  /-- SENSOR_SELF_TEST (R421). -/
  | sensorSelfTest (die sensor : Nat) (ok : Bool)
  /-- FATAL_STOP (R422). -/
  | fatalStop (cls : Nat) (place : Detector)
  /-- DIE_RESET (R425). -/
  | dieReset (v : Word)
  /-- MODULE_RESET (R427). -/
  | moduleReset (failed : BitVec 24) (sensorsOk : Bool)
  /-- POWER_THROTTLE (R426). -/
  | powerThrottle (draw : Nat)
  /-- HIF_HANDSHAKE (R381). -/
  | hifHandshake (v : Word)
  /-- FUNCTION_LEVEL_RESET (R381). -/
  | functionLevelReset
  /-- TINV_PAGE (R357). -/
  | tinvPage (v : Word)
  /-- TINV_CONTEXT (R357). -/
  | tinvContext (v : Word)
  /-- TINV_ALL (R357). -/
  | tinvAll (v : Word)
  /-- TRES_RETRY (R362). -/
  | tresRetry (v : Word)
  /-- TRES_FAIL (R362). -/
  | tresFail (v : Word)
  /-- FQHEAD_WRITE (R361). -/
  | fqheadWrite (v : Word)
  /-- RQHEAD_WRITE (R384). -/
  | rqheadWrite (v : Word)
  /-- QUEUE_HEAD_WRITE (R383). -/
  | queueHeadWrite (q : Nat) (v : Word)
  /-- QUEUE_TAIL_WRITE (R383). -/
  | queueTailWrite (q : Nat) (v : Word)
  /-- TOKEN_WINDOW_WRITE (R386). -/
  | tokenWindowWrite (off len : Nat) (v : BitVec 128)
  /-- APERTURE_ACCESS (R382). -/
  | apertureAccess (write : Bool) (off : Nat) (data : List Byte)
  /-- BEAT_RECEIVE (R389). -/
  | beatReceive (p : Nat) (bytes : List Byte)
  /-- LINK_TRAINING (R391). -/
  | linkTraining (p major minor module port flight : Nat)
  /-- LINK_RETRAIN (R391). -/
  | linkRetrain (p : Nat)
  /-- LINK_ENABLE (R391). -/
  | linkEnable (p : Nat) (on : Bool)
  /-- REGISTER_WRITE (R7). -/
  | registerWrite (off : Nat) (v : Word)
  /-- DRIVE_DATA_ACCESS (R368). -/
  | driveDataAccess (q : Nat) (write : Bool) (addr : Nat) (data : List Byte)
  /-- HOST_LINK_COMPLETION (R275). -/
  | hostLinkCompletion (n : Nat) (data : List Byte)
  deriving DecidableEq, Repr

end Sys2Proof
end

