-- ==== Sys2Proof/Machine/Opcodes.lean ====
section
/-! DEFINITION. The opcode map (R95, R96) with what each opcode's word may hold: its port list, its aux16 class (R83),
the fmt_out values, fmt_lock, arity 0, W32 and tagop it admits, and its execution latency. -/

namespace Sys2Proof.Machine

/-- Port lists of the opcode map (R96). -/
inductive PortList where
  | l | lr | lrp | lp | lOrR | lrImm
  deriving DecidableEq, Repr

/-- aux16 classes (R83). -/
inductive AuxClass where
  | free | mask | scope | statement | own
  deriving DecidableEq, Repr

/-- Which fmt_out values a form admits. `passes`: the form passes its operand's format and fmt_out, round, sat and
fmt_lock are zero (R76, R136). `stmt`: the statement's format. -/
inductive FmtClass where
  | ints | i64 | floats | any | packs | wide | runs | biases | stmt | passes
  deriving DecidableEq, Repr

/-- Which tagop values a form admits (R80). -/
inductive TagClass where
  | plain | own | wave
  deriving DecidableEq, Repr

/-- One row of the opcode map. -/
structure OpInfo where
  code  : Nat
  ports : PortList
  aux   : AuxClass
  fmts  : FmtClass
  lock  : Bool
  ctl   : Bool
  w32   : Bool
  tags  : TagClass
  make  : Fields → Instr

/-- Rows of the opcode map, group 0 (R96), with the attributes of R75 to R80, R103, R116, R136 and R174. -/
def opRows0a : List OpInfo := [
  ⟨0x000, .lr, .free, .ints, true, false, true, .plain, Instr.add⟩,
  ⟨0x001, .lr, .free, .ints, true, false, true, .plain, Instr.sub⟩,
  ⟨0x002, .lr, .free, .ints, true, false, true, .plain, Instr.mul⟩,
  ⟨0x003, .lr, .free, .ints, true, false, true, .plain, Instr.mulh⟩,
  ⟨0x004, .lr, .free, .ints, true, false, true, .plain, Instr.mulhu⟩,
  ⟨0x005, .lr, .free, .ints, true, false, true, .plain, Instr.div⟩,
  ⟨0x006, .lr, .free, .ints, true, false, true, .plain, Instr.divu⟩,
  ⟨0x007, .lr, .free, .ints, true, false, true, .plain, Instr.rem⟩,
  ⟨0x008, .lr, .free, .ints, true, false, true, .plain, Instr.remu⟩,
  ⟨0x009, .lr, .free, .ints, true, false, true, .plain, Instr.and⟩,
  ⟨0x00A, .lr, .free, .ints, true, false, true, .plain, Instr.or⟩,
  ⟨0x00B, .lr, .free, .ints, true, false, true, .plain, Instr.xor⟩,
  ⟨0x00C, .lr, .free, .ints, true, false, true, .plain, Instr.andn⟩,
  ⟨0x00D, .l, .free, .ints, true, true, true, .plain, Instr.not⟩,
  ⟨0x00E, .lr, .free, .ints, true, false, true, .plain, Instr.shl⟩,
  ⟨0x00F, .lr, .free, .ints, true, false, true, .plain, Instr.shr⟩]

/-- Rows of the opcode map, group 0 (R96), with the attributes of R75 to R80, R103, R116, R136 and R174. -/
def opRows0b : List OpInfo := [
  ⟨0x010, .lr, .free, .ints, true, false, true, .plain, Instr.sra⟩,
  ⟨0x011, .lr, .free, .ints, true, false, true, .plain, Instr.rotl⟩,
  ⟨0x012, .lr, .free, .ints, true, false, true, .plain, Instr.min⟩,
  ⟨0x013, .lr, .free, .ints, true, false, true, .plain, Instr.max⟩,
  ⟨0x014, .lr, .free, .ints, true, false, true, .plain, Instr.minu⟩,
  ⟨0x015, .lr, .free, .ints, true, false, true, .plain, Instr.maxu⟩,
  ⟨0x016, .l, .free, .ints, true, true, true, .plain, Instr.abs⟩,
  ⟨0x017, .l, .free, .ints, true, true, true, .plain, Instr.neg⟩,
  ⟨0x018, .l, .free, .ints, true, true, true, .plain, Instr.clz⟩,
  ⟨0x019, .l, .free, .ints, true, true, true, .plain, Instr.ctz⟩,
  ⟨0x01A, .l, .free, .ints, true, true, true, .plain, Instr.popc⟩,
  ⟨0x01B, .l, .free, .i64, true, true, true, .plain, Instr.bswap⟩,
  ⟨0x01C, .lr, .free, .ints, true, false, true, .plain, Instr.addsat⟩,
  ⟨0x01D, .lr, .free, .ints, true, false, true, .plain, Instr.subsat⟩,
  ⟨0x01E, .lr, .own, .i64, true, false, false, .plain, Instr.lea⟩,
  ⟨0x01F, .lrp, .free, .ints, true, false, true, .plain, Instr.mad⟩]

/-- Rows of the opcode map, group 0 (R96), with the attributes of R75 to R80, R103, R116, R136 and R174. -/
def opRows0c : List OpInfo := [
  ⟨0x020, .lrp, .free, .i64, false, false, true, .plain, Instr.dot8⟩,
  ⟨0x021, .lr, .free, .ints, true, false, true, .plain, Instr.cmpEq⟩,
  ⟨0x022, .lr, .free, .ints, true, false, true, .plain, Instr.cmpNe⟩,
  ⟨0x023, .lr, .free, .ints, true, false, true, .plain, Instr.cmpLt⟩,
  ⟨0x024, .lr, .free, .ints, true, false, true, .plain, Instr.cmpLe⟩,
  ⟨0x025, .lr, .free, .ints, true, false, true, .plain, Instr.cmpLtu⟩,
  ⟨0x026, .lr, .free, .ints, true, false, true, .plain, Instr.cmpLeu⟩,
  ⟨0x027, .l, .own, .i64, true, true, true, .plain, Instr.sext⟩,
  ⟨0x028, .l, .own, .i64, true, true, true, .plain, Instr.zext⟩,
  ⟨0x029, .l, .own, .i64, true, true, true, .plain, Instr.bext⟩,
  ⟨0x02A, .lr, .own, .i64, true, false, true, .plain, Instr.bins⟩]

/-- Rows of the opcode map, group 1 (R96), with the attributes of R75 to R80, R103, R116, R136 and R174. -/
def opRows1a : List OpInfo := [
  ⟨0x080, .lr, .free, .floats, true, false, false, .plain, Instr.fadd⟩,
  ⟨0x081, .lr, .free, .floats, true, false, false, .plain, Instr.fsub⟩,
  ⟨0x082, .lr, .free, .floats, true, false, false, .plain, Instr.fmul⟩,
  ⟨0x083, .lrp, .free, .floats, true, false, false, .plain, Instr.ffma⟩,
  ⟨0x084, .lrp, .free, .floats, true, false, false, .plain, Instr.ffms⟩,
  ⟨0x085, .lrp, .free, .floats, true, false, false, .plain, Instr.ffnma⟩,
  ⟨0x086, .lr, .free, .floats, true, false, false, .plain, Instr.fmin⟩,
  ⟨0x087, .lr, .free, .floats, true, false, false, .plain, Instr.fmax⟩,
  ⟨0x088, .lr, .free, .floats, true, false, false, .plain, Instr.fminn⟩,
  ⟨0x089, .lr, .free, .floats, true, false, false, .plain, Instr.fmaxn⟩,
  ⟨0x08A, .l, .free, .floats, true, true, false, .plain, Instr.fabs⟩,
  ⟨0x08B, .l, .free, .floats, true, true, false, .plain, Instr.fneg⟩,
  ⟨0x08C, .lr, .free, .floats, true, false, false, .plain, Instr.fsgn⟩,
  ⟨0x08D, .lr, .free, .floats, true, false, false, .plain, Instr.fcmpEq⟩,
  ⟨0x08E, .lr, .free, .floats, true, false, false, .plain, Instr.fcmpLt⟩,
  ⟨0x08F, .lr, .free, .floats, true, false, false, .plain, Instr.fcmpLe⟩]

/-- Rows of the opcode map, group 1 (R96), with the attributes of R75 to R80, R103, R116, R136 and R174. -/
def opRows1b : List OpInfo := [
  ⟨0x090, .lr, .free, .floats, true, false, false, .plain, Instr.fcmpUn⟩,
  ⟨0x091, .l, .free, .floats, true, true, false, .plain, Instr.frcp⟩,
  ⟨0x092, .l, .free, .floats, true, true, false, .plain, Instr.frsq⟩,
  ⟨0x093, .l, .free, .floats, true, true, false, .plain, Instr.fsqrt⟩,
  ⟨0x094, .lr, .free, .floats, true, false, false, .plain, Instr.fdiv⟩,
  ⟨0x095, .l, .free, .floats, true, true, false, .plain, Instr.fexp2⟩,
  ⟨0x096, .l, .free, .floats, true, true, false, .plain, Instr.flog2⟩,
  ⟨0x097, .lr, .free, .floats, false, false, false, .plain, Instr.fscale⟩,
  ⟨0x098, .l, .free, .floats, true, true, false, .plain, Instr.fround⟩,
  ⟨0x099, .l, .free, .floats, true, true, false, .plain, Instr.ffloor⟩,
  ⟨0x09A, .l, .free, .floats, true, true, false, .plain, Instr.fceil⟩,
  ⟨0x09B, .l, .free, .floats, true, true, false, .plain, Instr.ftrunc⟩,
  ⟨0x09C, .l, .free, .floats, true, true, false, .plain, Instr.fclass⟩]

/-- Rows of the opcode map, group 2 (R96), with the attributes of R75 to R80, R103, R116, R136 and R174. -/
def opRows2a : List OpInfo := [
  ⟨0x100, .l, .free, .any, false, true, false, .plain, Instr.cvt⟩,
  ⟨0x101, .l, .free, .ints, false, true, false, .plain, Instr.cvtI⟩,
  ⟨0x102, .l, .free, .floats, false, true, false, .plain, Instr.cvtF⟩,
  ⟨0x103, .l, .free, .any, false, true, false, .plain, Instr.retag⟩,
  ⟨0x104, .lr, .free, .packs, false, false, false, .plain, Instr.pack⟩,
  ⟨0x105, .l, .free, .any, false, true, false, .plain, Instr.unpackLo⟩,
  ⟨0x106, .l, .free, .any, false, true, false, .plain, Instr.unpackHi⟩,
  ⟨0x107, .lr, .free, .any, false, false, false, .plain, Instr.shuf⟩,
  ⟨0x108, .l, .own, .any, true, true, false, .plain, Instr.bcast⟩,
  ⟨0x109, .l, .own, .any, true, true, false, .plain, Instr.lext⟩,
  ⟨0x10A, .lr, .own, .any, true, false, false, .plain, Instr.lins⟩,
  ⟨0x10B, .l, .mask, .any, true, true, false, .plain, Instr.hsum⟩,
  ⟨0x10C, .l, .mask, .any, true, true, false, .plain, Instr.hmax⟩,
  ⟨0x10D, .l, .mask, .any, true, true, false, .plain, Instr.hmin⟩,
  ⟨0x10E, .lr, .mask, .floats, true, false, false, .plain, Instr.fdot⟩]

/-- Rows of the opcode map, group 3 (R96), with the attributes of R75 to R80, R103, R116, R136 and R174. -/
def opRows3a : List OpInfo := [
  ⟨0x180, .lp, .free, .passes, false, false, false, .plain, Instr.steer⟩,
  ⟨0x181, .lOrR, .free, .passes, false, false, false, .plain, Instr.merge⟩,
  ⟨0x182, .lrp, .free, .passes, false, false, false, .plain, Instr.mux⟩,
  ⟨0x183, .l, .free, .passes, false, true, false, .plain, Instr.fan⟩,
  ⟨0x184, .l, .free, .passes, false, true, false, .plain, Instr.sink⟩,
  ⟨0x185, .lrImm, .free, .any, false, true, false, .plain, Instr.const⟩,
  ⟨0x186, .lr, .free, .passes, false, false, false, .plain, Instr.invar⟩,
  ⟨0x187, .lrImm, .free, .passes, false, false, false, .wave, Instr.wave⟩,
  ⟨0x188, .lr, .free, .passes, false, false, false, .own, Instr.tagSet⟩,
  ⟨0x189, .l, .own, .passes, false, false, false, .own, Instr.tagInc⟩,
  ⟨0x18A, .l, .own, .passes, false, false, false, .own, Instr.tagSplit⟩,
  ⟨0x18B, .lr, .own, .passes, false, false, false, .own, Instr.tagJoin⟩,
  ⟨0x18C, .l, .free, .i64, false, true, false, .own, Instr.squash⟩,
  ⟨0x18D, .l, .own, .passes, false, false, false, .own, Instr.call⟩,
  ⟨0x18E, .l, .free, .passes, false, true, false, .own, Instr.ret⟩,
  ⟨0x18F, .l, .free, .passes, false, false, false, .plain, Instr.frameNew⟩]

/-- Rows of the opcode map, group 3 (R96), with the attributes of R75 to R80, R103, R116, R136 and R174. -/
def opRows3b : List OpInfo := [
  ⟨0x190, .l, .free, .passes, false, true, false, .plain, Instr.frameFree⟩,
  ⟨0x191, .l, .free, .any, true, false, true, .plain, Instr.acc⟩,
  ⟨0x192, .l, .free, .any, true, false, true, .plain, Instr.accmax⟩,
  ⟨0x193, .l, .free, .i64, false, false, true, .plain, Instr.count⟩]

/-- Rows of the opcode map, group 4 (R96), with the attributes of R75 to R80, R103, R116, R136 and R174. -/
def opRows4a : List OpInfo := [
  ⟨0x200, .l, .statement, .stmt, true, false, false, .plain, Instr.nwr⟩,
  ⟨0x201, .l, .statement, .stmt, false, true, false, .plain, Instr.nrd⟩,
  ⟨0x202, .l, .statement, .stmt, false, true, false, .plain, Instr.npeek⟩,
  ⟨0x203, .l, .statement, .i64, false, true, false, .plain, Instr.nrel⟩,
  ⟨0x204, .l, .statement, .i64, false, true, false, .plain, Instr.foldSet⟩,
  ⟨0x205, .l, .statement, .i64, false, true, false, .plain, Instr.foldResize⟩,
  ⟨0x206, .l, .statement, .i64, false, true, false, .plain, Instr.foldQ⟩,
  ⟨0x207, .l, .own, .any, false, true, false, .plain, Instr.reqLd⟩,
  ⟨0x208, .lr, .own, .i64, false, false, false, .plain, Instr.reqSt⟩,
  ⟨0x209, .l, .own, .any, false, true, false, .plain, Instr.reqLdo⟩,
  ⟨0x20A, .lr, .own, .i64, false, false, false, .plain, Instr.reqSto⟩,
  ⟨0x20B, .lr, .own, .i64, false, false, true, .plain, Instr.atomAdd⟩,
  ⟨0x20C, .lr, .own, .wide, false, false, false, .plain, Instr.atomFadd⟩,
  ⟨0x20D, .lr, .own, .i64, false, false, true, .plain, Instr.atomMin⟩,
  ⟨0x20E, .lr, .own, .i64, false, false, true, .plain, Instr.atomMax⟩,
  ⟨0x20F, .lr, .own, .i64, false, false, true, .plain, Instr.atomAnd⟩]

/-- Rows of the opcode map, group 4 (R96), with the attributes of R75 to R80, R103, R116, R136 and R174. -/
def opRows4b : List OpInfo := [
  ⟨0x210, .lr, .own, .i64, false, false, true, .plain, Instr.atomOr⟩,
  ⟨0x211, .lr, .own, .i64, false, false, true, .plain, Instr.atomXchg⟩,
  ⟨0x212, .lrp, .own, .i64, false, false, true, .plain, Instr.atomCas⟩,
  ⟨0x213, .lr, .own, .i64, false, false, false, .plain, Instr.qPush⟩,
  ⟨0x214, .l, .own, .any, false, true, false, .plain, Instr.qPop⟩,
  ⟨0x215, .l, .own, .any, false, true, false, .plain, Instr.qPeek⟩]

/-- Rows of the opcode map, group 5 (R96), with the attributes of R75 to R80, R103, R116, R136 and R174. -/
def opRows5a : List OpInfo := [
  ⟨0x280, .l, .scope, .i64, false, true, false, .plain, Instr.fence⟩,
  ⟨0x281, .l, .free, .i64, false, true, false, .plain, Instr.trigger⟩,
  ⟨0x282, .l, .own, .i64, false, true, false, .plain, Instr.barArrive⟩,
  ⟨0x283, .l, .own, .i64, false, true, false, .plain, Instr.barWait⟩,
  ⟨0x284, .l, .own, .passes, false, true, false, .plain, Instr.trap⟩,
  ⟨0x285, .l, .own, .i64, false, true, false, .plain, Instr.report⟩,
  ⟨0x286, .l, .free, .passes, false, true, false, .plain, Instr.reinject⟩,
  ⟨0x287, .l, .free, .i64, false, true, false, .plain, Instr.ptest⟩,
  ⟨0x288, .l, .free, .passes, false, true, false, .plain, Instr.pclear⟩,
  ⟨0x289, .l, .free, .i64, false, true, false, .plain, Instr.couple⟩,
  ⟨0x28A, .l, .free, .i64, false, true, false, .plain, Instr.siteid⟩,
  ⟨0x28B, .l, .free, .i64, false, true, false, .plain, Instr.clk⟩,
  ⟨0x28C, .l, .free, .i64, false, true, false, .plain, Instr.halt⟩,
  ⟨0x28D, .l, .free, .passes, false, true, false, .plain, Instr.brk⟩,
  ⟨0x28E, .l, .free, .passes, false, true, false, .plain, Instr.nop⟩]

/-- Rows of the opcode map, group 6 (R96), with the attributes of R75 to R80, R103, R116, R136 and R174. -/
def opRows6a : List OpInfo := [
  ⟨0x300, .l, .own, .i64, false, true, false, .plain, Instr.mmMode⟩,
  ⟨0x301, .l, .free, .i64, false, false, false, .plain, Instr.mmWload⟩,
  ⟨0x302, .l, .free, .i64, false, true, false, .plain, Instr.mmWswap⟩,
  ⟨0x303, .lrp, .own, .runs, false, false, false, .plain, Instr.mmRun⟩,
  ⟨0x304, .lrp, .own, .runs, false, false, false, .plain, Instr.mmOrun⟩,
  ⟨0x305, .l, .free, .i64, false, true, false, .plain, Instr.mmClr⟩,
  ⟨0x306, .l, .free, .i64, false, true, false, .plain, Instr.mmDrain⟩,
  ⟨0x307, .l, .free, .i64, false, true, false, .plain, Instr.mmMask⟩,
  ⟨0x308, .l, .free, .i64, false, true, false, .plain, Instr.mmRowstat⟩,
  ⟨0x309, .lr, .free, .wide, false, false, false, .plain, Instr.mmScale⟩,
  ⟨0x30A, .l, .free, .biases, false, false, false, .plain, Instr.mmBias⟩,
  ⟨0x30B, .l, .own, .floats, true, false, false, .plain, Instr.mmAct⟩]

/-- The opcode map (R96). -/
def opRows : List OpInfo :=
  opRows0a ++ opRows0b ++ opRows0c ++ opRows1a ++ opRows1b ++ opRows2a ++ opRows3a ++ opRows3b ++ opRows4a ++ opRows4b ++ opRows5a ++ opRows6a

/-- The row of an opcode, if assigned (R96, R97). -/
def opInfo (op : Nat) : Option OpInfo := opRows.find? (fun r => r.code == op)

/-- The number of ports in a list (R72). -/
def PortList.count : PortList → Nat
  | .l => 1 | .lr => 2 | .lrp => 3 | .lp => 2 | .lOrR => 1 | .lrImm => 2

/-- The list holds an R port. -/
def PortList.hasR : PortList → Bool
  | .l => false | .lp => false | _ => true

/-- The R port is taken only from an immediate (R73). -/
def PortList.rImm : PortList → Bool
  | .lrImm => true | _ => false

/-- The fmt_out values of a class. -/
def FmtClass.admits : FmtClass → Fmt → Bool
  | .ints, f => f == .i64 || f == .i8
  | .i64, f => f == .i64
  | .floats, f => f != .i64 && f != .i8
  | .any, _ => true
  | .packs, f => f != .f64 && f != .i64
  | .wide, f => f == .f64 || f == .f32
  | .runs, f => f != .i64
  | .biases, f => f == .f64 || f == .f32 || f == .i64
  | .stmt, _ => true
  | .passes, f => f == .f64

/-- A form whose tokens carry the operand's format (R76, R136). -/
def OpInfo.passing (o : OpInfo) : Bool := o.fmts == .passes

/-- The ports on which a firing of this word waits for tokens (R72, R73). `merge` fires on either of its ports. -/
def awaited (o : OpInfo) (f : Fields) : List Port :=
  if f.arity = 0 then [.c] else
  match o.ports with
  | .l | .lOrR | .lrImm => [.l]
  | .lr => if f.imm then [.l] else [.l, .r]
  | .lrp => if f.imm then [.l, .p] else [.l, .r, .p]
  | .lp => [.l, .p]

/-- The number of tokens one firing waits for: the arity, less one if IMM is 1 (R81). -/
def awaitCount (f : Fields) : Nat := f.arity.toNat - one f.imm

/-- A port that the destination station accepts tokens on (R27, R86): in its list, and not supplied by an immediate. -/
def acceptsPort (o : OpInfo) (f : Fields) (port : Port) : Bool :=
  if f.arity = 0 then port == .c else
  match o.ports, port with
  | _, .l => true
  | .lOrR, .r | .lr, .r | .lrp, .r => !f.imm
  | .lrp, .p | .lp, .p => true
  | _, _ => false

/-- Stations that form a set from each token alone (R135, R219). -/
def firesAlone (op : Nat) : Bool :=
  op == 0x181 || op == 0x191 || op == 0x192 || op == 0x193 || op == 0x200 || op == 0x301 || op == 0x30A

/-- Execution latency e in cycles (R104, R136, R174), before the 2 cy of a converted operand. -/
def latency (op : Nat) (f : Fields) : Nat :=
  let flt := f.fmtOut != .i64 && f.fmtOut != .i8
  if op = 2 || op = 3 || op = 4 || op = 0x1F || op = 0x20 then 3
  else if 5 ≤ op && op ≤ 8 then (if f.fmtOut == .i8 then 6 else if f.w32 then 10 else 18)
  else if op < 0x80 then 1
  else if 0x80 ≤ op && op ≤ 0x85 then 4
  else if 0x91 ≤ op && op ≤ 0x94 then (if f.fmtOut == .f64 then 14 else 8)
  else if op = 0x95 || op = 0x96 then 10
  else if 0x97 ≤ op && op ≤ 0x9B then 2
  else if op < 0x100 then 1
  else if op = 0x103 || (0x107 ≤ op && op ≤ 0x10A) then 1
  else if op < 0x107 then 2
  else if 0x10B ≤ op && op ≤ 0x10D then 3
  else if op = 0x10E then 5
  else if 0x18D ≤ op && op ≤ 0x190 then 2
  else if (op = 0x191 || op = 0x192) && flt then 4
  else if op = 0x30B then 6
  else 1

/-- The opcode number and the fields of an instruction that has a station word. `cvt.svc` is `cvt` with SVC (R91). -/
def codeOf : Instr → Option (Nat × Fields)
  | .add f => some (0x000, f)
  | .sub f => some (0x001, f)
  | .mul f => some (0x002, f)
  | .mulh f => some (0x003, f)
  | .mulhu f => some (0x004, f)
  | .div f => some (0x005, f)
  | .divu f => some (0x006, f)
  | .rem f => some (0x007, f)
  | .remu f => some (0x008, f)
  | .and f => some (0x009, f)
  | .or f => some (0x00A, f)
  | .xor f => some (0x00B, f)
  | .andn f => some (0x00C, f)
  | .not f => some (0x00D, f)
  | .shl f => some (0x00E, f)
  | .shr f => some (0x00F, f)
  | .sra f => some (0x010, f)
  | .rotl f => some (0x011, f)
  | .min f => some (0x012, f)
  | .max f => some (0x013, f)
  | .minu f => some (0x014, f)
  | .maxu f => some (0x015, f)
  | .abs f => some (0x016, f)
  | .neg f => some (0x017, f)
  | .clz f => some (0x018, f)
  | .ctz f => some (0x019, f)
  | .popc f => some (0x01A, f)
  | .bswap f => some (0x01B, f)
  | .addsat f => some (0x01C, f)
  | .subsat f => some (0x01D, f)
  | .lea f => some (0x01E, f)
  | .mad f => some (0x01F, f)
  | .dot8 f => some (0x020, f)
  | .cmpEq f => some (0x021, f)
  | .cmpNe f => some (0x022, f)
  | .cmpLt f => some (0x023, f)
  | .cmpLe f => some (0x024, f)
  | .cmpLtu f => some (0x025, f)
  | .cmpLeu f => some (0x026, f)
  | .sext f => some (0x027, f)
  | .zext f => some (0x028, f)
  | .bext f => some (0x029, f)
  | .bins f => some (0x02A, f)
  | .fadd f => some (0x080, f)
  | .fsub f => some (0x081, f)
  | .fmul f => some (0x082, f)
  | .ffma f => some (0x083, f)
  | .ffms f => some (0x084, f)
  | .ffnma f => some (0x085, f)
  | .fmin f => some (0x086, f)
  | .fmax f => some (0x087, f)
  | .fminn f => some (0x088, f)
  | .fmaxn f => some (0x089, f)
  | .fabs f => some (0x08A, f)
  | .fneg f => some (0x08B, f)
  | .fsgn f => some (0x08C, f)
  | .fcmpEq f => some (0x08D, f)
  | .fcmpLt f => some (0x08E, f)
  | .fcmpLe f => some (0x08F, f)
  | .fcmpUn f => some (0x090, f)
  | .frcp f => some (0x091, f)
  | .frsq f => some (0x092, f)
  | .fsqrt f => some (0x093, f)
  | .fdiv f => some (0x094, f)
  | .fexp2 f => some (0x095, f)
  | .flog2 f => some (0x096, f)
  | .fscale f => some (0x097, f)
  | .fround f => some (0x098, f)
  | .ffloor f => some (0x099, f)
  | .fceil f => some (0x09A, f)
  | .ftrunc f => some (0x09B, f)
  | .fclass f => some (0x09C, f)
  | .cvt f => some (0x100, f)
  | .cvtI f => some (0x101, f)
  | .cvtF f => some (0x102, f)
  | .retag f => some (0x103, f)
  | .pack f => some (0x104, f)
  | .unpackLo f => some (0x105, f)
  | .unpackHi f => some (0x106, f)
  | .shuf f => some (0x107, f)
  | .bcast f => some (0x108, f)
  | .lext f => some (0x109, f)
  | .lins f => some (0x10A, f)
  | .hsum f => some (0x10B, f)
  | .hmax f => some (0x10C, f)
  | .hmin f => some (0x10D, f)
  | .fdot f => some (0x10E, f)
  | .steer f => some (0x180, f)
  | .merge f => some (0x181, f)
  | .mux f => some (0x182, f)
  | .fan f => some (0x183, f)
  | .sink f => some (0x184, f)
  | .const f => some (0x185, f)
  | .invar f => some (0x186, f)
  | .wave f => some (0x187, f)
  | .tagSet f => some (0x188, f)
  | .tagInc f => some (0x189, f)
  | .tagSplit f => some (0x18A, f)
  | .tagJoin f => some (0x18B, f)
  | .squash f => some (0x18C, f)
  | .call f => some (0x18D, f)
  | .ret f => some (0x18E, f)
  | .frameNew f => some (0x18F, f)
  | .frameFree f => some (0x190, f)
  | .acc f => some (0x191, f)
  | .accmax f => some (0x192, f)
  | .count f => some (0x193, f)
  | .nwr f => some (0x200, f)
  | .nrd f => some (0x201, f)
  | .npeek f => some (0x202, f)
  | .nrel f => some (0x203, f)
  | .foldSet f => some (0x204, f)
  | .foldResize f => some (0x205, f)
  | .foldQ f => some (0x206, f)
  | .reqLd f => some (0x207, f)
  | .reqSt f => some (0x208, f)
  | .reqLdo f => some (0x209, f)
  | .reqSto f => some (0x20A, f)
  | .atomAdd f => some (0x20B, f)
  | .atomFadd f => some (0x20C, f)
  | .atomMin f => some (0x20D, f)
  | .atomMax f => some (0x20E, f)
  | .atomAnd f => some (0x20F, f)
  | .atomOr f => some (0x210, f)
  | .atomXchg f => some (0x211, f)
  | .atomCas f => some (0x212, f)
  | .qPush f => some (0x213, f)
  | .qPop f => some (0x214, f)
  | .qPeek f => some (0x215, f)
  | .fence f => some (0x280, f)
  | .trigger f => some (0x281, f)
  | .barArrive f => some (0x282, f)
  | .barWait f => some (0x283, f)
  | .trap f => some (0x284, f)
  | .report f => some (0x285, f)
  | .reinject f => some (0x286, f)
  | .ptest f => some (0x287, f)
  | .pclear f => some (0x288, f)
  | .couple f => some (0x289, f)
  | .siteid f => some (0x28A, f)
  | .clk f => some (0x28B, f)
  | .halt f => some (0x28C, f)
  | .brk f => some (0x28D, f)
  | .nop f => some (0x28E, f)
  | .mmMode f => some (0x300, f)
  | .mmWload f => some (0x301, f)
  | .mmWswap f => some (0x302, f)
  | .mmRun f => some (0x303, f)
  | .mmOrun f => some (0x304, f)
  | .mmClr f => some (0x305, f)
  | .mmDrain f => some (0x306, f)
  | .mmMask f => some (0x307, f)
  | .mmRowstat f => some (0x308, f)
  | .mmScale f => some (0x309, f)
  | .mmBias f => some (0x30A, f)
  | .mmAct f => some (0x30B, f)
  | .conversionStationFire f => some (0x100, f)
  | _ => none

end Sys2Proof.Machine
end

