-- ==== Sys2Proof/Machine/WordCheck.lean ====
section
/-! DEFINITION. What the loader checks of one station word by itself (R71 to R91, R98), with the rejection codes of
R98 in their order. The checks that need the word's surroundings are the loader's (Machine/Loader.lean). -/

namespace Sys2Proof.Machine

/-- Every field of an absent target is zero (R85). -/
def Target.zeroed (t : Target) : Bool :=
  t.valid || (t.die == 0 && t.row == 0 && t.col == 0 && t.station == 0 && t.port == .l)

/-- The site of a target. -/
def Target.site (t : Target) : Site := ⟨t.die.toNat, t.row.toNat, t.col.toNat⟩

/-- A grid column of memory tiles (R24). -/
def tileCol (c : Nat) : Bool := c % 17 == 0 && c != 0

/-- The site is a PE (R24). -/
def isPe (x : Site) : Bool :=
  x.die < 24 && 1 ≤ x.row && x.row ≤ 96 && 1 ≤ x.col && x.col ≤ 136 && !tileCol x.col

/-- The site is a memory tile's upper row (R24 to R26). -/
def isTile (x : Site) : Bool :=
  x.die < 24 && 1 ≤ x.row && x.row ≤ 96 && x.col ≤ 136 && tileCol x.col && x.row % 2 == 1

/-- The site is an operator site (R24, R34). -/
def isOper (x : Site) : Bool :=
  if x.die = 24 then x.row == 0 && x.col ≤ 15
  else x.die < 24 &&
    (((x.row == 0 || x.row == 97) && 1 ≤ x.col && x.col ≤ 136) ||
     ((x.col == 0 || x.col == 137) && 1 ≤ x.row && x.row ≤ 96))

/-- A destination that exists, station counts apart (R27, R34, R86). -/
def placeExists (x : Site) (station : Nat) : Bool :=
  isPe x || (isTile x && station < 4) || (isOper x && station == 0)

/-- The shift s of aux16 under R84. -/
def Fields.shift (f : Fields) : Nat := field f.aux16 3 0

/-- The width w of a group 0 form (R108). -/
def Fields.width (f : Fields) : Nat := if f.fmtOut == .i8 then 8 else if f.w32 then 32 else 64

/-- aux16 of class free under R84. -/
def auxFree (f : Fields) : Bool :=
  f.tri || (field f.aux16 11 4 == 0 && (bit f.aux16 15 || field f.aux16 14 12 == 0) &&
    ((5 ≤ f.tagop.toNat && f.tagop.toNat ≤ 8) || Fields.shift f == 0))

/-- aux16 of class X: each form's own layout and limits (R115, R131, R144, R148, R160 to R163, R166, R167, R174, R175). -/
def auxOwn (op : Nat) (f : Fields) : Bool :=
  let a := f.aux16.toNat
  if op = 0x1E then a < 8
  else if op = 0x27 || op = 0x28 then a < 64 && a < Fields.width f
  else if op = 0x29 || op = 0x2A then a < 4096 && a % 64 + a / 64 + 1 ≤ Fields.width f
  else if 0x108 ≤ op && op ≤ 0x10A then a < Fmt.lanes f.fmtOut
  else if op = 0x189 then 1 ≤ a
  else if op = 0x18A then 1 ≤ a % 16 && a / 16 < 2 ^ (a % 16)
  else if op = 0x18B then 1 ≤ a && a < 16
  else if op = 0x18D then a < 4
  else if op = 0x207 then a < 8 && (a < 4 || a == 7)
  else if op = 0x208 then a < 4
  else if op = 0x209 || op = 0x20A then
    (a / 64 % 32 ≤ 16 || a / 64 % 32 == 31) && (a / 2048 ≤ 16 || a / 2048 == 31)
  else if 0x20B ≤ op && op ≤ 0x212 then a == 0
  else if 0x213 ≤ op && op ≤ 0x215 then a < 256
  else if op = 0x282 || op = 0x283 then a < 64
  else if op = 0x284 then a < 128
  else if op = 0x285 then 1 ≤ a && a ≤ 0xEF
  else if op = 0x300 then a < 2048 && a % 4 ≠ 3
  else if op = 0x303 then a < 32768
  else if op = 0x304 then a < 16
  else if op = 0x30B then a < 256 && a % 16 ≤ 4 && ((a % 16 == 1) == (a / 16 != 0))
  else true

/-- aux16 as its class requires (R83). -/
def auxOk (op : Nat) (o : OpInfo) (f : Fields) : Bool :=
  match o.aux with
  | .free => auxFree f
  | .mask => f.aux16.toNat < 2 ^ Fmt.lanes f.fmtOut && f.aux16 != 0
  | .scope => f.aux16.toNat < 4
  | .statement => f.aux16.toNat < 4096
  | .own => auxOwn op f

/-- Target C, held in imm16 and aux16 when TRI is 1 (R87). -/
def Fields.targetC (f : Fields) : Target :=
  let w := f.imm16.toNat * 65536 + f.aux16.toNat
  if f.tri then ⟨w / 2 ^ 31 % 2 == 1, BitVec.ofNat 5 (w / 2 ^ 26), BitVec.ofNat 7 (w / 2 ^ 19),
    BitVec.ofNat 8 (w / 2 ^ 11), BitVec.ofNat 9 (w / 4), Port.ofCode (BitVec.ofNat 2 w)⟩
  else ⟨false, 0, 0, 0, 0, .l⟩

/-- The targets of a word in the order A, B, C (R88). -/
def Fields.targets (f : Fields) : List Target := [f.a, f.b, Fields.targetC f]

/-- Forms whose targets must be absent (R98, R141, R148, R154, R165, R166, R168, R170). -/
def wantsNoTarget (op : Nat) : Bool :=
  op == 0x184 || op == 0x18E || op == 0x203 || op == 0x281 || op == 0x282 || op == 0x286 || op == 0x28C

/-- Forms that send a request to target A, which names a PORT on port L (R158, R164). -/
def sendsToPort (op : Nat) : Bool := (0x207 ≤ op && op ≤ 0x212) || op == 0x280

/-- The word meets R91. -/
def svcOk (op : Nat) (f : Fields) : Bool :=
  op == 0x100 && f.arity == 1 && !f.imm && !f.tri && !f.lock && f.tagop == 0 && f.aux16 == 0 &&
  !f.a.valid && !f.b.valid && f.fmtOut == .f64 && f.round == .rne && !f.sat

/-- field-reserved (0x42). -/
def fieldsReserved (op : Nat) (o : OpInfo) (f : Fields) : Bool :=
  f.rsv || (f.w32 && !o.w32) || (f.svc && !svcOk op f) || !auxOk op o f ||
  (f.imm16 != 0 && !f.imm && !f.tri && f.tagop != 4) ||
  !(Target.zeroed f.a && Target.zeroed f.b) ||
  (wantsNoTarget op && ((Fields.targets f).any Target.valid)) ||
  (op == 0x18D && !f.b.valid) || (op == 0x18F && f.b.valid)

/-- arity-mismatch (0x43), with the `.ctl` column of R136 and R174. -/
def arityBad (o : OpInfo) (f : Fields) : Bool :=
  if f.arity = 0 then !((o.ports == .l || o.ports == .lrImm) && o.ctl) else f.arity.toNat != o.ports.count

/-- immediate-illegal (0x44). -/
def immIllegal (o : OpInfo) (f : Fields) : Bool := if o.ports.rImm then !f.imm else f.imm && !o.ports.hasR

/-- The format in which an immediate R is formed (R54, R103, R136, R137). Raw operands are formed as I64, DEDUCED (log
entry 8). -/
def immFormat (op : Nat) (f : Fields) : Fmt :=
  if op = 0x20 then .i8
  else if op = 0x97 || op = 0x107 then .i64
  else if op < 0x180 || op = 0x185 || op = 0x20C then f.fmtOut
  else .i64

/-- immediate-range (0x45): R54, and the window of a `wave` (R145). -/
def immRange (op : Nat) (f : Fields) : Bool :=
  f.imm && (if op = 0x187 then !(1 ≤ f.imm16.toNat && f.imm16.toNat ≤ 256) else !immFits (immFormat op f) f.imm16)

/-- third-target-conflict (0x46). -/
def triBad (o : OpInfo) (f : Fields) : Bool :=
  (f.imm && f.tri) || (f.tagop == 4 && (f.imm || f.tri)) ||
  (f.tri && (o.aux != .free || !(f.tagop == 0 || f.tagop == 1 || f.tagop == 2) || !(Fields.targetC f).valid))

/-- target-invalid (0x47), as far as the word alone shows it. -/
def targetBad (f : Fields) : Bool :=
  (Fields.targets f).any (fun t => t.valid && !placeExists (Target.site t) t.station.toNat)

/-- target-port (0x48), as far as the word alone shows it (R146, R158, R164, R170). -/
def portBad (op : Nat) (f : Fields) : Bool :=
  ((op == 0x18C || op == 0x289) && (Fields.targets f).any (fun t => t.valid && t.port != .c)) ||
  (sendsToPort op && !(f.a.valid && f.a.port == .l && isOper (Target.site f.a)))

/-- target-duplicate (0x49). -/
def targetDup (f : Fields) : Bool :=
  let c := Fields.targetC f
  (f.a.valid && f.a == f.b) || (f.a.valid && f.a == c) || (f.b.valid && f.b == c)

/-- tagop-illegal (0x4A). -/
def tagopBad (o : OpInfo) (f : Fields) : Bool :=
  let t := f.tagop.toNat
  match o.tags with
  | .wave => t != 3
  | .own => t != 0
  | .plain => t == 3 || 9 ≤ t ||
      (5 ≤ t && t ≤ 8 && (o.aux != .free || f.tri || !(1 ≤ Fields.shift f && Fields.shift f ≤ 15)))

/-- reservation-short (0x4B). -/
def reserveBad (f : Fields) : Bool :=
  let n := awaitCount f
  f.reserve.toNat + 1 < max 1 (n - 1) || (f.lock && f.reserve.toNat + 1 < n)

/-- format-illegal (0x4C). -/
def formatBad (op : Nat) (o : OpInfo) (f : Fields) : Bool :=
  !(o.fmts.admits f.fmtOut) || (f.lock && !o.lock) || (f.w32 && f.fmtOut != .i64) ||
  (o.passing && (f.round != .rne || f.sat)) ||
  (f.sat && 0x20B ≤ op && op ≤ 0x212 && op != 0x20C)

/-- The first rule of R98 that a word by itself breaks, in the order of the table. -/
def wordReject (op : Nat) (f : Fields) : Option Nat :=
  match opInfo op with
  | none => some (if 0x380 ≤ op then 0x40 else 0x41)
  | some o =>
    if fieldsReserved op o f then some 0x42
    else if arityBad o f then some 0x43
    else if immIllegal o f then some 0x44
    else if immRange op f then some 0x45
    else if triBad o f then some 0x46
    else if targetBad f then some 0x47
    else if portBad op f then some 0x48
    else if targetDup f then some 0x49
    else if tagopBad o f then some 0x4A
    else if reserveBad f then some 0x4B
    else if formatBad op o f then some 0x4C
    else none

end Sys2Proof.Machine
end

