-- ==== Sys2Proof/WellFormed.lean ====
section
/-! DEFINITION. Which instructions are well-formed: a station word that passes every check of R98 that the word alone
decides, and any step of the machine's own units. -/

namespace Sys2Proof

/-- The opcode-and-modifier part of a constructor: SVC is set on the conversion station alone (R91). -/
def Instr.svcMatches : Instr → Bool
  | .conversionStationFire f => f.svc
  | .cvt f => !f.svc
  | _ => true

/-- The instruction passes the loader's checks of its own word (R98). -/
def Instr.wellFormed (i : Instr) : Bool :=
  match Machine.codeOf i with
  | some (op, f) => Machine.wordReject op f == none && i.svcMatches
  | none => true

end Sys2Proof
end

