-- ==== Sys2Proof/Decode.lean ====
section
/-! DEFINITION. Decoding of station words (R71, R95 to R97), total on any bytes, and the encoder. The steps of the
machine's own units have no word and no encoding. -/

namespace Sys2Proof

/-- Why bytes are no instruction. -/
inductive DecodeError where
  /-- Fewer than 16 bytes. -/
  | short
  /-- opcode-reserved: group 7 (R97). -/
  | opcodeReserved
  /-- opcode-unassigned (R97). -/
  | opcodeUnassigned
  deriving DecidableEq, Repr

/-- The target of 32 bits (R85). -/
def decodeTarget (w : BitVec 32) : Target :=
  ⟨w.extractLsb' 31 1 == 1#1, w.extractLsb' 26 5, w.extractLsb' 19 7, w.extractLsb' 11 8, w.extractLsb' 2 9,
    Port.ofCode (w.extractLsb' 0 2)⟩

/-- The fields of a station word (R71). -/
def decodeFields (w : StationWord) : Fields :=
  { arity := w.extractLsb' 116 2, fmtOut := Fmt.ofCode (w.extractLsb' 113 3), lock := w.extractLsb' 112 1 == 1#1,
    round := Round.ofCode (w.extractLsb' 110 2), sat := w.extractLsb' 109 1 == 1#1, tagop := w.extractLsb' 105 4,
    reserve := w.extractLsb' 101 4, imm := w.extractLsb' 100 1 == 1#1, tri := w.extractLsb' 99 1 == 1#1,
    rsv := w.extractLsb' 98 1 == 1#1, svc := w.extractLsb' 97 1 == 1#1, w32 := w.extractLsb' 96 1 == 1#1,
    imm16 := w.extractLsb' 80 16, aux16 := w.extractLsb' 64 16, a := decodeTarget (w.extractLsb' 32 32),
    b := decodeTarget (w.extractLsb' 0 32) }

/-- The opcode of a station word (R71). -/
def decodeOpcode (w : StationWord) : Nat := (w.extractLsb' 118 10).toNat

/-- A station word's instruction (R96, R97). A `cvt` with SVC is the conversion station (R91). -/
def decodeWord (w : StationWord) : Except DecodeError Instr :=
  let op := decodeOpcode w
  let f := decodeFields w
  if op = 0x100 && f.svc then .ok (.conversionStationFire f)
  else match Machine.opInfo op with
    | some o => .ok (o.make f)
    | none => .error (if 0x380 ≤ op then .opcodeReserved else .opcodeUnassigned)

/-- Decoding from bytes, the least significant byte of the word first (R6): the instruction and the rest. -/
def decode (bs : List Byte) : Except DecodeError (Instr × List Byte) :=
  if bs.length < 16 then .error .short
  else match decodeWord (BitVec.ofNat 128 (Machine.leNat (bs.take 16))) with
    | .ok i => .ok (i, bs.drop 16)
    | .error e => .error e

/-- One bit of a flag. -/
def encodeBool (b : Bool) : BitVec 1 := if b then 1#1 else 0#1

/-- The bits of a target (R85). -/
def encodeTarget (t : Target) : BitVec 32 :=
  encodeBool t.valid ++ t.die ++ t.row ++ t.col ++ t.station ++ t.port.code

/-- The station word of an opcode and fields (R71). -/
def encodeWord (op : Nat) (f : Fields) : StationWord :=
  BitVec.ofNat 10 op ++ f.arity ++ f.fmtOut.code ++ encodeBool f.lock ++ f.round.code ++ encodeBool f.sat ++ f.tagop ++
  f.reserve ++ encodeBool f.imm ++ encodeBool f.tri ++ encodeBool f.rsv ++ encodeBool f.svc ++ encodeBool f.w32 ++
  f.imm16 ++ f.aux16 ++ encodeTarget f.a ++ encodeTarget f.b

/-- The station word of an instruction that has one. -/
def encode (i : Instr) : Option StationWord := (Machine.codeOf i).map (fun x => encodeWord x.1 x.2)

/-- The instruction that the decoder reads from `nbits` bits of the value `w`: the word is 128 bits, and every bit above
`nbits` is zero. -/
def decodeTableWord (nbits w : Nat) : Option Instr :=
  match decode (Machine.leBytes 16 (w % 2 ^ min nbits 128)) with
  | .ok (i, _) => some i
  | .error _ => none

end Sys2Proof
end

