-- ==== Sys2Proof/Config.lean ====
section
/-! DEFINITION. What one module fixes, and the free values of the model. -/

namespace Sys2Proof.Config

/-- The byte that an address of memory holds before anything is written to it.
DESIGN CHOICE (log entry 2): the spec gives no contents of memory after reset. Unsafe: a proof may use this zero. -/
def unwritten : Byte := 0

/-- The REPMAP fuses (R419): no failed column in any group. DESIGN CHOICE (log entry 4). -/
def fuses : Word := 0x3F3F3F3F

/-- FREE VALUE (log entry 5). The rounded significand of a transcendental result (R123, R188) that the model's
bounded search has not settled: a function of the operands, of which nothing is known. -/
opaque unsettled : Nat → Nat → Bool

/-- FREE VALUE (log entry 5). A 64-bit value that the spec leaves open, taken fresh at each use from the counter
`State.fresh`. -/
opaque freeWord : Nat → Word

/-- FREE VALUE (log entry 32). Whether the undo log of a region is full at a cycle (R403, R405): the spec gives the log
16 KiB per block and no size of a record. -/
opaque undoFull (region cycle : Nat) : Bool

/-- FREE VALUE (log entry 102). Whether the memory expander of a CXL port returns an access of T3, by its number, with poison
(R367). -/
opaque expanderPoison : Nat → Bool

end Sys2Proof.Config
end

