-- ==== Sys2Proof/Machine/State.lean ====
section
/-! DEFINITION. The state of one module: plain data, everything the spec names. Finite maps (`Map`) list what differs
from the default their readers name. Site keys are `Site.key`; region keys are `64 × die + record`. -/

namespace Sys2Proof.Machine

/-- A token (R14), field by field. -/
structure Token where
  payload : Word
  die     : BitVec 5
  row     : BitVec 7
  col     : BitVec 8
  station : BitVec 9
  port    : Port
  ctx     : BitVec 3
  fmt     : Fmt
  poison  : Bool
  ends    : BitVec 4
  tag     : BitVec 16
  seq     : BitVec 6
  deriving DecidableEq, Repr

/-- An error record (R22) with the place of the error. -/
structure ErrRec where
  code    : Nat
  site    : Site
  station : Nat
  ctx     : Nat
  tag     : Nat
  deriving DecidableEq, Repr

/-- One word of a name on its way to a tile (R152), from a station; `l` is its operand, which a fault saves (R140); `inside` and
`counted`, that its write stall has been counted (R267), are noted when it waits at the tile. -/
structure NameWord where
  stmt    : Nat
  ctx     : Nat
  tag     : Nat
  payload : Word
  poison  : Bool
  reply   : Option Token
  site    : Nat
  station : Nat
  inside  : Bool
  counted : Bool
  l       : Token
  deriving DecidableEq, Repr

/-- The three name requests (R153, R154). -/
inductive ReadKind where
  | nrd | npeek | nrel
  deriving DecidableEq, Repr

/-- A name read or release on its way to a tile (R153, R154). `token` carries the reply header; `since` is the cycle in which the
tile took it up (R242). -/
structure NameRead where
  kind    : ReadKind
  stmt    : Nat
  ctx     : Nat
  tag     : Nat
  port    : Nat
  targets : List Target
  token   : Token
  region  : Nat
  counted : Bool
  site    : Nat
  station : Nat
  since   : Nat
  deriving DecidableEq, Repr

/-- The fold operations (R155). -/
inductive FoldKind where
  | set | resize | query
  deriving DecidableEq, Repr

/-- A fold request (R155). -/
structure FoldReq where
  kind   : FoldKind
  stmt   : Nat
  ctx    : Nat
  moduli : Word
  reply  : List Token
  token  : Token
  region : Nat
  deriving DecidableEq, Repr

/-- A request to a PORT (R214): operation number, fields, operands. `fired` is the tag of the firing, and `l` its operand on L,
which a fault saves (R140). -/
structure PortReq where
  op      : Nat
  aux     : Nat
  fmt     : Fmt
  w32     : Bool
  round   : Round
  sat     : Bool
  addr    : Word
  data    : Word
  cmp     : Word
  token   : Token
  targetA : Target
  targetB : Target
  site    : Nat
  station : Nat
  region  : Nat
  fired   : Nat
  l       : Token
  deriving DecidableEq, Repr

/-- What travels on the token network. -/
inductive Msg where
  | token (t : Token)
  | divert (t : Token) (back : Target) (fmt : Fmt) (round : Round) (sat : Bool)
  | word (w : NameWord)
  | read (r : NameRead)
  | fold (f : FoldReq)
  | port (q : PortReq)
  deriving DecidableEq, Repr

/-- A message in flight: its source station or operator (site key and station), class, destination site key, the port it
is ordered on (R35), its sender's region plus one (0: none), whether it still has to be admitted as a region input, and
the wave colour it carries (R402). -/
structure Flight where
  site    : Nat
  station : Nat
  cls     : Cls
  dst     : Nat
  lane    : Nat
  msg     : Msg
  region  : Nat
  input   : Bool
  colour  : Bool
  deriving DecidableEq, Repr

/-- The key of an effect (R407). -/
structure EffKey where
  site    : Nat
  station : Nat
  target  : Nat
  ctx     : Nat
  tag     : Nat
  seq     : Nat
  n       : Nat
  deriving DecidableEq, Repr

/-- What an effect does when the caboose releases it (R156). `forward` is a token that the drawbar PORT of a site sends to another
module (R216). A decrement carries the read that made it, and a word its statement;
`tile`, `pos` and `gen` say where the name lies. -/
inductive Act where
  | send (f : Flight)
  | release (r : NameRead) (tile pos gen : Nat)
  | wordShown (stmt tile pos gen word : Nat)
  | trigger
  | arrive (b g : Nat)
  | report (kind : Nat) (r : ErrRec) (payload : Word)
  | halt
  | access (n : Nat)
  | error (r : ErrRec) (saved : Option Token) (hasDst : Bool)
  | forward (port : Nat) (t : Token)
  deriving DecidableEq, Repr

/-- One effect in a caboose (R401). -/
structure Effect where
  entered : Nat
  tag     : Nat
  site    : Nat
  station : Nat
  stream  : Nat
  wave    : Nat
  key     : EffKey
  act     : Act
  deriving DecidableEq, Repr

/-- A waiting operand (R31). `shared`: its entry is one of the PE's shared pool, not of the station's reservation
(R227). -/
structure Entry where
  ctx     : Nat
  station : Nat
  tag     : Nat
  port    : Port
  tok     : Token
  pending : Bool
  shared  : Bool
  deriving DecidableEq, Repr

/-- A matched set, in the matching store or in the ready queue (R222). While it is marked in the matching store it still
holds `entries` matching entries, `shared` of them of the shared pool; a contribution of `acc` or `accmax` holds those that it
has taken until it is combined (R149). -/
structure Ready where
  ctx     : Nat
  station : Nat
  tag     : Nat
  matched : Nat
  toks    : List Token
  entries : Nat
  shared  : Nat
  deriving DecidableEq, Repr

/-- What a firing emits. -/
inductive Emit where
  /-- A token to its destination fields. -/
  | token (t : Token) (cls : Cls)
  /-- A message to a unit that serves requests. -/
  | msg (m : Msg) (die row col : Nat)
  /-- An effect other than a message. -/
  | effect (a : Act)
  /-- A report-kind or fault-kind error. -/
  | error (r : ErrRec) (saved : Option Token) (hasDst : Bool)
  deriving DecidableEq, Repr

/-- The result of an issued firing, until it leaves the PE (R105). -/
structure Result where
  ctx     : Nat
  station : Nat
  tag     : Nat
  ready   : Nat
  cause   : Nat
  wave    : Nat
  emits   : List Emit
  deriving DecidableEq, Repr

/-- The held value of an `invar` (R143). -/
structure Held where
  payload : Word
  fmt     : Fmt
  poison  : Bool
  deriving DecidableEq, Repr

/-- The running value of an `acc`, `accmax` or `count` (R149, R150). `shared`: its matching entry is one of the PE's shared pool;
`pooled` are the seqs of the waiting contributions whose entry is (R227). -/
structure Accum where
  value   : Word
  next    : Nat
  started : Bool
  poison  : Bool
  ends    : BitVec 4
  waiting : List Token
  shared  : Bool
  pooled  : List Nat
  deriving DecidableEq, Repr

/-- One accumulator entry (R172). `fmt` none: cleared. -/
structure Cell where
  value  : Word
  fmt    : Option Fmt
  rows   : Nat
  poison : Bool
  deriving DecidableEq, Repr

/-- One word of a weight row. -/
structure WeightWord where
  value  : Word
  poison : Bool
  present : Bool
  deriving DecidableEq, Repr

/-- A row in an assembler (R177). -/
structure Row where
  tag   : Nat
  seq   : Nat
  words : List Word
  poison : Bool
  done  : Bool
  deriving DecidableEq, Repr

/-- A statement descriptor (R250). -/
structure Desc where
  w0 : Word
  w1 : Word
  w2 : Word
  w3 : Word
  deriving DecidableEq, Repr

/-- One PE (R29 to R31, R172, R222). Running values are keyed `(8 × station + ctx) × 65536 + tag`, held values and
outstanding counts `8 × station + ctx`. -/
structure Pe where
  store     : Map StationWord
  ctxs      : Map (BitVec 32)
  coupling  : Map Nat
  entries   : List Entry
  marked    : List Ready
  ready     : List Ready
  lastCtx   : Nat
  nextIssue : Nat
  nextEnter : Nat
  results   : List Result
  invar     : Map Held
  accum     : Map Accum
  pendingOut : Map Nat
  active    : Map WeightWord
  shadow    : Map WeightWord
  cells     : Map Cell
  west      : List Row
  north     : List Row
  descs     : Map Desc
  colour    : Bool
  emitted   : List (EffKey × Nat)
  joins     : Map Nat
  forwarded : List Nat
  deriving DecidableEq, Repr

/-- A slot record (R254). -/
structure Slot where
  gen     : Nat
  readers : Nat
  held    : Nat
  cursor  : Nat
  rcursor : Nat
  state   : Nat
  stamp   : Nat
  deriving DecidableEq, Repr

/-- A read that a tile has accepted and not yet delivered whole (R259, R270). -/
structure Serving where
  req  : NameRead
  pos  : Nat
  gen  : Nat
  next : Nat
  dead : Bool
  deriving DecidableEq, Repr

/-- The fold counters of a statement at its first tile (R267). -/
structure FoldCount where
  stalls   : Nat
  deferred : Nat
  expired  : Nat
  resized  : Nat
  deriving DecidableEq, Repr

/-- One memory tile (R254 to R273). Data words are keyed by word number; slots by position; granules by number. `owner` is the
region of the load whose statement it holds, plus one (R248); 0: it holds none. `peeks` are the `npeek`s it has delivered whole of
occupants that still have words which are not released (R261). -/
structure Tile where
  owner     : Nat
  data      : Map Word
  slots     : Map Slot
  present   : Map Bool
  released  : Map Bool
  poisoned  : Map Bool
  writers   : Map Nat
  stalled   : List NameWord
  deferred  : List NameRead
  serving   : List Serving
  peeks     : List Serving
  descs     : Map Desc
  counts    : Map FoldCount
  resizing  : Option FoldReq
  resizeAt  : Nat
  scrubPos  : Nat
  scrubWrite : Option (Nat × Nat × List Word)
  scrubDone : Nat
  deriving DecidableEq, Repr

/-- An arm waiting at an operator (R194, R201): the completion tag and the base it sets, if any. -/
structure Arm where
  tag  : Nat
  base : Option Word
  deriving DecidableEq, Repr

/-- An open tag of a SIEVE (R211). `max` is an FP32 pattern. -/
structure SieveTag where
  tag     : Nat
  max     : Nat
  group   : Nat
  next    : Nat
  mask    : Nat
  waiting : List Token
  deriving DecidableEq, Repr

/-- An entry of a PORT's forwarding table (R214). -/
structure Fwd where
  stream : Nat
  sector : Nat
  bytes  : List (Nat × Byte)
  access : Nat
  deriving DecidableEq, Repr

/-- An ordering domain at a PORT (R161). -/
structure OrdDom where
  wave    : Nat
  last    : Option (Nat × Nat)
  stopped : Bool
  waiting : List PortReq
  seen    : List Nat
  busy    : Bool
  deriving DecidableEq, Repr

/-- A fence that its caboose has released to a PORT (R164, R280): the accesses that it covers by number, and the requests
and commands that it covers and that were then on their way, or waiting in an ordering domain; whether its marker has
reached the PORT. -/
structure FenceWait where
  req     : PortReq
  covered : List Nat
  ahead   : List Flight
  arrived : Bool
  deriving DecidableEq, Repr

/-- A transfer of a PORT (R215); `id` is the number of the access that stands for it until it completes. `phase`: 0 its
descriptor is read, 1 under way, 2 waiting for the host link or the drive, 3 waiting for an invalidation. `cmd` is the tag of its
command. -/
structure Transfer where
  id      : Nat
  kind    : Nat
  cmd     : Nat
  src     : Word
  dst     : Word
  len     : Word
  qp      : Nat
  tag     : Nat
  stream  : Nat
  done    : Word
  pos     : Nat
  status  : Nat
  phase   : Nat
  ctx     : Nat
  token   : Token
  unit    : Nat
  prp     : List Nat
  deriving DecidableEq, Repr

/-- A response that a PORT has sent and its target has not accepted (R158): the token and its lane, and the PE and the
station and context (`stKey`) that hold a place for it. -/
structure Owed where
  lane    : Nat
  token   : Token
  site    : Nat
  station : Nat
  deriving DecidableEq, Repr

/-- A token that an operator has to send: its target, whether it admits its tag where that is not live (R226, R230), and
whether it answers a request (R32). -/
structure OutTok where
  target : Target
  token  : Token
  admits : Bool
  reply  : Bool
  deriving DecidableEq, Repr

/-- One operator site (R191 to R217). `state`: 0 idle, 1 armed, 2 running, 3 held at a fault, 4 waiting (R194), and
5 all elements done, the completion still due. `epoch` counts the passes begun, rewound and flushed, so that a write of an
abandoned one is told; `out` are tokens that wait to leave. -/
structure Oper where
  kind      : Nat
  pm        : Map Word
  region    : Nat
  fanin     : Nat
  state     : Nat
  passNo    : Nat
  epoch     : Nat
  done      : Nat
  pos       : Nat
  sent      : Nat
  tag       : Nat
  base      : Word
  counts    : List Nat
  nextCounts : List Nat
  arms      : List Arm
  status    : Nat
  held      : List Token
  held2     : List Token
  arrivals  : Map Nat
  mask      : Option Token
  isOpen    : Bool
  opened    : List Nat
  grants    : Nat
  expTag    : Nat
  expSeq    : Nat
  bytes     : List Byte
  discard   : Bool
  sieve     : List SieveTag
  nextTag   : Nat
  ignored   : Nat
  mismatch  : Bool
  fwd       : List Fwd
  doms      : Map OrdDom
  fences    : List FenceWait
  moves     : List Transfer
  streamSeq : Nat
  unacked   : List LinkSlot
  owed      : List Owed
  out       : List OutTok
  waitR     : List Token
  joins     : Nat
  forwarded : Bool
  linkUsed  : Nat
  deriving DecidableEq, Repr

/-- A frame (R147): caller tag, caller seq, return target, and the station that took it, as a member of a domain (R146). -/
structure Frame where
  tag : Nat
  seq : Nat
  ret : BitVec 32
  owner : Nat
  deriving DecidableEq, Repr

/-- A tag source of a domain (R225, R226): site key, station, window, and the tags it has admitted that still live. -/
structure Source where
  site    : Nat
  station : Nat
  window  : Nat
  live    : List Nat
  deriving DecidableEq, Repr

/-- A live or late tag of a domain (R226, R231). -/
structure LiveTag where
  tag       : Nat
  order     : Nat
  confirmed : Bool
  deriving DecidableEq, Repr

/-- A domain (R225 to R231). Members are `512 × site key + station`. -/
structure Domain where
  members : List Nat
  sources : List Source
  specul  : Bool
  live    : List LiveTag
  late    : List Nat
  order   : Nat
  dead    : List Nat
  deriving DecidableEq, Repr

/-- A stream entry of a region with its FIFO (R237). -/
structure Stream where
  entry  : BitVec 32
  depth  : Nat
  window : Nat
  fifo   : List Flight
  deriving DecidableEq, Repr

/-- A barrier generation that is open (R166): number, arrivals, waiting operands. -/
structure BarGen where
  gen      : Nat
  arrivals : Nat
  waits    : List (List Emit × Nat × Nat)
  deriving DecidableEq, Repr

/-- A barrier (R166). -/
structure Barrier where
  n      : Nat
  opened : List BarGen
  closed : List Nat
  queue  : List (Option (List Emit × Nat × Nat) × Nat)
  deriving DecidableEq, Repr

/-- An entry of the fault buffer (R140). -/
structure Saved where
  token  : Token
  hasDst : Bool
  deriving DecidableEq, Repr

/-- An error waiting for a fault-buffer entry (R140). -/
structure FaultWait where
  origin : ErrRec
  saved : Saved
  deriving DecidableEq, Repr

/-- A controller form of the matrix array that has issued and not finished (R189). `started`: a run that R182 has let
begin; `last` is the cycle of its last step at the first PE, plus one. -/
structure MatOp where
  op      : Nat
  fields  : Fields
  station : Nat
  ctx     : Nat
  tag     : Nat
  emitTag : Nat
  l       : Token
  r       : Token
  p       : Token
  mask    : Word
  pass    : Nat
  step    : Nat
  passes  : Nat
  started : Bool
  last    : Nat
  deriving DecidableEq, Repr

/-- A bias register (R172). -/
structure Bias where
  value  : Word
  fmt    : Fmt
  poison : Bool
  deriving DecidableEq, Repr

/-- The matrix state of a region (R172), kept at its controller PE. -/
structure Matrix where
  mode   : Nat
  feed   : Nat
  mask   : Word
  owner  : Option Nat
  height : Nat
  width  : Nat
  biases : Map Bias
  queue  : List MatOp
  deriving DecidableEq, Repr

/-- Pre-emption of a region (R371, R372): mode 0 none, 1 drain-to-wave, 2 forced save, and 3 and 4 the same two, asked
for while the region drains and deferred until it is drained (R340). -/
structure Preempt where
  mode    : Nat
  since   : Nat
  budget  : Nat
  policy  : Nat
  byHost  : Bool
  deriving DecidableEq, Repr

/-- A region and context with its record (R327, R348, R349). `logCycles` are the cycles of the poison log's entries (R59);
`trigAhead` and `trigCovers` are the messages and the accesses, by number, that were under way when its trigger was made (R165). -/
structure Region where
  head      : Word
  head1     : Word
  head2     : Word
  head3     : Word
  image     : Word
  load      : Nat
  loadBase  : Nat
  index     : Nat
  ctl       : Word
  status    : Nat
  unprot    : Bool
  stalled   : Bool
  warned    : Bool
  serial    : Word
  serialSet : Bool
  stallRec  : Word
  lastWave  : Option (Nat × Nat × Nat)
  progress  : Nat
  progressAt : Nat
  overflow  : Nat
  log       : List Word
  logCycles : List Nat
  inst      : Nat
  running   : Bool
  frames    : Map Frame
  domains   : List Domain
  streams   : List Stream
  launchQ   : List Flight
  barriers  : Map Barrier
  faults    : Map Saved
  faultWait : List FaultWait
  reported  : List (Nat × Nat × Nat)
  triggered : Bool
  triggers  : Nat
  trigAhead : List Flight
  trigCovers : List Nat
  reinjects : Nat
  squashes  : Nat
  caboose   : List Effect
  wave      : Nat
  oldest    : Nat
  markAt    : Nat
  inputs    : List (Nat × Nat × Flight)
  keysOut   : List (EffKey × Nat)
  keysAwait : List EffKey
  rolling   : Bool
  restarts  : Nat
  replayQ   : List Flight
  halted    : Bool
  stepping  : Nat
  preempt   : Preempt
  words     : Nat
  drainedTo : List Nat
  clkKept   : List (Nat × Nat × Word)
  clkReplay : List (Nat × Nat × Word)
  freed     : List (Nat × Saved)
  refree    : List (Nat × Saved)
  deriving DecidableEq, Repr

/-- A saved region: the replay mark of R403, or a parked context of R373. At a mark, `flights` are the tokens in flight,
`captured` the requests outstanding, and `accs` the operators' accesses outstanding; parked, `captured` holds the tokens
captured while parked. -/
structure Snap where
  region : Nat
  wave   : Nat
  state  : Option Region
  pes    : Map Pe
  opers  : Map Oper
  tiles  : Map Tile
  flights : List Flight
  matrix : Option Matrix
  captured : List Flight
  accs   : List Nat
  deriving DecidableEq, Repr

/-- The kinds of memory access. -/
inductive AccKind where
  | read | write | atomic | queue
  deriving DecidableEq, Repr

/-- An access of a stream (R275). `phase`: 0 waiting for translation, 1 held at a translation fault or waiting for a pin, 2
translated, 3 at its home and waiting at the filter, 4 ordered and not performed (a write to T3, or the entry that stands
for a transfer), 5 performed, 6 in its region's caboose, 8 performed and kept for a replay (R282), 9 kept, and to be issued
again. `op`: the request's opcode or the transfer's command; else 0, 1 an index read of a GATHER, 2 a poisoned block, 3 a
failed LOOKUP, 4 a write whose region was flushed, and 0x10 to 0x13 accesses 0 to 3 that a rollback found on their way. -/
structure Access where
  id      : Nat
  kind    : AccKind
  op      : Nat
  oper    : Nat
  region  : Nat
  ctx     : Nat
  unit    : Nat
  stream  : Nat
  va      : Word
  size    : Nat
  data    : List Byte
  cmp     : List Byte
  pa      : Nat
  phase   : Nat
  before  : List Nat
  elem    : Nat
  tag     : Nat
  seq     : Nat
  part    : Nat
  req     : Option PortReq
  bytes   : List Byte
  poison  : Bool
  tok     : Option Token
  deriving DecidableEq, Repr

/-- A cached translation (R357): context, page number in units of its size, size shift, frame, permissions. -/
structure Tlb where
  unit  : Nat
  ctx   : Nat
  shift : Nat
  page  : Nat
  frame : Nat
  r     : Bool
  w     : Bool
  refs  : Bool
  deriving DecidableEq, Repr

/-- A stream held at a translation fault (R360 to R362). -/
structure Hold where
  unit   : Nat
  id     : Nat
  access : Nat
  written : Bool
  words  : List Word
  deriving DecidableEq, Repr

/-- A pin (R364) of a stream on the page of `2 ^ shift` bytes at `page`. -/
structure Pin where
  unit   : Nat
  ctx    : Nat
  page   : Nat
  shift  : Nat
  stream : Nat
  deriving DecidableEq, Repr

/-- A page under migration (R366). -/
structure Migration where
  oper   : Nat
  old    : Nat
  new    : Nat
  size   : Nat
  ctx    : Nat
  page   : Nat
  copied : List Nat
  entry  : Nat
  deriving DecidableEq, Repr

/-- An invalidation in progress (R357). -/
structure Invalid where
  scope : Nat
  ctx   : Nat
  page  : Nat
  waits : List Nat
  deriving DecidableEq, Repr

/-- A registered image (R329). -/
structure Image where
  handle : Word
  addr   : Nat
  length : Nat
  deriving DecidableEq, Repr

/-- An instance of a load (R343). `phase`: 0 chosen, 1 its regions are configured and its data written, 3 running, 4
ended, 5 parked. `entry` counts launches. `regions` are region keys, in the order of the load's headers. -/
structure Inst where
  num      : Nat
  image    : Word
  load     : Nat
  prio     : Nat
  policy   : Nat
  budget   : Nat
  doneAt   : Word
  queue    : Nat
  regions  : List Nat
  phase    : Nat
  dataNext : Nat
  triggers : Nat
  tokens   : List (Word × Word)
  byHost   : Bool
  entry    : Nat
  deriving DecidableEq, Repr

/-- An entry of a launch queue (R341, R343): its queue and index, and how many instances the arbiter had taken when it was
pushed. -/
structure PushMark where
  queue : Nat
  index : Nat
  taken : Nat
  deriving DecidableEq, Repr

/-- A hardware queue descriptor (R383). -/
structure QueueReg where
  base : Word
  cfg  : Word
  head : Word
  tail : Word
  deriving DecidableEq, Repr

/-- What a training beat carries (R391): the drawbar protocol's major and minor, MODID, the port number, and the cycle at which the
flight-time probe left. The spec gives these fields no place in a beat (log entry 67). -/
structure Training where
  major  : Nat
  minor  : Nat
  module : Nat
  port   : Nat
  probe  : Nat
  deriving DecidableEq, Repr

/-- One drawbar port: its registers (R391) and link state (R388, R389): the beat sequences, the beats sent and not
acknowledged, how often in a row each beat has failed, by sequence, the cycle of the last beat, whether a retry request is still to
leave, whether one was received, whether a training is a retraining, whether a loss has been acted on, slots to send, slots and
stream acknowledgements received, and the beats handed to the line, by their 128 bytes, and the training beats, outputs that nothing
in the module takes back. -/
structure LinkPort where
  lctl    : Word
  lstat   : Word
  lrtry   : Word
  lrsnd   : Word
  sendSeq : Nat
  recvSeq : Nat
  unacked : List Beat
  fails   : Map Nat
  silence : Nat
  ask     : Bool
  resend  : Bool
  again   : Bool
  told    : Bool
  outQ    : List LinkSlot
  inQ     : List (Nat × LinkSlot)
  acksIn  : List (BitVec 32 × Nat)
  wire    : List (List Byte)
  trained : List Training
  deriving DecidableEq, Repr

/-- A stream received from another module (R390): source module, source PORT site, next sequence expected, the
drawbar port it arrives on, its PORT here, and how many tokens have arrived since the last acknowledgement. -/
structure StreamIn where
  module : Nat
  src    : BitVec 32
  next   : Nat
  link   : Nat
  site   : Nat
  due    : Nat
  deriving DecidableEq, Repr

/-- The registers of BAR 0 that belong to the module as a whole (R329, R369, R382, R425). -/
structure ModRegs where
  hifneg  : Word
  hifact  : Word
  modid   : Word
  rqbase  : Word
  rqcfg   : Word
  rqtail  : Word
  rqhead  : Word
  ldrep   : Word
  apbase  : Word
  psbase  : Word
  pssize  : Word
  mvec    : Word
  dmpbase : Word
  dmpsize : Word
  fstat   : Word
  pwrcap  : Word
  pwrstat : Word
  bootstat : Word
  imgaddr : Word
  imglen  : Word
  imghdl  : Word
  imgcmd  : Word
  imgstat : Word
  troot   : Map Word
  fqbase  : Word
  fqcfg   : Word
  fqtail  : Word
  fqhead  : Word
  tstat   : Word
  nwin    : Word
  nqp     : Map Word
  rqFull  : Bool
  fqFull  : Bool
  deriving DecidableEq, Repr

/-- The registers of one compute die (R378, R419). -/
structure DieRegs where
  dsstat  : Word
  daddr   : Word
  ddata0  : Word
  ddata1  : Word
  strcnt  : Word
  strlog  : Word
  scrub   : Word
  injpe   : Map Word
  injmt   : Map Word
  suspe   : Map Word
  repmap  : Word
  mapped  : Word
  senstat : Word
  deriving DecidableEq, Repr

/-- A report record (R384). -/
structure Report where
  kind    : Nat
  origin  : ErrRec
  payload : Word
  cycle   : Nat
  deriving DecidableEq, Repr

/-- The firing that the current station word acts on: the model's own register, set by the issue of a ready entry; `entries` and
`shared` are those of that entry. -/
structure Firing where
  site    : Nat
  ctx     : Nat
  station : Nat
  tag     : Nat
  matched : Nat
  toks    : List Token
  entries : Nat
  shared  : Nat
  deriving DecidableEq, Repr

/-- One turn of the agenda (log entry 1): a time step of one die, then an issue at a site or a step of a unit. `full` of an
issue are the keys of the stations whose first result's lane has no credit in this cycle (R223): it is the network's. -/
inductive Turn where
  | tick (die cycles : Nat)
  | issue (site : Site) (full : List Nat)
  | event (i : Instr)
  deriving DecidableEq, Repr

/-- The machine. -/
structure State where
  agenda   : List Turn
  firing   : Firing
  fresh    : Nat
  hostRead : Word
  hostBytes : List Byte
  clocks   : Map Nat
  pes      : Map Pe
  tiles    : Map Tile
  opers    : Map Oper
  regions  : Map Region
  matrices : Map Matrix
  snaps    : List Snap
  parked   : List Snap
  net      : List Flight
  accesses : List Access
  nextAcc  : Nat
  mem      : List (Nat × Byte)
  hostMem  : List (Nat × Byte)
  poisonMem : List Nat
  tlb      : List Tlb
  holds    : List Hold
  holdIds  : Map Nat
  slots    : Map Nat
  pins     : List Pin
  migrations : List Migration
  inval    : List Invalid
  tinvWait : List Word
  retire   : List (Nat × Nat × Nat)
  faultQ   : List (List Word)
  patrol   : Map Nat
  images   : List Image
  insts    : List Inst
  forgotten : List Nat
  pushed   : List PushMark
  taken    : Nat
  lastQ    : Map Nat
  modRegs  : ModRegs
  dies     : Map DieRegs
  queues   : Map QueueReg
  links    : Map LinkPort
  streamsIn : List StreamIn
  reports  : List Report
  msix     : Map Word
  msixPending : List Nat
  msixHeld : List Nat
  fatal    : Bool
  fatalSite : Word
  booted   : Bool
  cxl      : Map Nat
  deriving DecidableEq, Repr

/-- Reasons for which a run ends in a fault. -/
inductive Fault where
  /-- The issue selector of a PE was named at a site that is no PE (R24): raised by `step` on such a turn. Safe: no
  hardware has that turn. -/
  | noPe
  deriving DecidableEq, Repr

/-- Reasons for which the model refuses a step. -/
inductive Refusal where
  /-- An instruction that has no meaning yet, by its mnemonic: raised by `exec`. Safe. -/
  | notModelled (mnemonic : String)
  /-- A ready entry whose station's word is of no assigned opcode (R97). The loader never delivers one: raised by `step`.
  Safe: such a word never executes. -/
  | undecodable
  deriving DecidableEq, Repr

/-- An idle PE: nothing configured, context 7 last served (log entry 3), so that context 0 is the first. -/
def Pe.idle : Pe :=
  ⟨[], [], [], [], [], [], 7, 0, 0, [], [], [], [], [], [], [], [], [], [], false, [], [], []⟩

/-- An empty slot (R255). -/
def Slot.empty : Slot := ⟨0, 0, 0, 0, 0, 0, 0⟩

/-- A memory tile with every slot empty (R272). -/
def Tile.clear : Tile :=
  ⟨0, [], [], [], [], [], [], [], [], [], [], [], [], none, 0, 0, none, 0⟩

/-- An operator site at reset (R191). -/
def Oper.idle : Oper :=
  { kind := 0, pm := [], region := 0, fanin := 0, state := 0, passNo := 0, epoch := 0, done := 0, pos := 0, sent := 0, tag := 0,
    base := 0, counts := [], nextCounts := [], arms := [], status := 0, held := [], held2 := [], arrivals := [],
    mask := none, isOpen := false, opened := [], grants := 0, expTag := 0, expSeq := 0, bytes := [],
    discard := false, sieve := [], nextTag := 0, ignored := 0, mismatch := false,
    fwd := [], doms := [], fences := [], moves := [], streamSeq := 0, unacked := [], owed := [], out := [], waitR := [], joins := 0,
    forwarded := false, linkUsed := 0 }

/-- No pre-emption. -/
def Preempt.none : Preempt := ⟨0, 0, 0, 0, false⟩

/-- An unassigned region record with the reset values of R348 and R349. -/
def Region.empty : Region :=
  { head := 0, head1 := 0, head2 := 0, head3 := 0, image := 0, load := 0, loadBase := 0, index := 0,
    ctl := 0xC14, status := 0, unprot := false, stalled := false, warned := false, serial := 0, serialSet := false,
    stallRec := 0, lastWave := none, progress := 0, progressAt := 0, overflow := 0, log := [], logCycles := [], inst := 0, running := false,
    frames := [], domains := [], streams := [], launchQ := [], barriers := [], faults := [],
    faultWait := [], reported := [], triggered := false, triggers := 0, trigAhead := [], trigCovers := [], reinjects := 0, squashes := 0, caboose := [],
    wave := 0, oldest := 0, markAt := 0, inputs := [], keysOut := [], keysAwait := [], rolling := false, restarts := 0, replayQ := [],
    halted := false, stepping := 0, preempt := .none, words := 0, drainedTo := [],
    clkKept := [], clkReplay := [], freed := [], refree := [] }

/-- The matrix state at reset (R172). -/
def Matrix.clear : Matrix := ⟨0, 0, 0, .none, 0, 0, [], []⟩

/-- A hardware queue descriptor at reset (R383). -/
def QueueReg.zero : QueueReg := ⟨0, 0, 0, 0⟩

/-- A drawbar port at reset (R391). -/
def LinkPort.down : LinkPort := ⟨0, 0, 0, 0, 0, 0, [], [], 0, false, false, false, false, [], [], [], [], []⟩

/-- The module registers at reset (R329, R369, R382, R425). -/
def ModRegs.reset : ModRegs :=
  { hifneg := 0, hifact := 0, modid := 0, rqbase := 0, rqcfg := 0, rqtail := 0, rqhead := 0, ldrep := 0, apbase := 0,
    psbase := 0, pssize := 0, mvec := 0, dmpbase := 0, dmpsize := 0, fstat := 0, pwrcap := 0x41A, pwrstat := 0,
    bootstat := 0, imgaddr := 0, imglen := 0, imghdl := 0, imgcmd := 0, imgstat := 0, troot := [],
    fqbase := 0, fqcfg := 0, fqtail := 0, fqhead := 0, tstat := 0, nwin := 0, nqp := [], rqFull := false, fqFull := false }

/-- A die's registers at reset (R378, R419). -/
def DieRegs.reset : DieRegs :=
  { dsstat := 0, daddr := 0, ddata0 := 0, ddata1 := 0, strcnt := 0, strlog := 0, scrub := 0x40, injpe := [],
    injmt := [], suspe := [], repmap := Config.fuses, mapped := Config.fuses, senstat := 0 }

/-- No firing: the model's own register before the first issue (log entry 1). -/
def Firing.none : Firing := ⟨0, 0, 0, 0, 0, [], 0, 0⟩

/-- The machine right after reset, before bring-up: every register at its reset value, nothing configured. -/
def State.reset : State :=
  { agenda := [], firing := .none, fresh := 0, hostRead := 0, hostBytes := [], clocks := [], pes := [], tiles := [],
    opers := [], regions := [], matrices := [], snaps := [], parked := [], net := [], accesses := [], nextAcc := 0,
    mem := [], hostMem := [], poisonMem := [], tlb := [], holds := [], holdIds := [], slots := [], pins := [],
    migrations := [], inval := [], tinvWait := [], retire := [], faultQ := [], patrol := [], images := [], insts := [],
    forgotten := [], pushed := [], taken := 0,
    lastQ := [], modRegs := .reset, dies := [], queues := [], links := [], streamsIn := [], reports := [], msix := [],
    msixPending := [], msixHeld := [], fatal := false, fatalSite := 0, booted := false, cxl := [] }

end Sys2Proof.Machine
end

