-- ==== Sys2Proof/Machine/Ops.lean ====
section
/-! DEFINITION. The named operations over memory, tokens, PEs and regions, and the shared operation that raises an
error (R139, R140): the machine's exception. -/

namespace Sys2Proof.Machine

/-! ### Memory -/

/-- Memory as (address, byte) pairs. -/
abbrev Memory := List (Nat × Byte)

/-- The canonical form: addresses strictly rising from `lo`, no byte equal to the unwritten one. -/
def Memory.wfFrom : Nat → Memory → Bool
  | _, [] => true
  | lo, (a, b) :: m => lo ≤ a && b != Config.unwritten && Memory.wfFrom (a + 1) m

/-- The canonical form. -/
def Memory.wf (m : Memory) : Bool := Memory.wfFrom 0 m

/-- The byte at an address. -/
def Memory.read (m : Memory) (a : Nat) : Byte := Map.get m Config.unwritten a

/-- Memory with one byte written; writing the unwritten byte removes the entry. -/
def Memory.write (m : Memory) (a : Nat) (b : Byte) : Memory :=
  if b = Config.unwritten then Map.del m a else Map.put m a b

/-- The `n` bytes from an address, lowest first (R6). -/
def Memory.readBytes (m : Memory) (a : Nat) : Nat → List Byte
  | 0 => []
  | n + 1 => Memory.read m a :: Memory.readBytes m (a + 1) n

/-- Bytes written from an address upward (R6). -/
def Memory.writeBytes (m : Memory) (a : Nat) : List Byte → Memory
  | [] => m
  | b :: bs => Memory.writeBytes (Memory.write m a b) (a + 1) bs

/-- The 64-bit little-endian word at an address (R6). -/
def Memory.readWord (m : Memory) (a : Nat) : Word := BitVec.ofNat 64 (leNat (Memory.readBytes m a 8))

/-- An address of T2 (R351). -/
def inT2 (a : Nat) : Bool := a / 2 ^ 36 < 48

/-- An address of T3 (R351). -/
def inT3 (a : Nat) : Bool := 2 ^ 46 ≤ a && (a - 2 ^ 46) / 2 ^ 42 < 4

/-- An address that is mapped (R351). -/
def mapped (a : Nat) : Bool := inT2 a || inT3 a

/-! ### Tokens -/

/-- A token of zeros. -/
def Token.zero : Token := ⟨0, 0, 0, 0, 0, .l, 0, .f64, false, 0, 0, 0⟩

/-- The header [63:0] of a token (R14). -/
def Token.header (t : Token) : Word :=
  BitVec.ofNat 64 (t.die.toNat * 2 ^ 59 + t.row.toNat * 2 ^ 52 + t.col.toNat * 2 ^ 44 + t.station.toNat * 2 ^ 35 +
    t.port.code.toNat * 2 ^ 33 + t.ctx.toNat * 2 ^ 30 + t.fmt.code.toNat * 2 ^ 27 + one t.poison * 2 ^ 26 +
    t.ends.toNat * 2 ^ 22 + t.tag.toNat * 2 ^ 6 + t.seq.toNat)

/-- The token of a payload and a header (R14). -/
def Token.ofWords (h p : Word) : Token :=
  let b := fun (hi lo : Nat) => field h hi lo
  ⟨p, BitVec.ofNat 5 (b 63 59), BitVec.ofNat 7 (b 58 52), BitVec.ofNat 8 (b 51 44), BitVec.ofNat 9 (b 43 35),
    Port.ofCode (BitVec.ofNat 2 (b 34 33)), BitVec.ofNat 3 (b 32 30), Fmt.ofCode (BitVec.ofNat 3 (b 29 27)),
    bit h 26, BitVec.ofNat 4 (b 25 22), BitVec.ofNat 16 (b 21 6), BitVec.ofNat 6 (b 5 0)⟩

/-- A token's destination site. -/
def Token.site (t : Token) : Site := ⟨t.die.toNat, t.row.toNat, t.col.toNat⟩

/-- A token with the destination fields of a target (R17). -/
def Token.toTarget (t : Token) (g : Target) : Token :=
  { t with die := g.die, row := g.row, col := g.col, station := g.station, port := g.port }

/-- The 32 bits of a target as a target (R85). -/
def targetOf (w : Nat) : Target :=
  ⟨w / 2 ^ 31 % 2 == 1, BitVec.ofNat 5 (w / 2 ^ 26), BitVec.ofNat 7 (w / 2 ^ 19), BitVec.ofNat 8 (w / 2 ^ 11),
    BitVec.ofNat 9 (w / 4), Port.ofCode (BitVec.ofNat 2 w)⟩

/-- A target as 32 bits (R85). -/
def Target.bits (t : Target) : Nat :=
  one t.valid * 2 ^ 31 + t.die.toNat * 2 ^ 26 + t.row.toNat * 2 ^ 19 + t.col.toNat * 2 ^ 11 + t.station.toNat * 4 +
    t.port.code.toNat

/-- A site and station in the layout of R85 with V = 1 and port 0. -/
def siteBits (x : Site) (station : Nat) : Nat :=
  2 ^ 31 + x.die * 2 ^ 26 + x.row * 2 ^ 19 + x.col * 2 ^ 11 + station * 4

/-- The class of a token by its port (R32). -/
def Token.cls (t : Token) : Cls := if t.port == .c then .control else .data

/-- What a token is ordered on (R35): its destination site, station and port. -/
def Token.lane (t : Token) : Nat := Site.key (Token.site t) * 2048 + t.station.toNat * 4 + t.port.code.toNat

/-- The payload of an error token (R21, R22). -/
def ErrRec.payload (r : ErrRec) : Word :=
  BitVec.ofNat 64 (0x05 * 2 ^ 56 + r.code % 256 * 2 ^ 48 + r.site.die % 32 * 2 ^ 43 + r.site.row % 128 * 2 ^ 36 +
    r.site.col % 256 * 2 ^ 28 + r.station % 512 * 2 ^ 19 + r.ctx % 8 * 2 ^ 16 + r.tag % 65536)

/-- A fault-kind code (R139). -/
def faultKind (code : Nat) : Bool :=
  !(code == 0x03 || code == 0x08 || code == 0x0D || code == 0x0E || code == 0x0F || code == 0x10)

/-- The record that names a token's destination (R23). -/
def ErrRec.ofToken (code : Nat) (t : Token) : ErrRec :=
  ⟨code, Token.site t, t.station.toNat, t.ctx.toNat, t.tag.toNat⟩

/-! ### Parts of the state -/

/-- The cycle counter of a die (R3, R170). -/
def State.now (s : State) (die : Nat) : Nat := Map.get s.clocks 0 die

/-- A PE. -/
def State.pe (s : State) (k : Nat) : Pe := Map.get s.pes .idle k

/-- The state with a PE changed. -/
def State.onPe (s : State) (k : Nat) (g : Pe → Pe) : State := { s with pes := Map.alter s.pes .idle k g }

/-- A memory tile. -/
def State.tile (s : State) (k : Nat) : Tile := Map.get s.tiles .clear k

/-- The state with a tile changed. -/
def State.onTile (s : State) (k : Nat) (g : Tile → Tile) : State := { s with tiles := Map.alter s.tiles .clear k g }

/-- An operator site. -/
def State.oper (s : State) (k : Nat) : Oper := Map.get s.opers .idle k

/-- The state with an operator site changed. -/
def State.onOper (s : State) (k : Nat) (g : Oper → Oper) : State := { s with opers := Map.alter s.opers .idle k g }

/-- A region record. -/
def State.region (s : State) (r : Nat) : Region := Map.get s.regions .empty r

/-- The state with a region changed. -/
def State.onRegion (s : State) (r : Nat) (g : Region → Region) : State :=
  { s with regions := Map.alter s.regions .empty r g }

/-- The matrix state kept at a controller PE. -/
def State.matrix (s : State) (k : Nat) : Matrix := Map.get s.matrices .clear k

/-- The state with a matrix state changed. -/
def State.onMatrix (s : State) (k : Nat) (g : Matrix → Matrix) : State :=
  { s with matrices := Map.alter s.matrices .clear k g }

/-- A die's registers. -/
def State.die (s : State) (d : Nat) : DieRegs := Map.get s.dies .reset d

/-- The state with a die's registers changed. -/
def State.onDie (s : State) (d : Nat) (g : DieRegs → DieRegs) : State := { s with dies := Map.alter s.dies .reset d g }

/-- The state with the module registers changed. -/
def State.onRegs (s : State) (g : ModRegs → ModRegs) : State := { s with modRegs := g s.modRegs }

/-- The running instance or parked instance of a number. -/
def State.inst (s : State) (i : Nat) : Option Inst := s.insts.find? (fun x => x.num == i)

/-- The state with an instance changed. -/
def State.onInst (s : State) (i : Nat) (g : Inst → Inst) : State :=
  { s with insts := s.insts.map (fun x => if x.num == i then g x else x) }

/-! ### Regions -/

/-- Fields of a region header (R327). -/
def Region.die (r : Region) : Nat := field r.head 4 0
/-- North-west PE row. -/
def Region.row (r : Region) : Nat := field r.head 11 5
/-- North-west PE column. -/
def Region.col (r : Region) : Nat := field r.head 18 12
/-- Height in PEs. -/
def Region.height (r : Region) : Nat := field r.head 22 19 * 8
/-- Width in PEs. -/
def Region.width (r : Region) : Nat := field r.head 27 23 * 8
/-- Context. -/
def Region.ctx (r : Region) : Nat := field r.head 30 28
/-- The region is the load's handler region. -/
def Region.handler (r : Region) : Bool := bit r.head 31
/-- Handler entry station. -/
def Region.hst (r : Region) : Nat := field r.head 40 32
/-- A conversion station is named. -/
def Region.cvalid (r : Region) : Bool := bit r.head 41
/-- Conversion station. -/
def Region.cst (r : Region) : Nat := field r.head 50 42
/-- Hold-back delay D, as RCTL holds it (R348). -/
def Region.hold (r : Region) : Nat := field r.ctl 13 6
/-- Progress limit L, as RCTL holds it (R242, R348). -/
def Region.limit (r : Region) : Nat := field r.ctl 4 0
/-- Replay-buffer capacity per entry (R327). -/
def Region.replayCap (r : Region) : Nat := if field r.head1 15 0 = 0 then 4096 else field r.head1 15 0

/-- Pool `p`: frame count and tag base, when declared (R327). -/
def Region.pool (r : Region) (p : Nat) : Option (Nat × Nat) :=
  let w := if p < 2 then r.head2 else r.head3
  let v := field w (32 * (p % 2) + 31) (32 * (p % 2))
  if v / 2 ^ 31 = 1 then some (v / 65536 % 256 + 1, v % 65536) else none

/-- The PE at PE row `q` and PE column `p` of a die (R25). -/
def peSite (die q p : Nat) : Site := ⟨die, q + 1, 1 + p + p / 16⟩

/-- The PE row of a grid row (R25). -/
def peRow (gr : Nat) : Nat := gr - 1

/-- The PE column of a grid column (R25). -/
def peCol (gc : Nat) : Nat := gc - 1 - (gc - 1) / 17

/-- The north-west PE of a region (R173). -/
def Region.corner (r : Region) : Site := peSite r.die r.row r.col

/-- The region is configured: loading, running, draining, drained, halted or parked. -/
def Region.valid (r : Region) : Bool := r.status != 0

/-- A PE site lies in a region's rectangle. -/
def Region.holdsPe (r : Region) (x : Site) : Bool :=
  isPe x && x.die == r.die && r.row ≤ peRow x.row && peRow x.row < r.row + r.height &&
  r.col ≤ peCol x.col && peCol x.col < r.col + r.width

/-- The PE sites of a region, row by row. -/
def Region.peSites (r : Region) : List Site :=
  ((List.range r.height).map (fun i => (List.range r.width).map (fun j => peSite r.die (r.row + i) (r.col + j)))).flatten

/-- The first region record that meets a test. -/
def State.findRegion (s : State) (p : Nat → Region → Bool) : Option Nat :=
  (s.regions.find? (fun kr => kr.2.valid && p kr.1 kr.2)).map Prod.fst

/-- A tile lies in the grid span of a region (R248). -/
def Region.spansTile (r : Region) (x : Site) : Bool :=
  x.die == r.die && r.row + 1 ≤ x.row && x.row ≤ r.row + r.height &&
  (peSite 0 0 r.col).col ≤ x.col && x.col ≤ (peSite 0 0 (r.col + r.width - 1)).col

/-- A region reaches a tile's rows from the west (R248). -/
def Region.westOf (r : Region) (x : Site) : Bool :=
  x.die == r.die && r.row + 1 ≤ x.row && x.row ≤ r.row + r.height && (peSite 0 0 (r.col + r.width - 1)).col < x.col

/-- The region of a context that holds a tile (R248): of the load whose statement the tile holds; for a tile that holds none, the
region that spans it, else the nearest one west of it. -/
def State.tileRegion (s : State) (x : Site) (ctx : Nat) : Option Nat :=
  let o := (s.tile (Site.key x)).owner
  if o != 0 && (s.region (o - 1)).valid && (s.region (o - 1)).ctx == ctx then some (o - 1)
  else match s.findRegion (fun _ r => r.ctx == ctx && r.spansTile x) with
  | some r => some r
  | none =>
    (leastBy (fun (kr : Nat × Region) => 1000 - (kr.2.col + kr.2.width))
      (s.regions.filter (fun kr => kr.2.valid && kr.2.ctx == ctx && kr.2.westOf x))).map Prod.fst

/-- The region of a site in a context: of a PE, a tile, or the region an operator is attached to (R191). -/
def State.regionAt (s : State) (x : Site) (ctx : Nat) : Option Nat :=
  if isPe x then s.findRegion (fun _ r => r.ctx == ctx && r.holdsPe x)
  else if isTile x then s.tileRegion x ctx
  else match Map.find s.opers (Site.key x) with
    | some o => if o.region = 0 then none else some (o.region - 1)
    | none => none

/-- The handler region of the load of a region (R140). -/
def State.handlerOf (s : State) (r : Nat) : Option Nat :=
  let g := s.region r
  s.findRegion (fun _ q => q.handler && q.image == g.image && q.load == g.load && q.ctx == g.ctx)

/-! ### Registers of the report and fault queues -/

/-- A vector is masked in the MSI-X table: PRESUMED, the mask bit of PCI's table entry of 16 bytes (log entry 112). -/
def State.masked (s : State) (v : Nat) : Bool := bit (Map.get s.msix 0 (2 * v + 1)) 32

/-- A message on an MSI-X vector (R385); that of a masked vector is pending (R382). -/
def State.raiseVector (s : State) (v : Nat) : State :=
  { s with msixPending := s.msixPending ++ [v], msixHeld := if s.masked v && !(s.msixHeld.contains v) then s.msixHeld ++ [v] else s.msixHeld }

/-- A report record's four words (R384). -/
def Report.words (p : Report) : List Word :=
  [BitVec.ofNat 64 (p.kind % 256 + p.origin.site.die % 32 * 2 ^ 8 + p.origin.site.row % 128 * 2 ^ 13 +
      p.origin.site.col % 256 * 2 ^ 20 + p.origin.station % 512 * 2 ^ 28 + p.origin.ctx % 8 * 2 ^ 37 +
      p.origin.tag % 65536 * 2 ^ 40),
   p.payload, BitVec.ofNat 64 p.cycle, 0]

/-- The bytes of 64-bit words, in order (R6). -/
def wordBytes : List Word → List Byte
  | [] => []
  | w :: ws => leBytes 8 w.toNat ++ wordBytes ws

/-- One bit of CRC-32C, reflected polynomial 0x82F63B78. -/
def crcBits : Nat → Nat → Nat
  | 0, c => c
  | n + 1, c => crcBits n (if c % 2 = 1 then Nat.xor (c / 2) 0x82F63B78 else c / 2)

/-- CRC-32C of bytes. PRESUMED (log entry 38): initial and final values all ones, as the usual CRC-32C has them. -/
def crc32c (bs : List Byte) : Nat :=
  Nat.xor (bs.foldl (fun c b => crcBits 8 (Nat.xor c b.toNat)) 0xFFFFFFFF) 0xFFFFFFFF

/-- Entries of a ring of 2^n records between head and tail, 16-bit indexes: all 2^16 of the largest ring when it is full. -/
def ringUsed (full : Bool) (tail head : Word) : Nat :=
  if full then 65536 else (field tail 15 0 + 65536 - field head 15 0) % 65536

/-- A ring is full after an append that brings its tail to its head, which only one of 2^16 records can (R384). -/
def ringFull (tail head : Word) : Bool := (field tail 15 0 + 1) % 65536 == field head 15 0

/-- The report queue has room for one more record (R384): an enabled queue, not full. Indexes run modulo 2^16, and the
record of index k lies at RQBASE + 32 × (k mod 2^n), DEDUCED (log entry 11). -/
def State.reportRoom (s : State) : Bool :=
  bit s.modRegs.rqcfg 16 && ringUsed s.modRegs.rqFull s.modRegs.rqtail s.modRegs.rqhead < 2 ^ field s.modRegs.rqcfg 4 0

/-- A record written into the report queue, with its vector when the queue was empty (R384, R385). -/
def State.putReport (s : State) (p : Report) : State :=
  let g := s.modRegs
  let at' := g.rqbase.toNat + 32 * (field g.rqtail 15 0 % 2 ^ field g.rqcfg 4 0)
  let s' := { s with
    hostMem := Memory.writeBytes s.hostMem at' (wordBytes (Report.words p)),
    modRegs := { g with rqtail := BitVec.ofNat 64 ((field g.rqtail 15 0 + 1) % 65536), rqFull := ringFull g.rqtail g.rqhead } }
  if ringUsed g.rqFull g.rqtail g.rqhead = 0 then s'.raiseVector (field g.rqcfg 15 8) else s'

/-- The module report queue takes a record, or the I/O die holds it (R384). -/
def State.report (s : State) (kind : Nat) (r : ErrRec) (payload : Word) : State :=
  let p : Report := ⟨kind, r, payload, s.now r.site.die⟩
  if s.reportRoom && s.reports.isEmpty then s.putReport p else { s with reports := s.reports ++ [p] }

/-- Held records move into the queue while there is room. -/
def drainReports : List Report → State → State
  | [], s => { s with reports := [] }
  | p :: ps, s => if s.reportRoom then drainReports ps (s.putReport p) else { s with reports := p :: ps }

/-- A record that the device makes of itself (R384): `g` puts in the fields of word 0 that the spec gives, and `payload`
is word 1 where it gives one. What it does not give is free (log entry 5). -/
def State.deviceReport (s : State) (kind : Nat) (g : ErrRec → ErrRec) (payload : Option Word) : State :=
  let w := Config.freeWord s.fresh
  let r : ErrRec := ⟨0, ⟨field w 12 8, field w 19 13, field w 27 20⟩, field w 36 28, field w 39 37, field w 55 40⟩
  ({ s with fresh := s.fresh + 2 } : State).report kind (g r) (payload.getD (Config.freeWord (s.fresh + 1)))

/-- A record of a refused register write or debug access (R384). -/
def State.refuseWrite (s : State) : State := s.deviceReport 0xF1 id none

/-! ### Stations and contexts -/

/-- The state field of a context table entry (R29). -/
def Pe.ctxState (p : Pe) (c : Nat) : Nat := field (Map.get p.ctxs 0 c) 31 30
/-- The station count of a context (R29). -/
def Pe.ctxCount (p : Pe) (c : Nat) : Nat := field (Map.get p.ctxs 0 c) 19 10
/-- The first slot of a context (R29). -/
def Pe.ctxBase (p : Pe) (c : Nat) : Nat := field (Map.get p.ctxs 0 c) 8 0

/-- The station word of a logical station (R29). -/
def Pe.word (p : Pe) (c st : Nat) : StationWord := Map.get p.store 0 (p.ctxBase c + st)

/-- Opcode of a station word (R71). -/
def wordOp (w : StationWord) : Nat := (w.extractLsb' 118 10).toNat

/-- The first PE of a region, row by row, whose station `st` of the region's context meets a test. -/
def State.stationSite (s : State) (r : Region) (st : Nat) (p : StationWord → Bool) : Option Site :=
  r.peSites.find? (fun x =>
    let q := s.pe (Site.key x)
    q.ctxState r.ctx != 0 && st < q.ctxCount r.ctx && p (q.word r.ctx st))

/-- The PE of a handler region's entry station (R140): the first whose station `hst` has arity 0 (log entry 9). -/
def State.handlerSite (s : State) (h : Region) : Site :=
  (s.stationSite h h.hst (fun w => w.extractLsb' 116 2 == 0#2)).getD h.corner

/-- The PE of a region's conversion station (R91): the one whose station `cst` has SVC set (log entry 9). -/
def State.convSite (s : State) (r : Region) : Site :=
  (s.stationSite r r.cst (fun w => w.extractLsb' 97 1 == 1#1)).getD r.corner

/-! ### Raising an error: the machine's exception -/

/-- The token network takes a flight. -/
def State.post (s : State) (f : Flight) : State := { s with net := s.net ++ [f] }

/-- An error token for the handler's entry station at PE `x`, port C (R140). -/
def errorFlight (h : Region) (x : Site) (r : ErrRec) (tag : Nat) : Flight :=
  let t : Token := ⟨r.payload, BitVec.ofNat 5 x.die, BitVec.ofNat 7 x.row, BitVec.ofNat 8 x.col, BitVec.ofNat 9 h.hst,
    .c, BitVec.ofNat 3 h.ctx, .i64, false, 0, BitVec.ofNat 16 tag, 0⟩
  ⟨Site.key r.site, r.station, .control, Site.key x, Token.lane t, .token t, 0, true, false⟩

/-- The lowest entry of a fault buffer that is free, below 64 (R140). -/
def freeFault : Nat → Map Saved → Nat → Option Nat
  | 0, _, _ => none
  | n + 1, m, k => match Map.find m k with
    | none => some k
    | some _ => freeFault n m (k + 1)

/-- Taking an error (R139, R140), the one shared operation. A fault-kind error saves a token in the lowest free entry
of the handler's fault buffer and sends the error token under that entry's number as tag; when all 64 are in use it
waits. A report-kind error sends the token with tag 0xFFFF. A load without a handler reports kind 0 (R320). -/
def State.raiseError (s : State) (region : Nat) (r : ErrRec) (saved : Option Token) (hasDst : Bool) : State :=
  match s.handlerOf region with
  | none => s.report 0 r r.payload
  | some h =>
    let g := s.region h
    if faultKind r.code then
      match freeFault 64 g.faults 0 with
      | some e =>
        let t := saved.getD .zero
        (s.onRegion h (fun g => { g with faults := Map.put g.faults e ⟨t, hasDst⟩ })).post (errorFlight g (s.handlerSite g) r e)
      | none => s.onRegion h (fun g => { g with faultWait := g.faultWait ++ [⟨r, ⟨saved.getD .zero, hasDst⟩⟩] })
    else s.post (errorFlight g (s.handlerSite g) r 0xFFFF)

/-! ### The poison log -/

/-- A poison log entry (R58). -/
def logEntry (cause : Nat) (x : Site) (station ctx tag : Nat) : Word :=
  BitVec.ofNat 64 (2 ^ 63 + cause * 2 ^ 60 + x.die * 2 ^ 43 + x.row * 2 ^ 36 + x.col * 2 ^ 28 + station % 512 * 2 ^ 19 +
    ctx % 8 * 2 ^ 16 + tag % 65536)

/-- The order of the origins of one cycle in the log (R59): by grid row, grid column and station or tile port. -/
def logBefore (e f : Nat × Word) : Bool :=
  e.1 < f.1 || (e.1 == f.1 && field e.2 42 19 < field f.2 42 19)

/-- An entry takes its place in a log, by cycle and site. -/
def logInsert (e : Nat × Word) : List (Nat × Word) → List (Nat × Word)
  | [] => [e]
  | f :: fs => if logBefore e f then e :: f :: fs else f :: logInsert e fs

/-- An origin of poison of cycle `t` is logged (R59): not twice, in the order of cycles and sites, and counted past eight with
saturation. -/
def Region.logPoison (r : Region) (t : Nat) (e : Word) : Region :=
  if r.log.contains e then r
  else
    let es := logInsert (t, e) (r.logCycles.zip r.log)
    { r with
      log := (es.take 8).map Prod.snd, logCycles := (es.take 8).map Prod.fst
      overflow := if 8 < es.length then min 0xFFFF (r.overflow + 1) else r.overflow }

/-! ### Keys -/

/-- The key of a station and context in a PE's maps. -/
def stKey (ctx st : Nat) : Nat := st * 8 + ctx

/-- The key of a running value. -/
def accKey (ctx st tag : Nat) : Nat := stKey ctx st * 65536 + tag

/-- The member number of a station in a domain. -/
def member (site st : Nat) : Nat := site * 512 + st

/-- The firing's site. -/
def State.fireSite (s : State) : Site := Site.ofKey s.firing.site

/-- The firing's region, if its PE lies in one. -/
def State.fireRegion (s : State) : Option Nat := s.regionAt s.fireSite s.firing.ctx

/-- The firing's region record; an unassigned one where the PE lies in none. -/
def State.fireReg (s : State) : Region := s.region (s.fireRegion.getD 0)

/-- The record that names the firing (R22). -/
def State.fireRec (s : State) (code : Nat) : ErrRec :=
  ⟨code, s.fireSite, s.firing.station, s.firing.ctx, s.firing.tag⟩

end Sys2Proof.Machine
end

