-- ==== Sys2Proof/Machine/Drawbar.lean ====
section
/-! DEFINITION. Drawbar beats and the sending of streams over links (R216, R285, R388 to R390). -/

namespace Sys2Proof.Machine

/-! ### Beats as bytes -/

/-- The code of a beat's type (R388). -/
def BeatKind.code : BeatKind → Nat
  | .data => 0
  | .idle => 1
  | .retry => 2
  | .streamAck => 3
  | .training => 4

/-- The type of a code. The codes 5 to 7 are of no beat: one is taken as idle, which does nothing (DESIGN CHOICE, log entry 66). -/
def BeatKind.ofCode (c : Nat) : BeatKind :=
  if c = 0 then .data else if c = 2 then .retry else if c = 3 then .streamAck else if c = 4 then .training else .idle

/-- The 32 bytes of a slot (R388). -/
def LinkSlot.bytes (x : LinkSlot) : List Byte :=
  leBytes 16 x.token.toNat ++ leBytes 4 x.dst.toNat ++ leBytes 4 x.src.toNat ++ leBytes 4 x.seq ++ leBytes 4 0

/-- A slot of 32 bytes (R388). -/
def LinkSlot.read (bs : List Byte) : LinkSlot :=
  ⟨BitVec.ofNat 128 (leNat (bs.take 16)), BitVec.ofNat 32 (leNat ((bs.drop 16).take 4)), BitVec.ofNat 32 (leNat ((bs.drop 20).take 4)),
   leNat ((bs.drop 24).take 4)⟩

/-- The first 124 bytes of a beat (R388). The valid slots are a mask of one bit for each (DEDUCED, log entry 66). -/
def Beat.body (b : Beat) : List Byte :=
  let slots := (b.slots.take 3).map LinkSlot.bytes
  let ack := if b.kind = .streamAck then leBytes 4 b.ackSite.toNat ++ leBytes 4 b.ackSeq else List.replicate 8 0
  slots.flatten ++ List.replicate (32 * (3 - slots.length)) 0 ++ leBytes 4 b.seq ++ leBytes 4 b.ack ++
  leBytes 1 (2 ^ slots.length - 1 + 8 * BeatKind.code b.kind) ++ leBytes 1 b.module ++ ack ++ List.replicate 10 0

/-- The 128 bytes of a beat, with its CRC (R388). -/
def Beat.bytes (b : Beat) : List Byte := Beat.body b ++ leBytes 4 (crc32c (Beat.body b))

/-- A beat as it is received: 128 bytes, and whether their CRC is correct (R388, R389). -/
def Beat.read (bs : List Byte) : Beat :=
  let num := fun (i n : Nat) => leNat ((bs.drop i).take n)
  let kind := BeatKind.ofCode (num 104 1 / 8 % 8)
  { good := bs.length == 128 && crc32c (bs.take 124) == num 124 4
    kind := kind
    slots := if kind = .data then ((List.range 3).filter (fun i => num 104 1 / 2 ^ i % 2 == 1)).map (fun i => LinkSlot.read (bs.drop (32 * i)))
      else []
    seq := num 96 4, ack := num 100 4, module := num 105 1
    ackSite := BitVec.ofNat 32 (if kind = .streamAck then num 106 4 else 0), ackSeq := if kind = .streamAck then num 110 4 else 0 }

/-! ### Ports -/

/-- The drawbar port that a PORT's stream uses now (R213, R390). -/
def streamLink (o : Oper) : Nat :=
  let w := Map.get o.pm 0 2
  if o.linkUsed = 0 then field w 14 8 else if o.linkUsed = 1 then field w 21 15 else field w 28 22

/-- A token's 128 bits (R14). -/
def Token.bits (t : Token) : BitVec 128 := BitVec.ofNat 128 (t.payload.toNat * 2 ^ 64 + (Token.header t).toNat)

/-- A numbered token as a link slot (R388). -/
def linkSlot (site : Nat) (o : Oper) (q : Nat × Token) : LinkSlot :=
  ⟨Token.bits q.2, BitVec.ofNat 32 (field (Map.get o.pm 0 3) 31 0), BitVec.ofNat 32 (siteBits (Site.ofKey site) 0), q.1⟩

/-- The state with a drawbar port changed. -/
def State.onLink (s : State) (p : Nat) (g : LinkPort → LinkPort) : State := { s with links := Map.alter s.links .down p g }

/-- A drawbar port. -/
def State.link (s : State) (p : Nat) : LinkPort := Map.get s.links .down p

/-- The state field of LSTAT (R391): 0 down, 1 training, 2 up, 3 lost. -/
def LinkPort.state (p : LinkPort) : Nat := field p.lstat 2 0

/-- A beat leaves on a port: it takes the next beat sequence and stays until it is acknowledged (R388, R389). -/
def LinkPort.send (module : Nat) (kind : BeatKind) (slots : List LinkSlot) (ackSite : BitVec 32) (ackSeq : Nat) (p : LinkPort) :
    LinkPort :=
  let b : Beat := ⟨true, kind, slots, p.sendSeq, (p.recvSeq + (2 ^ 32 - 1)) % 2 ^ 32, module, ackSite, ackSeq⟩
  { p with sendSeq := (p.sendSeq + 1) % 2 ^ 32, unacked := p.unacked ++ [b], wire := p.wire ++ [Beat.bytes b] }

/-- A beat may leave: the link is up and the buffer of 512 beats has room (R389). -/
def LinkPort.maySend (p : LinkPort) : Bool := p.state == 2 && p.unacked.length < 512

/-- What waits leaves while it may: a retry request, then slots in data beats of three (R388, R389). -/
def LinkPort.drain (module : Nat) : Nat → LinkPort → LinkPort
  | 0, p => p
  | n + 1, p =>
    if !p.maySend then p
    else if p.ask then LinkPort.drain module n (LinkPort.send module .retry [] 0 0 { p with ask := false })
    else if p.outQ.isEmpty then p
    else LinkPort.drain module n ({ LinkPort.send module .data (p.outQ.take 3) 0 0 p with outQ := p.outQ.drop 3 })

/-- What a port can send, it sends. -/
def drainLink (p : Nat) (s : State) : State :=
  s.onLink p (fun q => LinkPort.drain (field s.modRegs.modid 7 0) (q.outQ.length + 2) q)

/-- A port that has come up or accepted a beat sends what waits, or, with nothing that waits, an idle beat, which carries the
acknowledgement (R389; when idle beats leave is a DESIGN CHOICE, log entry 66). -/
def answerLink (p : Nat) (s : State) : State :=
  let q := s.link p
  let s1 := drainLink p s
  if (s1.link p).sendSeq = q.sendSeq && (s1.link p).maySend then
    s1.onLink p (LinkPort.send (field s.modRegs.modid 7 0) .idle [] 0 0)
  else s1

/-- A drawbar PORT numbers a token and sends it over its link (R216, R285, R390). -/
def sendNumbered (site : Nat) (t : Token) (s : State) : State :=
  let o := s.oper site
  let x := linkSlot site o (o.streamSeq, t)
  let s1 := s.onOper site (fun o => { o with streamSeq := (o.streamSeq + 1) % 2 ^ 32, unacked := o.unacked ++ [x] })
  drainLink (streamLink o) (s1.onLink (streamLink o) (fun p => { p with outQ := p.outQ ++ [x] }))

end Sys2Proof.Machine
end

