-- ==== Sys2Proof/Machine/Operands.lean ====
section
/-! DEFINITION. Operands of a firing (R72 to R74, R102, R103, R137), the emitted header (R17, R79, R84), and the result
that a firing leaves in its PE until it is injected (R104, R105). -/

namespace Sys2Proof.Machine

/-- The operand tokens of a firing. In the control-operand form the fmt and seq of the token are ignored: I64 and 0
(R74). -/
def operands (f : Fields) (s : State) : List Token :=
  if f.arity = 0 then s.firing.toks.map (fun t => { t with fmt := .i64, seq := 0 }) else s.firing.toks

/-- The operand that arrived on port L, or the single operand. -/
def opL (f : Fields) (s : State) : Token := (operands f s).getD 0 .zero

/-- The token on port R, where none is supplied by an immediate. -/
def tokR (f : Fields) (s : State) : Token := (operands f s).getD 1 .zero

/-- The token on port P of a form of three ports. -/
def opP (f : Fields) (s : State) : Token := (operands f s).getD (if f.imm then 1 else 2) .zero

/-- An immediate as an operand token (R54): every lane of its format holds it. -/
def immToken (op : Nat) (f : Fields) : Token :=
  let g := immFormat op f
  { Token.zero with
    payload := packLanes g (List.replicate (Fmt.lanes g) (immLane g f.imm16).bits), fmt := g }

/-- The operand on port R: the token, or the immediate (R73). -/
def opR (op : Nat) (f : Fields) (s : State) : Token := if f.imm then immToken op f else tokR f s

/-- The exceptional cause of forming an immediate: an infinity in E4M3 (R54, R55). -/
def immCause (op : Nat) (f : Fields) : Option Cause :=
  if f.imm then (immLane (immFormat op f) f.imm16).cause else none

/-- An operand prepared in a format (R102). -/
structure Prepared where
  lanes     : List Nat
  cause     : Option Cause
  converted : Bool
  deriving DecidableEq, Repr

/-- A token as lanes of a format, converted under R53 where its own format differs and the station has no lock (R102). -/
def prepare (g : Fmt) (f : Fields) (t : Token) : Prepared :=
  if t.fmt = g || f.lock then ⟨lanesOf g t.payload, none, false⟩
  else
    let rs := convertLanes t.fmt g f.round f.sat t.payload
    ⟨rs.map LaneRes.bits, causeOf rs, true⟩

/-- The operand on port R prepared in a format. -/
def prepareR (op : Nat) (g : Fmt) (f : Fields) (s : State) : Prepared :=
  if f.imm then ⟨lanesOf g (immToken op f).payload, immCause op f, false⟩ else prepare g f (tokR f s)

/-- The emitted tag (R79). -/
def emitTag (f : Fields) (tag : Nat) : Nat :=
  let s := Fields.shift f
  match f.tagop.toNat with
  | 1 => (tag + 1) % 65536
  | 2 => (tag + 65535) % 65536
  | 4 => f.imm16.toNat
  | 5 => tag * 2 ^ s % 65536
  | 6 => tag / 2 ^ s
  | 7 => tag / 2 ^ s * 2 ^ s
  | 8 => (tag / 2 ^ s + 1) * 2 ^ s % 65536
  | _ => tag

/-- The context of emitted tokens (R84): that of aux16 where its class is free and it names one. -/
def emitCtx (op : Nat) (f : Fields) (ctx : Nat) : Nat :=
  match opInfo op with
  | some o => if o.aux == .free && !f.tri && bit f.aux16 15 then field f.aux16 14 12 else ctx
  | none => ctx

/-- The OR of the operands' end bits (R17). -/
def orEnds : List Token → BitVec 4
  | [] => 0
  | t :: ts => t.ends ||| orEnds ts

/-- Some operand carries poison (R17). -/
def anyPoison (ts : List Token) : Bool := ts.any Token.poison

/-- The seq that a firing passes on: that of port L, or of the single operand (R17). -/
def fireSeq (f : Fields) (s : State) : BitVec 6 := (opL f s).seq

/-- A token built under R17, without its destination. -/
def emitted (op : Nat) (f : Fields) (s : State) (payload : Word) (fmt : Fmt) (poison : Bool) : Token :=
  { Token.zero with
    payload := payload, ctx := BitVec.ofNat 3 (emitCtx op f s.firing.ctx), fmt := fmt, poison := poison,
    ends := orEnds (operands f s), tag := BitVec.ofNat 16 (emitTag f s.firing.tag), seq := fireSeq f s }

/-- A token emitted to one target, when that is valid (R85). -/
def emitTo (g : Target) (t : Token) : List Emit :=
  if g.valid then [.token (Token.toTarget t g) (Token.cls (Token.toTarget t g))] else []

/-- A token emitted to every valid target in the order A, B, C (R88). -/
def emitAll (f : Fields) (t : Token) : List Emit := emitTo f.a t ++ emitTo f.b t ++ emitTo (Fields.targetC f) t

/-- The wave that a firing belongs to (R402). -/
def State.fireWave (s : State) : Nat := s.fireReg.wave

/-- A firing's result enters its PE's line of results: ready after the execution latency, with 2 cy more where an
operand was converted (R104). `cause` is that of R58, 0 for none. -/
def pushResult (op : Nat) (f : Fields) (converted : Bool) (cause : Nat) (emits : List Emit) (s : State) : State :=
  let r : Result := ⟨s.firing.ctx, s.firing.station, s.firing.tag,
    s.now s.fireSite.die + latency op f + (if converted then 2 else 0), cause, s.fireWave, emits⟩
  s.onPe s.firing.site (fun p => { p with results := p.results ++ [r] })

/-- What a form that computes a value delivers. -/
structure Value where
  payload   : Word
  fmt       : Fmt
  cause     : Option Cause
  converted : Bool
  deriving DecidableEq, Repr

/-- The number of a cause in the poison log (R58), 0 for none. -/
def causeNum : Option Cause → Nat
  | none => 0
  | some c => c.code

/-- The result of a form that computes one value: a token of that value to every target (R101, R17). -/
def finish (op : Nat) (f : Fields) (v : Value) (s : State) : State :=
  pushResult op f v.converted (causeNum v.cause)
    (emitAll f (emitted op f s v.payload v.fmt (anyPoison (operands f s) || v.cause.isSome))) s

/-- The result of a form that passes a token on, with its own fmt, poison and end bits (R76, R141). -/
def finishPass (op : Nat) (f : Fields) (t : Token) (s : State) : State :=
  pushResult op f false 0 (emitAll f { emitted op f s t.payload t.fmt t.poison with ends := t.ends }) s

/-- A firing that emits nothing but these. -/
def finishWith (op : Nat) (f : Fields) (emits : List Emit) (s : State) : State := pushResult op f false 0 emits s

end Sys2Proof.Machine
end

