-- ==== Sys2Proof/Machine/Issue.lean ====
section
/-! DEFINITION. What keeps a ready firing from issuing (R148, R158, R223): frames, outstanding places, the state of its region;
the order of tags (R218), and what a region has confirmed (R231). -/

namespace Sys2Proof.Machine

/-- The lowest-numbered free frame of a pool with base `t` and `n` frames, by tag (R148). -/
def freeFrame : Nat → Map Frame → Nat → Option Nat
  | 0, _, _ => none
  | n + 1, m, t => match Map.find m t with
    | none => some t
    | some _ => freeFrame n m (t + 1)

/-- The free frame's tag of pool `p` of a region (R147, R148). -/
def Region.frameFree (r : Region) (p : Nat) : Option Nat :=
  match r.pool p with
  | some (n, t) => freeFrame n r.frames t
  | none => none

/-- The effects a region's caboose can hold (R401). -/
def Region.cabooseCap (r : Region) : Nat := r.height * r.width

/-- The wait that a station's own description sets on a ready firing: `call` and `frame.new` for a frame (R148), the
request forms for an outstanding place (R158). -/
def stationWaits (p : Pe) (r : Region) (ctx st : Nat) : Bool :=
  let w := p.word ctx st
  let op := wordOp w
  if op = 0x18D then (r.frameFree (w.extractLsb' 64 2).toNat).isNone
  else if op = 0x18F then (r.frameFree 0).isNone
  else if 0x207 ≤ op && op ≤ 0x212 then
    (w.extractLsb' 101 4).toNat + 1 ≤ Map.get p.pendingOut 0 (stKey ctx st)
  else false

/-- Tag `t` is older than tag `u` (R218). -/
def older (t u : Nat) : Bool :=
  let d := (u + 65536 - t % 65536) % 65536
  1 ≤ d && d ≤ 32767

/-- The number of a region's domain that holds a member. -/
def Region.domainOf (r : Region) (m : Nat) : Option Nat := firstIdx (fun d => d.members.contains m) r.domains 0

/-- No domain. -/
def Domain.none : Domain := ⟨[], [], false, [], [], 0, []⟩

/-- The tag is live in the domain (R226). -/
def Domain.isLive (d : Domain) (tag : Nat) : Bool := d.live.any (fun l => l.tag == tag)

/-- The producing tag of an effect is confirmed (R231). -/
def Region.confirmed (r : Region) (site st tag : Nat) : Bool :=
  match r.domainOf (member site st) with
  | none => true
  | some i =>
    let d := r.domains.getD i Domain.none
    !d.specul || (match d.live.find? (fun l => l.tag == tag) with
      | some l => l.confirmed
      | none => !(d.late.contains tag))

/-- A flight on its way inside a region: sent by it, or admitted to it, and not past its caboose. -/
def State.inside (s : State) (k : Nat) (f : Flight) : Bool :=
  !f.input && s.regionAt (Site.ofKey f.dst) (s.region k).ctx == some k

/-- The pre-emption that acts on a region now: modes 3 and 4 are a drain-to-wave and a forced save asked for while the
region was draining for a reconfiguration, and are deferred until it is drained (R340). -/
def Region.saving (r : Region) : Nat :=
  if r.preempt.mode < 3 then r.preempt.mode else if r.status == 3 then 0 else r.preempt.mode - 2

/-- A region whose contexts issue: not halted (but for a debug step), not loading, not parked, not in a rollback, no
forced save under way (R223, R372, R375, R377, R406). -/
def Region.issues (r : Region) : Bool :=
  (!r.halted || 0 < r.stepping) && r.status != 1 && r.status != 6 && r.saving != 2 && !r.rolling &&
  r.caboose.length ≤ r.cabooseCap

/-- The context `ctx` of site `x` issues nothing: its region is halted, or a forced save is under way (R372, R375). -/
def State.stopped (s : State) (x ctx : Nat) : Bool :=
  match s.regionAt (Site.ofKey x) ctx with
  | some k => (s.region k).halted || (s.region k).saving == 2
  | none => false

/-- The station word of the firing. -/
def State.firingWord (s : State) : StationWord := (s.pe s.firing.site).word s.firing.ctx s.firing.station

end Sys2Proof.Machine
end

