-- ==== Sys2Proof/Machine/Domain.lean ====
section
/-! DEFINITION. Domains, live tags, confirmation, admission and matching entries (R218, R225 to R231), quiescence and
the progress counter (R241), and what enters a caboose (R156, R401). -/

namespace Sys2Proof.Machine

/-- The region with a domain changed. -/
def Region.onDomain (r : Region) (i : Nat) (g : Domain → Domain) : Region :=
  { r with domains := r.domains.modify i g }

/-- No live tag is older (R227). -/
def Domain.oldest (d : Domain) (tag : Nat) : Bool := !(d.live.any (fun l => older l.tag tag))

/-- The window of a domain: the largest among its sources (R226). -/
def Domain.window (d : Domain) : Nat := d.sources.foldl (fun n x => max n x.window) 0

/-- A token that a message carries. -/
def Msg.token? : Msg → Option Token
  | .token t => some t
  | .divert t _ _ _ _ => some t
  | _ => none

/-- A token of a tag at a member of a domain, in a context. -/
def ofTag (d : Domain) (ctx tag : Nat) (t : Token) : Bool :=
  t.tag.toNat == tag && t.ctx.toNat == ctx && d.members.contains (member (Site.key (Token.site t)) t.station.toNat)

/-- A tag of a member station is waiting at a PE, ready there, or in a firing issued there (R226). A running value or count
alone is no token of its tag (log entry 22). -/
def peBusy (p : Pe) (ctx st tag : Nat) : Bool :=
  p.entries.any (fun e => e.ctx == ctx && e.station == st && e.tag == tag) ||
  p.marked.any (fun e => e.ctx == ctx && e.station == st && e.tag == tag) ||
  p.ready.any (fun e => e.ctx == ctx && e.station == st && e.tag == tag) ||
  p.results.any (fun e => e.ctx == ctx && e.station == st && e.tag == tag) ||
  (match Map.find p.accum (accKey ctx st tag) with | some a => !a.waiting.isEmpty | none => false)

/-- A tag is held or in service at an operator (R226): its tokens wait there, a mask of a GATHER among them, or what they name is being fetched. What a GATE
holds back does not count, nor does an element of a LOAD, which is no token before it is emitted (log entry 19). -/
def operBusy (s : State) (k : Nat) (tag : Nat) : Bool :=
  let o := s.oper k
  let has := fun (ts : List Token) => ts.any (fun t => t.tag.toNat == tag)
  (o.kind != 5 && (has o.held || has o.held2)) || has o.waitR || has o.mask.toList || has (o.out.map OutTok.token) || o.sieve.any (fun x => x.tag == tag) ||
  o.arms.any (fun a => a.base.isSome && a.tag == tag) ||
  s.accesses.any (fun a => a.oper == k && a.tag == tag && a.kind == .read && a.req.isNone && a.tok.isSome && a.phase < 7 &&
    !(0x10 ≤ a.op && a.op ≤ 0x13))

/-- A tag is in a matrix operation of a station that is not finished, or in a row that its feed station has taken and no
step has consumed (R226, R177, R189). -/
def matrixBusy (s : State) (k ctx st tag : Nat) : Bool :=
  (s.matrix k).queue.any (fun q => q.ctx == ctx && q.station == st && q.tag == tag) ||
  (((s.pe k).west ++ (s.pe k).north).any (fun w => w.tag == tag) &&
    s.matrices.any (fun km => km.2.owner == some ctx && (st == km.2.feed || st == km.2.feed + 1)))

/-- A read of a name whose answer is still due, of a station of the domain under the tag, or with an answer of the tag to a
station of it (log entry 22). -/
def readBusy (d : Domain) (ctx tag : Nat) (r : NameRead) : Bool :=
  r.kind != .nrel && r.ctx == ctx && ((r.tag == tag && d.members.contains (member r.site r.station)) ||
    (r.token.tag.toNat == tag && r.targets.any (fun g => d.members.contains (member (Site.key (Target.site g)) g.station.toNat))))

/-- A message in flight that keeps a tag live (R226): a token of it to a member, or a name read. -/
def msgBusy (d : Domain) (ctx tag : Nat) (m : Msg) : Bool :=
  match m with
  | .token t => ofTag d ctx tag t
  | .divert t _ _ _ _ => ofTag d ctx tag t
  | .read r => readBusy d ctx tag r
  | _ => false

/-- The waits that barriers hold (R166). -/
def Barrier.waits (b : Barrier) : List (List Emit × Nat × Nat) :=
  (b.opened.map BarGen.waits).flatten ++ b.queue.filterMap Prod.fst

/-- A `bar.wait` of a member station holds its operand of the tag (R166; log entry 30). -/
def barrierBusy (s : State) (d : Domain) (ctx tag : Nat) : Bool :=
  s.regions.any (fun kr => kr.2.barriers.any (fun kb => kb.2.waits.any (fun w =>
    w.2.2 / 4096 == tag && w.2.2 / 512 % 8 == ctx && d.members.contains (member w.2.1 (w.2.2 % 512)))))

/-- A token of the tag waits in the FIFO of a stream (R226, R237). -/
def fifoBusy (s : State) (d : Domain) (ctx tag : Nat) : Bool :=
  s.regions.any (fun kr => kr.2.streams.any (fun q => q.fifo.any (fun f => msgBusy d ctx tag f.msg)))

/-- Something of the tag is in flight to, waiting at, issued at or in service at a member of the domain (R226). -/
def tagBusy (s : State) (d : Domain) (ctx tag : Nat) : Bool :=
  s.net.any (fun f => msgBusy d ctx tag f.msg) || barrierBusy s d ctx tag || fifoBusy s d ctx tag ||
  s.tiles.any (fun kt => kt.2.deferred.any (readBusy d ctx tag) || kt.2.serving.any (fun v => readBusy d ctx tag v.req)) ||
  d.members.any (fun m =>
    let x := Site.ofKey (m / 512)
    if isPe x then peBusy (s.pe (m / 512)) ctx (m % 512) tag || matrixBusy s (m / 512) ctx (m % 512) tag
    else operBusy s (m / 512) tag)

/-- Confirmation (R231): a live tag with no older live tag, and every late tag that no live tag is older than. -/
def Domain.confirm (d : Domain) : Domain :=
  { d with
    live := d.live.map (fun l => if d.oldest l.tag then { l with confirmed := true } else l)
    late := d.late.filter (fun t => !(d.oldest t)) }

/-- The domain without the tags that are no longer busy (R226). An unconfirmed one goes on as a late tag (R231). -/
def Domain.retire (d : Domain) (busy : Nat → Bool) : Domain :=
  let gone := d.live.filter (fun l => !busy l.tag)
  Domain.confirm { d with
    live := d.live.filter (fun l => busy l.tag)
    late := d.late ++ (gone.filter (fun l => !l.confirmed)).map LiveTag.tag
    sources := d.sources.map (fun x => { x with live := x.live.filter busy }) }

/-- The progress counter's present value (R241). -/
def progressNow (s : State) (k : Nat) : Nat :=
  let r := s.region k
  if r.halted || r.status == 1 || r.status == 6 then r.progress else r.progress + (s.now r.die - r.progressAt)

/-- A retirement returns the progress counter to 0 (R241), after which a stall may be raised again (R242). -/
def State.progress (s : State) (k : Nat) : State :=
  s.onRegion k (fun r => { r with progress := 0, progressAt := s.now r.die, warned := false })

/-- Every finished tag of a region retires (R226, R241). -/
def retireTags (s : State) (k : Nat) : State :=
  let r := s.region k
  let ds := r.domains.map (fun d => d.retire (tagBusy s d r.ctx))
  let s' := s.onRegion k (fun r => { r with domains := ds })
  if r.domains.any (fun d => d.live.any (fun l => !tagBusy s d r.ctx l.tag)) then s'.progress k else s'

/-- The smallest reservation that R81 allows for a station word, its commitment m_s (R227). -/
def leastReserve (w : StationWord) : Nat :=
  let n := (w.extractLsb' 116 2).toNat - (w.extractLsb' 100 1).toNat
  max (max 1 (n - 1)) (if w.extractLsb' 112 1 == 1#1 then n else 0)

/-- A station's reservation (R81). -/
def reserveOf (w : StationWord) : Nat := (w.extractLsb' 101 4).toNat + 1

/-- The reservations of every resident context of a PE (R31). -/
def Pe.reserved (p : Pe) : Nat :=
  sumNat ((List.range 8).map (fun c =>
    if p.ctxState c != 1 then 0 else sumNat ((List.range (p.ctxCount c)).map (fun st => reserveOf (p.word c st)))))

/-- A station holds running values in matching entries: an `acc` or `accmax` (R31). -/
def Pe.isAcc (p : Pe) (ctx st : Nat) : Bool := wordOp (p.word ctx st) == 0x191 || wordOp (p.word ctx st) == 0x192

/-- The sets that hold matching entries (R149, R222): marked ones, and contributions that wait in the ready queue. -/
def Pe.holdingSets (p : Pe) : List Ready := p.ready.filter (fun e => p.isAcc e.ctx e.station) ++ p.marked

/-- The running values that hold matching entries, keyed as they are in the PE (R31). -/
def Pe.accums (p : Pe) : Map Accum := p.accum.filter (fun ka => p.isAcc (ka.1 / 65536 % 8) (ka.1 / 524288))

/-- Matching entries a PE holds: waiting operands, matched sets and running values (R31, R149, R222). -/
def Pe.used (p : Pe) : Nat :=
  p.entries.length + sumNat (p.holdingSets.map Ready.entries) + sumNat (p.accums.map (fun ka => 1 + ka.2.waiting.length))

/-- The commitment of a live tag at a PE: the sum of m_s over the domain's stations there (R227). -/
def commitAt (p : Pe) (site ctx : Nat) (d : Domain) : Nat :=
  sumNat ((d.members.filter (fun m => m / 512 == site)).map (fun m => leastReserve (p.word ctx (m % 512))))

/-- The commitments that all regions' live tags but the oldest hold at a PE (R227). -/
def committed (s : State) (site : Nat) : Nat :=
  let p := s.pe site
  sumNat (s.regions.map (fun kr => sumNat (kr.2.domains.map (fun d =>
    commitAt p site kr.2.ctx d * (d.live.filter (fun l => !d.oldest l.tag)).length))))

/-- The matching entries that one tag's operands hold at a station, waiting or marked, and how many of them are of the
shared pool (R31, R222, R227). -/
def plainBy (p : Pe) (ctx st tag : Nat) : Nat × Nat :=
  let es := p.entries.filter (fun e => e.ctx == ctx && e.station == st && e.tag == tag)
  let ms := p.holdingSets.filter (fun e => e.ctx == ctx && e.station == st && e.tag == tag)
  (es.length + sumNat (ms.map Ready.entries), (es.filter Entry.shared).length + sumNat (ms.map Ready.shared))

/-- The entries of a running value, and how many of them are of the shared pool: one, and one for each contribution that waits
(R149, R227). -/
def accBy (p : Pe) (ctx st tag : Nat) : Nat × Nat :=
  match Map.find p.accums (accKey ctx st tag) with
  | some a => (1 + a.waiting.length, (if a.shared then 1 else 0) + a.pooled.length)
  | none => (0, 0)

/-- The matching entries that one tag holds at a station in all, and those of them of the shared pool (R227). -/
def heldBy (p : Pe) (ctx st tag : Nat) : Nat × Nat :=
  ((plainBy p ctx st tag).1 + (accBy p ctx st tag).1, (plainBy p ctx st tag).2 + (accBy p ctx st tag).2)

/-- The (context, station, tag) triples that hold entries. -/
def holders (p : Pe) : List (Nat × Nat × Nat) :=
  (p.entries.map (fun (e : Entry) => (e.ctx, e.station, e.tag)) ++ p.holdingSets.map (fun (e : Ready) => (e.ctx, e.station, e.tag)) ++
    p.accums.map (fun (ka : Nat × Accum) => (ka.1 / 65536 % 8, ka.1 / 524288, ka.1 % 65536))).eraseDups

/-- The domain of a station, or none. -/
def domainAt (s : State) (site ctx st : Nat) : Domain :=
  match s.regionAt (Site.ofKey site) ctx with
  | none => Domain.none
  | some k => (s.region k).domains.getD (((s.region k).domainOf (member site st)).getD 1000) Domain.none

/-- The entries of a station's reservation in use (R227). -/
def reservedUsed (s : State) (site ctx st : Nat) : Nat :=
  let p := s.pe site
  sumNat (((holders p).filter (fun h => h.1 == ctx && h.2.1 == st)).map (fun h => (heldBy p ctx st h.2.2).1 - (heldBy p ctx st h.2.2).2))

/-- The shared entries that are in use outside the commitments (R227): what a reservation does not hold, all that an oldest
tag took from the pool before or since, and what another tag took beyond its commitment. -/
def sharedUsed (s : State) (site : Nat) : Nat :=
  let p := s.pe site
  sumNat (((holders p).map (fun h => (h.1, h.2.1))).eraseDups.map (fun cs =>
    reservedUsed s site cs.1 cs.2 - reserveOf (p.word cs.1 cs.2))) +
  sumNat ((holders p).map (fun h =>
    let n := (heldBy p h.1 h.2.1 h.2.2).2
    if (domainAt s site h.1 h.2.1).oldest h.2.2 then n else n - leastReserve (p.word h.1 h.2.1)))

/-- Shared entries of a PE that nobody has committed (R227, R228). -/
def sharedFree (s : State) (site : Nat) : Nat :=
  1024 - (s.pe site).reserved - committed s site - sharedUsed s site

/-- The matching entry that a tag is granted at a station (R227): one of the reservation (`some false`) or of the shared pool
(`some true`); none when it has to wait. -/
def grant (s : State) (site ctx st tag : Nat) : Option Bool :=
  let p := s.pe site
  let w := p.word ctx st
  if 1024 ≤ p.used then none
  else if (domainAt s site ctx st).oldest tag then
    if reservedUsed s site ctx st < reserveOf w then some false
    else if 0 < sharedFree s site then some true else none
  else if (heldBy p ctx st tag).2 < leastReserve w || 0 < sharedFree s site then some true
  else none

/-- `n` matching entries granted to a tag at a station, one after the other (R149, R227): how many of them are of the shared
pool; none when the token has to wait. -/
def grantMany (site ctx st tag : Nat) : Nat → State → Option Nat
  | 0, _ => some 0
  | n + 1, s => match grant s site ctx st tag with
    | none => none
    | some sh => (grantMany site ctx st tag n (s.onPe site (fun p => { p with
        entries := p.entries ++ [⟨ctx, st, tag, .l, Token.zero, false, sh⟩] }))).map (fun m => m + (if sh then 1 else 0))

/-- The PE sites of a domain. -/
def domainPes (d : Domain) : List Nat :=
  ((d.members.map (fun m => m / 512)).filter (fun k => isPe (Site.ofKey k))).eraseDups

/-- A region's sources let tags in: not in a drain or forced save, a halt, a rollback, or once it is drained (R340, R371, R372,
R375, R406). -/
def Region.admits (r : Region) : Bool := r.saving == 0 && !r.halted && !r.rolling && r.status != 6 && r.status != 4

/-- A tag of one of a region's frame pools (R147). -/
def Region.isFrameTag (r : Region) (tag : Nat) : Bool :=
  (List.range 4).any (fun p => match r.pool p with
    | some (n, t) => decide (t ≤ tag) && decide (tag < t + n)
    | none => false)

/-- A tag can be admitted (R228): fewer live tags than the window, the source's own window kept, and the commitment free
at every PE. A frame's tag is bounded by its pool, not by the window (R148, log entry 20). -/
def canAdmit (s : State) (k i : Nat) (src : Option Nat) (tag : Nat) : Bool :=
  let r := s.region k
  let d := r.domains.getD i Domain.none
  let cnt := fun (ts : List Nat) => (ts.filter (fun t => !r.isFrameTag t)).length
  r.admits && (r.isFrameTag tag || (cnt (d.live.map LiveTag.tag) < d.window &&
  (match src with
   | none => true
   | some m => match d.sources.find? (fun x => member x.site x.station == m) with
     | none => true
     | some x => cnt x.live < x.window))) &&
  (domainPes d).all (fun x => commitAt (s.pe x) x r.ctx d ≤ sharedFree s x)

/-- A tag becomes live (R226, R231). -/
def admitTag (k i : Nat) (src : Option Nat) (tag : Nat) (s : State) : State :=
  s.onRegion k (fun r => r.onDomain i (fun d => Domain.confirm { d with
    live := d.live ++ [⟨tag, d.order, !d.specul⟩]
    order := d.order + 1
    dead := d.dead.filter (fun t => t != tag)
    sources := d.sources.map (fun x =>
      if some (member x.site x.station) == src then { x with live := x.live ++ [tag] } else x) }))

/-- A tag is taken out of a domain without a retirement of the progress counter: the hand-on of a `wave` (R229, R241). An
unconfirmed one goes on as a late tag (R231). -/
def handOn (k i tag : Nat) (s : State) : State :=
  s.onRegion k (fun r => r.onDomain i (fun d => Domain.confirm { d with
    live := d.live.filter (fun l => l.tag != tag)
    late := d.late ++ (d.live.filter (fun l => l.tag == tag && !l.confirmed)).map LiveTag.tag
    sources := d.sources.map (fun x => { x with live := x.live.filter (fun t => t != tag) }) }))

/-- A request of the region is on its way, or waits in an ordering domain: it is not performed (R161, R163). -/
def requestsOpen (s : State) (k : Nat) : Bool :=
  s.net.any (fun f => f.region == k + 1 && (match f.msg with | .port _ => true | _ => false)) ||
  s.opers.any (fun ko => ko.2.doms.any (fun d => d.2.waiting.any (fun q => q.region == k && q.site != 0)))

/-- Every access the region issued has been performed (R241, R283, R337). -/
def accessesDone (s : State) (k : Nat) : Bool :=
  !(s.accesses.any (fun a => a.region == k + 1 && a.phase < 5)) && !requestsOpen s k

/-- A name word of the region is on its way or waits at a tile: it is not written (R165). -/
def wordsOpen (s : State) (k : Nat) : Bool :=
  s.net.any (fun f => f.region == k + 1 && (match f.msg with | .word _ => true | _ => false)) ||
  s.tiles.any (fun kt => kt.2.stalled.any (fun w => s.regionAt (Site.ofKey w.site) w.ctx == some k))

/-- Operators attached to a region. -/
def regionOpers (s : State) (k : Nat) : List (Nat × Oper) := s.opers.filter (fun ko => ko.2.region == k + 1)

/-- No pass is armed or running at the region's operators, and they have nothing to send. -/
def passesIdle (s : State) (k : Nat) : Bool :=
  (regionOpers s k).all (fun ko => ko.2.state == 0 && ko.2.arms.isEmpty && ko.2.moves.isEmpty && ko.2.out.isEmpty)

/-- A read takes its place among others by when their tile took them up. -/
def putSince (r : NameRead) : List NameRead → List NameRead
  | [] => [r]
  | q :: qs => if r.since < q.since then r :: q :: qs else q :: putSince r qs

/-- Reads in the order in which they began to wait (R242). -/
def bySince (rs : List NameRead) : List NameRead := rs.foldl (fun qs r => putSince r qs) []

/-- The reads and writes that wait at tiles of a region. -/
def stallTiles (s : State) (k : Nat) : List (Nat × ErrRec) :=
  (s.tiles.map (fun kt =>
    let x := Site.ofKey kt.1
    (kt.2.stalled.map (fun (w : NameWord) => (w.ctx, 2, w.tag)) ++
      (bySince (kt.2.serving.map Serving.req ++ kt.2.deferred)).map (fun (r : NameRead) => (r.ctx, r.port, r.tag))).filterMap (fun (c : Nat × Nat × Nat) =>
        if s.tileRegion x c.1 == some k then some (kt.1 * 512 + c.2.1, (⟨0x0D, x, c.2.1, c.1, c.2.2⟩ : ErrRec)) else none))).flatten

/-- The systolic run that a region's matrix array is in, and that waits for its rows. R300 has the stall record name it, and
R242's list gives it no place of its own: the model puts it among the third kind, at the controller (log entry 85). -/
def stallRuns (s : State) (k : Nat) : List (Nat × ErrRec) :=
  let r := s.region k
  let x := r.corner
  match (s.matrix (Site.key x)).queue with
  | q :: _ =>
    if q.ctx == r.ctx && q.started && (q.op == 0x303 || q.op == 0x304) then
      [(Site.key x * 512 + q.station, ⟨0x0D, x, q.station, r.ctx, q.tag⟩)] else []
  | [] => []

/-- Waiting `call`s, REORDERs, ordering domains, barrier waits and runs of a region. -/
def stallWaits (s : State) (k : Nat) : List (Nat × ErrRec) :=
  let r := s.region k
  (r.peSites.map (fun x => ((s.pe (Site.key x)).ready.filter (fun e => e.ctx == r.ctx &&
    (wordOp ((s.pe (Site.key x)).word e.ctx e.station) == 0x18D || wordOp ((s.pe (Site.key x)).word e.ctx e.station) == 0x18F))).map
      (fun e => (Site.key x * 512 + e.station, (⟨0x0D, x, e.station, r.ctx, e.tag⟩ : ErrRec))))).flatten ++
  (regionOpers s k).filterMap (fun ko =>
    if (ko.2.kind == 7 && !ko.2.held.isEmpty) || (ko.2.kind == 11 && ko.2.doms.any (fun d => !d.2.waiting.isEmpty)) then
      some (ko.1 * 512, (⟨0x0D, Site.ofKey ko.1, 0, r.ctx, ((ko.2.held.getD 0 .zero).tag.toNat)⟩ : ErrRec)) else none) ++
  ((s.region r.loadBase).barriers.map (fun kb =>
    ((kb.2.opened.map (fun g => g.waits.map (fun w => (w, g.gen)))).flatten ++
      kb.2.queue.filterMap (fun q => q.1.map (fun w => (w, q.2)))).filterMap (fun (wg : (List Emit × Nat × Nat) × Nat) =>
    if s.regionAt (Site.ofKey wg.1.2.1) (wg.1.2.2 / 512 % 8) == some k then
      some (wg.1.2.1 * 512 + wg.1.2.2 % 512, (⟨0x0D, Site.ofKey wg.1.2.1, wg.1.2.2 % 512, r.ctx, wg.2⟩ : ErrRec))
    else none))).flatten ++ stallRuns s k

/-- A region is quiescent (R241, R342). -/
def quiescent (s : State) (k : Nat) : Bool :=
  let r := s.region k
  r.domains.all (fun d => d.live.all (fun l => !tagBusy s d r.ctx l.tag)) && passesIdle s k && r.caboose.isEmpty &&
  accessesDone s k && (stallTiles s k).isEmpty && (stallWaits s k).isEmpty

/-- The counters of quiescent regions are 0 (R241): `now` gives the cycle that begins on a die whose clock goes on. -/
def restCounters (now : Nat → Option Nat) (s : State) : Map Region :=
  s.regions.map (fun kr => match now kr.2.die with
    | some t => if kr.2.valid && quiescent s kr.1 then (kr.1, { kr.2 with progress := 0, progressAt := t }) else kr
    | none => kr)

/-- All clocks, the I/O die's with them, go on by one cycle. -/
def State.tickAll (s : State) : State :=
  { s with regions := restCounters (fun d => some (s.now d + 1)) s, clocks := (List.range 25).map (fun d => (d, s.now d + 1)) }

/-- One die's clock goes on; a quiescent region counts no cycle of it (R241). -/
def State.tick (s : State) (die n : Nat) : State :=
  { s with
    regions := restCounters (fun d => if d = die then some (s.now die + n) else none) s
    clocks := Map.put s.clocks die (s.now die + n) }

/-! ### The caboose -/

/-- The stream of an effect of a station or operator (R156, R407): its target, numbered by its kind in the last four bits. The
accesses of one operator are one stream (R160). -/
def effStream (site st : Nat) (a : Act) : Nat :=
  match a with
  | .trigger => 0
  | .send f => f.lane * 16 + 1
  | .release _ tile _ _ => tile * 16 + 2
  | .wordShown _ tile _ _ _ => tile * 16 + 3
  | .arrive b _ => b * 16 + 4
  | .report _ _ _ => 5
  | .halt => 6
  | .access _ => member site st * 16 + 7
  | .error _ _ _ => 8
  | .forward site _ => site * 16 + 9

/-- The target in an effect's key (R407). That of a decrement or a name word is its statement: a resize may move the name to
another tile before the replay (R262, R264; log entry 91). -/
def effTarget (site st : Nat) (a : Act) : Nat :=
  match a with
  | .release r _ _ _ => r.stmt * 16 + 2
  | .wordShown stmt _ _ _ _ => stmt * 16 + 3
  | _ => effStream site st a

/-- The emitted tag in an effect's key (R407): that of the token or request it sends, else its firing's, `tag`. -/
def effTag (tag : Nat) (a : Act) : Nat :=
  match a with
  | .send f => (match f.msg with
    | .token t => t.tag.toNat
    | .divert t _ _ _ _ => t.tag.toNat
    | .word w => w.tag
    | .read r => r.token.tag.toNat
    | .fold q => ((q.reply.map Token.tag).getD 0 q.token.tag).toNat
    | .port q => q.token.tag.toNat)
  | .release r _ _ _ => r.token.tag.toNat
  | _ => tag

/-- How often a station has sent this key before (R407): the occurrence, and the PE with one more counted. -/
def Pe.occurrence (p : Pe) (k : EffKey) : Nat × Pe :=
  match p.emitted.find? (fun e => e.1 == k) with
  | some e => (e.2, { p with emitted := p.emitted.map (fun q => if q.1 == k then (q.1, q.2 + 1) else q) })
  | none => (0, { p with emitted := p.emitted ++ [(k, 1)] })

/-- A key was released before the rollback that its region is replaying (R407). -/
def Region.keyOut (r : Region) (key : EffKey) : Bool := r.keysOut.any (fun q => q.1 == key)

/-- An effect enters a region's caboose (R401). -/
def enterCaboose (k site st tag wave seq : Nat) (a : Act) (s : State) : State :=
  let r := s.region k
  let key : EffKey := ⟨site, st, effTarget site st a, r.ctx, effTag tag a, seq, 0⟩
  let o := (s.pe site).occurrence key
  let e : Effect := ⟨s.now r.die, tag, site, st, effStream site st a, wave, { key with n := o.1 }, a⟩
  (s.onPe site (fun _ => o.2)).onRegion k (fun r => { r with caboose := r.caboose ++ [e] })

/-- Emissions that need `n` places in the caboose find them (R401). -/
def cabooseRoom (s : State) (k : Option Nat) (n : Nat) : Bool :=
  match k with
  | none => true
  | some r => (s.region r).caboose.length + n ≤ (s.region r).cabooseCap || (s.region r).cabooseCap == 0 || n == 0

end Sys2Proof.Machine
end

