-- ==== Sys2Proof/Machine/Flags.lean ====
section
/-! DEFINITION. The machine has no flag register: its one status mark is the poison bit of a token (R55 to R57). This
file holds how a poisoned operand stops a use (R57) and how a firing raises its errors (R139, R140). -/

namespace Sys2Proof.Machine

/-- A poison-report of the firing (R57): the firing does nothing else. -/
def finishReport (op : Nat) (f : Fields) (s : State) : State :=
  finishWith op f [.error (s.fireRec 0x03) none false] s

/-- A fault of the firing with its L operand saved, addressed as it arrived (R140). -/
def finishFault (op : Nat) (f : Fields) (code : Nat) (s : State) : State :=
  finishWith op f [.error (s.fireRec code) (some (s.firing.toks.getD 0 .zero)) true] s

end Sys2Proof.Machine
end

