-- ==== Sys2Proof/Machine/Trans.lean ====
section
/-! DEFINITION. Quotients and roots rounded once (R122), and the transcendental functions of `fexp2`, `flog2` and `mm.act`
(R123, R188) as exact values rounded once: each is enclosed between two rationals, and where both round alike that is the
result. Where they do not, which of the two is delivered is a free value (log entry 5). -/

namespace Sys2Proof.Machine

/-- num / den × 2^e rounded once (R47): the quotient to more bits than any format keeps, with a sticky bit. -/
def roundRatio (f : Fmt) (mode : Round) (sat neg : Bool) (num den : Nat) (e : Int) : LaneRes :=
  let k := den.log2 + 70
  let q := num * 2 ^ k / den
  let st := if num * 2 ^ k % den = 0 then 0 else 1
  roundF f mode sat neg (2 * q + st) (e - k - 1)

/-- The integer square root of a number below 4^k, bit by bit. -/
def isqrt : Nat → Nat → Nat → Nat
  | 0, _, r => r
  | k + 1, n, r => if (r + 2 ^ k) * (r + 2 ^ k) ≤ n then isqrt k n (r + 2 ^ k) else isqrt k n r

/-- A quotient of two lanes (R122). -/
def divF (f : Fmt) (mode : Round) (sat : Bool) (a b : FVal) : LaneRes :=
  match a, b with
  | .nan, _ => nanF f
  | _, .nan => nanF f
  | .inf _, .inf _ => invalidF f
  | .inf x, .fin y _ _ => infF f (x != y)
  | .fin x _ _, .inf y => ⟨withSign f (x != y) 0, none⟩
  | .fin x m e, .fin y n k =>
    if n = 0 then (if m = 0 then invalidF f else infFromFinite f sat (x != y))
    else if m = 0 then ⟨withSign f (x != y) 0, none⟩
    else roundRatio f mode sat (x != y) m n (e - k)

/-- √a (R122). -/
def sqrtF (f : Fmt) (mode : Round) (sat : Bool) (a : FVal) : LaneRes :=
  match a with
  | .nan => nanF f
  | .inf true => invalidF f
  | .inf false => infF f false
  | .fin neg m e =>
    if m = 0 then ⟨withSign f neg 0, none⟩
    else if neg then invalidF f
    else
      let n := m * 2 ^ (if e % 2 = 0 then 140 else 141)
      let r := isqrt 100 n 0
      roundF f mode sat false (2 * r + (if r * r = n then 0 else 1)) ((e - (if e % 2 = 0 then 140 else 141)) / 2 - 1)

/-- 1/√a (R122). -/
def rsqrtF (f : Fmt) (mode : Round) (sat : Bool) (a : FVal) : LaneRes :=
  match a with
  | .nan => nanF f
  | .inf true => invalidF f
  | .inf false => ⟨0, none⟩
  | .fin neg m e =>
    if m = 0 then infFromFinite f sat neg
    else if neg then invalidF f
    else
      let n := if e % 2 = 0 then m else 2 * m
      let e' := if e % 2 = 0 then e else e - 1
      let r := isqrt 150 (2 ^ 280 / n) 0
      roundF f mode sat false (2 * r + (if r * r * n = 2 ^ 280 then 0 else 1)) (-(e' / 2) - 140 - 1)

/-- Of two bounds that round differently, a free choice; of two that agree, their result. -/
def settle (fn bits : Nat) (lo hi : LaneRes) : LaneRes :=
  if lo = hi then lo else if Config.unsettled fn bits then lo else hi

/-- Fixed-point precision, in bits. -/
def fixBits : Nat := 400

/-- `x^(2i+1)/(2i+1)` summed over the terms that remain, x and its square in fixed point: atanh x, from below. -/
def atanhSum : Nat → Nat → Nat → Nat → Nat
  | 0, _, _, _ => 0
  | n + 1, x2, pw, i => pw / (2 * i + 1) + atanhSum n x2 (pw * x2 / 2 ^ fixBits) (i + 1)

/-- atanh of num/den ≤ 1/3 in fixed point, short of the true value by less than 2^9 units. -/
def atanhFix (num den : Nat) : Nat :=
  let x := num * 2 ^ fixBits / den
  atanhSum 130 (x * x / 2 ^ fixBits) x 0

/-- ln 2 in fixed point, short by less than 2^10 units. -/
def ln2Fix : Nat := 2 * atanhFix 1 3

/-- `t^i/i!` summed over the terms that remain, in fixed point. -/
def expSum : Nat → Nat → Nat → Nat → Nat
  | 0, _, _, _ => 0
  | n + 1, t, pw, i => pw + expSum n t (pw * t / 2 ^ fixBits / (i + 1)) (i + 1)

/-- e^t for t in [0, 1) in fixed point, within 2^12 units below. -/
def expFix (t : Nat) : Nat := expSum 90 t (2 ^ fixBits) 0

/-- The width of the enclosures, in units: more than every error above together, with room. -/
def slack : Nat := 2 ^ 40

/-- 2^(n / 2^fixBits) for n in [0, 2^fixBits): enclosed between this less and plus `slack`. -/
def exp2Fix (n : Nat) : Nat := expFix (n * ln2Fix / 2 ^ fixBits)

/-- 2^a (R123). -/
def exp2F (f : Fmt) (mode : Round) (sat : Bool) (bits : Nat) (a : FVal) : LaneRes :=
  match a with
  | .nan => nanF f
  | .inf true => ⟨0, none⟩
  | .inf false => infF f false
  | .fin neg m e =>
    if m = 0 then roundF f mode sat false 1 0
    else if 12 < (m.log2 : Int) + e then roundF f mode sat false 1 (if neg then -20000 else 20000)
    else if (m.log2 : Int) + e < -100 then
      roundF f mode sat false (if neg then 2 ^ 200 - 1 else 2 ^ 200 + 1) (-200)
    else
      let x := m * 2 ^ (e + fixBits).toNat
      let n := x / 2 ^ fixBits
      let r := x % 2 ^ fixBits
      if r = 0 then roundF f mode sat false 1 (if neg then -n else n)
      else
        let v := exp2Fix (if neg then 2 ^ fixBits - r else r)
        let k : Int := if neg then -n - 1 else n
        settle 0 bits (roundF f mode sat false (v - slack) (k - fixBits)) (roundF f mode sat false (v + slack) (k - fixBits))

/-- log2 a (R123). For a = 2^k × y with 1 ≤ y < 2, log2 y = atanh((y−1)/(y+1)) / atanh(1/3). -/
def log2F (f : Fmt) (mode : Round) (sat : Bool) (bits : Nat) (a : FVal) : LaneRes :=
  match a with
  | .nan => nanF f
  | .inf true => invalidF f
  | .inf false => infF f false
  | .fin neg m e =>
    if m = 0 then infFromFinite f sat true
    else if neg then invalidF f
    else
      let b := m.log2
      let k : Int := e + b
      if m = 2 ^ b then roundF f mode sat (k < 0) k.natAbs 0
      else
        let l := atanhFix (m - 2 ^ b) (m + 2 ^ b)
        let d := atanhFix 1 3
        let lo : Int := k * ((2 ^ fixBits : Nat) : Int) + ((l * 2 ^ fixBits / d : Nat) : Int) - ((slack : Nat) : Int)
        let hi : Int := lo + ((2 * slack : Nat) : Int)
        settle 1 bits (roundF f mode sat (lo < 0) lo.natAbs (-fixBits)) (roundF f mode sat (hi < 0) hi.natAbs (-fixBits))

/-- e^−|x| = s × 2^−n for x = m × 2^e of moderate size: the fixed-point s and n (s below, within `slack`). -/
def expNeg (m : Nat) (e : Int) : Nat × Nat :=
  let x := m * 2 ^ (e + fixBits).toNat
  let u := x * 2 ^ fixBits / ln2Fix
  let n := u / 2 ^ fixBits
  (exp2Fix (2 ^ fixBits - 1 - u % 2 ^ fixBits), n + 1)

/-- sigmoid x (R188). -/
def sigmoidF (f : Fmt) (mode : Round) (sat : Bool) (bits : Nat) (a : FVal) : LaneRes :=
  match a with
  | .nan => nanF f
  | .inf true => ⟨0, none⟩
  | .inf false => roundF f mode sat false 1 0
  | .fin neg m e =>
    if m = 0 then roundF f mode sat false 1 (-1)
    else if 11 < (m.log2 : Int) + e then
      (if neg then roundF f mode sat false 1 (-20000) else roundF f mode sat false (2 ^ 200 - 1) (-200))
    else if (m.log2 : Int) + e < -100 then
      roundF f mode sat false (if neg then 2 ^ 200 - 1 else 2 ^ 200 + 1) (-201)
    else
      let (v, n) := expNeg m e
      let w := 2 ^ (fixBits + n)
      let at' := fun q => if neg then roundRatio f mode sat false q (w + q) 0 else roundRatio f mode sat false w (w + q) 0
      settle 2 bits (at' (v - slack)) (at' (v + slack))

/-- tanh x (R188). -/
def tanhF (f : Fmt) (mode : Round) (sat : Bool) (bits : Nat) (a : FVal) : LaneRes :=
  match a with
  | .nan => nanF f
  | .inf neg => roundF f mode sat neg 1 0
  | .fin neg m e =>
    if m = 0 then ⟨withSign f neg 0, none⟩
    else if 11 < (m.log2 : Int) + e then roundF f mode sat neg (2 ^ 200 - 1) (-200)
    else if (m.log2 : Int) + e < -100 then roundF f mode sat neg (m * 2 ^ 150 - 1) (e - 150)
    else
      let (v, n) := expNeg m e
      let w := 2 ^ (fixBits + n)
      let at' := fun q => roundRatio f mode sat neg (w * w - q * q) (w * w + q * q) 0
      settle 3 bits (at' (v - slack)) (at' (v + slack))

/-- x / (1 + e^−x) (R188). -/
def siluF (f : Fmt) (mode : Round) (sat : Bool) (bits : Nat) (a : FVal) : LaneRes :=
  match a with
  | .nan => nanF f
  | .inf true => ⟨withSign f true 0, none⟩
  | .inf false => infF f false
  | .fin neg m e =>
    if m = 0 then ⟨withSign f neg 0, none⟩
    else if 11 < (m.log2 : Int) + e then
      (if neg then roundF f mode sat true 1 (-20000) else roundF f mode sat false (m * 2 ^ 200 - 1) (e - 200))
    else if (m.log2 : Int) + e < -100 then
      roundF f mode sat neg (if neg then m * 2 ^ 150 - 1 else m * 2 ^ 150 + 1) (e - 151)
    else
      let (v, n) := expNeg m e
      let w := 2 ^ (fixBits + n)
      let at' := fun q =>
        if neg then roundRatio f mode sat true (m * q) (w + q) e else roundRatio f mode sat false (m * w) (w + q) e
      settle 4 bits (at' (v - slack)) (at' (v + slack))

end Sys2Proof.Machine
end

