-- ==== Sys2Proof/Machine/Floating.lean ====
section
/-! DEFINITION. Group 1, floating-point forms (R117 to R126): one lane function per form. -/

namespace Sys2Proof.Machine

/-- The value of a one-operand form from its lane function over patterns. -/
def fltOne (f : Fields) (s : State) (g : Nat → LaneRes) : Value :=
  let l := prepare f.fmtOut f (opL f s)
  let xs := l.lanes.map g
  ⟨packLanes f.fmtOut (xs.map LaneRes.bits), f.fmtOut, minCause l.cause (causeOf xs), l.converted⟩

/-- The value of a two-operand form from its lane function over patterns. -/
def fltTwo (op : Nat) (f : Fields) (s : State) (g : Nat → Nat → LaneRes) : Value :=
  let l := prepare f.fmtOut f (opL f s)
  let r := prepareR op f.fmtOut f s
  let xs := List.zipWith g l.lanes r.lanes
  ⟨packLanes f.fmtOut (xs.map LaneRes.bits), f.fmtOut, minCause (minCause l.cause r.cause) (causeOf xs),
    l.converted || r.converted⟩

/-- The value of a three-operand form from its lane function over patterns. -/
def fltThree (op : Nat) (f : Fields) (s : State) (g : Nat → Nat → Nat → LaneRes) : Value :=
  let l := prepare f.fmtOut f (opL f s)
  let r := prepareR op f.fmtOut f s
  let p := prepare f.fmtOut f (opP f s)
  let xs := List.zipWith (fun h c => h c) (List.zipWith g l.lanes r.lanes) p.lanes
  ⟨packLanes f.fmtOut (xs.map LaneRes.bits), f.fmtOut, minCause (minCause (minCause l.cause r.cause) p.cause) (causeOf xs),
    l.converted || r.converted || p.converted⟩

/-- a × b and c summed exactly, rounded once (R118); `np` and `nc` negate the product and c. -/
def fmaLane (f : Fields) (np nc : Bool) (a b c : Nat) : LaneRes :=
  let p := FVal.mul (decodeF f.fmtOut a) (decodeF f.fmtOut b)
  let x := if np then FVal.neg p.1 else p.1
  let y := if nc then FVal.neg (decodeF f.fmtOut c) else decodeF f.fmtOut c
  sumTo f.fmtOut f.round f.sat p.2 [x, y]

/-- a + b, or a − b, rounded once (R118). -/
def addLane (f : Fields) (nb : Bool) (a b : Nat) : LaneRes :=
  let y := decodeF f.fmtOut b
  sumTo f.fmtOut f.round f.sat false [decodeF f.fmtOut a, if nb then FVal.neg y else y]

/-- a × b rounded once (R118). -/
def mulLane (f : Fields) (a b : Nat) : LaneRes :=
  match FVal.mul (decodeF f.fmtOut a) (decodeF f.fmtOut b) with
  | (_, true) => invalidF f.fmtOut
  | (v, false) => deliverF f.fmtOut f.round f.sat v

/-- a is before b in the order with −0 below +0 (R119). -/
def belowF (g : Fmt) (a b : Nat) : Bool :=
  match cmpF (decodeF g a) (decodeF g b) with
  | .lt => true
  | .gt => false
  | .eq => a / signBit g % 2 == 1

/-- Minimum or maximum (R119): `num` prefers a number to a NaN. -/
def minMaxLane (g : Fmt) (num max : Bool) (a b : Nat) : LaneRes :=
  if isNaN g a then (if num && !isNaN g b then ⟨b, none⟩ else nanF g)
  else if isNaN g b then (if num then ⟨a, none⟩ else nanF g)
  else if belowF g a b == max then ⟨b, none⟩ else ⟨a, none⟩

/-- A relation of two lanes that fails on NaN, as 1.0 or +0.0 (R121). -/
def relLane (g : Fmt) (p : Ordering → Bool) (a b : Nat) : LaneRes :=
  ⟨if !isNaN g a && !isNaN g b && p (cmpF (decodeF g a) (decodeF g b)) then oneOf g else 0, none⟩

/-- a × 2^n rounded once (R124). Any |n| past 20,000 acts as 20,000. -/
def scaleLane (f : Fields) (n : Int) (a : Nat) : LaneRes :=
  match decodeF f.fmtOut a with
  | .nan => nanF f.fmtOut
  | .inf _ => ⟨a, none⟩
  | .fin neg m e => if m = 0 then ⟨a, none⟩ else roundF f.fmtOut f.round f.sat neg m (e + clampInt (-20000) 20000 n)

/-- a rounded to an integral value (R125). -/
def integralLane (g : Fmt) (mode : Round) (a : Nat) : LaneRes :=
  match decodeF g a with
  | .nan => nanF g
  | .inf _ => ⟨a, none⟩
  | .fin neg m e => roundF g .rtz false neg (roundAt mode neg m e 0) 0

/-- The class code of a lane (R126). -/
def classLane (g : Fmt) (a : Nat) : Nat :=
  match decodeF g a with
  | .nan => 8
  | .inf neg => if neg then 0 else 7
  | .fin neg m _ =>
    if m = 0 then (if neg then 3 else 4)
    else if m < 2 ^ Fmt.frac g then (if neg then 2 else 5)
    else if neg then 1 else 6

/-- `fscale` (R124): one n, from R as I64, for every lane. -/
def fscaleValue (f : Fields) (s : State) : Value :=
  let l := prepare f.fmtOut f (opL f s)
  let r := prepareR 0x097 .i64 f s
  let xs := l.lanes.map (scaleLane f (signed 64 (r.lanes.getD 0 0)))
  ⟨packLanes f.fmtOut (xs.map LaneRes.bits), f.fmtOut, minCause (minCause l.cause r.cause) (causeOf xs),
    l.converted || r.converted⟩

/-- `fclass` (R126): a token of fmt 7. -/
def fclassValue (f : Fields) (s : State) : Value :=
  let l := prepare f.fmtOut f (opL f s)
  ⟨packLanes .i8 (l.lanes.map (classLane f.fmtOut)), .i8, l.cause, l.converted⟩

/-- `fadd` (R118). -/
def execFadd (f : Fields) (s : State) : Host.Outcome State Fault Refusal :=
  .next (finish 0x080 f (fltTwo 0x080 f s (addLane f false)) s)

/-- `fsub` (R118). -/
def execFsub (f : Fields) (s : State) : Host.Outcome State Fault Refusal :=
  .next (finish 0x081 f (fltTwo 0x081 f s (addLane f true)) s)

/-- `fmul` (R118). -/
def execFmul (f : Fields) (s : State) : Host.Outcome State Fault Refusal :=
  .next (finish 0x082 f (fltTwo 0x082 f s (mulLane f)) s)

/-- `ffma` (R118). -/
def execFfma (f : Fields) (s : State) : Host.Outcome State Fault Refusal :=
  .next (finish 0x083 f (fltThree 0x083 f s (fmaLane f false false)) s)

/-- `ffms` (R118). -/
def execFfms (f : Fields) (s : State) : Host.Outcome State Fault Refusal :=
  .next (finish 0x084 f (fltThree 0x084 f s (fmaLane f false true)) s)

/-- `ffnma` (R118). -/
def execFfnma (f : Fields) (s : State) : Host.Outcome State Fault Refusal :=
  .next (finish 0x085 f (fltThree 0x085 f s (fmaLane f true true)) s)

/-- `fmin` (R119). -/
def execFmin (f : Fields) (s : State) : Host.Outcome State Fault Refusal :=
  .next (finish 0x086 f (fltTwo 0x086 f s (minMaxLane f.fmtOut false false)) s)

/-- `fmax` (R119). -/
def execFmax (f : Fields) (s : State) : Host.Outcome State Fault Refusal :=
  .next (finish 0x087 f (fltTwo 0x087 f s (minMaxLane f.fmtOut false true)) s)

/-- `fminn` (R119). -/
def execFminn (f : Fields) (s : State) : Host.Outcome State Fault Refusal :=
  .next (finish 0x088 f (fltTwo 0x088 f s (minMaxLane f.fmtOut true false)) s)

/-- `fmaxn` (R119). -/
def execFmaxn (f : Fields) (s : State) : Host.Outcome State Fault Refusal :=
  .next (finish 0x089 f (fltTwo 0x089 f s (minMaxLane f.fmtOut true true)) s)

/-- `fabs` (R120). -/
def execFabs (f : Fields) (s : State) : Host.Outcome State Fault Refusal :=
  .next (finish 0x08A f (fltOne f s (fun a => ⟨a % signBit f.fmtOut, none⟩)) s)

/-- `fneg` (R120). -/
def execFneg (f : Fields) (s : State) : Host.Outcome State Fault Refusal :=
  .next (finish 0x08B f (fltOne f s (fun a => ⟨(a + signBit f.fmtOut) % (2 * signBit f.fmtOut), none⟩)) s)

/-- `fsgn` (R120). -/
def execFsgn (f : Fields) (s : State) : Host.Outcome State Fault Refusal :=
  .next (finish 0x08C f (fltTwo 0x08C f s (fun a b => ⟨a % signBit f.fmtOut + b / signBit f.fmtOut * signBit f.fmtOut, none⟩)) s)

/-- `fcmp.eq` (R121). -/
def execFcmpEq (f : Fields) (s : State) : Host.Outcome State Fault Refusal :=
  .next (finish 0x08D f (fltTwo 0x08D f s (relLane f.fmtOut (fun o => o == .eq))) s)

/-- `fcmp.lt` (R121). -/
def execFcmpLt (f : Fields) (s : State) : Host.Outcome State Fault Refusal :=
  .next (finish 0x08E f (fltTwo 0x08E f s (relLane f.fmtOut (fun o => o == .lt))) s)

/-- `fcmp.le` (R121). -/
def execFcmpLe (f : Fields) (s : State) : Host.Outcome State Fault Refusal :=
  .next (finish 0x08F f (fltTwo 0x08F f s (relLane f.fmtOut (fun o => o != .gt))) s)

/-- `fcmp.un` (R121). -/
def execFcmpUn (f : Fields) (s : State) : Host.Outcome State Fault Refusal :=
  .next (finish 0x090 f (fltTwo 0x090 f s (fun a b => ⟨if isNaN f.fmtOut a || isNaN f.fmtOut b then oneOf f.fmtOut else 0, none⟩)) s)

/-- `frcp` (R122). -/
def execFrcp (f : Fields) (s : State) : Host.Outcome State Fault Refusal :=
  .next (finish 0x091 f (fltOne f s (fun a => divF f.fmtOut f.round f.sat (.fin false 1 0) (decodeF f.fmtOut a))) s)

/-- `frsq` (R122). -/
def execFrsq (f : Fields) (s : State) : Host.Outcome State Fault Refusal :=
  .next (finish 0x092 f (fltOne f s (fun a => rsqrtF f.fmtOut f.round f.sat (decodeF f.fmtOut a))) s)

/-- `fsqrt` (R122). -/
def execFsqrt (f : Fields) (s : State) : Host.Outcome State Fault Refusal :=
  .next (finish 0x093 f (fltOne f s (fun a => sqrtF f.fmtOut f.round f.sat (decodeF f.fmtOut a))) s)

/-- `fdiv` (R122). -/
def execFdiv (f : Fields) (s : State) : Host.Outcome State Fault Refusal :=
  .next (finish 0x094 f (fltTwo 0x094 f s (fun a b => divF f.fmtOut f.round f.sat (decodeF f.fmtOut a) (decodeF f.fmtOut b))) s)

/-- `fexp2` (R123). -/
def execFexp2 (f : Fields) (s : State) : Host.Outcome State Fault Refusal :=
  .next (finish 0x095 f (fltOne f s (fun a => exp2F f.fmtOut f.round f.sat a (decodeF f.fmtOut a))) s)

/-- `flog2` (R123). -/
def execFlog2 (f : Fields) (s : State) : Host.Outcome State Fault Refusal :=
  .next (finish 0x096 f (fltOne f s (fun a => log2F f.fmtOut f.round f.sat a (decodeF f.fmtOut a))) s)

/-- `fscale` (R124). -/
def execFscale (f : Fields) (s : State) : Host.Outcome State Fault Refusal :=
  .next (finish 0x097 f (fscaleValue f s) s)

/-- `fround` (R125). -/
def execFround (f : Fields) (s : State) : Host.Outcome State Fault Refusal :=
  .next (finish 0x098 f (fltOne f s (integralLane f.fmtOut f.round)) s)

/-- `ffloor` (R125). -/
def execFfloor (f : Fields) (s : State) : Host.Outcome State Fault Refusal :=
  .next (finish 0x099 f (fltOne f s (integralLane f.fmtOut .rdn)) s)

/-- `fceil` (R125). -/
def execFceil (f : Fields) (s : State) : Host.Outcome State Fault Refusal :=
  .next (finish 0x09A f (fltOne f s (integralLane f.fmtOut .rup)) s)

/-- `ftrunc` (R125). -/
def execFtrunc (f : Fields) (s : State) : Host.Outcome State Fault Refusal :=
  .next (finish 0x09B f (fltOne f s (integralLane f.fmtOut .rtz)) s)

/-- `fclass` (R126). -/
def execFclass (f : Fields) (s : State) : Host.Outcome State Fault Refusal :=
  .next (finish 0x09C f (fclassValue f s) s)

end Sys2Proof.Machine
end

