-- ==== Sys2Proof/Machine/Integer.lean ====
section
/-! DEFINITION. Group 0, integer and address forms (R108 to R116): one lane function per form, over w-bit patterns. -/

namespace Sys2Proof.Machine

/-- The lanes of a group 0 operand as w-bit patterns (R108). -/
def intLanes (f : Fields) (p : Prepared) : List Nat := p.lanes.map (fun x => x % 2 ^ Fields.width f)

/-- The payload of w-bit lanes: a 32-bit result is sign-extended from bit 31 (R108). -/
def intPayload (f : Fields) (xs : List Nat) : Word :=
  if f.fmtOut == .i8 then packLanes .i8 xs
  else BitVec.ofNat 64 (wrapNat 64 (signed (Fields.width f) (xs.getD 0 0)))

/-- fit_s (R108): wrap modulo 2^w, or clamp to the signed range when sat is 1. -/
def fitS (w : Nat) (sat : Bool) (x : Int) : Nat := wrapNat w (if sat then clampInt (loS w) (hiS w) x else x)

/-- fit_u (R108): clamp to the unsigned range. -/
def fitU (w : Nat) (x : Int) : Nat := (clampInt 0 (((2 ^ w : Nat) : Int) - 1) x).toNat

/-- The value of a one-operand form from its lane function. -/
def intOne (f : Fields) (s : State) (g : Nat → Nat → Nat) : Value :=
  let l := prepare f.fmtOut f (opL f s)
  ⟨intPayload f ((intLanes f l).map (g (Fields.width f))), f.fmtOut, l.cause, l.converted⟩

/-- The value of a two-operand form from its lane function, whose results may be exceptional. -/
def intTwoC (op : Nat) (f : Fields) (s : State) (g : Nat → Nat → Nat → LaneRes) : Value :=
  let l := prepare f.fmtOut f (opL f s)
  let r := prepareR op f.fmtOut f s
  let xs := List.zipWith (g (Fields.width f)) (intLanes f l) (intLanes f r)
  ⟨intPayload f (xs.map LaneRes.bits), f.fmtOut, minCause (minCause l.cause r.cause) (causeOf xs),
    l.converted || r.converted⟩

/-- The value of a two-operand form from its lane function. -/
def intTwo (op : Nat) (f : Fields) (s : State) (g : Nat → Nat → Nat → Nat) : Value :=
  intTwoC op f s (fun w a b => ⟨g w a b, none⟩)

/-- The value of a three-operand form from its lane function. -/
def intThree (op : Nat) (f : Fields) (s : State) (g : Nat → Nat → Nat → Nat → Nat) : Value :=
  let l := prepare f.fmtOut f (opL f s)
  let r := prepareR op f.fmtOut f s
  let p := prepare f.fmtOut f (opP f s)
  let xs := List.zipWith (fun h c => h c) (List.zipWith (g (Fields.width f)) (intLanes f l) (intLanes f r)) (intLanes f p)
  ⟨intPayload f xs, f.fmtOut, minCause (minCause l.cause r.cause) p.cause, l.converted || r.converted || p.converted⟩

/-- Division with its two borderline cases (R110): by zero all ones with cause invalid; the quotient rounds toward
zero. -/
def divLane (sat : Bool) (w a b : Nat) : LaneRes :=
  if b = 0 then ⟨2 ^ w - 1, some .invalid⟩ else ⟨fitS w sat (Int.tdiv (signed w a) (signed w b)), none⟩

/-- Unsigned division (R110). -/
def divuLane (w a b : Nat) : LaneRes := if b = 0 then ⟨2 ^ w - 1, some .invalid⟩ else ⟨a / b, none⟩

/-- Remainder, of the sign of a (R110). -/
def remLane (w a b : Nat) : LaneRes :=
  if b = 0 then ⟨a, some .invalid⟩ else ⟨wrapNat w (Int.tmod (signed w a) (signed w b)), none⟩

/-- Unsigned remainder (R110). -/
def remuLane (_w a b : Nat) : LaneRes := if b = 0 then ⟨a, some .invalid⟩ else ⟨a % b, none⟩

/-- a × 2^n before it is fitted: any count of w or more makes a multiple of 2^w that is out of range unless a is 0
(R111). -/
def shlLane (sat : Bool) (w a n : Nat) : Nat := fitS w sat (signed w a * ((2 ^ min n (2 * w) : Nat) : Int))

/-- floor(a / 2^n), a signed (R111). -/
def sraLane (w a n : Nat) : Nat := wrapNat w (Int.fdiv (signed w a) ((2 ^ min n w : Nat) : Int))

/-- a rotated left by n mod w (R111). -/
def rotlLane (w a n : Nat) : Nat := a * 2 ^ (n % w) % 2 ^ w + a / 2 ^ (w - n % w)

/-- Leading zero bits of a w-bit pattern (R112). -/
def clzLane (w a : Nat) : Nat := if a = 0 then w else w - 1 - a.log2

/-- Trailing zero bits among the low `n` bits of a pattern. -/
def ctzBits : Nat → Nat → Nat
  | 0, _ => 0
  | n + 1, a => if a % 2 = 1 then 0 else ctzBits n (a / 2) + 1

/-- One bits among the low `n` bits of a pattern. -/
def popBits : Nat → Nat → Nat
  | 0, _ => 0
  | n + 1, a => a % 2 + popBits n (a / 2)

/-- The first `n` bytes of a pattern in reverse order (R112). -/
def swapBytes : Nat → Nat → Nat
  | 0, _ => 0
  | n + 1, a => a % 256 * 256 ^ n + swapBytes n (a / 256)

/-- Bits above b of a pattern become copies of bit b (R115). -/
def sextLane (w b a : Nat) : Nat := wrapNat w (signed (b + 1) a)

/-- A bit field replaced (R115). -/
def binsLane (pos len a b : Nat) : Nat := a - a / 2 ^ pos % 2 ^ len * 2 ^ pos + b % 2 ^ len * 2 ^ pos

/-- The value of `dot8` (R113): L and R as eight signed bytes, P as a w-bit signed value. -/
def dot8Value (f : Fields) (s : State) : Value :=
  let l := prepare .i8 f (opL f s)
  let r := prepareR 0x020 .i8 f s
  let p := prepare f.fmtOut f (opP f s)
  let w := Fields.width f
  let x := signed w (p.lanes.getD 0 0) + sumInt (List.zipWith (fun a b => signed 8 a * signed 8 b) l.lanes r.lanes)
  ⟨intPayload f [fitS w f.sat x], f.fmtOut, minCause (minCause l.cause r.cause) p.cause,
    l.converted || r.converted || p.converted⟩

/-- `add` (R109). -/
def execAdd (f : Fields) (s : State) : Host.Outcome State Fault Refusal :=
  .next (finish 0x000 f (intTwo 0x000 f s (fun w a b => fitS w f.sat (signed w a + signed w b))) s)

/-- `sub` (R109). -/
def execSub (f : Fields) (s : State) : Host.Outcome State Fault Refusal :=
  .next (finish 0x001 f (intTwo 0x001 f s (fun w a b => fitS w f.sat (signed w a - signed w b))) s)

/-- `mul` (R109). -/
def execMul (f : Fields) (s : State) : Host.Outcome State Fault Refusal :=
  .next (finish 0x002 f (intTwo 0x002 f s (fun w a b => fitS w f.sat (signed w a * signed w b))) s)

/-- `mulh` (R109): the product divided by 2^w, rounded toward minus infinity. -/
def execMulh (f : Fields) (s : State) : Host.Outcome State Fault Refusal :=
  .next (finish 0x003 f (intTwo 0x003 f s (fun w a b => wrapNat w (Int.fdiv (signed w a * signed w b) ((2 ^ w : Nat) : Int)))) s)

/-- `mulhu` (R109). -/
def execMulhu (f : Fields) (s : State) : Host.Outcome State Fault Refusal :=
  .next (finish 0x004 f (intTwo 0x004 f s (fun w a b => a * b / 2 ^ w)) s)

/-- `div` (R110). -/
def execDiv (f : Fields) (s : State) : Host.Outcome State Fault Refusal :=
  .next (finish 0x005 f (intTwoC 0x005 f s (divLane f.sat)) s)

/-- `divu` (R110). -/
def execDivu (f : Fields) (s : State) : Host.Outcome State Fault Refusal :=
  .next (finish 0x006 f (intTwoC 0x006 f s (divuLane)) s)

/-- `rem` (R110). -/
def execRem (f : Fields) (s : State) : Host.Outcome State Fault Refusal :=
  .next (finish 0x007 f (intTwoC 0x007 f s (remLane)) s)

/-- `remu` (R110). -/
def execRemu (f : Fields) (s : State) : Host.Outcome State Fault Refusal :=
  .next (finish 0x008 f (intTwoC 0x008 f s (remuLane)) s)

/-- `and` (R109). -/
def execAnd (f : Fields) (s : State) : Host.Outcome State Fault Refusal :=
  .next (finish 0x009 f (intTwo 0x009 f s (fun _ a b => a &&& b)) s)

/-- `or` (R109). -/
def execOr (f : Fields) (s : State) : Host.Outcome State Fault Refusal :=
  .next (finish 0x00A f (intTwo 0x00A f s (fun _ a b => a ||| b)) s)

/-- `xor` (R109). -/
def execXor (f : Fields) (s : State) : Host.Outcome State Fault Refusal :=
  .next (finish 0x00B f (intTwo 0x00B f s (fun _ a b => a ^^^ b)) s)

/-- `andn` (R109). -/
def execAndn (f : Fields) (s : State) : Host.Outcome State Fault Refusal :=
  .next (finish 0x00C f (intTwo 0x00C f s (fun w a b => a &&& (2 ^ w - 1 - b))) s)

/-- `not` (R112). -/
def execNot (f : Fields) (s : State) : Host.Outcome State Fault Refusal :=
  .next (finish 0x00D f (intOne f s (fun w a => 2 ^ w - 1 - a)) s)

/-- `shl` (R111). -/
def execShl (f : Fields) (s : State) : Host.Outcome State Fault Refusal :=
  .next (finish 0x00E f (intTwo 0x00E f s (fun w a b => shlLane f.sat w a b)) s)

/-- `shr` (R111). -/
def execShr (f : Fields) (s : State) : Host.Outcome State Fault Refusal :=
  .next (finish 0x00F f (intTwo 0x00F f s (fun w a b => a / 2 ^ min b w)) s)

/-- `sra` (R111). -/
def execSra (f : Fields) (s : State) : Host.Outcome State Fault Refusal :=
  .next (finish 0x010 f (intTwo 0x010 f s (fun w a b => sraLane w a b)) s)

/-- `rotl` (R111). -/
def execRotl (f : Fields) (s : State) : Host.Outcome State Fault Refusal :=
  .next (finish 0x011 f (intTwo 0x011 f s (fun w a b => rotlLane w a b)) s)

/-- `min` (R109). -/
def execMin (f : Fields) (s : State) : Host.Outcome State Fault Refusal :=
  .next (finish 0x012 f (intTwo 0x012 f s (fun w a b => if signed w a ≤ signed w b then a else b)) s)

/-- `max` (R109). -/
def execMax (f : Fields) (s : State) : Host.Outcome State Fault Refusal :=
  .next (finish 0x013 f (intTwo 0x013 f s (fun w a b => if signed w a ≤ signed w b then b else a)) s)

/-- `minu` (R109). -/
def execMinu (f : Fields) (s : State) : Host.Outcome State Fault Refusal :=
  .next (finish 0x014 f (intTwo 0x014 f s (fun _ a b => if a ≤ b then a else b)) s)

/-- `maxu` (R109). -/
def execMaxu (f : Fields) (s : State) : Host.Outcome State Fault Refusal :=
  .next (finish 0x015 f (intTwo 0x015 f s (fun _ a b => if a ≤ b then b else a)) s)

/-- `abs` (R112). -/
def execAbs (f : Fields) (s : State) : Host.Outcome State Fault Refusal :=
  .next (finish 0x016 f (intOne f s (fun w a => fitS w f.sat ((signed w a).natAbs : Int))) s)

/-- `neg` (R112). -/
def execNeg (f : Fields) (s : State) : Host.Outcome State Fault Refusal :=
  .next (finish 0x017 f (intOne f s (fun w a => fitS w f.sat (-(signed w a)))) s)

/-- `clz` (R112). -/
def execClz (f : Fields) (s : State) : Host.Outcome State Fault Refusal :=
  .next (finish 0x018 f (intOne f s (fun w a => clzLane w a)) s)

/-- `ctz` (R112). -/
def execCtz (f : Fields) (s : State) : Host.Outcome State Fault Refusal :=
  .next (finish 0x019 f (intOne f s (fun w a => ctzBits w a)) s)

/-- `popc` (R112). -/
def execPopc (f : Fields) (s : State) : Host.Outcome State Fault Refusal :=
  .next (finish 0x01A f (intOne f s (fun w a => popBits w a)) s)

/-- `bswap` (R112). -/
def execBswap (f : Fields) (s : State) : Host.Outcome State Fault Refusal :=
  .next (finish 0x01B f (intOne f s (fun w a => swapBytes (w / 8) a)) s)

/-- `addsat` (R109): unsigned, whatever sat says. -/
def execAddsat (f : Fields) (s : State) : Host.Outcome State Fault Refusal :=
  .next (finish 0x01C f (intTwo 0x01C f s (fun w a b => fitU w ((a + b : Nat) : Int))) s)

/-- `subsat` (R109). -/
def execSubsat (f : Fields) (s : State) : Host.Outcome State Fault Refusal :=
  .next (finish 0x01D f (intTwo 0x01D f s (fun w a b => fitU w ((a : Int) - (b : Int)))) s)

/-- `lea` (R115): addresses wrap modulo 2^64. -/
def execLea (f : Fields) (s : State) : Host.Outcome State Fault Refusal :=
  .next (finish 0x01E f (intTwo 0x01E f s (fun w a b => (a + b * 2 ^ (f.aux16.toNat % 8)) % 2 ^ w)) s)

/-- `mad` (R113): one wrap or clamp of the exact a × b + c. -/
def execMad (f : Fields) (s : State) : Host.Outcome State Fault Refusal :=
  .next (finish 0x01F f (intThree 0x01F f s (fun w a b c => fitS w f.sat (signed w a * signed w b + signed w c))) s)

/-- `dot8` (R113). -/
def execDot8 (f : Fields) (s : State) : Host.Outcome State Fault Refusal :=
  .next (finish 0x020 f (dot8Value f s) s)

/-- `cmp` of R114: 1 in a lane where the relation holds. -/
def execCmpEq (f : Fields) (s : State) : Host.Outcome State Fault Refusal :=
  .next (finish 0x021 f (intTwo 0x021 f s (fun _ a b => if a = b then 1 else 0)) s)

/-- `cmp` of R114: 1 in a lane where the relation holds. -/
def execCmpNe (f : Fields) (s : State) : Host.Outcome State Fault Refusal :=
  .next (finish 0x022 f (intTwo 0x022 f s (fun _ a b => if a ≠ b then 1 else 0)) s)

/-- `cmp` of R114: 1 in a lane where the relation holds. -/
def execCmpLt (f : Fields) (s : State) : Host.Outcome State Fault Refusal :=
  .next (finish 0x023 f (intTwo 0x023 f s (fun w a b => if signed w a < signed w b then 1 else 0)) s)

/-- `cmp` of R114: 1 in a lane where the relation holds. -/
def execCmpLe (f : Fields) (s : State) : Host.Outcome State Fault Refusal :=
  .next (finish 0x024 f (intTwo 0x024 f s (fun w a b => if signed w a ≤ signed w b then 1 else 0)) s)

/-- `cmp` of R114: 1 in a lane where the relation holds. -/
def execCmpLtu (f : Fields) (s : State) : Host.Outcome State Fault Refusal :=
  .next (finish 0x025 f (intTwo 0x025 f s (fun _ a b => if a < b then 1 else 0)) s)

/-- `cmp` of R114: 1 in a lane where the relation holds. -/
def execCmpLeu (f : Fields) (s : State) : Host.Outcome State Fault Refusal :=
  .next (finish 0x026 f (intTwo 0x026 f s (fun _ a b => if a ≤ b then 1 else 0)) s)

/-- `sext` (R115). -/
def execSext (f : Fields) (s : State) : Host.Outcome State Fault Refusal :=
  .next (finish 0x027 f (intOne f s (fun w a => sextLane w (f.aux16.toNat % 64) a)) s)

/-- `zext` (R115). -/
def execZext (f : Fields) (s : State) : Host.Outcome State Fault Refusal :=
  .next (finish 0x028 f (intOne f s (fun _ a => a % 2 ^ (f.aux16.toNat % 64 + 1))) s)

/-- `bext` (R115). -/
def execBext (f : Fields) (s : State) : Host.Outcome State Fault Refusal :=
  .next (finish 0x029 f (intOne f s (fun _ a => a / 2 ^ (f.aux16.toNat % 64) % 2 ^ (f.aux16.toNat / 64 + 1))) s)

/-- `bins` (R115). -/
def execBins (f : Fields) (s : State) : Host.Outcome State Fault Refusal :=
  .next (finish 0x02A f (intTwo 0x02A f s (fun _ a b => binsLane (f.aux16.toNat % 64) (f.aux16.toNat / 64 + 1) a b)) s)

end Sys2Proof.Machine
end

