-- ==== Sys2Proof/Machine/Convert.lean ====
section
/-! DEFINITION. Group 2, conversion and lane forms (R127 to R133), and the conversion station (R91, R92). -/

namespace Sys2Proof.Machine

/-- The value whose lane i is given by a function of the source lanes, for every lane of fmt_out; no preparation, the
operand is read as tagged. -/
def laneValue (f : Fields) (g : Nat → LaneRes) : Value :=
  let xs := (List.range (Fmt.lanes f.fmtOut)).map g
  ⟨packLanes f.fmtOut (xs.map LaneRes.bits), f.fmtOut, causeOf xs, false⟩

/-- Source lane `i` of a token as tagged, converted by `g` from the token's format; 0 where the source has none. -/
def fromLane (g : Fmt → Nat → LaneRes) (t : Token) (i : Nat) : LaneRes :=
  if i < Fmt.lanes t.fmt then g t.fmt (lane t.fmt t.payload i) else ⟨0, none⟩

/-- The conversion of `cvt` (R127). -/
def cvtLane (f : Fields) (src : Fmt) (x : Nat) : LaneRes := convert src f.fmtOut f.round f.sat x

/-- The conversion of `cvt.i`, to an unsigned integer (R127). -/
def cvtILane (f : Fields) (src : Fmt) (x : Nat) : LaneRes :=
  let w := Fmt.width f.fmtOut
  let hi : Int := ((2 ^ w : Nat) : Int) - 1
  if Fmt.isFloat src then floatToInt w 0 hi f.round f.sat (decodeF src x)
  else if f.sat then ⟨(clampInt 0 hi (signed (Fmt.width src) x)).toNat, none⟩
  else ⟨x % 2 ^ w, none⟩

/-- The conversion of `cvt.f`, from an unsigned integer (R127). -/
def cvtFLane (f : Fields) (src : Fmt) (x : Nat) : LaneRes :=
  if Fmt.isFloat src then convert src f.fmtOut f.round f.sat x
  else roundF f.fmtOut f.round f.sat false x 0

/-- `cvt` (R127). -/
def execCvt (f : Fields) (s : State) : Host.Outcome State Fault Refusal :=
  .next (finish 0x100 f (laneValue f (fromLane (cvtLane f) (opL f s))) s)

/-- `cvt.i` (R127). -/
def execCvtI (f : Fields) (s : State) : Host.Outcome State Fault Refusal :=
  .next (finish 0x101 f (laneValue f (fromLane (cvtILane f) (opL f s))) s)

/-- `cvt.f` (R127). -/
def execCvtF (f : Fields) (s : State) : Host.Outcome State Fault Refusal :=
  .next (finish 0x102 f (laneValue f (fromLane (cvtFLane f) (opL f s))) s)

/-- `retag` (R128). -/
def execRetag (f : Fields) (s : State) : Host.Outcome State Fault Refusal :=
  .next (finish 0x103 f ⟨(opL f s).payload, f.fmtOut, none, false⟩ s)

/-- `pack` (R129): the lower half of the result from L, the upper from R. -/
def packValue (f : Fields) (s : State) : Value :=
  let h := Fmt.lanes f.fmtOut / 2
  let v := laneValue f (fun i =>
    if i < h then fromLane (cvtLane f) (opL f s) i else fromLane (cvtLane f) (opR 0x104 f s) (i - h))
  { v with cause := minCause (immCause 0x104 f) v.cause }

/-- `pack` (R129). -/
def execPack (f : Fields) (s : State) : Host.Outcome State Fault Refusal := .next (finish 0x104 f (packValue f s) s)

/-- `unpack.lo` (R129). -/
def execUnpackLo (f : Fields) (s : State) : Host.Outcome State Fault Refusal :=
  .next (finish 0x105 f (laneValue f (fromLane (cvtLane f) (opL f s))) s)

/-- `unpack.hi` (R129). -/
def execUnpackHi (f : Fields) (s : State) : Host.Outcome State Fault Refusal :=
  .next (finish 0x106 f (laneValue f (fun i => fromLane (cvtLane f) (opL f s) (Fmt.lanes f.fmtOut + i))) s)

/-- `shuf` (R130): selector byte i of R picks the lane of L for lane i. -/
def shufValue (f : Fields) (s : State) : Value :=
  let l := prepare f.fmtOut f (opL f s)
  let r := (opR 0x107 f s).payload
  let n := Fmt.lanes f.fmtOut
  let xs := (List.range n).map (fun i =>
    let sel := field r (8 * i + 7) (8 * i)
    if 128 ≤ sel || n ≤ sel % 128 then 0 else l.lanes.getD (sel % 8) 0)
  ⟨packLanes f.fmtOut xs, f.fmtOut, l.cause, l.converted⟩

/-- `shuf` (R130). -/
def execShuf (f : Fields) (s : State) : Host.Outcome State Fault Refusal := .next (finish 0x107 f (shufValue f s) s)

/-- The value of a form of one prepared operand from its lanes. -/
def lanesValue (f : Fields) (s : State) (g : List Nat → List LaneRes) : Value :=
  let l := prepare f.fmtOut f (opL f s)
  let xs := g l.lanes
  ⟨packLanes f.fmtOut (xs.map LaneRes.bits), f.fmtOut, minCause l.cause (causeOf xs), l.converted⟩

/-- `bcast` (R131). -/
def execBcast (f : Fields) (s : State) : Host.Outcome State Fault Refusal :=
  .next (finish 0x108 f (lanesValue f s (fun xs =>
    List.replicate (Fmt.lanes f.fmtOut) ⟨xs.getD (f.aux16.toNat % 8) 0, none⟩)) s)

/-- `lext` (R131). -/
def execLext (f : Fields) (s : State) : Host.Outcome State Fault Refusal :=
  .next (finish 0x109 f (lanesValue f s (fun xs => [⟨xs.getD (f.aux16.toNat % 8) 0, none⟩])) s)

/-- `lins` (R131). -/
def linsValue (f : Fields) (s : State) : Value :=
  let l := prepare f.fmtOut f (opL f s)
  let r := prepareR 0x10A f.fmtOut f s
  ⟨packLanes f.fmtOut (l.lanes.set (f.aux16.toNat % 8) (r.lanes.getD 0 0)), f.fmtOut, minCause l.cause r.cause,
    l.converted || r.converted⟩

/-- `lins` (R131). -/
def execLins (f : Fields) (s : State) : Host.Outcome State Fault Refusal := .next (finish 0x10A f (linsValue f s) s)

/-- The lanes that a mask enables (R83). -/
def maskLanes (f : Fields) (xs : List Nat) : List Nat :=
  ((List.range xs.length).filter (fun i => bit f.aux16 i)).map (fun i => xs.getD i 0)

/-- The exact sum of lanes, rounded or fitted once (R132). -/
def hsumLane (f : Fields) (xs : List Nat) : LaneRes :=
  if Fmt.isFloat f.fmtOut then sumTo f.fmtOut f.round f.sat false (xs.map (decodeF f.fmtOut))
  else ⟨fitS (Fmt.width f.fmtOut) f.sat (sumInt (xs.map (signed (Fmt.width f.fmtOut)))), none⟩

/-- The larger or smaller of two lanes, as `fmax` or `fmin`, or signed (R132). -/
def pickLane (g : Fmt) (max : Bool) (a b : Nat) : Nat :=
  if Fmt.isFloat g then (minMaxLane g false max a b).bits
  else if (signed (Fmt.width g) a ≤ signed (Fmt.width g) b) == max then b else a

/-- A reduction of enabled lanes, first to last. -/
def foldLanes (g : Nat → Nat → Nat) : List Nat → Nat
  | [] => 0
  | [x] => g x x
  | x :: y :: xs => g x (foldLanes g (y :: xs))

/-- `hsum` (R132). -/
def execHsum (f : Fields) (s : State) : Host.Outcome State Fault Refusal :=
  .next (finish 0x10B f (lanesValue f s (fun xs => [hsumLane f (maskLanes f xs)])) s)

/-- `hmax` (R132). -/
def execHmax (f : Fields) (s : State) : Host.Outcome State Fault Refusal :=
  .next (finish 0x10C f (lanesValue f s (fun xs => [⟨foldLanes (pickLane f.fmtOut true) (maskLanes f xs), none⟩])) s)

/-- `hmin` (R132). -/
def execHmin (f : Fields) (s : State) : Host.Outcome State Fault Refusal :=
  .next (finish 0x10D f (lanesValue f s (fun xs => [⟨foldLanes (pickLane f.fmtOut false) (maskLanes f xs), none⟩])) s)

/-- `fdot` (R133): the exact sum of products of enabled lanes, rounded once, in lane 0. -/
def fdotValue (f : Fields) (s : State) : Value :=
  let l := prepare f.fmtOut f (opL f s)
  let r := prepareR 0x10E f.fmtOut f s
  let p := products ((maskLanes f l.lanes).map (decodeF f.fmtOut)) ((maskLanes f r.lanes).map (decodeF f.fmtOut))
  let x := sumTo f.fmtOut f.round f.sat p.2 p.1
  ⟨packLanes f.fmtOut [x.bits], f.fmtOut, minCause (minCause l.cause r.cause) x.cause, l.converted || r.converted⟩

/-- `fdot` (R133). -/
def execFdot (f : Fields) (s : State) : Host.Outcome State Fault Refusal := .next (finish 0x10E f (fdotValue f s) s)

/-- The second flit of a diversion request (R92). -/
def divertFlit (back : Target) (g : Fmt) (round : Round) (sat : Bool) : Word :=
  BitVec.ofNat 64 (Target.bits back + g.code.toNat * 2 ^ 32 + round.code.toNat * 2 ^ 35 + one sat * 2 ^ 37)

/-- The conversion station fires on a diversion request (R92): the firing's operands are the two flits. The converted
token returns in the response class to the carried address, with its own ctx, tag, seq, end bits and port. -/
def convertedToken (s : State) : Token × Option Cause :=
  let t := s.firing.toks.getD 0 .zero
  let c := (s.firing.toks.getD 1 .zero).payload
  let g := Fmt.ofCode (BitVec.ofNat 3 (field c 34 32))
  let rs := convertLanes t.fmt g (Round.ofCode (BitVec.ofNat 2 (field c 36 35))) (bit c 37) t.payload
  let back := targetOf (field c 31 0)
  let cause := causeOf rs
  ({ t with payload := packLanes g (rs.map LaneRes.bits), fmt := g, poison := t.poison || cause.isSome,
            die := back.die, row := back.row, col := back.col, station := back.station }, cause)

/-- CONVERSION_STATION_FIRE (R92). -/
def execConversionStationFire (f : Fields) (s : State) : Host.Outcome State Fault Refusal :=
  let r := convertedToken s
  .next (pushResult 0x100 f false (causeNum r.2) [.token r.1 .response] s)

end Sys2Proof.Machine
end

