-- ==== Sys2Proof/Machine/Flow.lean ====
section
/-! DEFINITION. Group 3, dataflow control and tags (R141 to R150). -/

namespace Sys2Proof.Machine

/-- `steer` (R141): L to A when P is nonzero, to B otherwise. -/
def execSteer (f : Fields) (s : State) : Host.Outcome State Fault Refusal :=
  let l := opL f s
  let p := tokR f s
  if p.poison then .next (finishReport 0x180 f s)
  else
    let t := { emitted 0x180 f s l.payload l.fmt l.poison with ends := l.ends }
    .next (finishWith 0x180 f (emitTo (if p.payload != 0 then f.a else f.b) t) s)

/-- `merge` (R141): the arriving token to every target. -/
def execMerge (f : Fields) (s : State) : Host.Outcome State Fault Refusal := .next (finishPass 0x181 f (opL f s) s)

/-- `mux` (R141): L when P is nonzero, R otherwise. -/
def execMux (f : Fields) (s : State) : Host.Outcome State Fault Refusal :=
  if (opP f s).poison then .next (finishReport 0x182 f s)
  else .next (finishPass 0x182 f (if (opP f s).payload != 0 then opL f s else opR 0x182 f s) s)

/-- `fan` (R141). -/
def execFan (f : Fields) (s : State) : Host.Outcome State Fault Refusal := .next (finishPass 0x183 f (opL f s) s)

/-- The record of a sink's poison-report (R60): the lowest log entry of its region with the same ctx and tag, else the
sink itself. -/
def sinkRecord (r : Region) (e : ErrRec) : ErrRec :=
  match r.log.find? (fun w => field w 18 16 == e.ctx && field w 15 0 == e.tag) with
  | some w => ⟨0x03, ⟨field w 47 43, field w 42 36, field w 35 28⟩, field w 27 19, e.ctx, e.tag⟩
  | none => { e with code := 0x03 }

/-- A sink has received a poisoned token: the state with its first one of a (ctx, tag) remembered, and whether this is
that first one (R60). -/
def State.sinkFirst (s : State) (region site st ctx tag : Nat) : Bool × State :=
  let k := (member site st, ctx, tag)
  if (s.region region).reported.contains k then (false, s)
  else (true, s.onRegion region (fun r => { r with reported := r.reported ++ [k] }))

/-- `sink` (R141, R60). -/
def execSink (f : Fields) (s : State) : Host.Outcome State Fault Refusal :=
  if (opL f s).poison then
    let r := s.fireRegion.getD 0
    let q := s.sinkFirst r s.firing.site s.firing.station s.firing.ctx s.firing.tag
    .next (finishWith 0x184 f
      (if q.1 then [.error (sinkRecord (s.region r) (s.fireRec 0x03)) none false] else []) q.2)
  else .next (finishWith 0x184 f [] s)

/-- `const` (R142): imm16 formed in fmt_out. -/
def execConst (f : Fields) (s : State) : Host.Outcome State Fault Refusal :=
  .next (finish 0x185 f ⟨(immToken 0x185 f).payload, f.fmtOut, immCause 0x185 f, false⟩ s)

/-- The held value that an `invar` emits: that of its register, or the immediate. -/
def heldValue (f : Fields) (s : State) : Held :=
  let t := immToken 0x186 f
  if f.imm then ⟨t.payload, t.fmt, false⟩
  else Map.get (s.pe s.firing.site).invar ⟨0, .i64, false⟩ (stKey s.firing.ctx s.firing.station)

/-- The L tokens that waited for a held value become matched sets (R143). -/
def wakeInvar (ctx st now : Nat) (p : Pe) : Pe :=
  let ws := p.entries.filter (fun e => e.ctx == ctx && e.station == st)
  { p with
    entries := p.entries.filter (fun e => !(e.ctx == ctx && e.station == st))
    marked := p.marked ++ ws.map (fun e => ⟨ctx, st, e.tag, now, [e.tok], 1, one e.shared⟩) }

/-- `invar` (R143): a token on R replaces the held value and emits nothing; a token on L emits it. -/
def execInvar (f : Fields) (s : State) : Host.Outcome State Fault Refusal :=
  let t := opL f s
  if t.port == .r then
    .next (finishWith 0x186 f [] (s.onPe s.firing.site (fun p =>
      wakeInvar s.firing.ctx s.firing.station (s.now s.fireSite.die) { p with
        invar := Map.put p.invar (stKey s.firing.ctx s.firing.station) ⟨t.payload, t.fmt, t.poison⟩ })))
  else
    let h := heldValue f s
    .next (finishWith 0x186 f (emitAll f (emitted 0x186 f s h.payload h.fmt (t.poison || h.poison))) s)

/-- A token emitted under a tag of the form's own (R144). -/
def retagged (op : Nat) (f : Fields) (s : State) (tag : Nat) : Token :=
  { emitted op f s (opL f s).payload (opL f s).fmt (anyPoison (operands f s)) with tag := BitVec.ofNat 16 tag }

/-- The progress monitor keeps the last `wave` firing of a region (R242). -/
def noteWave (s : State) : State :=
  match s.fireRegion with
  | some k => s.onRegion k (fun r => { r with lastWave := some (s.firing.site, s.firing.station, s.firing.tag) })
  | none => s

/-- `wave` (R145): L under tag + 1. Its result leaves once that tag is admitted (R229). -/
def execWave (f : Fields) (s : State) : Host.Outcome State Fault Refusal :=
  .next (finishWith 0x187 f (emitAll f (retagged 0x187 f s (s.firing.tag + 1))) (noteWave s))

/-- `tag.set` (R144). -/
def execTagSet (f : Fields) (s : State) : Host.Outcome State Fault Refusal :=
  let r := opR 0x188 f s
  if r.poison then .next (finishReport 0x188 f s)
  else .next (finishWith 0x188 f (emitAll f (retagged 0x188 f s (field r.payload 15 0))) s)

/-- `tag.inc` (R144). -/
def execTagInc (f : Fields) (s : State) : Host.Outcome State Fault Refusal :=
  .next (finishWith 0x189 f (emitAll f (retagged 0x189 f s (s.firing.tag + f.aux16.toNat))) s)

/-- `tag.split` (R144). -/
def execTagSplit (f : Fields) (s : State) : Host.Outcome State Fault Refusal :=
  .next (finishWith 0x18A f (emitAll f
    (retagged 0x18A f s (s.firing.tag * 2 ^ (f.aux16.toNat % 16) + f.aux16.toNat / 16))) s)

/-- `tag.join` (R144): only when R is nonzero. -/
def execTagJoin (f : Fields) (s : State) : Host.Outcome State Fault Refusal :=
  let r := opR 0x18B f s
  if r.poison then .next (finishReport 0x18B f s)
  else .next (finishWith 0x18B f
    (if r.payload != 0 then emitAll f (retagged 0x18B f s (s.firing.tag / 2 ^ (f.aux16.toNat % 16))) else []) s)

/-- A control token that hardware generates: fmt 6, seq 0 (R20). -/
def controlToken (kind arg : Nat) (t : Token) : Token :=
  { t with payload := BitVec.ofNat 64 (kind * 2 ^ 56 + arg), fmt := .i64, seq := 0 }

/-- `squash` (R146). -/
def execSquash (f : Fields) (s : State) : Host.Outcome State Fault Refusal :=
  .next (finishWith 0x18C f (emitAll f
    (controlToken 0x02 s.firing.tag (emitted 0x18C f s 0 .i64 (opL f s).poison))) s)

/-- A firing that waits: its set goes back to the ready queue. -/
def requeue (s : State) : State :=
  s.onPe s.firing.site (fun p => { p with
    ready := ⟨s.firing.ctx, s.firing.station, s.firing.tag, s.firing.matched, s.firing.toks,
      s.firing.entries, s.firing.shared⟩ :: p.ready })

/-- Taking the lowest free frame of a pool and emitting L to target A under its tag, through the station's tagop (R79); with no
frame free the firing waits (R148). -/
def enterFrame (op pool : Nat) (ret : BitVec 32) (f : Fields) (s : State) : State :=
  match s.fireReg.frameFree pool with
  | none => requeue s
  | some t =>
    let s' := s.onRegion (s.fireRegion.getD 0) (fun r => { r with
      frames := Map.put r.frames t ⟨s.firing.tag, (fireSeq f s).toNat, ret, member s.firing.site s.firing.station⟩ })
    finishWith op f (emitTo f.a (retagged op f s (emitTag f t))) s'

/-- Leaving the frame whose tag is the firing's: L to a target under the caller's tag, through the station's tagop (R79), and
seq; none in use faults with frame-illegal (R148). A poisoned L does nothing but send a poison-report (R137). -/
def leaveFrame (op : Nat) (dest : Frame → Target) (f : Fields) (s : State) : State :=
  if (opL f s).poison then finishReport op f s
  else match Map.find s.fireReg.frames s.firing.tag with
  | none => finishFault op f 0x13 s
  | some fr =>
    let t := { retagged op f s (emitTag f fr.tag) with seq := BitVec.ofNat 6 fr.seq }
    finishWith op f (emitTo (dest fr) t)
      (s.onRegion (s.fireRegion.getD 0) (fun r => { r with frames := Map.del r.frames s.firing.tag }))

/-- `call` (R148). -/
def execCall (f : Fields) (s : State) : Host.Outcome State Fault Refusal :=
  .next (enterFrame 0x18D (f.aux16.toNat % 4) (BitVec.ofNat 32 (Target.bits f.b)) f s)

/-- `ret` (R148). -/
def execRet (f : Fields) (s : State) : Host.Outcome State Fault Refusal :=
  .next (leaveFrame 0x18E (fun fr => targetOf fr.ret.toNat) f s)

/-- `frame.new` (R148): as `call` on pool 0, recording no return target. -/
def execFrameNew (f : Fields) (s : State) : Host.Outcome State Fault Refusal := .next (enterFrame 0x18F 0 0 f s)

/-- `frame.free` (R148). -/
def execFrameFree (f : Fields) (s : State) : Host.Outcome State Fault Refusal :=
  .next (leaveFrame 0x190 (fun _ => f.a) f s)

/-- No running value. -/
def Accum.zero : Accum := ⟨0, 0, false, false, 0, [], false, []⟩

/-- How a contribution joins a running value, lane by lane (R149): the patterns before, then the new lanes. -/
def combine (f : Fields) (max : Bool) (a b : Nat) : LaneRes :=
  if Fmt.isFloat f.fmtOut then (if max then minMaxLane f.fmtOut false true a b else addLane f false a b)
  else
    let w := Fields.width f
    if max then ⟨if signed w a ≤ signed w b then b else a, none⟩
    else ⟨fitS w f.sat (signed w a + signed w b), none⟩

/-- The lanes on which a running value is kept. -/
def accLanes (f : Fields) (xs : List Nat) : List Nat :=
  if Fmt.isFloat f.fmtOut then xs else xs.map (fun x => x % 2 ^ Fields.width f)

/-- The payload of a running value's lanes. -/
def accPayload (f : Fields) (xs : List Nat) : Word :=
  if Fmt.isFloat f.fmtOut then packLanes f.fmtOut xs else intPayload f xs

/-- One contribution added in its turn (R65): the value, and the exceptional cause of the step. -/
def addContribution (f : Fields) (max : Bool) (a : Accum) (t : Token) : Accum × Option Cause :=
  let p := prepare f.fmtOut f t
  let rs := if a.started
    then List.zipWith (combine f max) (accLanes f (lanesOf f.fmtOut a.value)) (accLanes f p.lanes)
    else (accLanes f p.lanes).map (fun x => ⟨x, none⟩)
  let c := minCause p.cause (causeOf rs)
  (⟨accPayload f (rs.map LaneRes.bits), a.next + 1, true, a.poison || t.poison || c.isSome, a.ends ||| t.ends,
    a.waiting, a.shared, a.pooled⟩, c)

/-- The contributions whose turn has come are added, until the one that carries E0 ends the sum: the running value, the
lowest cause, and whether the sum is whole. -/
def addWaiting (f : Fields) (max : Bool) : Nat → Accum → Option Cause → Accum × Option Cause × Bool
  | 0, a, c => (a, c, false)
  | n + 1, a, c =>
    match a.waiting.find? (fun t => t.seq.toNat == a.next % 64) with
    | none => (a, c, false)
    | some t =>
      let r := addContribution f max { a with waiting := a.waiting.erase t, pooled := a.pooled.erase t.seq.toNat } t
      if t.ends.getLsbD 0 then (r.1, minCause c r.2, true) else addWaiting f max n r.1 (minCause c r.2)

/-- A running value with the firing's contribution waiting at it, under the entries that the contribution took (R149, R227): the
first of its tag took one for the running value, and an early one took one of its own. -/
def joinWaiting (s : State) (t : Token) (a : Option Accum) : Accum :=
  let z := a.getD Accum.zero
  let early := s.firing.entries - (if a.isNone then 1 else 0)
  { z with
    waiting := z.waiting ++ [t]
    shared := if a.isNone then decide (0 < s.firing.shared) && s.firing.shared == s.firing.entries else z.shared
    pooled := if 0 < early && 0 < s.firing.shared then z.pooled ++ [t.seq.toNat] else z.pooled }

/-- A contribution of `acc` or `accmax` (R149): a clash faults; otherwise it joins the waiting ones, those in turn are
added, and a whole sum is emitted and its state cleared. -/
def accumulate (op : Nat) (max : Bool) (f : Fields) (s : State) : State :=
  let t := opL f s
  let k := accKey s.firing.ctx s.firing.station s.firing.tag
  let a := Map.find (s.pe s.firing.site).accum k
  if (a.getD Accum.zero).waiting.any (fun u => u.seq == t.seq) then finishFault op f 0x16 s
  else
    let a' := joinWaiting s t a
    let r := addWaiting f max a'.waiting.length a' none
    let conv := (prepare f.fmtOut f t).converted
    if r.2.2 then
      let s' := s.onPe s.firing.site (fun p => { p with accum := Map.del p.accum k })
      let out := { emitted op f s r.1.value f.fmtOut r.1.poison with seq := 0, ends := r.1.ends }
      pushResult op f conv (causeNum r.2.1) (emitAll f out) s'
    else
      pushResult op f conv (causeNum r.2.1) []
        (s.onPe s.firing.site (fun p => { p with accum := Map.put p.accum k r.1 }))

/-- `acc` (R149). -/
def execAcc (f : Fields) (s : State) : Host.Outcome State Fault Refusal := .next (accumulate 0x191 false f s)

/-- `accmax` (R149). -/
def execAccmax (f : Fields) (s : State) : Host.Outcome State Fault Refusal := .next (accumulate 0x192 true f s)

/-- `count` (R150): adds one; the contribution with E0 ends the count. -/
def countStep (f : Fields) (s : State) : State :=
  let t := opL f s
  let k := accKey s.firing.ctx s.firing.station s.firing.tag
  let a := Map.get (s.pe s.firing.site).accum Accum.zero k
  let w := Fields.width f
  let v : Word := BitVec.ofNat 64 (wrapNat 64 (signed w (fitS w f.sat (signed w a.value.toNat + 1))))
  let p := a.poison || t.poison
  if t.ends.getLsbD 0 then
    finishWith 0x193 f (emitAll f (emitted 0x193 f s v .i64 p))
      (s.onPe s.firing.site (fun q => { q with accum := Map.del q.accum k }))
  else
    finishWith 0x193 f []
      (s.onPe s.firing.site (fun q => { q with accum := Map.put q.accum k ⟨v, a.next + 1, true, p, 0, [], a.shared, []⟩ }))

/-- `count` (R150). -/
def execCount (f : Fields) (s : State) : Host.Outcome State Fault Refusal := .next (countStep f s)

end Sys2Proof.Machine
end

