-- ==== Sys2Proof/Machine/Names.lean ====
section
/-! DEFINITION. Statements, slots and generations (R247 to R253), and the name forms of group 4 as a PE sends them
(R151 to R155). -/

namespace Sys2Proof.Machine

/-- The format of a statement (R250). -/
def Desc.fmt (d : Desc) : Fmt := Fmt.ofCode (BitVec.ofNat 3 (field d.w0 2 0))
/-- Its dimensions. -/
def Desc.dims (d : Desc) : Nat := field d.w0 4 3 + 1
/-- A discardable segment. -/
def Desc.discard (d : Desc) : Bool := bit d.w0 5
/-- Generations wrap. -/
def Desc.wrap (d : Desc) : Bool := bit d.w0 6
/-- Tile rows. -/
def Desc.rows (d : Desc) : Nat := field d.w0 17 8 + 1
/-- Words per row. -/
def Desc.rowWords (d : Desc) : Nat := field d.w0 29 18 + 1
/-- Words of a tile (R151). -/
def Desc.words (d : Desc) : Nat := d.rows * d.rowWords
/-- Reader count. -/
def Desc.readers (d : Desc) : Nat := field d.w0 41 30
/-- Extent of dimension `k`. -/
def Desc.extent (d : Desc) (k : Nat) : Nat := field d.w1 (16 * k + 15) (16 * k) + 1
/-- Modulus of dimension `k`. -/
def Desc.modulus (d : Desc) (k : Nat) : Nat := field d.w2 (16 * k + 15) (16 * k)
/-- Tiles of the segment. -/
def Desc.tiles (d : Desc) : Nat := field d.w3 46 41 + 1
/-- The first tile's number in its column. -/
def Desc.first (d : Desc) : Nat := field d.w3 40 35
/-- The grid column of the segment (R25). -/
def Desc.gridCol (d : Desc) : Nat := 17 * (field d.w3 34 32 + 1)
/-- The product of the moduli: the slots (R249). -/
def Desc.slots (d : Desc) : Nat := d.modulus 0 * d.modulus 1 * d.modulus 2 * d.modulus 3

/-- The index of dimension `k` in a tag (R252). -/
def Desc.index (d : Desc) (tag k : Nat) : Nat :=
  tag / 2 ^ field d.w3 (8 * k + 3) (8 * k) % 2 ^ (field d.w3 (8 * k + 7) (8 * k + 4) + 1)

/-- Slot and generation from dimension `k` on (R252); none where an index passes its extent. -/
def Desc.walk (d : Desc) (tag : Nat) : Nat → Nat → Nat × Nat → Option (Nat × Nat)
  | 0, _, sg => some sg
  | n + 1, k, (s, g) =>
    let i := d.index tag k
    let m := max 1 (d.modulus k)
    if d.extent k ≤ i then none
    else Desc.walk d tag n (k + 1) (s * m + i % m, g * ((d.extent k + m - 1) / m) + i / m)

/-- The slot and generation of a name (R252, R253). -/
def Desc.place (d : Desc) (tag : Nat) : Option (Nat × Nat) := d.walk tag d.dims 0 (0, 0)

/-- Generation `a` is newer than `b` (R252, R253). -/
def Desc.newer (d : Desc) (a b : Nat) : Bool :=
  if d.wrap then
    let n := 2 ^ 16 / max 1 (d.modulus 0)
    let x := (a + n - b % n) % n
    1 ≤ x && x < n / 2
  else b < a

/-- The tile of a slot on a die (R249). -/
def Desc.tileOf (d : Desc) (die slot : Nat) : Site := ⟨die, 2 * (d.first + slot % d.tiles) + 1, d.gridCol⟩

/-- The position of a slot in its tile (R249). -/
def Desc.posOf (d : Desc) (slot : Nat) : Nat := slot / d.tiles

/-- No descriptor. -/
def Desc.zero : Desc := ⟨0, 0, 0, 0⟩

/-- The key of a statement's descriptor copy. -/
def descKey (ctx stmt : Nat) : Nat := ctx * 4096 + stmt

/-- The descriptor copy of the firing's PE (R250). -/
def fireDesc (f : Fields) (s : State) : Desc :=
  Map.get (s.pe s.firing.site).descs Desc.zero (descKey s.firing.ctx (f.aux16.toNat % 4096))

/-- A message of a name form to the tile that its name's slot lies in (R265); a name outside the extents faults with
out-of-range (R252). -/
def sendName (op : Nat) (f : Fields) (conv : Bool) (cause : Option Cause) (m : Msg) (s : State) : State :=
  let d := fireDesc f s
  match d.place s.firing.tag with
  | none => finishFault op f 0x07 s
  | some (slot, _) =>
    let x := d.tileOf s.fireSite.die slot
    pushResult op f conv (causeNum cause) [.msg m x.die x.row x.col] s

/-- The valid targets of a word. -/
def validTargets (f : Fields) : List Target := (Fields.targets f).filter Target.valid

/-- `nwr` (R152): one converted word of the name. -/
def execNwr (f : Fields) (s : State) : Host.Outcome State Fault Refusal :=
  let t := opL f s
  let p := prepare f.fmtOut f t
  let reply := emitted 0x200 f s 0 .i64 (t.poison || p.cause.isSome)
  let w : NameWord := ⟨f.aux16.toNat, s.firing.ctx, s.firing.tag, packLanes f.fmtOut p.lanes,
    t.poison || p.cause.isSome, if f.a.valid then some (Token.toTarget reply f.a) else none,
    s.firing.site, s.firing.station, false, false, s.firing.toks.getD 0 .zero⟩
  .next (sendName 0x200 f p.converted p.cause (.word w) s)

/-- The message of `nrd`, `npeek` and `nrel`. -/
def readMsg (op : Nat) (k : ReadKind) (f : Fields) (s : State) : Msg :=
  .read ⟨k, f.aux16.toNat, s.firing.ctx, s.firing.tag, s.fireSite.col % 2, validTargets f,
    { emitted op f s 0 f.fmtOut false with ends := 0, seq := 0 }, s.fireRegion.getD 0, false,
    s.firing.site, s.firing.station, 0⟩

/-- `nrd` (R153). -/
def execNrd (f : Fields) (s : State) : Host.Outcome State Fault Refusal :=
  .next (sendName 0x201 f false none (readMsg 0x201 .nrd f s) s)

/-- `npeek` (R153). -/
def execNpeek (f : Fields) (s : State) : Host.Outcome State Fault Refusal :=
  .next (sendName 0x202 f false none (readMsg 0x202 .npeek f s) s)

/-- `nrel` (R154). -/
def execNrel (f : Fields) (s : State) : Host.Outcome State Fault Refusal :=
  .next (sendName 0x203 f false none (readMsg 0x203 .nrel f s) s)

/-- A fold form sends its moduli to the first tile of the segment (R155, R264). A poisoned moduli set is not used
(R57). -/
def sendFold (op : Nat) (k : FoldKind) (f : Fields) (s : State) : State :=
  let l := opL f s
  if l.poison && k != .query then finishReport op f s
  else
    let d := fireDesc f s
    let x := d.tileOf s.fireSite.die 0
    let t := emitted op f s 0 .i64 l.poison
    let q : FoldReq := ⟨k, f.aux16.toNat, s.firing.ctx, l.payload,
      if f.a.valid then [Token.toTarget t f.a] else [], (s.firing.toks.getD 0 .zero), s.fireRegion.getD 0⟩
    finishWith op f [.msg (.fold q) x.die x.row x.col] s

/-- `fold.set` (R155, R266). -/
def execFoldSet (f : Fields) (s : State) : Host.Outcome State Fault Refusal := .next (sendFold 0x204 .set f s)

/-- `fold.resize` (R155, R264). -/
def execFoldResize (f : Fields) (s : State) : Host.Outcome State Fault Refusal := .next (sendFold 0x205 .resize f s)

/-- `fold.q` (R155, R267). -/
def execFoldQ (f : Fields) (s : State) : Host.Outcome State Fault Refusal := .next (sendFold 0x206 .query f s)

end Sys2Proof.Machine
end

