-- ==== Sys2Proof/Machine/Requests.lean ====
section
/-! DEFINITION. The request, atomic and queue forms of group 4 as a PE sends them (R158 to R163). -/

namespace Sys2Proof.Machine

/-- The request that a firing sends (R214). -/
def requestOf (op : Nat) (f : Fields) (s : State) (data cmp : Word) (poison : Bool) : PortReq :=
  { op := op, aux := f.aux16.toNat, fmt := f.fmtOut, w32 := f.w32, round := f.round, sat := f.sat,
    addr := (opL f s).payload, data := data, cmp := cmp,
    token := emitted op f s 0 f.fmtOut poison, targetA := f.a, targetB := f.b, site := s.firing.site,
    station := s.firing.station, region := s.fireRegion.getD 0, fired := s.firing.tag, l := s.firing.toks.getD 0 .zero }

/-- One more request of the firing's station is outstanding (R158). -/
def countOut (s : State) : State :=
  s.onPe s.firing.site (fun p => { p with
    pendingOut := Map.alter p.pendingOut 0 (stKey s.firing.ctx s.firing.station) (fun n => n + 1) })

/-- A request to the PORT at target A. A poisoned address is not used (R57, R137). -/
def sendRequest (op : Nat) (f : Fields) (conv : Bool) (cause : Option Cause) (data cmp : Word) (poison : Bool)
    (s : State) : State :=
  if (opL f s).poison then finishReport op f s
  else
    let q := requestOf op f s data cmp (poison || cause.isSome)
    pushResult op f conv (causeNum cause)
      [.msg (.port q) f.a.die.toNat f.a.row.toNat f.a.col.toNat] (countOut s)

/-- `req.ld` (R160). -/
def execReqLd (f : Fields) (s : State) : Host.Outcome State Fault Refusal :=
  .next (sendRequest 0x207 f false none 0 0 false s)

/-- `req.st` (R160). -/
def execReqSt (f : Fields) (s : State) : Host.Outcome State Fault Refusal :=
  .next (sendRequest 0x208 f false none (opR 0x208 f s).payload 0 (opR 0x208 f s).poison s)

/-- `req.ldo` (R161). -/
def execReqLdo (f : Fields) (s : State) : Host.Outcome State Fault Refusal :=
  .next (sendRequest 0x209 f false none 0 0 false s)

/-- `req.sto` (R161). -/
def execReqSto (f : Fields) (s : State) : Host.Outcome State Fault Refusal :=
  .next (sendRequest 0x20A f false none (opR 0x20A f s).payload 0 (opR 0x20A f s).poison s)

/-- An integer atomic, its operand read as raw bits (R137, R162). -/
def sendAtomic (op : Nat) (f : Fields) (s : State) : State :=
  sendRequest op f false none (opR op f s).payload 0 (opR op f s).poison s

/-- `atom.add` (R162). -/
def execAtomAdd (f : Fields) (s : State) : Host.Outcome State Fault Refusal := .next (sendAtomic 0x20B f s)

/-- `atom.fadd` (R162): its R operand is converted to fmt_out (R137). -/
def execAtomFadd (f : Fields) (s : State) : Host.Outcome State Fault Refusal :=
  let r := prepareR 0x20C f.fmtOut f s
  .next (sendRequest 0x20C f r.converted r.cause (packLanes f.fmtOut r.lanes) 0 (opR 0x20C f s).poison s)

/-- `atom.min` (R162). -/
def execAtomMin (f : Fields) (s : State) : Host.Outcome State Fault Refusal := .next (sendAtomic 0x20D f s)

/-- `atom.max` (R162). -/
def execAtomMax (f : Fields) (s : State) : Host.Outcome State Fault Refusal := .next (sendAtomic 0x20E f s)

/-- `atom.and` (R162). -/
def execAtomAnd (f : Fields) (s : State) : Host.Outcome State Fault Refusal := .next (sendAtomic 0x20F f s)

/-- `atom.or` (R162). -/
def execAtomOr (f : Fields) (s : State) : Host.Outcome State Fault Refusal := .next (sendAtomic 0x210 f s)

/-- `atom.xchg` (R162). -/
def execAtomXchg (f : Fields) (s : State) : Host.Outcome State Fault Refusal := .next (sendAtomic 0x211 f s)

/-- `atom.cas` (R162), with the comparand on P. -/
def execAtomCas (f : Fields) (s : State) : Host.Outcome State Fault Refusal :=
  .next (sendRequest 0x212 f false none (opR 0x212 f s).payload (opP f s).payload
    ((opR 0x212 f s).poison || (opP f s).poison) s)

/-- A queue form goes to the I/O die, which holds the queue's descriptor (R163, R341). Its tokens keep the poison of its operands
(R17, R57). -/
def sendQueue (op : Nat) (f : Fields) (data : Word) (poison report : Bool) (s : State) : State :=
  let q := requestOf op f s data 0 poison
  finishWith op f (.msg (.port q) 24 0 0 :: (if report then [.error (s.fireRec 0x03) none false] else [])) s

/-- `q.push` (R163): a poisoned operand is stored, and reported. -/
def execQPush (f : Fields) (s : State) : Host.Outcome State Fault Refusal :=
  let bad := (opL f s).poison || (opR 0x213 f s).poison
  .next (sendQueue 0x213 f (opR 0x213 f s).payload bad bad s)

/-- `q.pop` (R163). -/
def execQPop (f : Fields) (s : State) : Host.Outcome State Fault Refusal := .next (sendQueue 0x214 f 0 (opL f s).poison false s)

/-- `q.peek` (R163). -/
def execQPeek (f : Fields) (s : State) : Host.Outcome State Fault Refusal := .next (sendQueue 0x215 f 0 (opL f s).poison false s)

end Sys2Proof.Machine
end

