-- ==== Sys2Proof/Machine/System.lean ====
section
/-! DEFINITION. Group 5, synchronisation and system (R164 to R170), barriers (R166), and the return from an error,
`reinject` (R168). -/

namespace Sys2Proof.Machine

/-- L as raw bits under fmt_out 6, for the forms of group 5 that emit L and do not pass its format (R136, R137). -/
def rawL (op : Nat) (f : Fields) (s : State) : Token := emitted op f s (opL f s).payload f.fmtOut (opL f s).poison

/-- `fence` (R164): a marker down the stream of the PORT at target A; L goes to target B once the fence completes. -/
def execFence (f : Fields) (s : State) : Host.Outcome State Fault Refusal :=
  let t := rawL 0x280 f s
  let q : PortReq := { requestOf 0x280 f s 0 0 false with token := t }
  .next (finishWith 0x280 f [.msg (.port q) f.a.die.toNat f.a.row.toNat f.a.col.toNat] s)

/-- `trigger` (R165): the first firing of the region counts one trigger. -/
def execTrigger (f : Fields) (s : State) : Host.Outcome State Fault Refusal :=
  if s.fireReg.triggered then .next (finishWith 0x281 f [] s)
  else .next (finishWith 0x281 f [.effect .trigger]
    (s.onRegion (s.fireRegion.getD 0) (fun r => { r with triggered := true })))

/-- No barrier declared. -/
def Barrier.none : Barrier := ⟨0, [], [], []⟩

/-- The tokens of a released wait leave from the station that waited (R166): a wait is its emissions, the PE's key, and
`(8 × tag + ctx) × 512 + station`. -/
def releaseWait (w : List Emit × Nat × Nat) (s : State) : State :=
  s.onPe w.2.1 (fun p => { p with
    results := p.results ++ [⟨w.2.2 / 512 % 8, w.2.2 % 512, w.2.2 / 4096, s.now (Site.ofKey w.2.1).die, 0,
      (match s.regionAt (Site.ofKey w.2.1) (w.2.2 / 512 % 8) with | some k => (s.region k).wave | none => 0), w.1⟩] })

/-- Waits released in the order in which they issued. -/
def releaseWaits : List (List Emit × Nat × Nat) → State → State
  | [], s => s
  | w :: ws, s => releaseWaits ws (releaseWait w s)

/-- The barrier with generation `g` open: none when four others already are (R166). -/
def Barrier.openGen (b : Barrier) (g : Nat) : Option Barrier :=
  if b.opened.any (fun x => x.gen == g) then some b
  else if b.opened.length < 4 then some { b with opened := b.opened ++ [⟨g, 0, []⟩] }
  else Option.none

/-- A generation that has all its arrivals closes: the barrier without it, and its waits (R166). -/
def Barrier.close (b : Barrier) (g : Nat) : Barrier × List (List Emit × Nat × Nat) :=
  match b.opened.find? (fun x => x.gen == g && b.n ≤ x.arrivals) with
  | some x => ({ b with opened := b.opened.filter (fun y => y.gen != g), closed := (g :: b.closed).take 256 }, x.waits)
  | Option.none => (b, [])

/-- One arrival (none) or wait (some) counted, where the generation is `g`. -/
def BarGen.take (w : Option (List Emit × Nat × Nat)) (g : Nat) (x : BarGen) : BarGen :=
  if x.gen == g then
    match w with
    | Option.none => { x with arrivals := x.arrivals + 1 }
    | some v => { x with waits := x.waits ++ [v] }
  else x

/-- One arrival (none) or wait (some) of generation `g`: the barrier after it and the waits it releases (R166). -/
def Barrier.take (b : Barrier) (w : Option (List Emit × Nat × Nat)) (g : Nat) :
    Barrier × List (List Emit × Nat × Nat) :=
  if b.closed.contains g then (b, w.toList)
  else match b.openGen g with
    | Option.none => ({ b with queue := b.queue ++ [(w, g)] }, [])
    | some b' =>
      Barrier.close { b' with opened := b'.opened.map (BarGen.take w g) } g

/-- The queued arrivals and waits are tried again, in issue order, while a place is free (R166). -/
def Barrier.retry : Nat → Barrier → List (List Emit × Nat × Nat) → Barrier × List (List Emit × Nat × Nat)
  | 0, b, out => (b, out)
  | n + 1, b, out =>
    match b.queue with
    | [] => (b, out)
    | (w, g) :: qs =>
      if b.opened.length < 4 || b.closed.contains g || b.opened.any (fun x => x.gen == g) then
        let r := ({ b with queue := qs }).take w g
        Barrier.retry n r.1 (out ++ r.2)
      else (b, out)

/-- An arrival or wait at barrier `i` of a load, whose barriers stand with its first region. -/
def barrierTake (loadBase i : Nat) (w : Option (List Emit × Nat × Nat)) (g : Nat) (s : State) : State :=
  let b := Map.get (s.region loadBase).barriers Barrier.none i
  let r := b.take w g
  let q := Barrier.retry r.1.queue.length r.1 r.2
  releaseWaits q.2 (s.onRegion loadBase (fun x => { x with barriers := Map.put x.barriers i q.1 }))

/-- The participant count of a barrier; 0 undeclared (R166, R325). -/
def barrierCount (s : State) (i : Nat) : Nat :=
  (Map.get (s.region s.fireReg.loadBase).barriers Barrier.none i).n

/-- `bar.arrive` (R166). -/
def execBarArrive (f : Fields) (s : State) : Host.Outcome State Fault Refusal :=
  let b := f.aux16.toNat % 64
  if barrierCount s b = 0 then .next (finishFault 0x282 f 0x17 s)
  else .next (finishWith 0x282 f [.effect (.arrive b s.firing.tag)] s)

/-- `bar.wait` (R166). -/
def execBarWait (f : Fields) (s : State) : Host.Outcome State Fault Refusal :=
  let b := f.aux16.toNat % 64
  if barrierCount s b = 0 then .next (finishFault 0x283 f 0x17 s)
  else .next (barrierTake s.fireReg.loadBase b
    (some (emitAll f (rawL 0x283 f s), s.firing.site, (8 * s.firing.tag + s.firing.ctx) * 512 + s.firing.station)) s.firing.tag s)

/-- `trap` (R167): the machine's software exception, with the operand saved for target A (R140). -/
def execTrap (f : Fields) (s : State) : Host.Outcome State Fault Refusal :=
  let t := Token.toTarget (s.firing.toks.getD 0 .zero) f.a
  .next (finishWith 0x284 f [.error (s.fireRec (0x80 + f.aux16.toNat % 128)) (some t) f.a.valid] s)

/-- `report` (R167). -/
def execReport (f : Fields) (s : State) : Host.Outcome State Fault Refusal :=
  .next (finishWith 0x285 f
    (.effect (.report (f.aux16.toNat % 256) (s.fireRec 0) (opL f s).payload) :: emitAll f (rawL 0x285 f s)) s)

/-- `reinject` (R168): the saved token of the entry that the tag names, with L's payload, fmt and poison, goes to its
saved destination, and the entry is freed. The control form frees it alone. A replayed firing takes the token that its
first run took (R406; log entry 26). -/
def execReinject (f : Fields) (s : State) : Host.Outcome State Fault Refusal :=
  let r := s.fireRegion.getD 0
  let again := s.fireReg.refree.find? (fun x => x.1 == s.firing.tag)
  match (match again with | some x => some x.2 | none => Map.find s.fireReg.faults s.firing.tag) with
  | none => .next (finishWith 0x286 f [] (s.onRegion r (fun g => { g with reinjects := g.reinjects + 1 })))
  | some e =>
    let l := opL f s
    let t := { e.token with payload := l.payload, fmt := l.fmt, poison := l.poison }
    .next (finishWith 0x286 f (if f.arity != 0 && e.hasDst then [.token t (Token.cls t)] else [])
      (s.onRegion r (fun g => { g with
        faults := if again.isSome then g.faults else Map.del g.faults s.firing.tag
        freed := g.freed ++ [(s.firing.tag, e)], refree := g.refree.erase (s.firing.tag, e) })))

/-- `ptest` (R169). -/
def execPtest (f : Fields) (s : State) : Host.Outcome State Fault Refusal :=
  .next (finishWith 0x287 f
    (emitAll f (emitted 0x287 f s (BitVec.ofNat 64 (one (opL f s).poison)) .i64 false)) s)

/-- `pclear` (R169). -/
def execPclear (f : Fields) (s : State) : Host.Outcome State Fault Refusal :=
  .next (finishPass 0x288 f { opL f s with poison := false } s)

/-- `couple` (R170): a coupling token with the serial of L. A poisoned L is no control argument (R57). -/
def execCouple (f : Fields) (s : State) : Host.Outcome State Fault Refusal :=
  let l := opL f s
  if l.poison then .next (finishReport 0x289 f s)
  else .next (finishWith 0x289 f
    (emitAll f (controlToken 0x01 (field l.payload 31 0) (emitted 0x289 f s 0 .i64 false))) s)

/-- `siteid` (R170). -/
def execSiteid (f : Fields) (s : State) : Host.Outcome State Fault Refusal :=
  let w := siteBits s.fireSite s.firing.station + s.firing.ctx * 2 ^ 32
  .next (finish 0x28A f ⟨BitVec.ofNat 64 w, .i64, none, false⟩ s)

/-- The value that a `clk` firing reads: the die's counter, or in replay the value that its first run read (R170,
R404). -/
def clkValue (s : State) : Word :=
  let k := member s.firing.site s.firing.station
  match s.fireReg.clkReplay.find? (fun x => x.1 == k && x.2.1 == s.firing.tag) with
  | some x => x.2.2
  | none => BitVec.ofNat 64 (s.now s.fireSite.die)

/-- The region keeps the value read as an input (R404). -/
def keepClk (s : State) : State :=
  let k := member s.firing.site s.firing.station
  let v := clkValue s
  match s.fireRegion with
  | none => s
  | some r => s.onRegion r (fun g => { g with
      clkKept := g.clkKept ++ [(k, s.firing.tag, v)], clkReplay := g.clkReplay.erase (k, s.firing.tag, v) })

/-- `clk` (R170). -/
def execClk (f : Fields) (s : State) : Host.Outcome State Fault Refusal :=
  .next (finish 0x28B f ⟨clkValue s, .i64, none, false⟩ (keepClk s))

/-- `halt` (R170): a debug halt of its region, on release. -/
def execHalt (f : Fields) (s : State) : Host.Outcome State Fault Refusal :=
  .next (finishWith 0x28C f [.effect .halt] s)

/-- `brk` (R170): as `fan`; the halt, when break enable is set, follows the emission (RESULT_INJECTION). -/
def execBrk (f : Fields) (s : State) : Host.Outcome State Fault Refusal := .next (finishPass 0x28D f (opL f s) s)

/-- `nop` (R170). -/
def execNop (f : Fields) (s : State) : Host.Outcome State Fault Refusal := .next (finishPass 0x28E f (opL f s) s)

end Sys2Proof.Machine
end

