-- ==== Sys2Proof/Machine/Matrix.lean ====
section
/-! DEFINITION. Group 6, the matrix forms, row feeding and the systolic steps (R172 to R190, R308, R433). A controller
form takes effect when every form that the controller issued before it is done (R189): at once when none waits, else
by a later SYSTOLIC_STEP. -/

namespace Sys2Proof.Machine

/-- A cleared accumulator entry (R172). -/
def Cell.clear : Cell := ⟨0, none, 0, false⟩

/-- A weight word of zero. -/
def WeightWord.zero : WeightWord := ⟨0, false, false⟩

/-- A bias register of zero (R172): zero in any format, so FP64 +0 stands for it. -/
def Bias.zero : Bias := ⟨0, .f64, false⟩

/-- The accumulation format of an operand format (R61). -/
def accFmt : Fmt → Fmt
  | .f64 => .f64
  | .i8 | .i64 => .i64
  | _ => .f32

/-- The PE of row `i` and column `j` of a region. -/
def Region.peAt (r : Region) (i j : Nat) : Site := peSite r.die (r.row + i) (r.col + j)

/-- A change at every PE of a region. -/
def onPes (xs : List Site) (g : Pe → Pe) (s : State) : State := xs.foldl (fun s x => s.onPe (Site.key x) g) s

/-- Every PE's matrix state cleared (R172). -/
def clearPe (p : Pe) : Pe := { p with active := [], shadow := [], cells := [] }

/-- The lanes of the eight words of a row, in an operand format. -/
def rowLanes (g : Fmt) (ws : List Word) : List Nat := (ws.map (lanesOf g)).flatten

/-- One systolic step (R62): the partial and the products of one row, summed exactly and rounded once. -/
def sysStep (g : Fmt) (mode : Round) (sat : Bool) (c : Nat) (a b : List Word) : LaneRes :=
  if g == .i8 then
    let c' := signed 32 (fitS 32 sat (signed 64 c))
    let x := c' + sumInt (List.zipWith (fun x y => signed 8 x * signed 8 y) (rowLanes g a) (rowLanes g b))
    ⟨wrapNat 64 (signed 32 (fitS 32 sat x)), none⟩
  else
    let h := accFmt g
    let p := products ((rowLanes g a).map (decodeF g)) ((rowLanes g b).map (decodeF g))
    sumTo h mode sat p.2 (decodeF h c :: p.1)

/-- The element is masked (R181). -/
def maskedAt (mask : Word) (i j : Nat) : Bool :=
  let q := field mask 15 0 + i
  let k := field mask 31 16 + j
  let m := field mask 49 48
  (m % 2 == 1 && q < k) || (2 ≤ m && field mask 47 32 ≤ k)

/-- A value as it leaves the array: −∞, or −2^31, where it is masked (R181). -/
def maskValue (mask : Word) (i j : Nat) (g : Fmt) (v : Nat) : Nat :=
  if maskedAt mask i j then
    (if g == .i64 then wrapNat 64 (-(2 ^ 31)) else withSign g true (Fmt.maxFinite g + 1))
  else v

/-- The eight words of the active weight row of a PE, and whether one is poisoned. -/
def weightRow (p : Pe) (row : Nat) : List Word × Bool :=
  let ws := (List.range 8).map (fun k => Map.get p.active WeightWord.zero (row * 8 + k))
  (ws.map WeightWord.value, ws.any WeightWord.poison)

/-- A completed row of a key in an assembler. -/
def findRow (rows : List Row) (tag seq : Nat) : Option Row :=
  rows.find? (fun r => r.done && r.tag == tag && r.seq == seq)

/-- The assembler without the completed row of a key. -/
def dropRow (rows : List Row) (tag seq : Nat) : List Row :=
  match findRow rows tag seq with
  | some r => rows.erase r
  | none => rows

/-- The controller's matrix state. -/
def fireMatrix (s : State) : Matrix := s.matrix s.firing.site

/-- The firing as an entry of the controller's line of forms. -/
def matOpOf (op : Nat) (f : Fields) (s : State) : MatOp :=
  ⟨op, f, s.firing.station, s.firing.ctx, s.firing.tag, emitTag f s.firing.tag, s.firing.toks.getD 0 .zero,
    opR op f s, opP f s, (opP f s).payload, 0, 0, 0, false, 0⟩

/-- The result of a controller form that emits L (R180, R181). -/
def finishL (op : Nat) (f : Fields) (s : State) : State := finishWith op f (emitAll f (rawL op f s)) s

/-- The matrix state of the firing's region, cleared for a new owner (R172). -/
def clearMatrix (s : State) : State :=
  onPes s.fireReg.peSites clearPe
    (s.onMatrix s.firing.site (fun m => { m with mask := 0, biases := [], feed := 0 }))

/-- The effect of `mm.mode` (R433). -/
def modeEffect (f : Fields) (s : State) : State :=
  let mode := f.aux16.toNat % 4
  let feed := f.aux16.toNat / 4
  let m := fireMatrix s
  if mode = 0 then
    if m.owner = some s.firing.ctx then finishL 0x300 f (s.onMatrix s.firing.site (fun m => { m with mode := 0 }))
    else finishL 0x300 f s
  else
    let s' := if m.owner = some s.firing.ctx then s else clearMatrix s
    finishL 0x300 f (s'.onMatrix s.firing.site (fun m => { m with
      mode := mode, feed := feed, owner := some s.firing.ctx, height := s.fireReg.height, width := s.fireReg.width }))

/-- The banks of one PE swapped (R179): the new shadow bank keeps its contents, its presence masks are cleared. -/
def swapPe (p : Pe) : Pe :=
  { p with active := p.shadow, shadow := p.active.map (fun kw => (kw.1, { kw.2 with present := false })) }

/-- The effect of `mm.wswap` (R179). -/
def swapEffect (f : Fields) (s : State) : State := finishL 0x302 f (onPes s.fireReg.peSites swapPe s)

/-- The effect of `mm.clr` (R180). -/
def clrEffect (f : Fields) (s : State) : State :=
  let p := (opL f s).payload
  if field p 63 6 ≠ 0 then finishFault 0x305 f 0x07 s
  else
    let s1 := onPes s.fireReg.peSites (fun q => { q with
      cells := if bit p 4 then [] else Map.del q.cells (field p 3 0) }) s
    finishL 0x305 f (if bit p 5 then s1.onMatrix s.firing.site (fun m => { m with biases := [] }) else s1)

/-- The effect of `mm.mask` (R181). -/
def maskEffect (f : Fields) (s : State) : State :=
  let p := (opL f s).payload
  if field p 63 50 ≠ 0 then finishFault 0x307 f 0x07 s
  else finishL 0x307 f (s.onMatrix s.firing.site (fun m => { m with mask := p }))

/-- A bias register written, unless its column lies beyond the region's width (R180). -/
def putBias (w : Nat) (b : Bias) (col : Nat) (m : Matrix) : Matrix :=
  if col < w then { m with biases := Map.put m.biases col b } else m

/-- The effect of `mm.bias` (R180). -/
def biasEffect (f : Fields) (s : State) : State :=
  let l := opL f s
  let p := prepare f.fmtOut f l
  let po := l.poison || p.cause.isSome
  let b := fun k => (⟨BitVec.ofNat 64 (p.lanes.getD k 0), f.fmtOut, po⟩ : Bias)
  let w := s.fireReg.width
  let q := l.seq.toNat
  let t := { rawL 0x30A f s with payload := packLanes f.fmtOut p.lanes, poison := po }
  pushResult 0x30A f p.converted (causeNum p.cause) (emitAll f t)
    (s.onMatrix s.firing.site (fun m =>
      if f.fmtOut == .f32 then putBias w (b 1) (2 * q + 1) (putBias w (b 0) (2 * q) m) else putBias w (b 0) q m))

/-- The value of an accumulator entry in a format (R185): a cleared entry is zero in any. -/
def cellAs (g : Fmt) (f : Fields) (c : Cell) : LaneRes :=
  match c.fmt with
  | none => ⟨0, none⟩
  | some h => convert h g f.round f.sat c.value.toNat

/-- The masked values of row `i` of entry `a` in the format of PE (i, 0): format, values, poison per column, and the
lowest cause of a conversion (R185). -/
def rowValues (s : State) (f : Fields) (r : Region) (mask : Word) (a i : Nat) :
    Fmt × List Nat × List Bool × Option Cause :=
  let cs := (List.range r.width).map (fun j => Map.get (s.pe (Site.key (r.peAt i j))).cells Cell.clear a)
  let g := ((cs.getD 0 Cell.clear).fmt).getD .f32
  let vs := cs.map (cellAs g f)
  (g, (List.range r.width).map (fun j => maskValue mask i j g (vs.getD j ⟨0, none⟩).bits),
    (List.range r.width).map (fun j => (cs.getD j Cell.clear).poison || ((vs.getD j ⟨0, none⟩).cause).isSome), causeOf vs)

/-- The tokens of one drained row (R185); L's poison is in each of them (R17). -/
def drainRow (f : Fields) (s : State) (rv : Fmt × List Nat × List Bool × Option Cause) (i : Nat) (last : Bool) :
    List Token :=
  let per := if rv.1 == .f32 then 2 else 1
  let n := (rv.2.1.length + per - 1) / per
  (List.range n).map (fun t =>
    let vs := (List.range per).map (fun k => rv.2.1.getD (per * t + k) 0)
    let po := (List.range per).any (fun k => rv.2.2.1.getD (per * t + k) false) || (opL f s).poison
    { Token.zero with
      payload := packLanes rv.1 vs, fmt := rv.1, poison := po,
      ctx := BitVec.ofNat 3 (emitCtx 0x306 f s.firing.ctx), tag := BitVec.ofNat 16 (emitTag f s.firing.tag + i),
      seq := BitVec.ofNat 6 t,
      ends := if t + 1 = n then (if last then 3 else 1) else 0 })

/-- The active-row count of entry `a` (R172), kept alike at every PE and read at the controller. -/
def activeRows (s : State) (a : Nat) : Nat := (Map.get (s.pe s.firing.site).cells Cell.clear a).rows

/-- The effect of `mm.drain` (R185). -/
def drainEffect (f : Fields) (s : State) : State :=
  let p := (opL f s).payload
  let a := field p 3 0
  let r := s.fireReg
  if field p 63 5 ≠ 0 then finishFault 0x306 f 0x07 s
  else
    let n := activeRows s a
    let rvs := (List.range n).map (fun i => rowValues s f r (fireMatrix s).mask a i)
    let ts := ((List.range n).map (fun i =>
      drainRow f s (rvs.getD i (.f32, [], [], none)) i (i + 1 == n))).flatten
    let c := causeOf (rvs.map (fun rv => ⟨0, rv.2.2.2⟩))
    let s' := if bit p 4 then onPes r.peSites (fun q => { q with cells := Map.del q.cells a }) s else s
    pushResult 0x306 f false (causeNum c) ((ts.map (emitAll f)).flatten) s'

/-- The effect of `mm.rowstat` (R186). -/
def rowstatEffect (f : Fields) (s : State) : State :=
  let p := (opL f s).payload
  let a := field p 3 0
  let r := s.fireReg
  let n := activeRows s a
  let rvs := (List.range n).map (fun i => rowValues s f r (fireMatrix s).mask a i)
  if field p 63 4 ≠ 0 || rvs.any (fun rv => rv.1 == .i64) then finishFault 0x308 f 0x07 s
  else
    let most := fun (i : Nat) =>
      let rv := rvs.getD i (.f32, [], [], none)
      convert rv.1 .f32 f.round f.sat (foldLanes (pickLane rv.1 true) rv.2.1)
    let stat := fun (i : Nat) =>
      let rv := rvs.getD i (.f32, [], [], none)
      let m := most i
      let empty := rv.2.1.all (fun v => decodeF rv.1 v == .inf true)
      let t := { Token.zero with
        payload := packLanes .f32 [m.bits, if empty then oneOf .f32 else 0], fmt := .f32,
        poison := rv.2.2.1.any id || m.cause.isSome || (opL f s).poison, ctx := BitVec.ofNat 3 (emitCtx 0x308 f s.firing.ctx),
        tag := BitVec.ofNat 16 (emitTag f s.firing.tag), seq := BitVec.ofNat 6 i, ends := if i + 1 = n then 1 else 0 }
      emitAll f t
    let c := causeOf (rvs.map (fun rv => ⟨0, rv.2.2.2⟩) ++ (List.range n).map most)
    pushResult 0x308 f false (causeNum c) (((List.range n).map stat).flatten) s

/-- The scaled integer entry (R187). -/
def scaleInt (f : Fields) (x : Nat) (k : FVal) : LaneRes :=
  match k with
  | .nan => ⟨0, some .conversion⟩
  | .inf neg =>
    if x = 0 then ⟨0, some .invalid⟩
    else ⟨wrapNat 64 (if neg == (signed 64 x < 0) then hiS 32 else loS 32), some .conversion⟩
  | .fin neg m e =>
    let v := signed 64 x
    ⟨wrapNat 64 (signed 32 (fitS 32 f.sat (roundInt f.round (neg != (v < 0)) (m * v.natAbs) e))), none⟩

/-- One entry times the factor (R187). -/
def scaleCell (f : Fields) (k : Nat) (poison : Bool) (c : Cell) : Cell × Option Cause :=
  match c.fmt with
  | none => (c, none)
  | some .i64 =>
    let r := scaleInt f c.value.toNat (decodeF f.fmtOut k)
    ({ c with value := BitVec.ofNat 64 r.bits, poison := c.poison || poison || r.cause.isSome }, r.cause)
  | some g =>
    let r := match FVal.mul (decodeF g c.value.toNat) (decodeF f.fmtOut k) with
      | (_, true) => invalidF g
      | (v, false) => deliverF g f.round f.sat v
    ({ c with value := BitVec.ofNat 64 r.bits, poison := c.poison || poison || r.cause.isSome }, r.cause)

/-- The effect of `mm.scale` (R187): L read in fmt_out, R in I64 (R174), and either's poison carried on (R57). -/
def scaleEffect (f : Fields) (s : State) : State :=
  let l := opL f s
  let q := prepareR 0x309 .i64 f s
  let rp := q.lanes.getD 0 0
  let a := rp % 16
  let i := l.seq.toNat
  let r := s.fireReg
  if rp / 16 ≠ 0 || r.height ≤ i then finishFault 0x309 f 0x07 s
  else
    let p := prepare f.fmtOut f l
    let k := p.lanes.getD 0 0
    let po := anyPoison (operands f s) || p.cause.isSome || q.cause.isSome
    let cells := (List.range r.width).map (fun j => Site.key (r.peAt i j))
    let res := cells.map (fun x => (x, scaleCell f k po (Map.get (s.pe x).cells Cell.clear a)))
    let s' := res.foldl (fun s xr => s.onPe xr.1 (fun q =>
      match Map.find q.cells a with
      | some _ => { q with cells := Map.put q.cells a xr.2.1 }
      | none => q)) s
    let c := minCause (minCause p.cause q.cause) (causeOf (res.map (fun xr => ⟨0, xr.2.2⟩)))
    let t := { rawL 0x309 f s with payload := packLanes f.fmtOut p.lanes, poison := po }
    pushResult 0x309 f (p.converted || q.converted) (causeNum c) (emitAll f t) s'

/-- The effect of a controller form that is no run. -/
def ctlEffect (op : Nat) (f : Fields) (s : State) : State :=
  if op = 0x300 then modeEffect f s
  else if op = 0x302 then swapEffect f s
  else if op = 0x305 then clrEffect f s
  else if op = 0x306 then drainEffect f s
  else if op = 0x307 then maskEffect f s
  else if op = 0x308 then rowstatEffect f s
  else if op = 0x309 then scaleEffect f s
  else biasEffect f s

/-- A controller form (R189): its effect at once, or in its turn. -/
def control (op : Nat) (f : Fields) (s : State) : State :=
  if (fireMatrix s).queue.isEmpty then ctlEffect op f s
  else s.onMatrix s.firing.site (fun m => { m with queue := m.queue ++ [matOpOf op f s] })

/-- The owner of the matrix state once the forms that wait have taken effect (R172, R433). -/
def Matrix.ownerAfter (m : Matrix) : Option Nat :=
  m.queue.foldl (fun o q => if q.op = 0x300 && q.fields.aux16.toNat % 4 ≠ 0 then some q.ctx else o) m.owner

/-- `mm.mode` in its turn, or at once where it changes nothing (R433). -/
def modeForm (f : Fields) (s : State) : State :=
  if f.aux16.toNat % 4 = 0 && (fireMatrix s).ownerAfter ≠ some s.firing.ctx then finishL 0x300 f s else control 0x300 f s

/-- `mm.mode` (R433). -/
def execMmMode (f : Fields) (s : State) : Host.Outcome State Fault Refusal := .next (modeForm f s)

/-- `mm.wload` (R178). The rule gives the row-number token "the firing's tag"; the model applies the station's tagop to it, as
R79 does to every token (log entry 83). -/
def wloadEffect (f : Fields) (s : State) : State :=
  let l := opL f s
  let row := s.firing.tag
  let seq := l.seq.toNat
  if 64 ≤ row || 8 ≤ seq then finishFault 0x301 f 0x07 s
  else
    let full := fun (p : Pe) =>
      (List.range 8).all (fun k => (Map.get p.shadow WeightWord.zero (row * 8 + k)).present)
    let before := full (s.pe s.firing.site)
    let s' := s.onPe s.firing.site (fun p => { p with
      shadow := Map.put p.shadow (row * 8 + seq) ⟨l.payload, l.poison, true⟩ })
    let t := emitted 0x301 f s (BitVec.ofNat 64 row) .i64 l.poison
    finishWith 0x301 f (if !before && full (s'.pe s.firing.site) then emitAll f t else []) s'

/-- `mm.wload` (R178). -/
def execMmWload (f : Fields) (s : State) : Host.Outcome State Fault Refusal := .next (wloadEffect f s)

/-- `mm.wswap` (R179). -/
def execMmWswap (f : Fields) (s : State) : Host.Outcome State Fault Refusal := .next (control 0x302 f s)

/-- The parameters M, S, G and b0 of a run lie within the limits of R182, and the mode and owner are right. -/
def runOk (op : Nat) (f : Fields) (s : State) : Bool :=
  let l := (opL f s).payload
  let p := (opR op f s).payload
  let m := fireMatrix s
  let r := s.fireReg
  let cnt := field l 6 0
  let steps := field p 15 0
  let g := field p 23 16
  field l 63 7 == 0 && field p 63 30 == 0 && 1 ≤ g && g ≤ 64 && m.owner == some s.firing.ctx &&
  (if op = 0x303 then
    m.mode == 1 && 1 ≤ cnt && cnt ≤ 64 && 1 ≤ steps && steps ≤ r.height && field f.aux16 14 9 + g ≤ 64
   else m.mode == 2 && 1 ≤ cnt && cnt ≤ min r.height 64 && 1 ≤ steps && steps ≤ 64)

/-- A run begins (R182): a poisoned operand makes a poison-report and no step, a bad parameter, mode or owner faults, and
else the run is the head of the line. -/
def beginRun (op : Nat) (f : Fields) (s : State) : State :=
  if anyPoison (operands f s) then finishReport op f s
  else if runOk op f s then
    s.onMatrix s.firing.site (fun m => { m with queue := { matOpOf op f s with started := true } :: m.queue })
  else finishFault op f 0x07 s

/-- A run is issued (R182, R189): it begins at once, or when the forms issued before it are done. -/
def startRun (op : Nat) (f : Fields) (s : State) : State :=
  if (fireMatrix s).queue.isEmpty then beginRun op f s
  else s.onMatrix s.firing.site (fun m => { m with queue := m.queue ++ [matOpOf op f s] })

/-- `mm.run` (R182, R183). -/
def execMmRun (f : Fields) (s : State) : Host.Outcome State Fault Refusal := .next (startRun 0x303 f s)

/-- `mm.orun` (R182, R184). -/
def execMmOrun (f : Fields) (s : State) : Host.Outcome State Fault Refusal := .next (startRun 0x304 f s)

/-- `mm.clr` (R180). -/
def execMmClr (f : Fields) (s : State) : Host.Outcome State Fault Refusal := .next (control 0x305 f s)

/-- `mm.drain` (R185). -/
def execMmDrain (f : Fields) (s : State) : Host.Outcome State Fault Refusal := .next (control 0x306 f s)

/-- `mm.mask` (R181). -/
def execMmMask (f : Fields) (s : State) : Host.Outcome State Fault Refusal := .next (control 0x307 f s)

/-- `mm.rowstat` (R186). -/
def execMmRowstat (f : Fields) (s : State) : Host.Outcome State Fault Refusal := .next (control 0x308 f s)

/-- `mm.scale` (R187). -/
def execMmScale (f : Fields) (s : State) : Host.Outcome State Fault Refusal := .next (control 0x309 f s)

/-- `mm.bias` (R180). -/
def execMmBias (f : Fields) (s : State) : Host.Outcome State Fault Refusal := .next (control 0x30A f s)

/-- The function of one lane of `mm.act` (R188). -/
def actLane (f : Fields) (x : Nat) : LaneRes :=
  let g := f.fmtOut
  let fn := f.aux16.toNat % 16
  let k := f.aux16.toNat / 16 % 16
  let v := decodeF g x
  if fn = 2 then sigmoidF g f.round f.sat x v
  else if fn = 3 then tanhF g f.round f.sat x v
  else if fn = 4 then siluF g f.round f.sat x v
  else if v == .nan then nanF g
  else
    let neg := x / signBit g % 2 == 1
    if fn = 0 then ⟨if neg then 0 else x, none⟩
    else match v with
      | .fin true m e => if m = 0 then ⟨x, none⟩ else roundF g f.round f.sat true m (e - k)
      | _ => ⟨x, none⟩

/-- `mm.act` (R188). -/
def execMmAct (f : Fields) (s : State) : Host.Outcome State Fault Refusal :=
  .next (finish 0x30B f (fltOne f s (actLane f)) s)

/-! ### Feeding rows -/

/-- What a feed word does to a row assembler (R177). -/
inductive FeedRes where
  | taken (rows : List Row)
  | waits
  | malformed (rows : List Row)
  deriving DecidableEq, Repr

/-- A word of key (tag, seq) at an assembler (R177). With four completed rows, or one of its own key, it waits. A closing word
that is not the eighth discards its row; a ninth word that does not close is discarded alone. -/
def feedRow (rows : List Row) (t : Token) : FeedRes :=
  let tag := t.tag.toNat
  let seq := t.seq.toNat
  let e0 := t.ends.getLsbD 0
  if rows.any (fun r => r.done && r.tag == tag && r.seq == seq) || 4 ≤ (rows.filter Row.done).length then .waits
  else
    let r := (rows.find? (fun r => !r.done && r.tag == tag && r.seq == seq)).getD ⟨tag, seq, [], false, false⟩
    let rest := rows.filter (fun q => q.done || q.tag != tag || q.seq != seq)
    let r' : Row := { r with words := r.words ++ [t.payload], poison := r.poison || t.poison }
    if e0 then
      if r'.words.length = 8 then .taken (rest ++ [{ r' with done := true }]) else .malformed rest
    else if 8 ≤ r.words.length then .malformed rows
    else .taken (rest ++ [r'])

/-- Which assembler of a PE a token feeds, if any: 1 west, 2 north (R176, R308). -/
def feedSide (s : State) (t : Token) : Option (Nat × Nat) :=
  let x := Token.site t
  let c := t.ctx.toNat
  match s.regionAt x c with
  | none => none
  | some k =>
    let r := s.region k
    let m := s.matrix (Site.key r.corner)
    if !isPe x || m.mode = 0 || m.owner ≠ some c || t.port != .l then none
    else
      let west := peCol x.col == r.col
      let north := m.mode == 2 && peRow x.row == r.row
      let st := t.station.toNat
      if west && st == m.feed then some (k, 1)
      else if west && north && st == m.feed + 1 then some (k, 2)
      else if !west && north && st == m.feed then some (k, 2)
      else none

/-- A feed word's effect on the state, and whether it was malformed: none where it waits in the router. -/
def feedToken (t : Token) (side : Nat) (s : State) : Option (State × Bool) :=
  let k := Site.key (Token.site t)
  let put := fun (rows : List Row) => s.onPe k (fun p => if side = 1 then { p with west := rows } else { p with north := rows })
  match feedRow (if side = 1 then (s.pe k).west else (s.pe k).north) t with
  | .waits => none
  | .taken rows => some (put rows, false)
  | .malformed rows => some (put rows, true)

/-! ### Systolic steps -/

/-- The next enabled pass from `g` on, below `n` (R182). -/
def nextPass (mask : Word) (b0 n : Nat) : Nat → Nat → Option Nat
  | 0, _ => none
  | k + 1, g => if g < n then (if bit mask ((b0 + g) % 64) then some g else nextPass mask b0 n k (g + 1)) else none

/-- Exceptional systolic steps are origins of the controller's station, under the pass tag, each of its cycle (R59). -/
def logSteps (region : Nat) (site station ctx tag : Nat) (cs : List (Nat × Option Cause)) (s : State) : State :=
  cs.foldl (fun s c => match c.2 with
    | none => s
    | some e => s.onRegion region (fun r => r.logPoison c.1 (logEntry e.code (Site.ofKey site) station ctx tag))) s

/-- The causes of a grid of steps in the order of their cycles: step (k, j) follows the first, of cycle `t`, by k + j (R189), and in
one cycle the upper row is first (R59). -/
def byCycle (t rows cols : Nat) (g : Nat → Nat → Option Cause) : List (Nat × Option Cause) :=
  ((List.range (rows + cols)).map (fun d =>
    ((List.range rows).filter (fun k => k ≤ d && d - k < cols)).map (fun k => (t + d, g k (d - k))))).flatten

/-- The partial of column `j` carried south through PE rows `k` and on (R63): value, poison, and the cause of each step; the
first step's is also that of its bias. -/
def southWard (s : State) (f : Fields) (r : Region) (w : Nat) (pt m j : Nat) :
    Nat → Nat → Option Cause → Nat × Bool × List (Option Cause) → Nat × Bool × List (Option Cause)
  | 0, _, _, v => v
  | n + 1, k, c0, (c, po, cs) =>
    let row := (findRow (s.pe (Site.key (r.peAt k 0))).west pt m).getD ⟨0, 0, [], false, true⟩
    let wt := weightRow (s.pe (Site.key (r.peAt k j))) w
    let x := sysStep f.fmtOut f.round f.sat c row.words wt.1
    southWard s f r w pt m j n (k + 1) none
      (x.bits, po || row.poison || wt.2 || x.cause.isSome, cs ++ [minCause c0 x.cause])

/-- One row of a WS pass: the column results (R183), with the causes of each column's steps. -/
def wsRow (s : State) (r : Region) (mx : Matrix) (q : MatOp) (pt m steps last : Nat) : List (Token × List (Option Cause)) :=
  let f := q.fields
  let h := accFmt f.fmtOut
  (List.range r.width).map (fun j =>
    let b := Map.get mx.biases Bias.zero j
    let c0 := convert b.fmt h f.round f.sat b.value.toNat
    let v := southWard s f r (field f.aux16 14 9 + q.pass) pt m j steps 0 c0.cause (c0.bits, b.poison || c0.cause.isSome, [])
    let x := r.peAt (r.height - 1) j
    ({ Token.zero with
       payload := BitVec.ofNat 64 (maskValue mx.mask m j h v.1), fmt := h, poison := v.2.1,
       die := BitVec.ofNat 5 x.die, row := BitVec.ofNat 7 x.row, col := BitVec.ofNat 8 x.col,
       station := BitVec.ofNat 9 (field f.aux16 8 0), port := .l, ctx := BitVec.ofNat 3 q.ctx,
       tag := BitVec.ofNat 16 pt, seq := BitVec.ofNat 6 m, ends := if m + 1 = last then 1 else 0 }, v.2.2))

/-- A column result of a pass that reaches a station of a domain admits its tag there where that is not live, or the step waits
(R226, R228). -/
def loopAdmits (region ctx : Nat) : List Token → State → Option State
  | [], s => some s
  | t :: ts, s =>
    match (s.region region).domainOf (member (Site.key (Token.site t)) t.station.toNat) with
    | none => loopAdmits region ctx ts s
    | some i =>
      let d := (s.region region).domains.getD i Domain.none
      if d.isLive t.tag.toNat || d.dead.contains t.tag.toNat then loopAdmits region ctx ts s
      else if canAdmit s region i none t.tag.toNat then loopAdmits region ctx ts (admitTag region i none t.tag.toNat s)
      else none

/-- The cycle of the next step of a run at the first PE (R189): one step in a cycle. -/
def stepAt (s : State) (q : MatOp) (r : Region) : Nat := max (s.now r.die) q.last

/-- A column result enters loopback at its own PE (R189). -/
def loopBack (station : Nat) (region : Nat) (t : Token) (s : State) : State :=
  s.post ⟨Site.key (Token.site t), station, .data, Site.key (Token.site t), Token.lane t, .token t, region + 1, false, false⟩

/-- One K-step of an OS pass at one PE (R184). -/
def osCell (s : State) (f : Fields) (r : Region) (pt k i j a : Nat) : Cell × Option Cause :=
  let h := accFmt f.fmtOut
  let c := Map.get (s.pe (Site.key (r.peAt i j))).cells Cell.clear a
  let c0 := match c.fmt with
    | some g => convert g h f.round f.sat c.value.toNat
    | none => ⟨0, none⟩
  let ra := (findRow (s.pe (Site.key (r.peAt i 0))).west pt k).getD ⟨0, 0, [], false, true⟩
  let rb := (findRow (s.pe (Site.key (r.peAt 0 j))).north pt k).getD ⟨0, 0, [], false, true⟩
  let x := sysStep f.fmtOut f.round f.sat c0.bits ra.words rb.words
  (⟨BitVec.ofNat 64 x.bits, some h, c.rows, c.poison || ra.poison || rb.poison || c0.cause.isSome || x.cause.isSome⟩,
    minCause c0.cause x.cause)

/-- The firing register set to a form that waited at the controller. -/
def refire (x : Nat) (q : MatOp) (s : State) : State :=
  { s with firing := ⟨x, q.ctx, q.station, q.tag, 0, if q.fields.imm then [q.l, q.p] else [q.l, q.r, q.p], 0, 0⟩ }

/-- The head of the controller's line leaves it. -/
def popMat (x : Nat) (s : State) : State := s.onMatrix x (fun m => { m with queue := m.queue.drop 1 })

/-- The head of the controller's line replaced. -/
def setHead (x : Nat) (q : MatOp) (s : State) : State := s.onMatrix x (fun m => { m with queue := q :: m.queue.drop 1 })

/-- The end of a run: the number of enabled passes to its targets, and for OS the active-row count (R183, R184). -/
def endRun (x : Nat) (q : MatOp) (r : Region) (s : State) : State :=
  let s1 := if q.op = 0x304 then
      onPes r.peSites (fun p => { p with
        cells := Map.alter p.cells Cell.clear (q.fields.aux16.toNat % 16) (fun c => { c with rows := field q.l.payload 6 0 }) }) s
    else s
  let s2 := refire x q (popMat x s1)
  finishWith q.op q.fields (emitAll q.fields { emitted q.op q.fields s2 (BitVec.ofNat 64 q.passes) .i64 false with
    seq := q.l.seq, ends := q.l.ends ||| q.r.ends ||| q.p.ends }) s2

/-- One WS step: row `m` of the current pass through the whole array, when its rows are assembled. -/
def wsStep (x region : Nat) (q : MatOp) (g : Nat) (r : Region) (s : State) : Option State :=
  let pt := (q.emitTag + g) % 65536
  let cnt := field q.l.payload 6 0
  let steps := field q.r.payload 15 0
  let rows := List.range steps
  if rows.all (fun k => (findRow (s.pe (Site.key (r.peAt k 0))).west pt q.step).isSome) then
    let outs := wsRow s r (s.matrix x) { q with pass := g } pt q.step steps cnt
    let t := stepAt s q r
    match loopAdmits region q.ctx (outs.map Prod.fst) s with
    | none => none
    | some s0 =>
      let s1 := rows.foldl (fun s k => s.onPe (Site.key (r.peAt k 0)) (fun p => { p with west := dropRow p.west pt q.step })) s0
      let s2 := outs.foldl (fun s o => loopBack q.station region o.1 s)
        (logSteps region x q.station q.ctx pt (byCycle t steps r.width (fun k j => ((outs.map Prod.snd).getD j []).getD k none)) s1)
      some (setHead x (if q.step + 1 < cnt then { q with pass := g, step := q.step + 1, last := t + 1 }
        else { q with pass := g + 1, step := 0, passes := q.passes + 1, last := t + 1 }) s2)
  else none

/-- One OS step: K-step `k` of the current pass at every active PE, when its rows are assembled. -/
def osStep (x region : Nat) (q : MatOp) (g : Nat) (r : Region) (s : State) : Option State :=
  let pt := (q.emitTag + g) % 65536
  let cnt := field q.l.payload 6 0
  let steps := field q.r.payload 15 0
  let a := q.fields.aux16.toNat % 16
  if (List.range cnt).all (fun i => (findRow (s.pe (Site.key (r.peAt i 0))).west pt q.step).isSome) &&
     (List.range r.width).all (fun j => (findRow (s.pe (Site.key (r.peAt 0 j))).north pt q.step).isSome) then
    let cells := ((List.range cnt).map (fun i => (List.range r.width).map (fun j =>
      (Site.key (r.peAt i j), osCell s q.fields r pt q.step i j a)))).flatten
    let s1 := cells.foldl (fun s c => s.onPe c.1 (fun p => { p with cells := Map.put p.cells a c.2.1 })) s
    let s2 := (List.range cnt).foldl (fun s i =>
      s.onPe (Site.key (r.peAt i 0)) (fun p => { p with west := dropRow p.west pt q.step })) s1
    let s3 := (List.range r.width).foldl (fun s j =>
      s.onPe (Site.key (r.peAt 0 j)) (fun p => { p with north := dropRow p.north pt q.step })) s2
    let s4 := logSteps region x q.station q.ctx pt
      (byCycle (stepAt s q r) cnt r.width (fun i j => ((cells.map (fun c => c.2.2)).getD (i * r.width + j) none))) s3
    some (setHead x (if q.step + 1 < steps then { q with pass := g, step := q.step + 1, last := stepAt s q r + 1 }
      else { q with pass := g + 1, step := 0, passes := q.passes + 1, last := stepAt s q r + 1 }) s4)
  else none

/-- The head of a controller's line goes on: a waiting form takes effect, a run makes its next step or ends (R189). -/
def systolic (x : Site) (s : State) : Option State :=
  let k := Site.key x
  match (s.matrix k).queue with
  | [] => none
  | q :: _ =>
    match s.regionAt x q.ctx with
    | none => none
    | some region =>
      let r := s.region region
      if (q.op = 0x303 || q.op = 0x304) && !q.started then some (beginRun q.op q.fields (refire k q (popMat k s)))
      else if q.op = 0x303 || q.op = 0x304 then
        match nextPass q.mask (field q.r.payload 29 24) (field q.r.payload 23 16) 65 q.pass with
        | none => some (endRun k q r s)
        | some g => if q.op = 0x303 then wsStep k region q g r s else osStep k region q g r s
      else some (ctlEffect q.op q.fields (refire k q (popMat k s)))

/-- SYSTOLIC_STEP (R189). -/
def execSystolicStep (x : Site) (s : State) : Host.Outcome State Fault Refusal := .next ((systolic x s).getD s)

end Sys2Proof.Machine
end

