-- ==== Sys2Proof/Machine/Serve.lean ====
section
/-! DEFINITION. What a memory tile holds of its statement (R249, R250, R254), the fold counters (R267), and the delivery of
accepted reads (R153, R259, R270). Granule bits are keyed `512 × slot position + granule of the tile`. -/

namespace Sys2Proof.Machine

/-- The key of a granule's bits. -/
def granKey (pos g : Nat) : Nat := pos * 512 + g

/-- The descriptor that a tile holds for a statement (R250). -/
def Tile.desc (t : Tile) (ctx stmt : Nat) : Desc := Map.get t.descs Desc.zero (descKey ctx stmt)

/-- The site key of a statement's first tile. -/
def Desc.firstTile (d : Desc) (die : Nat) : Nat := Site.key (d.tileOf die 0)

/-- The tiles of a segment (R248). -/
def Desc.segment (d : Desc) (die : Nat) : List Nat :=
  (List.range d.tiles).map (fun i => Site.key (d.tileOf die i))

/-- A change of a statement's counters at its first tile, saturating at 0xFFFF (R155, R267). -/
def countFold (first k : Nat) (g : FoldCount → FoldCount) (s : State) : State :=
  s.onTile first (fun t => { t with counts := Map.alter t.counts ⟨0, 0, 0, 0⟩ k g })

/-- One more, up to 0xFFFF. -/
def satInc (n : Nat) : Nat := min 0xFFFF (n + 1)

/-- The words of a tile of the statement that a memory tile holds; 1 where it holds none. -/
def tileWords (t : Tile) : Nat := max 1 (((t.descs.map Prod.snd).getD 0 Desc.zero).words)

/-- A granule is present to a reader (R259). -/
def visible (t : Tile) (pos w : Nat) (inside : Bool) : Bool :=
  Map.get (if inside then t.present else t.released) false (granKey pos (w / 8))

/-- Word `w` of a served read as a token (R153). -/
def wordToken (d : Desc) (t : Tile) (v : Serving) (w : Nat) : Token :=
  { v.req.token with
    payload := Map.get t.data 0 (v.pos * d.words + w), fmt := d.fmt,
    seq := BitVec.ofNat 6 w, poison := Map.get t.poisoned false (granKey v.pos (w / 8)),
    ends := if w + 1 = d.words then 3 else if (w + 1) % d.rowWords = 0 then 1 else 0 }

/-- The responses of one word to every target (R153). -/
def wordFlights (site k : Nat) (v : Serving) (tok : Token) : List Flight :=
  v.req.targets.map (fun g =>
    let t := Token.toTarget tok g
    ⟨site, v.req.port, .response, Site.key (Token.site t), Token.lane t, .token t, k, true, false⟩)

/-- The words of the first accepted read of a port that can leave now, up to `n` of them (R259, R270): the read after
them and the flights. -/
def serveOne (d : Desc) (t : Tile) (site k : Nat) (inside : Bool) : Nat → Serving → Serving × List Flight
  | 0, v => (v, [])
  | n + 1, v =>
    if v.next < d.words && visible t v.pos v.next inside then
      let r := serveOne d t site k inside n { v with next := v.next + 1 }
      (r.1, wordFlights site k v (wordToken d t v v.next) ++ r.2)
    else (v, [])

/-- Every accepted read of a tile goes on, in acceptance order per port: one that has words to come holds back those
behind it (R270). `blocked` lists the ports held. -/
def serveList (s : State) (site : Nat) (t : Tile) : List Serving → List Nat → List Serving × List Flight
  | [], _ => ([], [])
  | v :: vs, blocked =>
    if blocked.contains v.req.port then
      let r := serveList s site t vs blocked
      (v :: r.1, r.2)
    else
      let d := t.desc v.req.ctx v.req.stmt
      let home := s.tileRegion (Site.ofKey site) v.req.ctx
      let o := serveOne d t site ((home.getD 0) + 1) (home == some v.req.region) d.words v
      if o.1.next = d.words then
        let r := serveList s site t vs blocked
        (r.1, o.2 ++ r.2)
      else
        let r := serveList s site t vs (v.req.port :: blocked)
        (o.1 :: r.1, o.2 ++ r.2)

/-- The `npeek`s that a tile remembers (R261): those it remembered and those it has now delivered whole, of slots that still have
words which are not released. -/
def Tile.kept (t : Tile) (after : List Serving) : List Serving :=
  (t.peeks ++ (t.serving.filter (fun (v : Serving) => v.req.kind == ReadKind.npeek && !(after.any (fun w => w.req == v.req && w.pos == v.pos)))).map
    (fun (v : Serving) => { v with next := (t.desc v.req.ctx v.req.stmt).words })).filter (fun (v : Serving) =>
      let q := Map.get t.slots Slot.empty v.pos
      q.gen == v.gen && q.rcursor < q.cursor)

/-- The tile's reads deliver what they can. -/
def serveTile (site : Nat) (s : State) : State :=
  let t := s.tile site
  let r := serveList s site t t.serving []
  { s.onTile site (fun t => { t with serving := r.1, peeks := t.kept r.1 }) with net := s.net ++ r.2 }

end Sys2Proof.Machine
end

