-- ==== Sys2Proof/Machine/Network.lean ====
section
/-! DEFINITION. The steps of a PE and its network: arrival and matching (R219 to R222), the conversion diversion (R92),
result injection (R105), admission (R228), squash (R146), coupling and joins (R333 to R336), the caboose's release
(R401), the progress monitor (R242) and the fault buffer (R140). -/

namespace Sys2Proof.Machine

/-- The context of what a message is for: of its destination, or of the station that a request serves. -/
def Msg.ctx : Msg → Nat
  | .token t => t.ctx.toNat
  | .divert t _ _ _ _ => t.ctx.toNat
  | .word w => w.ctx
  | .read r => r.ctx
  | .fold q => q.ctx
  | .port q => q.token.ctx.toNat

/-- Two flights that R35 keeps in order: of one station and region, one class, one destination port and context. An operator is
one source. What still waits outside its region does not stand before what that has accepted (R237). -/
def sameLane (g f : Flight) : Bool :=
  g.site == f.site && (g.station == f.station || isOper (Site.ofKey g.site)) && g.region == f.region && g.cls == f.cls &&
  g.lane == f.lane && g.msg.ctx == f.msg.ctx && (!g.input || f.input)

/-- The flight that is first of its source, class and destination port (R35). -/
def headOfLane (net : List Flight) (n : Nat) : Option Flight :=
  match net[n]? with
  | none => none
  | some f => if (net.take n).any (fun g => sameLane g f) then none else some f

/-- A place of a requesting station is free again (R158). -/
def freeAt (site key : Nat) (s : State) : State :=
  s.onPe site (fun p => { p with pendingOut := Map.alter p.pendingOut 0 key (fun n => n - 1) })

/-- The request forms hold a place of their station (R158). -/
def holdsPlace (q : PortReq) : Bool := 0x207 ≤ q.op && q.op ≤ 0x212

/-- A response of a PORT that its target accepts, or that is dropped, frees the place of its request (R158). -/
def settleOwed (f : Flight) (s : State) : State :=
  match f.msg with
  | .token t =>
    (match (s.oper f.site).owed.find? (fun o => o.lane == f.lane && o.token == t) with
     | some o => (freeAt o.site o.station s).onOper f.site (fun p => { p with owed := p.owed.erase o })
     | none => s)
  | _ => s

/-- A flight is accepted, and leaves the network. -/
def dropFlight (s : State) (n : Nat) : State :=
  match s.net[n]? with
  | none => s
  | some f =>
    let s' : State := { s with net := s.net.eraseIdx n }
    if f.cls == .response then settleOwed f s' else s'

/-- The kind of a control token (R20). -/
def ctlKind (t : Token) : Nat := field t.payload 63 56

/-- A control token that R23 does not let act: poisoned gives 0x03, a reserved kind or a nonzero zero field 0x01. -/
def ctlBad (t : Token) : Option Nat :=
  let a := field t.payload 55 0
  if t.poison then some 0x03
  else
    let k := ctlKind t
    let bad :=
      if k = 0x01 then 2 ^ 32 ≤ a
      else if k = 0x02 then 2 ^ 16 ≤ a
      else if k = 0x03 || k = 0x05 then false
      else if k = 0x04 then 2 ^ 35 ≤ a
      else if k = 0x06 then a != 0
      else !(0x10 ≤ k && k ≤ 0x1F)
    if bad then some 0x01 else none

/-- The input ports of an operator kind (R193). -/
def operPorts (kind : Nat) : List Port :=
  if kind = 4 then [.c]
  else if kind = 2 then [.l, .p, .c]
  else if kind = 3 || kind = 10 || kind = 11 then [.l, .r, .c]
  else [.l, .c]

/-- A command that an operator kind accepts (R194). -/
def acceptsCommand (kind k : Nat) : Bool :=
  if k = 0x10 then kind != 5 && kind != 11
  else if k = 0x11 then kind ≤ 4 || kind == 7 || kind == 8 || kind == 9
  else if k = 0x12 then kind ≤ 4 || kind == 7 || kind == 8 || kind == 9 || kind == 11
  else if k = 0x13 then true
  else if k = 0x14 || k = 0x15 then kind == 5
  else 0x18 ≤ k && k ≤ 0x1D && kind == 11

/-- A command's argument has its zero fields zero (R194). -/
def commandArg (t : Token) : Bool :=
  let k := ctlKind t
  let a := field t.payload 55 0
  if k = 0x13 then a < 2 ^ 32 else if 0x18 ≤ k && k ≤ 0x1D then a < 2 ^ 51 else a == 0

/-- The error of a token that reaches an operator port of no use to it (R23, R27, R193, R194). A site that holds no operator
is taken as an idle operator of kind 0: R27 is silent on it (DESIGN CHOICE, log entry 96). -/
def operBad (o : Oper) (t : Token) : Option Nat :=
  if !(operPorts o.kind).contains t.port then some 0x02
  else if t.port != .c then none
  else match ctlBad t with
    | some c => some c
    | none =>
      let k := ctlKind t
      if 0x10 ≤ k then (if acceptsCommand o.kind k && commandArg t then none else some 0x01)
      else if k = 0x01 then none
      else if k = 0x02 then (if o.kind = 4 then none else some 0x02)
      else if k = 0x03 then (if o.kind = 5 then none else some 0x02)
      else if k = 0x04 then
        (if o.kind = 0 || o.kind = 1 then (if field t.payload 34 32 ≤ field (Map.get o.pm 0 1) 7 5 then none else some 0x01)
         else if o.kind = 4 then (if field t.payload 34 32 ≤ field (Map.get o.pm 0 0) 2 0 then none else some 0x01)
         else some 0x02)
      else some 0x02

/-- The error of a token that reaches a PE station (R23, R27, R72, R74, R221). -/
def stationBad (p : Pe) (t : Token) : Option Nat :=
  let c := t.ctx.toNat
  let st := t.station.toNat
  if p.ctxCount c ≤ st then some 0x02
  else
    let w := p.word c st
    let f := decodeFields w
    match opInfo (wordOp w) with
    | none => some 0x02
    | some o =>
      if t.port == .c then
        match ctlBad t with
        | some e => some e
        | none =>
          let k := ctlKind t
          if k = 0x01 then none
          else if k = 0x02 then (if wordOp w = 0x187 then none else some 0x02)
          else if f.arity = 0 then none else some 0x02
      else if f.arity != 0 && acceptsPort o f t.port then none else some 0x02

/-- A token is captured with a parked context (R30). -/
def capture (s : State) (region : Nat) (f : Flight) : State :=
  { s with parked := s.parked.map (fun x => if x.region == region then { x with captured := x.captured ++ [f] } else x) }

/-- The first element that fits is changed. -/
def updFirst {α : Type} (p : α → Bool) (g : α → α) : List α → List α
  | [] => []
  | x :: xs => if p x then g x :: xs else x :: updFirst p g xs

/-- A flight answers a request, or is the token of a fold form from its tile's port 3 (R155, R404). -/
def Flight.isAnswer (f : Flight) : Bool := f.cls == .response || (isTile (Site.ofKey f.site) && f.station == 3)

/-- A region becomes unprotected (R405): it keeps no replay records, and raises replay-overrun. -/
def replayOverrun (k : Nat) (s : State) : State :=
  let r := s.region k
  (s.onRegion k (fun r => { r with unprot := true, oldest := r.wave, inputs := [], keysOut := [], keysAwait := [] })).raiseError k
    ⟨0x0E, r.corner, 0, r.ctx, 0⟩ none false

/-- A region keeps an accepted input from outside until its wave is released (R403, R404); past the entry's capacity, or
with its undo log full, it becomes unprotected (R405). The response that a replay obtains again takes the place of the kept one: a kept response
whose request has still to be regenerated is listed with `input` false. -/
def acceptInput (s : State) (k : Nat) (f : Flight) : State :=
  let r := s.region k
  if !f.input || r.unprot then s
  else if f.isAnswer && r.inputs.any (fun x => x.2.2 == { f with input := false }) then
    s.onRegion k (fun r => { r with
      inputs := updFirst (fun x => x.2.2 == { f with input := false }) (fun x => (x.1, x.2.1, f)) r.inputs })
  else if r.replayCap ≤ (r.inputs.filter (fun x => x.2.2.lane == f.lane)).length || Config.undoFull k (s.now r.die) then replayOverrun k s
  else s.onRegion k (fun r => { r with inputs := r.inputs ++ [(r.wave, s.now r.die, f)] })

/-- The class of a token (R32): control on port C, but a command to a PORT or GATHER is a request. The rule's first two
bullets both fit such a command; the model takes the second (log entry 84). -/
def State.clsOf (s : State) (t : Token) : Cls :=
  if t.port == .c then
    (if isOper (Token.site t) && ((s.oper (Site.key (Token.site t))).kind == 2 || (s.oper (Site.key (Token.site t))).kind == 11) &&
      0x10 ≤ ctlKind t && ctlKind t ≤ 0x1F then .request else .control)
  else .data

/-- An error has to wait where it arises: the handler's fault buffer is full (R140). -/
def handlerFull (s : State) (k code : Nat) : Bool :=
  faultKind code && (match s.handlerOf k with
    | some h => (freeFault 64 (s.region h).faults 0).isNone
    | none => false)

/-- An event whose conditions fail does not take place. -/
def State.orSelf (s : State) (r : Option State) : State := if s.fatal then s else r.getD s

/-- The faults of a region that its caboose holds, or that wait for an entry of its fault buffer (R140). -/
def faultsTaken (r : Region) : Nat :=
  (r.caboose.filter (fun e => match e.act with | .error q _ _ => faultKind q.code | _ => false)).length + r.faultWait.length

/-- A step raises a fault while the fault buffer that it goes to is full (R140). -/
def faultHeld (s t : State) : Bool :=
  t.regions.any (fun kr => decide (faultsTaken (s.region kr.1) < faultsTaken kr.2) && handlerFull s kr.1 0x01)

/-- An event that may fault: while the fault buffer is full it waits, and holds back its stream (R140). -/
def State.orHeld (s : State) (r : Option State) : State :=
  match r with
  | none => s
  | some t => if s.fatal || faultHeld s t then s else t

/-- The operands of a set in the order of the ports that the word waits on. -/
def orderToks (ports : List Port) (ts : List (Port × Token)) : List Token :=
  (ports.map (fun q => (ts.filter (fun x => x.1 == q)).map Prod.snd)).flatten

/-- The ready queue has room and no set waits before it (R222). -/
def Pe.queueOpen (p : Pe) : Bool := p.ready.length < 16 && p.marked.isEmpty

/-- A matched set enters the ready queue, or stays marked in the matching store (R222). -/
def Pe.matchedSet (p : Pe) (r : Ready) : Pe :=
  if p.queueOpen then { p with ready := p.ready ++ [r] } else { p with marked := p.marked ++ [r] }

/-- Contributions added in seq order, as far as their turns have come (R149): the next seq and those that wait; none once the
sum is whole. -/
def accRun : Nat → Nat → List Token → Option (Nat × List Token)
  | 0, n, w => some (n, w)
  | k + 1, n, w => match w.find? (fun t => t.seq.toNat == n % 64) with
    | none => some (n, w)
    | some t => if t.ends.getLsbD 0 then none else accRun k (n + 1) (w.erase t)

/-- The sum of a tag at an `acc` or `accmax` once the contributions that its PE's sets hold have been added (R149). -/
def accAhead (p : Pe) (c st tag : Nat) : Option (Nat × List Token) :=
  (((p.ready ++ p.marked).filter (fun e => e.ctx == c && e.station == st && e.tag == tag)).map (fun e => e.toks.getD 0 .zero)).foldl
    (fun a t => let z := a.getD (0, []); accRun (z.2.length + 1) z.1 (z.2 ++ [t]))
    ((Map.find p.accum (accKey c st tag)).map (fun a => (a.next, a.waiting)))

/-- The entries that a contribution of `acc` or `accmax` takes (R149): the first of its tag one for the running value, and one
whose turn has not come one of its own. -/
def entriesNeeded (p : Pe) (c st : Nat) (t : Token) : Nat :=
  if !(p.isAcc c st) then 0
  else match accAhead p c st t.tag.toNat with
    | some a => if t.seq.toNat == a.1 % 64 then 0 else 1
    | none => if t.seq == 0 then 1 else 2

/-- The station forms a set from this token alone (R135, R143, R219). -/
def alone (p : Pe) (f : Fields) (op c st : Nat) (o : OpInfo) (port : Port) : Bool :=
  f.arity == 0 || firesAlone op ||
  (if op = 0x186 then port == .r || f.imm || (Map.find p.invar (stKey c st)).isSome else (awaited o f).length == 1)

/-- A token at its resident station: it completes a set, or takes an entry; none when no entry is to be had (R219,
R220). A set of one token holds no entry (R31), so where the ready queue has no room the token waits in the router's input
buffer, but where the issue of its context is stopped (R372, R375; log entry 98). -/
def matchToken (s : State) (t : Token) : Option State :=
  let x := Site.key (Token.site t)
  let pe := s.pe x
  let c := t.ctx.toNat
  let st := t.station.toNat
  let tag := t.tag.toNat
  let w := pe.word c st
  let f := decodeFields w
  match opInfo (wordOp w) with
  | none => none
  | some o =>
    let now := s.now t.die.toNat
    if alone pe f (wordOp w) c st o t.port then
      let n := entriesNeeded pe c st t
      if !pe.queueOpen && !(s.stopped x c) then none
      else (grantMany x c st tag n s).map (fun m => s.onPe x (fun p => p.matchedSet ⟨c, st, tag, now, [t], n, m⟩))
    else
      let mine := pe.entries.filter (fun e => e.ctx == c && e.station == st && e.tag == tag)
      if mine.any (fun e => e.port == t.port && !(e.pending && t.fmt == e.tok.fmt)) ||
        pe.marked.any (fun e => e.ctx == c && e.station == st && e.tag == tag) then none
      else
        let have' := mine.map (fun e => (e.port, e.tok)) ++ [(t.port, t)]
        let ports := awaited o f
        if wordOp w != 0x186 && ports.all (fun q => have'.any (fun y => y.1 == q)) && !(mine.any Entry.pending) then
          some (s.onPe x (fun p => ({ p with
            entries := p.entries.filter (fun e => !(e.ctx == c && e.station == st && e.tag == tag)) } : Pe).matchedSet
              ⟨c, st, tag, now, orderToks ports have', mine.length, (mine.filter Entry.shared).length⟩))
        else match grant s x c st tag with
          | some sh => some (s.onPe x (fun p => { p with entries := p.entries ++ [⟨c, st, tag, t.port, t, false, sh⟩] }))
          | none => none

/-- A returned token completes the pending entry of its key, and with it perhaps the set (R92). -/
def matchReturn (s : State) (t : Token) : Option State :=
  let x := Site.key (Token.site t)
  let p := s.pe x
  let same := fun (e : Entry) =>
    e.pending && e.ctx == t.ctx.toNat && e.station == t.station.toNat && e.tag == t.tag.toNat && e.port == t.port
  if p.entries.any same then
    matchToken (s.onPe x (fun p => { p with entries := p.entries.filter (fun e => !same e) })) t
  else none

/-- A token of another format at a locked station is diverted (R92). The rule gives the carried address the layout of R85 and no
port; the model puts L there (log entry 86). -/
def divertToken (s : State) (k : Nat) (t : Token) (f : Fields) : Option State :=
  let x := Site.key (Token.site t)
  let c := t.ctx.toNat
  let st := t.station.toNat
  let tag := t.tag.toNat
  if (s.pe x).entries.any (fun e => e.ctx == c && e.station == st && e.tag == tag && e.port == t.port) then none
  else match grant s x c st tag with
  | none => none
  | some sh =>
    let r := s.region k
    let y := s.convSite r
    let back : Target := ⟨true, t.die, t.row, t.col, t.station, .l⟩
    let fl : Flight := ⟨x, st, .request, Site.key y, Site.key y * 2048 + r.cst * 4,
      .divert t back f.fmtOut f.round f.sat, k + 1, false, false⟩
    some ((s.onPe x (fun p => { p with entries := p.entries ++ [⟨c, st, tag, t.port, t, true, sh⟩] })).post fl)

/-- A diversion request at the conversion station is a set of its own (R92), which holds no entry and waits in the router's input
buffer while the ready queue has no room (log entry 98); the set waits at the station while the region is halted or saved (R94). -/
def divertArrives (s : State) (fl : Flight) (t : Token) (back : Target) (g : Fmt) (rd : Round) (sat : Bool) :
    Option State :=
  match s.regionAt (Site.ofKey fl.dst) t.ctx.toNat with
  | none => none
  | some k =>
    let r := s.region k
    if !(s.pe fl.dst).queueOpen && !(s.stopped fl.dst t.ctx.toNat) then none
    else some (s.onPe fl.dst (fun p => p.matchedSet ⟨t.ctx.toNat, r.cst, t.tag.toNat, s.now r.die,
      [t, { Token.zero with payload := divertFlit back g rd sat }], 0, 0⟩))

/-- The stream of a region whose entry a token names (R237). -/
def streamOf (r : Region) (t : Token) : Option Nat :=
  firstIdx (fun x => field x.entry 30 0 == Token.lane t) (r.streams.map (fun x =>
    { x with entry := BitVec.ofNat 32 (Site.key (Token.site (({ Token.zero with
      die := (targetOf x.entry.toNat).die, row := (targetOf x.entry.toNat).row, col := (targetOf x.entry.toNat).col } : Token))) *
      2048 + (targetOf x.entry.toNat).station.toNat * 4 + (targetOf x.entry.toNat).port.code.toNat) })) 0

/-- A token of a tag that a squash retired, and that is not live again, is discarded when it arrives (R146). -/
def isDead (r : Region) (site st tag : Nat) : Bool :=
  match r.domainOf (member site st) with
  | none => false
  | some i =>
    let d := r.domains.getD i Domain.none
    d.dead.contains tag && !d.isLive tag

/-- A token at a PE whose context is resident and whose station takes it. -/
def tokenAtStation (s : State) (k : Option Nat) (fl : Flight) (t : Token) : Option State :=
  let x := Site.key (Token.site t)
  let p := s.pe x
  let w := p.word t.ctx.toNat t.station.toNat
  let f := decodeFields w
  match k with
  | none => matchToken s t
  | some k =>
    let r := s.region k
    if isDead r x t.station.toNat t.tag.toNat then some s
    else if fl.cls == .response && f.lock && fl.site == Site.key (s.convSite r) && fl.station == r.cst && (p.entries.any (fun e => e.pending && e.tag == t.tag.toNat && e.port == t.port))
      then matchReturn s t
    else if f.lock && t.port != .c && t.fmt != f.fmtOut then divertToken s k t f
    else matchToken s t

/-- An error about a token that arrives (R23, R27): as an effect of the region it arrives in, through its caboose, unless
that is the handler region (R156; log entry 10). With the fault buffer (R140) or the caboose (R401) full the token waits where it is. -/
def arrivalError (fl : Flight) (t : Token) (r : ErrRec) (saved : Option Token) (s : State) : Option State :=
  let x := Token.site t
  let home := if isOper x && (s.oper (Site.key x)).region != 0 then some ((s.oper (Site.key x)).region - 1)
    else s.regionAt x t.ctx.toNat
  match home with
  | some k =>
    if s.handlerOf k == some k then
      (if handlerFull s k r.code then none else some ((acceptInput s k fl).raiseError k r saved saved.isSome))
    else if !cabooseRoom s (some k) 1 then none
    else
      let s := acceptInput s k fl
      some (enterCaboose k (Site.key x) t.station.toNat t.tag.toNat (s.region k).wave 0 (.error r saved saved.isSome) s)
  | none => if handlerFull s (fl.region - 1) r.code then none else some (s.raiseError (fl.region - 1) r saved saved.isSome)

/-- The stream FIFO that an input waits in (R237): of the region's stream that the token names, PE station or operator. -/
def fifoOf (s : State) (k : Nat) (fl : Flight) (t : Token) : Option Nat :=
  if fl.input && !(t.port == .c && (ctlKind t == 0x01 || ctlKind t == 0x02)) then streamOf (s.region k) t else none

/-- A token enters the FIFO of stream `i`, or waits in the router when that is full (R237). -/
def enterFifo (s : State) (k i : Nat) (fl : Flight) : Option State :=
  let q := (s.region k).streams.getD i ⟨0, 0, 0, []⟩
  if q.fifo.length < q.depth then
    some (s.onRegion k (fun r => { r with streams := r.streams.modify i (fun q => { q with fifo := q.fifo ++ [fl] }) }))
  else none

/-- An answer that reaches a station of the region under a tag that is not live admits that tag, or waits in the router until it
can (R226, R228; log entry 100): the state with the tag live. A tag that a squash retired is not admitted (R146). -/
def answerAdmitted (s : State) (k : Nat) (fl : Flight) (t : Token) : Option State :=
  if !fl.isAnswer then some s
  else match (s.region k).domainOf (member (Site.key (Token.site t)) t.station.toNat) with
    | none => some s
    | some i =>
      let d := (s.region k).domains.getD i Domain.none
      if d.isLive t.tag.toNat || d.dead.contains t.tag.toNat then some s
      else if canAdmit s k i none t.tag.toNat then some (admitTag k i none t.tag.toNat s)
      else none

/-- A token at a PE (R30, R219). A token that comes to a drained region otherwise than through a stream is misdirected (R340). Where
a control token is malformed or poisoned and its context or station is missing too, R30's fault goes first (DESIGN CHOICE, log entry
115). -/
def tokenAtPe (s : State) (fl : Flight) (t : Token) : Option State :=
  let x := Token.site t
  let p := s.pe (Site.key x)
  let cs := p.ctxState t.ctx.toNat
  let k := s.regionAt x t.ctx.toNat
  if cs = 2 then none
  else if cs = 3 then some (capture s (k.getD 0) fl)
  else if cs = 0 then arrivalError fl t (ErrRec.ofToken 0x02 t) (some t) s
  else match stationBad p t with
    | some e => arrivalError fl t (ErrRec.ofToken e t) (if e = 0x03 then none else some t) s
    | none =>
      if t.port == .c && (ctlKind t == 0x01 || ctlKind t == 0x02) then none
      else match k with
        | none => tokenAtStation s none fl t
        | some k =>
          if (s.region k).rolling && fl.input then none
          else match fifoOf s k fl t with
            | some i => enterFifo s k i fl
            | none =>
              if (s.region k).status == 4 && fl.input then arrivalError fl t (ErrRec.ofToken 0x02 t) (some t) s
              else if (feedSide s t).isSome then none
              else match answerAdmitted s k fl t with
                | none => none
                | some s1 => (tokenAtStation s1 (some k) fl t).map (fun s' => acceptInput s' k fl)

/-- How an operator site meets a token of a context (R30, R340, R370): the region that it is attached to is parked, loading or
drained, or takes it. -/
inductive OperMeets where
  | parked (k : Nat) | loading | drained | open
  deriving DecidableEq, Repr

/-- The parked region whose operator at a site another load has displaced, in the context of a token (R370, R373). -/
def displacedAt (s : State) (x ctx : Nat) : Option Nat :=
  if (s.oper x).region != 0 && (s.region ((s.oper x).region - 1)).ctx == ctx then none
  else (s.parked.find? (fun p => (Map.find p.opers x).isSome && (s.region p.region).ctx == ctx)).map Snap.region

/-- How the operator site of a token meets it (R30, R340, R370). -/
def operState (s : State) (x : Nat) (t : Token) : OperMeets :=
  let o := s.oper x
  if !isOper (Site.ofKey x) then .open
  else match displacedAt s x t.ctx.toNat with
    | some k => .parked k
    | none =>
      if o.region = 0 then .open
      else
        let st := (s.region (o.region - 1)).status
        if st = 6 then .parked (o.region - 1) else if st = 1 then .loading else if st = 4 then .drained else .open

/-- A plain token at a memory tile names no request: it is misdirected, or what R23 makes of a control token, DEDUCED (log
entry 13). At an operator, a token its kind does not take is an error (R193, R194), and an input of a stream waits in its
FIFO (R237). -/
def tokenAtOther (s : State) (fl : Flight) (t : Token) : Option State :=
  let x := Token.site t
  let o := s.oper (Site.key x)
  let r := s.region (o.region - 1)
  match operState s (Site.key x) t with
  | .parked k => some (capture s k fl)
  | .loading => none
  | .drained =>
    if fl.input && (fifoOf s (o.region - 1) fl t).isNone && !(t.port == .c && ctlKind t == 0x01) then
      arrivalError fl t (ErrRec.ofToken 0x02 t) (some t) s
    else none
  | .open =>
    if isOper x then
      match operBad o t with
      | some e => arrivalError fl t (ErrRec.ofToken e t) (if e = 0x03 then none else some t) s
      | none =>
        if o.region = 0 || r.rolling then none
        else match fifoOf s (o.region - 1) fl t with
          | some i => enterFifo s (o.region - 1) i fl
          | none => none
    else
      let e := if t.port == .c then (ctlBad t).getD 0x02 else 0x02
      arrivalError fl t (ErrRec.ofToken e t) (if e = 0x03 then none else some t) s

/-- What an arrival at flight `n` does: none where it is another unit's step or has to wait. -/
def arrive (s : State) (n : Nat) : Option State :=
  if s.fatal then none
  else match headOfLane s.net n with
  | none => none
  | some fl =>
    let s0 := dropFlight s n
    match fl.msg with
    | .token t => if isPe (Token.site t) then tokenAtPe s0 fl t else tokenAtOther s0 fl t
    | .divert t back g rd sat => divertArrives s0 fl t back g rd sat
    | _ => none

/-- TOKEN_ARRIVAL (R219). -/
def execTokenArrival (n : Nat) (s : State) : Host.Outcome State Fault Refusal := .next ((arrive s n).getD s)

/-- MATCHING_ENTRY_GRANTED (R227): a token waiting in the router input buffer of PE `x` for an entry takes one. -/
def grantEntry (s : State) (x : Site) (n : Nat) : Option State :=
  match headOfLane s.net n with
  | some fl => if fl.dst == Site.key x && isPe x then arrive s n else none
  | none => none

/-- MATCHING_ENTRY_GRANTED (R227). -/
def execMatchingEntryGranted (x : Site) (n : Nat) (s : State) : Host.Outcome State Fault Refusal :=
  .next ((grantEntry s x n).getD s)

/-- The first marked set enters the ready queue, when that has a free entry: one in a cycle (R222). -/
def Pe.enterReady (now : Nat) (p : Pe) : Option Pe :=
  match p.marked with
  | r :: rs =>
    if p.ready.length < 16 && p.nextEnter ≤ now then some { p with ready := p.ready ++ [r], marked := rs, nextEnter := now + 1 }
    else none
  | [] => none

/-- READY_QUEUE_ENTRY (R222). -/
def execReadyQueueEntry (x : Site) (s : State) : Host.Outcome State Fault Refusal :=
  .next (match (s.pe (Site.key x)).enterReady (s.now x.die) with
    | some p => s.onPe (Site.key x) (fun _ => p)
    | none => s)

/-! ### Result injection -/

/-- The region of a destination is the sender's. -/
def inRegion (s : State) (k : Option Nat) (x : Site) (ctx : Nat) : Bool :=
  match k with
  | none => true
  | some r => s.regionAt x ctx == some r

/-- The flight of an emission, to site `x`. -/
def flightOf (site st : Nat) (k : Option Nat) (colour : Bool) (m : Msg) (c : Cls) (x : Site) (lane : Nat) (inside : Bool) :
    Flight :=
  ⟨site, st, c, Site.key x, lane, m, (match k with | none => 0 | some r => r + 1), !inside, colour⟩

/-- The class of a message to a unit (R32). -/
def Msg.cls : Msg → Cls
  | .fold q => if q.kind == .resize then .request else .data
  | _ => .request

/-- The lane of a message: its destination's serving port (R35, R268). -/
def Msg.lane (x : Site) : Msg → Nat
  | .read r => Site.key x * 2048 + r.port * 4
  | .word _ => Site.key x * 2048 + 8
  | .fold _ => Site.key x * 2048 + 12
  | _ => Site.key x * 2048

/-- A request or a name word on its way, of any region (R165). -/
def Flight.isRequest (f : Flight) : Bool :=
  match f.msg with
  | .port _ | .word _ => true
  | _ => false

/-- As a trigger enters its caboose, the requests and name writes of its region that are under way are noted (R165): the messages
on their way, in the caboose, in an ordering domain or at a tile, and the accesses that are not performed. -/
def noteTrigger (k : Nat) (a : Act) (s : State) : State :=
  match a with
  | .trigger =>
    let sent := ((s.region k).caboose.filterMap (fun e => match e.act with
      | .send f => some f
      | _ => none)) ++ s.net.filter (fun f => f.region == k + 1)
    let queued := ((s.opers.map (fun ko => (ko.2.doms.map (fun d => (d.2.waiting.filter (fun p => p.region == k && p.site != 0)).map
      (fun p => (⟨p.site, p.station, .request, ko.1, ko.1 * 2048, .port p, k + 1, false, false⟩ : Flight)))).flatten)).flatten)
    let stalls := ((s.tiles.map (fun kt => (kt.2.stalled.filter (fun w => s.regionAt (Site.ofKey w.site) w.ctx == some k)).map
      (fun w => (⟨w.site, w.station, .request, kt.1, kt.1 * 2048 + 8, .word w, k + 1, false, false⟩ : Flight))))).flatten
    s.onRegion k (fun r => { r with
      trigAhead := sent.filter Flight.isRequest ++ queued ++ stalls
      trigCovers := (s.accesses.filter (fun a => a.region == k + 1 && (a.phase < 5 || a.phase == 6))).map Access.id })
  | _ => s

/-- A name word that a trigger waits for has landed and been released (R165, R261): nothing of its write is under way. -/
def wordDone (s : State) (k : Nat) (w : NameWord) : Bool :=
  let same := fun (u : NameWord) => u.stmt == w.stmt && u.ctx == w.ctx && u.tag == w.tag && u.site == w.site && u.station == w.station
  !(s.net.any (fun f => f.region == k + 1 && (match f.msg with | .word u => same u | _ => false))) &&
  !(s.tiles.any (fun kt => kt.2.stalled.any same)) &&
  !((s.region k).caboose.any (fun e => e.site == w.site && e.station == w.station && e.tag == w.tag && (match e.act with
    | .wordShown stmt _ _ _ _ => stmt == w.stmt
    | _ => false)))

/-- A request that a trigger or a fence found on its way has become an access, or ended: it still waits in the network or in an
ordering domain. -/
def requestUnderWay (s : State) (q : PortReq) : Bool :=
  s.net.any (fun f => f.msg == .port q) || s.opers.any (fun ko => ko.2.doms.any (fun d => d.2.waiting.contains q))

/-- Every name write and request that the region issued before its trigger has been performed (R165). -/
def triggerMay (s : State) (k : Nat) : Bool :=
  let r := s.region k
  r.trigAhead.all (fun f => match f.msg with
    | .word w => wordDone s k w
    | .port q => !requestUnderWay s q
    | _ => true) &&
  !(s.accesses.any (fun a => r.trigCovers.contains a.id && a.phase < 5))

/-- The effect or flight of one emission of a firing at (site, station): inside its region it is sent, beyond it enters
the caboose (R156). A destination that does not exist is misdirected (R27). -/
def sendOne (site st ctx tag wave : Nat) (k : Option Nat) (e : Emit) (s : State) : State :=
  let colour := (s.pe site).colour
  let go := fun (m : Msg) (c : Cls) (x : Site) (lane seq : Nat) (inside : Bool) =>
    let fl := flightOf site st k colour m c x lane inside
    match k with
    | none => s.post fl
    | some r => if inside then s.post fl else enterCaboose r site st tag wave seq (.send fl) s
  let err := fun (r : ErrRec) (saved : Option Token) (hasDst : Bool) =>
    match k with
    | none => s.raiseError 0 r saved hasDst
    | some q =>
      if s.handlerOf q == some q then s.raiseError q r saved hasDst
      else enterCaboose q site st tag wave 0 (.error r saved hasDst) s
  match e with
  | .token t c =>
    let x := Token.site t
    if !placeExists x t.station.toNat then err (ErrRec.ofToken 0x02 t) (some t) true
    else go (.token t) (if c == .response then c else s.clsOf t) x (Token.lane t) t.seq.toNat (inRegion s k x t.ctx.toNat)
  | .msg m die row col =>
    let x : Site := ⟨die, row, col⟩
    let inside := match m with
      | .fold _ => false
      | _ => inRegion s k x ctx && !(isOper x)
    go m (Msg.cls m) x (Msg.lane x m) 0 inside
  | .effect a =>
    match k with
    | none => s
    | some r => noteTrigger r a (enterCaboose r site st tag wave 0 a s)
  | .error r saved hasDst => err r saved hasDst

/-- Every emission of a result, in order (R88). -/
def sendAll (site st ctx tag wave : Nat) (k : Option Nat) : List Emit → State → State
  | [], s => s
  | e :: es, s => sendAll site st ctx tag wave k es (sendOne site st ctx tag wave k e s)

/-- What a result wants of the domains of its own region (R226): the domain and the tag of each token to a station of one, and of
the answers that its name reads bring to one, once; and of a `wave` its own domain and its next tag (R229). -/
def admitWants (s : State) (k site : Nat) (q : Result) : List (Nat × Nat) :=
  let r := s.region k
  let want := fun (x : Site) (st ctx tag : Nat) =>
    if isPe x && ctx == r.ctx then (r.domainOf (member (Site.key x) st)).map (fun i => (i, tag)) else none
  ((if wordOp ((s.pe site).word q.ctx q.station) == 0x187 then
      ((r.domainOf (member site q.station)).map (fun i => (i, (q.tag + 1) % 65536))).toList else []) ++
   (q.emits.map (fun e => match e with
    | .token t _ => (want (Token.site t) t.station.toNat t.ctx.toNat t.tag.toNat).toList
    | .msg (.read rd) _ _ _ => rd.targets.filterMap (fun g => if g.valid then
        want (Target.site g) g.station.toNat rd.token.ctx.toNat rd.token.tag.toNat else none)
    | _ => [])).flatten).eraseDups

/-- The tag `t` of a `wave` at (site, st) is left to it alone: nothing else of it is in flight, waiting or in service
(R229). -/
def handedOn (s : State) (k i site tag : Nat) (q : Result) : Bool :=
  let r := s.region k
  let s' := s.onPe site (fun p => { p with results := p.results.erase q })
  !tagBusy s' (r.domains.getD i Domain.none) r.ctx tag

/-- A station is a tag source of domain `i` (R225). -/
def sourceOf (s : State) (k i m : Nat) : Option Nat :=
  if ((s.region k).domains.getD i Domain.none).sources.any (fun x => member x.site x.station == m) then some m else none

/-- The state in which the admission that result `q` wants is judged: its own tag handed on, where a `wave` holds the last
token of it (R229). -/
def beforeAdmit (s : State) (k i site : Nat) (q : Result) : State :=
  if wordOp ((s.pe site).word q.ctx q.station) == 0x187 && handedOn s k i site q.tag q then handOn k i q.tag s else s

/-- The first result of each station of a region's PEs, with its PE, that is ready to leave (R105). -/
def readyResults (s : State) (k : Nat) : List (Nat × Result) :=
  let r := s.region k
  (r.peSites.map (fun x =>
    let rs := (s.pe (Site.key x)).results.filter (fun q => q.ctx == r.ctx)
    (rs.filter (fun q => q.ready ≤ s.now x.die && rs.find? (fun a => a.station == q.station) == some q)).map
      (fun q => (Site.key x, q)))).flatten

/-- What a token held by the launch or a stream of a region wants (R228): domain, tag and the member it goes to. -/
def flightWants (r : Region) (fl : Flight) : Option (Nat × Nat × Nat) :=
  match fl.msg.token? with
  | none => none
  | some t =>
    let m := member fl.dst (if isPe (Site.ofKey fl.dst) then t.station.toNat else 0)
    (r.domainOf m).map (fun i => (i, t.tag.toNat, m))

/-- The tag of the next iteration of a running LOOP (R206). -/
def loopTag (o : Oper) : Nat := (o.expTag + o.pos) % 65536

/-- A stream's head stays in its FIFO (R32, R237, log entry 99): four tokens that came in from outside region `k` still stand before the place
it goes to, and fill the buffers of its channel. -/
def entryFull (s : State) (k : Nat) (fl : Flight) : Bool :=
  match fl.msg.token? with
  | none => false
  | some t => 4 ≤ (s.net.filter (fun f => f.dst == fl.dst && !f.input && f.region != k + 1 && (match f.msg.token? with
      | some u => u.station == t.station && u.port == t.port && u.ctx == t.ctx
      | none => false))).length

/-- The head of each stream's FIFO of a region that has room before it (R228, R237). -/
def streamHeads (s : State) (k : Nat) : List Flight :=
  (((s.region k).streams.map (fun q => q.fifo.take 1)).flatten).filter (fun fl => !entryFull s k fl)

/-- The tags of domain `i` that sources hold back and that could be admitted now, with their places (R228): of results, the
launch, streams and LOOPs. -/
def heldBack (s : State) (k i : Nat) : List (Nat × Nat) :=
  let r := s.region k
  let d := r.domains.getD i Domain.none
  let new := fun (tag : Nat) => !(d.isLive tag)
  let rs := ((readyResults s k).map (fun xq => ((admitWants s k xq.1 xq.2).filter (fun w => w.1 == i && new w.2 &&
    canAdmit (beforeAdmit s k i xq.1 xq.2) k i (sourceOf s k i (member xq.1 xq.2.station)) w.2)).map
      (fun w => (w.2, member xq.1 xq.2.station)))).flatten
  let fs := ((r.launchQ.take 1) ++ streamHeads s k).filterMap (fun fl =>
    match flightWants r fl with
    | some (j, tag, m) => if j == i && new tag && canAdmit s k i (some m) tag then some (tag, m) else none
    | none => none)
  let ls := s.opers.filterMap (fun ko =>
    if ko.2.kind == 4 && ko.2.region == k + 1 && ko.2.state == 2 && ko.2.pos < ko.2.sent &&
      r.domainOf (member ko.1 0) == some i && new (loopTag ko.2) && canAdmit s k i (some (member ko.1 0)) (loopTag ko.2)
    then some (loopTag ko.2, member ko.1 0) else none)
  rs ++ fs ++ ls

/-- Blocked sources are admitted by the age of their tags, then by place (R228): a source at place `m` with a tag is next. -/
def isNext (s : State) (k i tag m : Nat) : Bool :=
  !((heldBack s k i).any (fun b => older b.1 tag || (!(older tag b.1) && b.2 < m)))

/-- One admission that result `q` needs before it leaves (R228, R229): the state with it made, or none when it waits. A tag
that a squash retired is not admitted again by a token that follows it (R146). -/
def admitOne (k site : Nat) (q : Result) (w : Nat × Nat) (s : State) : Option State :=
  let d := (s.region k).domains.getD w.1 Domain.none
  let src := sourceOf s k w.1 (member site q.station)
  if d.isLive w.2 || (d.dead.contains w.2 && src.isNone) then some s
  else
    let s1 := beforeAdmit s k w.1 site q
    if canAdmit s1 k w.1 src w.2 && isNext s k w.1 w.2 (member site q.station) then some (admitTag k w.1 src w.2 s1) else none

/-- Every admission of a list, or none. -/
def admitEach (k site : Nat) (q : Result) : List (Nat × Nat) → State → Option State
  | [], s => some s
  | w :: ws, s => match admitOne k site q w s with
    | some s' => admitEach k site q ws s'
    | none => none

/-- The admissions that a result needs before it leaves (R228, R229): the state with them made, or none when it waits. -/
def admitResult (s : State) (k site : Nat) (q : Result) : Option State :=
  match admitWants s k site q with
  | [] => some s
  | ws => admitEach k site q ws (retireTags s k)

/-- An emission of a firing of region `k`, in context `ctx`, enters the caboose (R156). -/
def entersCaboose (s : State) (k ctx : Nat) (e : Emit) : Bool :=
  match e with
  | .token t _ => !(placeExists (Token.site t) t.station.toNat && inRegion s (some k) (Token.site t) t.ctx.toNat)
  | .msg (.fold _) _ _ _ => true
  | .msg _ die row col => isOper ⟨die, row, col⟩ || !inRegion s (some k) ⟨die, row, col⟩ ctx
  | .effect _ => true
  | .error _ _ _ => s.handlerOf k != some k

/-- The effects of a result that enter the caboose of region `k`. -/
def effectCount (s : State) (k ctx : Nat) (es : List Emit) : Nat := (es.filter (entersCaboose s k ctx)).length

/-- A firing's fault waits while the fault buffer is full (R140). -/
def faultsHeld (s : State) (k : Option Nat) (es : List Emit) : Bool :=
  es.any (fun e => match e with
    | .error r _ _ => handlerFull s (k.getD 0) r.code
    | _ => false)

/-- The requests that stand at a port of a tile (R268): in its queue or before it. -/
def queueLength (s : State) (dst lane : Nat) : Nat :=
  (if lane = dst * 2048 + 8 then (s.tile dst).stalled.length else 0) +
  (s.net.filter (fun g => g.cls == .request && g.dst == dst && g.lane == lane)).length

/-- A station's requests are held back (R32, R268): the eight entries of a port queue of a memory tile are taken, and its requests
to that port fill the four buffers of a channel. What stands between is the network's. -/
def backPressed (s : State) (site st : Nat) (es : List Emit) : Bool :=
  es.any (fun e => match e with
    | .msg (.word _) _ _ _ | .msg (.read _) _ _ _ => true
    | _ => false) &&
  s.net.any (fun f => f.site == site && f.station == st && f.cls == .request && isTile (Site.ofKey f.dst) && 12 ≤ queueLength s f.dst f.lane &&
    4 ≤ (s.net.filter (fun g => g.site == site && g.station == st && g.cls == .request && g.lane == f.lane)).length)

/-- A region halts (R375): issue stops, and the progress counter pauses. -/
def haltRegion (k : Nat) (s : State) : State :=
  s.onRegion k (fun r => { r with halted := true, progress := progressNow s k })

/-- The result at place `n` of a PE leaves: the first of its station, ready, admitted and with room (R105, R228). -/
def inject (s : State) (x : Site) (n : Nat) : Option State :=
  let site := Site.key x
  let p := s.pe site
  match p.results[n]? with
  | none => none
  | some q =>
    if s.fatal || s.now x.die < q.ready ||
      (p.results.take n).any (fun a => a.ctx == q.ctx && a.station == q.station) then none
    else
      let k := s.regionAt x q.ctx
      if !cabooseRoom s k (effectCount s (k.getD 0) q.ctx q.emits) || faultsHeld s k q.emits || backPressed s site q.station q.emits then none
      else match (match k with | none => some s | some r => admitResult s r site q) with
        | none => none
        | some s1 =>
          let s2 := s1.onPe site (fun p => { p with results := p.results.erase q })
          let s3 := match k with
            | some r => if q.cause = 0 then s2 else
                s2.onRegion r (fun g => g.logPoison (s.now x.die) (logEntry q.cause x q.station q.ctx q.tag))
            | none => s2
          let s4 := sendAll site q.station q.ctx q.tag q.wave k q.emits s3
          some (match k with
            | some r => if wordOp (p.word q.ctx q.station) == 0x28D && bit (s.region r).ctl 14 then haltRegion r s4 else s4
            | none => s4)

/-- RESULT_INJECTION (R105). -/
def execResultInjection (x : Site) (n : Nat) (s : State) : Host.Outcome State Fault Refusal :=
  .next ((inject s x n).getD s)

/-- GANGED_LANE_TIMEOUT (R36): a token that has waited 15 cy for a ganged lane of region `r` takes the next cycle, and the
region's step is withheld for it: it arrives, and no value changes. -/
def execGangedLaneTimeout (r n : Nat) (s : State) : Host.Outcome State Fault Refusal :=
  .next (match headOfLane s.net n with
    | some fl => if (s.region r).holdsPe (Site.ofKey fl.dst) then (arrive s n).getD s else s
    | none => s)

/-! ### Feed words -/

/-- A flight whose token feeds a row assembler (R177), at a resident context (R30). An input of a stream comes out of its FIFO
first (R237), a token of a squashed tag is discarded (R146), and an input waits while the region is rolled back (R406). -/
def feed (s : State) (n : Nat) : Option State :=
  match headOfLane s.net n with
  | none => none
  | some fl => match fl.msg with
    | .token t => match feedSide s t with
      | some (k, side) =>
        if (s.pe (Site.key (Token.site t))).ctxState t.ctx.toNat != 1 || (fifoOf s k fl t).isSome ||
          ((s.region k).rolling && fl.input) then none
        else if isDead (s.region k) (Site.key (Token.site t)) t.station.toNat t.tag.toNat then some (acceptInput (dropFlight s n) k fl)
        else match feedToken t side (dropFlight s n) with
          | some (s', true) => arrivalError fl t (ErrRec.ofToken 0x01 t) (some t) s'
          | some (s', false) => some (acceptInput s' k fl)
          | none => none
      | none => none
    | _ => none

/-- FEED_WORD (R177). -/
def execFeedWord (n : Nat) (s : State) : Host.Outcome State Fault Refusal := .next ((feed s n).getD s)

/-! ### Coupling -/

/-- The producer count of a station (R333), as the loader delivered it. -/
def fanin (s : State) (site ctx st : Nat) : Nat :=
  let x := Site.ofKey site
  if isPe x then Map.get (s.pe site).coupling 0 (stKey ctx st) else (s.oper site).fanin

/-- The serial in force of a region after a coupling token with serial `v` reaches it, and whether that one counts
(R334). -/
def serialTake (r : Region) (v : Nat) : Region × Bool :=
  if r.serialSet then (r, r.serial.toNat == v)
  else ({ r with serial := BitVec.ofNat 64 v, serialSet := true, status := if r.status == 2 then 3 else r.status }, true)

/-- A coupling token that its station or operator could count now (R334, R335): the flight, the token and the region. It
comes after every data token of its lane: those in flight, and those in the FIFO of the stream it arrives on (R237). -/
def coupleFlightAt (s : State) (n : Nat) : Option (Flight × Token × Nat) :=
  match headOfLane s.net n with
  | none => none
  | some fl => match fl.msg with
    | .token t =>
      let x := Token.site t
      if t.port != .c || ctlKind t != 0x01 || (ctlBad t).isSome || (isPe x && (s.pe (Site.key x)).ctxState t.ctx.toNat != 1) ||
        !(operState s (Site.key x) t == .open || operState s (Site.key x) t == .drained) then none
      else match s.regionAt x t.ctx.toNat with
        | none => none
        | some k =>
          let behind := fun (g : Flight) => g.site == fl.site && g.station == fl.station && g.lane == fl.lane
          if fl.cls == .data && fl.input && ((s.region k).streams.any (fun q => q.fifo.any behind) ||
            s.net.any (fun g => behind g && !g.input)) then none
          else some (fl, t, k)
    | _ => none

/-- Of coupling tokens that could set a region's serial in one cycle, the one at the lowest row, column and station decides
(R334): whether another one, with another serial, comes before this one. -/
def couplesFirst (s : State) (k : Nat) (t : Token) : Bool :=
  !(s.region k).serialSet && (List.range s.net.length).any (fun i => match coupleFlightAt s i with
    | some (_, u, k') => k' == k && field u.payload 31 0 != field t.payload 31 0 &&
      member (Site.key (Token.site u)) u.station.toNat < member (Site.key (Token.site t)) t.station.toNat
    | none => false)

/-- A coupling token is counted at its station or operator (R334, R335), or discarded under another serial. -/
def coupleArrives (s : State) (n : Nat) : Option State :=
  match coupleFlightAt s n with
  | none => none
  | some (fl, t, k) =>
    if couplesFirst s k t || ((s.region k).rolling && fl.input) then none
    else
      let x := Token.site t
      let s0 := acceptInput (dropFlight s n) k fl
      let v := serialTake (s0.region k) (field t.payload 31 0)
      let s1 := s0.onRegion k (fun _ => v.1)
      if !v.2 then some s1
      else if isPe x then
        some (s1.onPe (Site.key x) (fun p => { p with joins := Map.alter p.joins 0 (stKey t.ctx.toNat t.station.toNat) (fun n => n + 1) }))
      else some (s1.onOper (Site.key x) (fun o => { o with joins := o.joins + 1 }))

/-- COUPLING_TOKEN_ARRIVAL (R335). -/
def execCouplingTokenArrival (n : Nat) (s : State) : Host.Outcome State Fault Refusal :=
  .next ((coupleArrives s n).getD s)

/-- A coupling token forwarded along a target: port C, in the data channel, on the lane of the target's data port
(R334). -/
def coupleFlight (site st ctx : Nat) (k : Nat) (serial : Word) (g : Target) : Token × Flight :=
  let t : Token := ⟨BitVec.ofNat 64 (2 ^ 56 + field serial 31 0), g.die, g.row, g.col, g.station, .c,
    BitVec.ofNat 3 ctx, .i64, false, 0, 0, 0⟩
  (t, ⟨site, st, .data, Site.key (Token.site t), Token.lane (Token.toTarget t g), .token t, k + 1, false, false⟩)

/-- Coupling tokens to targets: inside the region at once, beyond it through the caboose (R337). -/
def forwardCouple (site st ctx k : Nat) (serial : Word) : List Target → State → State
  | [], s => s
  | g :: gs, s =>
    let tf := coupleFlight site st ctx k serial g
    let s' := if inRegion s (some k) (Target.site g) ctx then s.post tf.2
      else enterCaboose k site st 0 (s.region k).wave 0 (.send { tf.2 with input := true }) s
    forwardCouple site st ctx k serial gs s'

/-- A domain of a region has no live tag: those that nothing keeps busy any more have retired (R226). -/
def noLiveTag (s : State) (k m : Nat) : Bool :=
  let r := s.region k
  match r.domainOf m with
  | none => true
  | some i =>
    let d := r.domains.getD i Domain.none
    d.live.all (fun l => !tagBusy s d r.ctx l.tag)

/-- The join of a station holds (R335): its count is full, its domain has no live tag, it holds no entry, running value or
barrier wait, and every firing it issued has emitted. -/
def joinReady (s : State) (k site ctx st : Nat) : Bool :=
  let p := s.pe site
  let r := s.region k
  let key := stKey ctx st
  r.serialSet && !(p.forwarded.contains key) && max 1 (fanin s site ctx st) ≤ Map.get p.joins 0 key &&
  noLiveTag s k (member site st) &&
  !(p.entries.any (fun e => e.ctx == ctx && e.station == st)) &&
  !(p.accum.any (fun ka => ka.1 / 65536 == key && (wordOp (p.word ctx st) == 0x191 || wordOp (p.word ctx st) == 0x192))) &&
  !(p.results.any (fun e => e.ctx == ctx && e.station == st)) &&
  !(p.ready.any (fun e => e.ctx == ctx && e.station == st)) && !(p.marked.any (fun e => e.ctx == ctx && e.station == st)) &&
  !((s.region r.loadBase).barriers.any (fun kb => kb.2.waits.any (fun w => w.2.1 == site && w.2.2 % 4096 == ctx * 512 + st))) &&
  (site != Site.key r.corner || (s.matrix site).queue.isEmpty)

/-- The column stations of a WS run in the last PE row, which the run's coupling token reaches too (R428). An OS run
names none (DEDUCED, log entry 14). -/
def columnTargets (r : Region) (op : Nat) (f : Fields) : List Target :=
  if op = 0x303 then (List.range r.width).map (fun j =>
    let x := peSite r.die (r.row + r.height - 1) (r.col + j)
    ⟨true, BitVec.ofNat 5 x.die, BitVec.ofNat 7 x.row, BitVec.ofNat 8 x.col, BitVec.ofNat 9 (f.aux16.toNat % 512), .l⟩)
  else []

/-- The targets to which a station forwards its coupling token (R335). -/
def joinTargets (s : State) (k site ctx st : Nat) : List Target :=
  let w := (s.pe site).word ctx st
  if wordOp w = 0x187 then [] else validTargets (decodeFields w) ++ columnTargets (s.region k) (wordOp w) (decodeFields w)

/-- A station forwards its coupling token, once (R335), but not under a debug halt (R340): one to each valid target; a `wave` acts as if it had none; an
`invar` clears its held value. -/
def joinGo (s : State) (x : Site) (ctx st : Nat) : Option State :=
  let site := Site.key x
  match s.regionAt x ctx with
  | none => none
  | some k =>
    if (s.region k).halted || !joinReady s k site ctx st || !cabooseRoom s (some k) (joinTargets s k site ctx st).length then none
    else
      let op := wordOp ((s.pe site).word ctx st)
      let s1 := s.onPe site (fun p => { p with
        forwarded := stKey ctx st :: p.forwarded,
        invar := if op = 0x186 then Map.del p.invar (stKey ctx st) else p.invar })
      let s2 := s1.onRegion k (fun r => { r with drainedTo := member site st :: r.drainedTo })
      some (forwardCouple site st ctx k (s.region k).serial (joinTargets s k site ctx st) s2)

/-- JOIN_FORWARD (R335). -/
def execJoinForward (x : Site) (c st : Nat) (s : State) : Host.Outcome State Fault Refusal :=
  .next ((joinGo s x c st).getD s)

/-- The targets of an operator: `to`, `to2`, `done`, `empty` (R192, R336). -/
def operTargets (o : Oper) : List Target :=
  [targetOf (field (Map.get o.pm 0 12) 31 0), targetOf (field (Map.get o.pm 0 12) 63 32),
   targetOf (field (Map.get o.pm 0 13) 31 0), targetOf (field (Map.get o.pm 0 13) 63 32)]

/-- The context of an operator's tokens (R192). -/
def operCtx (o : Oper) : Nat := field (Map.get o.pm 0 14) 34 32

/-- Requests that a PORT has accepted and not performed (R336): in an ordering domain, in service, or as a fence. -/
def portBusy (s : State) (site : Nat) : Bool :=
  let o := s.oper site
  o.doms.any (fun d => !d.2.waiting.isEmpty) || !o.fences.isEmpty || s.accesses.any (fun a => a.oper == site && a.phase < 7 && a.phase != 5)

/-- An operator's join holds (R335, R336): its count is full, its domain has no live tag, no pass runs, what it holds but a
GATE or REORDER releases is used up, its tokens have left, and nothing of it is outstanding. -/
def operJoinReady (s : State) (site : Nat) : Bool :=
  let o := s.oper site
  let k := o.region - 1
  (s.region k).serialSet && !o.forwarded && max 1 o.fanin ≤ o.joins && (o.state == 0 || o.state == 4) && o.moves.isEmpty &&
  noLiveTag s k (member site 0) && o.out.isEmpty && o.held2.isEmpty && o.waitR.isEmpty && o.sieve.isEmpty &&
  (o.kind == 5 || o.kind == 7 || o.held.isEmpty) && !portBusy s site &&
  !(s.accesses.any (fun a => a.oper == site && a.phase < 5)) &&
  !(s.net.any (fun f => f.dst == site && !f.input && (match f.msg with
    | .token t => !(t.port == .c && ctlKind t == 0x01)
    | _ => true)))

/-- An operator forwards its coupling token, but not under a debug halt (R336, R340); a GATE first releases, and a REORDER
first emits, every token it holds. -/
def operJoin (s : State) (x : Site) : Option State :=
  let site := Site.key x
  let o := s.oper site
  if o.region = 0 then none
  else
    let k := o.region - 1
    let r := s.region k
    let outs := if o.kind = 5 || o.kind = 7 then o.held else []
    if r.halted || !operJoinReady s site || !cabooseRoom s (some k) (outs.length + 4) then none
    else
      let ctx := operCtx o
      let toT := targetOf (field (Map.get o.pm 0 12) 31 0)
      let s1 := outs.foldl (fun s t => if toT.valid then sendOne site 0 ctx t.tag.toNat r.wave (some k)
        (.token (Token.toTarget { t with ctx := BitVec.ofNat 3 ctx } toT) (Token.cls (Token.toTarget t toT))) s else s) s
      let s2 := s1.onOper site (fun o => { o with
        forwarded := true, state := 0, arms := [], held := if o.kind = 5 || o.kind = 7 then [] else o.held })
      let s3 := s2.onRegion k (fun r => { r with drainedTo := member site 0 :: r.drainedTo })
      some (forwardCouple site 0 ctx k r.serial ((operTargets o).filter Target.valid) s3)

/-- OPERATOR_COUPLING_FORWARD (R336). -/
def execOperatorCouplingForward (x : Site) (s : State) : Host.Outcome State Fault Refusal :=
  .next ((operJoin s x).getD s)

/-! ### Squash -/

/-- A squash's effect on one PE's stations: what later tags hold there is purged, with the pending marks (R146, R94). Issued
firings complete (R106). -/
def purgePe (d : Domain) (ctx site : Nat) (dead : Nat → Bool) (p : Pe) : Pe :=
  let mine := fun (c st tag : Nat) => c == ctx && d.members.contains (member site st) && dead tag
  { p with
    entries := p.entries.filter (fun e => !mine e.ctx e.station e.tag)
    marked := p.marked.filter (fun e => !mine e.ctx e.station e.tag)
    ready := p.ready.filter (fun e => !mine e.ctx e.station e.tag)
    accum := p.accum.filter (fun ka => !mine (ka.1 / 65536 % 8) (ka.1 / 524288) (ka.1 % 65536)) }

/-- The saved token of an expired or discarded read: one for the whole tile (R140), addressed to target A. The rule does not
say where it goes when A is absent; the model takes the first valid target (log entry 87). -/
def expiredToken (r : NameRead) : Token × Bool :=
  match r.targets with
  | g :: _ => (Token.toTarget { r.token with payload := 0, ends := 3, seq := 0, poison := false } g, g.valid)
  | [] => ({ r.token with payload := 0, ends := 3, seq := 0, poison := false }, false)

/-- The record of a name request's fault: the requesting station, its context and tag (log entry 17). -/
def nameRec (code : Nat) (site st : Nat) (ctx tag : Nat) : ErrRec := ⟨code, Site.ofKey site, st, ctx, tag⟩

/-- A tile's slot loses the tentative words of a squashed or rolled-back writer: the cursor falls to the released one, the
present bits above it are cleared, and the slot is empty where nothing was released (R261, R262). -/
def dropTentative (pos : Nat) (t : Tile) : Tile :=
  let q := Map.get t.slots Slot.empty pos
  if q.cursor = q.rcursor then t
  else
    let q' := { q with
      cursor := q.rcursor, stamp := (q.stamp + 1) % 65536, state := if q.rcursor = 0 then 0 else 1,
      held := if q.rcursor = 0 then 0 else q.held }
    { t with
      slots := Map.put t.slots pos q'
      present := t.present.filter (fun kv => kv.1 / 512 != pos || (kv.1 % 512 + 1) * 8 ≤ q.rcursor)
      writers := t.writers.filter (fun kv => kv.1 / 8192 != pos) }

/-- An accepted read loses its held decrement: the effect leaves the caboose of its region `k`, and held falls by one (R260,
R261). -/
def cancelDecrement (k tile pos : Nat) (e : Effect) (s : State) : State :=
  (s.onRegion k (fun r => { r with caboose := r.caboose.erase e })).onTile tile (fun t => { t with
    slots := Map.alter t.slots Slot.empty pos (fun q => { q with held := q.held - 1 }) })

/-- An `expired` fault of a tile's statement, counted at its first tile (R140, R267). -/
def expireRead (tile : Nat) (r : NameRead) (s : State) : State :=
  let d := (s.tile tile).desc r.ctx r.stmt
  countFold (d.firstTile (Site.ofKey tile).die) (descKey r.ctx r.stmt) (fun c => { c with expired := satInc c.expired })
    (s.raiseError r.region (nameRec 0x04 r.site r.station r.ctx r.tag) (some (expiredToken r).1) (expiredToken r).2)

/-- What becomes of one accepted read of a slot that has lost words (R261), with the effect that holds its decrement, if it has
one; `v` is the read where it has words to come. In a freed slot it loses its decrement: one that delivered nothing is
deferred again, one that delivered a word faults. In another slot one that delivered a word now gone faults. -/
def readAfterDrop (tile pos : Nat) (ke : Option (Nat × Effect)) (r : NameRead) (v : Option Serving) (s : State) : State :=
  let q := Map.get (s.tile tile).slots Slot.empty pos
  let got := match v with
    | some v => v.next
    | none => if r.kind == .nrel then 0 else ((s.tile tile).desc r.ctx r.stmt).words
  if q.state = 0 || q.cursor < got then
    let s1 := match ke with
      | some (k, e) => cancelDecrement k tile pos e s
      | none => s
    let s2 := match v with
      | some v => s1.onTile tile (fun t => { t with serving := t.serving.erase v })
      | none => s1
    if got = 0 then s2.onTile tile (fun t => { t with deferred := t.deferred ++ [{ r with counted := true }] })
    else expireRead tile r s2
  else s

/-- The decrements of a slot that cabooses hold, with their regions (R258). -/
def heldDecrements (s : State) (tile pos gen : Nat) : List ((Nat × Effect) × NameRead) :=
  (s.regions.map (fun kr => kr.2.caboose.filterMap (fun e => match e.act with
    | .release r t p g => if t == tile && p == pos && g == gen then some ((kr.1, e), r) else none
    | _ => none))).flatten

/-- What becomes of the `npeek`s that a tile had delivered whole of a slot that has lost words (R261): each faults. -/
def peeksAfterDrop (tile pos gen : Nat) (s : State) : State :=
  let lost := (s.tile tile).peeks.filter (fun v => v.pos == pos && v.gen == gen)
  lost.foldl (fun s v => expireRead tile v.req s) (s.onTile tile (fun t => { t with peeks := t.peeks.filter (fun v => !lost.contains v) }))

/-- What becomes of the accepted reads of a slot that has lost words (R261), after which the tile goes on (R270). -/
def readsAfterDrop (tile pos gen : Nat) (s : State) : State :=
  let s1 := (heldDecrements s tile pos gen).foldl (fun s x =>
    readAfterDrop tile pos (some x.1) x.2 ((s.tile tile).serving.find? (fun v => v.req == x.2 && v.pos == pos && v.gen == gen)) s) s
  let s2 := ((s1.tile tile).serving.filter (fun v => v.pos == pos && v.gen == gen && v.req.kind == .npeek)).foldl (fun s v =>
    readAfterDrop tile pos none v.req (some v) s) s1
  serveTile tile (peeksAfterDrop tile pos gen s2)

/-- An operator's access that a squash drops (log entry 21): a STORE's or SCATTER's element is still to be written, and an
element that was to be fetched is not delivered. -/
def undoAccess (a : Access) (s : State) : State :=
  match a.kind with
  | .read => { s with accesses := s.accesses.map (fun x =>
      if x.id == a.id then { x with phase := 5, bytes := List.replicate x.size 0 } else x) }
  | _ =>
    let s1 : State := { s with accesses := s.accesses.filter (fun x => x.id != a.id) }
    if a.part = 0 then s1.onOper a.oper (fun o => { o with
      pos := o.pos - 1
      arrivals := if o.kind = 1 then Map.alter o.arrivals 0 (a.tag * 64 + a.seq) (fun c => c - 1) else o.arrivals })
    else s1

/-- An effect that a squash drops is undone where it was already visible inside the region (R156, R260, R261): the place of a
request is free again (R158), and a trigger is still to be counted (R165). -/
def undoAct (k : Nat) (a : Act) (s : State) : State :=
  match a with
  | .send f =>
    (match f.msg with
     | .port q => if holdsPlace q then freeAt q.site (stKey q.token.ctx.toNat q.station) s else s
     | _ => s)
  | .trigger => s.onRegion k (fun r => { r with triggered := false })
  | .release _ tile pos gen => s.onTile tile (fun t => { t with
      slots := Map.alter t.slots Slot.empty pos (fun q => if q.gen = gen then { q with held := q.held - 1 } else q) })
  | .wordShown _ tile pos gen _ => readsAfterDrop tile pos gen (s.onTile tile (dropTentative pos))
  | .access n => match s.accesses.find? (fun x => x.id == n) with
    | some a => undoAccess a s
    | none => s
  | _ => s

/-- A message that a retired tag of a domain has in flight: a token to a member, or a name request of a member. -/
def deadMsg (d : Domain) (ctx : Nat) (dead : Nat → Bool) (m : Msg) : Bool :=
  let mine := fun (c site st tag : Nat) => c == ctx && d.members.contains (member site st) && dead tag
  match m with
  | .token t => mine t.ctx.toNat (Site.key (Token.site t)) (if isPe (Token.site t) then t.station.toNat else 0) t.tag.toNat
  | .divert t back _ _ _ => mine t.ctx.toNat (Site.key (Target.site back)) back.station.toNat t.tag.toNat
  | .word w => mine w.ctx w.site w.station w.tag
  | .read r => mine r.ctx r.site r.station r.tag
  | _ => false

/-- A tile without the waiting requests of retired tags. -/
def Tile.forget (d : Domain) (ctx : Nat) (dead : Nat → Bool) (t : Tile) : Tile :=
  let mine := fun (c site st tag : Nat) => c == ctx && d.members.contains (member site st) && dead tag
  { t with
    stalled := t.stalled.filter (fun w => !mine w.ctx w.site w.station w.tag)
    deferred := t.deferred.filter (fun r => !mine r.ctx r.site r.station r.tag)
    serving := t.serving.filter (fun v => !mine v.req.ctx v.req.site v.req.station v.req.tag)
    peeks := t.peeks.filter (fun v => !mine v.req.ctx v.req.site v.req.station v.req.tag) }

/-- An operator without the tokens of retired tags (log entry 21). -/
def Oper.forget (dead : Nat → Bool) (o : Oper) : Oper :=
  let kept := fun (ts : List Token) => ts.filter (fun t => !dead t.tag.toNat)
  { o with
    held := kept o.held
    held2 := kept o.held2
    counts := if o.kind = 10 then ((o.held ++ o.held2).zip o.counts).filterMap (fun x => if dead x.1.tag.toNat then none else some x.2) else o.counts
    waitR := kept o.waitR
    sieve := o.sieve.filter (fun x => !dead x.tag)
    arms := o.arms.filter (fun a => a.base.isNone || !dead a.tag)
    out := o.out.filter (fun e => !dead e.token.tag.toNat) }

/-- An emission that a squashed firing still makes (R106, R146): a token that stays in the region, but for those of squashed
tags to stations of the loop, which would discard them. What would enter the caboose is dropped. -/
def survives (s : State) (k : Nat) (d : Domain) (dead : Nat → Bool) (e : Emit) : Bool :=
  match e with
  | .token t _ => s.regionAt (Token.site t) t.ctx.toNat == some k && !(deadMsg d (s.region k).ctx dead (.token t))
  | .error _ _ _ => s.handlerOf k == some k
  | _ => false

/-- The emissions of squashed firings of PE `x` that survive; the places of requests that do not are free again (R158), and
a trigger among them is still to be counted (R165). -/
def trimResults (k : Nat) (d : Domain) (dead : Nat → Bool) (x : Nat) (s : State) : State :=
  let c := (s.region k).ctx
  let mine := fun (q : Result) => q.ctx == c && d.members.contains (member x q.station) && dead q.tag
  let lost := (((s.pe x).results.filter mine).map (fun q => q.emits.filter (fun e => !(survives s k d dead e)))).flatten
  let s1 := s.onPe x (fun p => { p with results := p.results.map (fun q =>
    if mine q then { q with emits := q.emits.filter (survives s k d dead) } else q) })
  lost.foldl (fun s e => match e with
    | .msg (.port q) _ _ _ => undoAct k (.send ⟨0, 0, .request, 0, 0, .port q, 0, false, false⟩) s
    | .effect a => undoAct k a s
    | _ => s) s1

/-- A diversion that waits at the conversion station of a region, or has fired there, goes with its retired tag (R94, R146). -/
def purgeConv (k : Nat) (d : Domain) (dead : Nat → Bool) (s : State) : State :=
  let r := s.region k
  let gone := fun (t : Token) => deadMsg d r.ctx dead (.token t)
  let conv := fun (c st : Nat) => c == r.ctx && st == r.cst
  s.onPe (Site.key (s.convSite r)) (fun p => { p with
    ready := p.ready.filter (fun e => !(conv e.ctx e.station && gone (e.toks.getD 0 .zero)))
    marked := p.marked.filter (fun e => !(conv e.ctx e.station && gone (e.toks.getD 0 .zero)))
    results := p.results.map (fun q => if conv q.ctx q.station then { q with emits := q.emits.filter (fun e => match e with
      | .token t _ => !gone t
      | _ => true) } else q) })

/-- A squash of exit tag `i` acts on the live tags of its loop (R146, R232): the later ones retire, with all they have under
way (log entry 21), and the others are confirmed. A frame goes with the tag of the loop that took it. -/
def squashAct (k di i : Nat) (s : State) : State :=
  let r := s.region k
  let d := r.domains.getD di Domain.none
  if !d.isLive i then s.onRegion k (fun r => { r with squashes := r.squashes + 1 })
  else
    let gone := (d.live.map LiveTag.tag ++ d.late).filter (fun t => older i t)
    let dead := fun t => gone.contains t
    let mine := fun (e : Effect) => d.members.contains (member e.site e.station) && dead e.tag
    let s0 := (domainPes d).foldl (fun s x => trimResults k d dead x s) (purgeConv k d dead s)
    let s1 := (domainPes d).foldl (fun s x => s.onPe x (purgePe d r.ctx x dead)) s0
    let s2 := (s1.net.filter (fun f => deadMsg d r.ctx dead f.msg)).foldl (fun s f => settleOwed f s) s1
    let s3 : State := { s2 with
      net := s2.net.filter (fun f => !deadMsg d r.ctx dead f.msg)
      tiles := s2.tiles.map (fun (kt : Nat × Tile) => (kt.1, kt.2.forget d r.ctx dead))
      opers := s2.opers.map (fun (ko : Nat × Oper) => (ko.1, if d.members.contains (member ko.1 0) then ko.2.forget dead else ko.2)) }
    let s4 := ((r.caboose.filter mine).map Effect.act).foldl (fun s a => undoAct k a s) (s3.onRegion k (fun r => { r with
      caboose := r.caboose.filter (fun e => !mine e)
      frames := r.frames.filter (fun kf => !(d.members.contains kf.2.owner && dead kf.2.tag)) }))
    let s5 := (s2.tiles.filter (fun kt => (kt.2.forget d r.ctx dead).serving != kt.2.serving)).foldl (fun s kt => serveTile kt.1 s) s4
    s5.onRegion k (fun r => r.onDomain di (fun d => Domain.confirm { d with
      live := (d.live.filter (fun l => !dead l.tag)).map (fun l => { l with confirmed := true })
      late := d.late.filter (fun t => !dead t && older i t)
      dead := d.dead ++ gone
      sources := d.sources.map (fun x => { x with live := x.live.filter (fun t => !dead t) }) }))

/-- A squash token reaches a `wave` or a LOOP (R146, R232). At a LOOP that runs no pass it does nothing and is counted; else the
pass ends with the iterations that it has emitted, up to and including tag `i`. An input waits while the region is rolled back
(R406). -/
def squashArrives (s : State) (n : Nat) : Option State :=
  match headOfLane s.net n with
  | none => none
  | some fl => match fl.msg with
    | .token t =>
      let x := Token.site t
      let site := Site.key x
      let o := s.oper site
      let loopOp := isOper x && o.kind == 4
      let isWave := isPe x && (s.pe site).ctxState t.ctx.toNat == 1 &&
        wordOp ((s.pe site).word t.ctx.toNat t.station.toNat) == 0x187
      if t.port != .c || ctlKind t != 0x02 || (ctlBad t).isSome || !(loopOp || isWave) || operState s site t != .open then none
      else match s.regionAt x t.ctx.toNat with
        | none => none
        | some k =>
          let i := field t.payload 15 0
          let s0 := acceptInput (dropFlight s n) k fl
          if (s.region k).rolling && fl.input then none
          else match (s0.region k).domainOf (member site (if loopOp then 0 else t.station.toNat)) with
          | none => some s0
          | some di =>
            if !loopOp then some (squashAct k di i s0)
            else if ((s0.region k).domains.getD di Domain.none).isLive i && (o.state = 2 || o.state = 5) then
              some ((squashAct k di i s0).onOper site (fun o => { o with
                state := 5
                nextTag := (i + 1) % 65536
                sent := if older i o.expTag then 0 else min o.pos ((i + 65536 - o.expTag) % 65536 + 1) }))
            else some (s0.onOper site (fun o => { o with ignored := o.ignored + 1 }))
    | _ => none

/-- SQUASH_TOKEN_ARRIVAL (R146). -/
def execSquashTokenArrival (n : Nat) (s : State) : Host.Outcome State Fault Refusal :=
  .next ((squashArrives s n).getD s)

/-! ### Admission of stream and launch tokens -/

/-- A token that a source of region `k` holds goes on into the region when its tag is live or can be admitted, and no other
source's comes first (R228). A stream's token of a tag that a squash retired is discarded (R146). A coupling token behind launch
tokens needs no admission (R334). -/
def admitFlight (s : State) (k : Nat) (fl : Flight) : Option State :=
  let go := fun (s : State) => some (s.post { fl with input := false })
  match flightWants (s.region k) fl with
  | none => if fl.msg.token?.isSome then go s else none
  | some (i, tag, m) =>
    let ctl := match fl.msg.token? with
      | some t => t.port == .c && ctlKind t == 0x01
      | none => false
    let d := (s.region k).domains.getD i Domain.none
    if ctl || d.isLive tag then go s
    else if fl.input && d.dead.contains tag && (s.region k).launchQ.head? != some fl then some s
    else if canAdmit s k i (some m) tag && isNext s k i tag m then go (admitTag k i (some m) tag s)
    else none

/-- The first held token, of the launch and then of each stream, that can go on (R228). -/
def admitStreams (s : State) (k : Nat) : Nat → Option State
  | 0 => none
  | n + 1 =>
    let i := (s.region k).streams.length - (n + 1)
    match ((s.region k).streams.getD i ⟨0, 0, 0, []⟩).fifo with
    | [] => admitStreams s k n
    | fl :: _ =>
      match (if entryFull s k fl then none else admitFlight s k fl) with
      | some s' => some (acceptInput (s'.onRegion k (fun r => { r with
          streams := r.streams.modify i (fun q => { q with fifo := q.fifo.drop 1 }) })) k fl)
      | none => admitStreams s k n

/-! ### What operators have to send -/

/-- The domain and tag that an operator's token to a station of its region belongs to (R226). -/
def operDomain (s : State) (k : Nat) (t : Token) : Option Nat :=
  if isPe (Token.site t) && t.ctx.toNat == (s.region k).ctx then
    (s.region k).domainOf (member (Site.key (Token.site t)) t.station.toNat)
  else none

/-- The token of an operator in the form in which it leaves for a target: the context is PM14's (R192). -/
def operToken (o : Oper) (g : Target) (t : Token) : Token :=
  Token.toTarget { t with ctx := BitVec.ofNat 3 (operCtx o) } g

/-- A token can leave an operator now: the caboose has room (R401), and its tag is live, or can be admitted where the token
admits it (R226, R228). -/
def outCan (site : Nat) (e : OutTok) (s : State) : Bool :=
  let o := s.oper site
  let t := operToken o e.target e.token
  if !e.target.valid || o.region = 0 then true
  else
    let k := o.region - 1
    cabooseRoom s (some k) 1 &&
    (match operDomain s k t with
     | some i =>
       let d := (s.region k).domains.getD i Domain.none
       !e.admits || d.isLive t.tag.toNat || (d.dead.contains t.tag.toNat && o.kind != 4) || canAdmit s k i none t.tag.toNat
     | none => true)

/-- A token leaves an operator for its target, where that is valid; a tag that is not live is admitted with it (R226), and
nothing that would admit its tag leaves under one that a squash retired (R146). -/
def outGo (site : Nat) (e : OutTok) (s : State) : State :=
  let o := s.oper site
  let t := operToken o e.target e.token
  let k := o.region - 1
  let go := fun (k : Option Nat) (s : State) =>
    sendOne site 0 (operCtx o) t.tag.toNat (s.region (o.region - 1)).wave k (.token t (if e.reply then .response else Token.cls t)) s
  if !e.target.valid then s
  else if o.region = 0 then go none s
  else if e.admits && !e.reply && o.kind != 4 && isDead (s.region k) site 0 t.tag.toNat then s
  else match operDomain s k t with
    | some i =>
      let d := (s.region k).domains.getD i Domain.none
      if !e.admits || d.isLive t.tag.toNat then go (some k) s
      else if d.dead.contains t.tag.toNat && o.kind != 4 then (if e.reply then go (some k) s else s)
      else go (some k) (admitTag k i none t.tag.toNat s)
    | none => go (some k) s

/-- The place of the next token that can leave an operator: the first, or an answer before which no other waits for its target
(R35). -/
def outNext (site : Nat) (s : State) : Option Nat :=
  let os := (s.oper site).out
  (List.range os.length).find? (fun i => match os[i]? with
    | some e => outCan site e s && (i == 0 || (e.reply && !((os.take i).any (fun g => !g.reply || g.target == e.target))))
    | none => false)

/-- What an operator has to send leaves in order, as far as it can. -/
def drainOut (site : Nat) : Nat → State → State
  | 0, s => s
  | n + 1, s =>
    match outNext site s with
    | none => s
    | some i => match (s.oper site).out[i]? with
      | some e => drainOut site n (outGo site e (s.onOper site (fun o => { o with out := o.out.eraseIdx i })))
      | none => s

/-- A token joins what an operator has to send. -/
def putOut (site : Nat) (e : OutTok) (s : State) : State :=
  drainOut site ((s.oper site).out.length + 1) (s.onOper site (fun o => { o with out := o.out ++ [e] }))

/-- The operators of a region send what they can. -/
def drainOuts (s : State) (k : Nat) : State :=
  let r := s.region k
  if r.status == 6 || r.rolling then s
  else ((regionOpers s k).filter (fun ko => !ko.2.out.isEmpty)).foldl (fun s ko => drainOut ko.1 ko.2.out.length s) s

/-- Tags that are done retire, and the operators of the region send what they can (R226, R228). -/
def tagRetire (s : State) (k : Nat) : State := drainOuts (retireTags s k) k

/-- One held token of the launch or a stream is admitted (R228). -/
def tagAdmit (s : State) (k : Nat) : Option State :=
  let s := tagRetire s k
  let r := s.region k
  if !r.admits then none
  else match r.launchQ with
    | fl :: rest =>
      match admitFlight s k fl with
      | some s' => some (acceptInput (s'.onRegion k (fun r => { r with launchQ := rest })) k fl)
      | none => admitStreams s k r.streams.length
    | [] => admitStreams s k r.streams.length

/-- TAG_ADMISSION (R228). -/
def execTagAdmission (r : Nat) (s : State) : Host.Outcome State Fault Refusal :=
  .next ((tagAdmit s r).getD (tagRetire s r))

/-! ### The caboose's release -/

/-- A held decrement is released (R260): readers and held fall by one, and a written slot whose counts are both 0 is
spent (R255). -/
def releaseHeld (pos gen : Nat) (t : Tile) : Tile :=
  let q := Map.get t.slots Slot.empty pos
  if q.gen != gen || q.held = 0 then t
  else
    let q' := { q with readers := q.readers - 1, held := q.held - 1 }
    { t with slots := Map.put t.slots pos { q' with state := if q'.state = 2 && q'.readers = 0 then 3 else q'.state } }

/-- The released cursor passes every word already shown (R261), and the granules below it are released (R254). -/
def advanceShown (pos words : Nat) : Nat → Tile → Tile
  | 0, t => t
  | n + 1, t =>
    let q := Map.get t.slots Slot.empty pos
    let r := q.rcursor + 1
    if (Map.find t.writers (pos * 8192 + q.rcursor)).isSome && q.rcursor < q.cursor then
      advanceShown pos words n { t with
        writers := Map.del t.writers (pos * 8192 + q.rcursor)
        slots := Map.put t.slots pos { q with rcursor := r }
        released := if r % 8 = 0 || words ≤ r then Map.put t.released (granKey pos (q.rcursor / 8)) true else t.released }
    else t

/-- A tentative word is released (R261). -/
def showWord (pos gen word : Nat) (t : Tile) : Tile :=
  if (Map.get t.slots Slot.empty pos).gen != gen then t
  else advanceShown pos (tileWords t) 4096 { t with writers := Map.put t.writers (pos * 8192 + word) 1 }

/-- A trigger is counted for the region's instance (R165, R343). -/
def countTrigger (k : Nat) (s : State) : State :=
  (s.onRegion k (fun r => { r with triggers := r.triggers + 1 })).onInst (s.region k).inst
    (fun i => { i with triggers := i.triggers + 1 })

/-- The accesses that a fence of a region, released to PORT `site`, covers (R280): numbers of those not yet performed. A
transfer stands in the list under the number of its own entry. -/
def fenceCovers (s : State) (site : Nat) (q : PortReq) : List Nat :=
  let scope := q.aux % 4
  (s.accesses.filter (fun a =>
    a.phase < 5 && a.region == q.region + 1 && (a.req.isNone || a.op < 0x213) &&
    (if scope = 0 then a.oper == site && a.req.isSome
     else if 0x18 ≤ a.op && a.op ≤ 0x1D && a.req.isNone then
       (if a.op = 0x18 || a.op = 0x1D then 2 ≤ scope else scope == 3)
     else true))).map Access.id

/-- A message on its way that a fence covers (R280): a request, a queue entry, or the command of a transfer. -/
def fenceTakes (s : State) (site : Nat) (q : PortReq) (f : Flight) : Bool :=
  let scope := q.aux % 4
  match f.msg with
  | .port p =>
    f.region == q.region + 1 && p.op != 0x280 &&
    (if 0x213 ≤ p.op then 2 ≤ scope else scope != 0 || f.dst == site)
  | .token t =>
    t.port == .c && (s.oper f.dst).kind == 11 && (s.oper f.dst).region == q.region + 1 && 0x18 ≤ ctlKind t && ctlKind t ≤ 0x1D &&
    (if ctlKind t = 0x18 || ctlKind t = 0x1D then 2 ≤ scope else scope == 3)
  | _ => false

/-- What a fence covers and no access stands for yet: messages on their way, and requests that wait in ordering domains. -/
def fenceAhead (s : State) (site : Nat) (q : PortReq) : List Flight :=
  s.net.filter (fenceTakes s site q) ++
  ((s.opers.map (fun ko => (ko.2.doms.map (fun d => (d.2.waiting.filter (fun p => p.region == q.region && p.site != 0)).map
    (fun p => (⟨p.site, p.station, .request, ko.1, ko.1 * 2048, .port p, q.region + 1, false, false⟩ : Flight)))).flatten)).flatten).filter
      (fenceTakes s site q)

/-- What a fence covers, as it is released (R280). -/
def fenceOf (s : State) (site : Nat) (q : PortReq) : FenceWait := ⟨q, fenceCovers s site q, fenceAhead s site q, false⟩

/-- A released message starts on its way; of a fence, what it covers is noted at its PORT (R280). -/
def sendFlight (f : Flight) (s : State) : State :=
  match f.msg with
  | .port q =>
    if q.op = 0x280 then (s.onOper f.dst (fun o => { o with fences := o.fences ++ [fenceOf s f.dst q] })).post f else s.post f
  | _ => s.post f

/-- What a released effect does (R156). -/
def performAct (k : Nat) (a : Act) (s : State) : State :=
  match a with
  | .send f => sendFlight f s
  | .release _ tile pos gen => s.onTile tile (releaseHeld pos gen)
  | .wordShown _ tile pos gen word => serveTile tile (s.onTile tile (showWord pos gen word))
  | .trigger => countTrigger k s
  | .arrive b g => barrierTake (s.region k).loadBase b none g s
  | .report kind r p => s.report kind r p
  | .halt => haltRegion k s
  | .access n => { s with accesses := s.accesses.map (fun x => if x.id == n then { x with phase := 0 } else x) }
  | .error r saved hasDst => s.raiseError k r saved hasDst
  | .forward port t => sendNumbered port t s

/-- The kept responses that fit and have not been delivered in this replay, at most `n` to each lane: they, and the list
with them delivered. -/
def pickKept (p : Flight → Bool) (n : Nat) : List (Nat × Nat × Flight) → Map Nat → List Flight × List (Nat × Nat × Flight)
  | [], _ => ([], [])
  | x :: xs, c =>
    if !x.2.2.input && p x.2.2 && Map.get c 0 x.2.2.lane < n then
      let r := pickKept p n xs (Map.alter c 0 x.2.2.lane (fun m => m + 1))
      (x.2.2 :: r.1, (x.1, x.2.1, { x.2.2 with input := true }) :: r.2)
    else
      let r := pickKept p n xs c
      (r.1, x :: r.2)

/-- Kept responses are delivered in the place of those to a regenerated request (R429). -/
def deliverKept (k : Nat) (p : Flight → Bool) (n : Nat) (s : State) : State :=
  let r := pickKept p n (s.region k).inputs []
  r.1.foldl (fun s q => s.post q) (s.onRegion k (fun g => { g with inputs := r.2 }))

/-- A sector read (R160). -/
def sectorRead (q : PortReq) : Bool := q.op == 0x207 && q.aux / 4 % 2 == 1

/-- The kept response of a request sent again in a replay (R429): the flights accepted from the served unit for the
request's target, tag and seq. A transfer stands for its completion, by PORT and command tag. -/
def isResponse (f q : Flight) : Bool :=
  q.cls == .response && f.cls == .response && f.station != 0 && isOper (Site.ofKey f.site) && f.site == q.site &&
    f.station == q.station ||
  q.isAnswer && q.site == f.dst &&
  (match f.msg, q.msg with
   | .port p, .token t => t.tag == p.token.tag && t.ctx == p.token.ctx &&
      (Token.lane t == Token.lane (Token.toTarget p.token p.targetB) || Token.lane t == Token.lane (Token.toTarget p.token p.targetA))
   | .fold r, .token t => r.reply.any (fun u => t.tag == u.tag && t.ctx == u.ctx && Token.lane t == Token.lane u)
   | .read r, .token t => t.tag == r.token.tag && r.targets.any (fun g => Token.lane t == Token.lane (Token.toTarget r.token g))
   | _, _ => false)

/-- The kept result of an access of an operator that is sent again: the element of the first run (R282, R429). -/
def sameAccess (a b : Access) : Bool :=
  a.id != b.id && a.oper == b.oper && a.va == b.va && a.elem == b.elem && a.part == b.part && a.tag == b.tag &&
  a.seq == b.seq && (b.phase == 9 || (0x10 ≤ b.op && b.op ≤ 0x13))

/-- A kept access whose request has been issued again: it counts as performed now, or when it is (R282). Operations 0x10
to 0x13 are 0 to 3 of accesses that a rollback found on their way. -/
def takeKept (b : Access) : Access :=
  { b with op := if 0x10 ≤ b.op && b.op ≤ 0x13 then b.op - 0x10 else b.op, phase := if b.phase = 9 then 5 else b.phase }

/-- The place that a station holds for a request sent again (R158, R282): until the kept response, its last token, is
accepted; none when the first one is done and had no response. -/
def keepPlace (dst : Nat) (q : PortReq) (got : List Flight) (s : State) : State :=
  let key := stKey q.token.ctx.toNat q.station
  if !holdsPlace q then s
  else match got.getLast? with
    | some f =>
      (match f.msg with
       | .token t => s.onOper dst (fun o => { o with owed := o.owed ++ [⟨f.lane, t, q.site, key⟩] })
       | _ => s)
    | none =>
      if s.accesses.any (fun a => a.req == some q && a.phase < 5) || s.net.any (fun f => f.msg == .port q) ||
        s.opers.any (fun ko => ko.2.doms.any (fun d => d.2.waiting.contains q)) ||
        (s.oper dst).owed.any (fun o => o.site == q.site && o.station == key && o.token.tag == q.token.tag) then s
      else freeAt q.site key s

/-- The kept completion of a transfer's command (R404), not yet delivered in this replay: of its PORT, and of the command's tag,
which the source station of a completion carries, one higher. -/
def keptCompletion (s : State) (k : Nat) (a : Access) : Option Flight :=
  ((s.region k).inputs.find? (fun x => !x.2.2.input && x.2.2.cls == .response && x.2.2.site == a.oper &&
    x.2.2.station == a.tag + 1)).map (fun x => x.2.2)

/-- A transfer's command sent again in a replay: the first one's transfer goes on or is complete, so that of the copy goes, and
the kept completion is delivered (R282, R429). -/
def dropCommand (k : Nat) (a : Access) (s : State) : State :=
  let s1 := ({ s with accesses := s.accesses.filter (fun x => x.id != a.id && x.id != a.elem) } : State).onOper a.oper (fun o => { o with
    moves := o.moves.filter (fun m => m.id != a.elem) })
  match keptCompletion s k a with
  | some f => deliverKept k (fun q => q == f) 1 s1
  | none => s1

/-- An effect whose key was released before the rollback is dropped; the kept response of a request is delivered in its
place, in the cycle of the drop (R282, R407, R429). -/
def dropAct (k : Nat) (a : Act) (s : State) : State :=
  match a with
  | .send f =>
    (match f.msg with
     | .port q =>
       let n := if sectorRead q then 8 else 1
       keepPlace f.dst q (pickKept (isResponse f) n (s.region k).inputs []).1 (deliverKept k (isResponse f) n s)
     | _ => deliverKept k (isResponse f) 1 s)
  | .access n =>
    match s.accesses.find? (fun x => x.id == n) with
    | none => s
    | some a =>
      if 0x18 ≤ a.op && a.op ≤ 0x1D then dropCommand k a s
      else
      let rest := s.accesses.filter (fun x => x.id != n)
      match rest.find? (sameAccess a) with
      | none => { s with accesses := rest }
      | some b =>
        let s1 : State := { s with accesses := rest.map (fun x => if x.id == b.id then takeKept x else x) }
        if s.holds.any (fun h => h.access == b.id) then
          s1.onOper b.oper (fun o => if o.state = 2 then { o with state := 3 } else o)
        else s1
  | .release _ tile pos gen => s.onTile tile (fun t => { t with
      slots := Map.alter t.slots Slot.empty pos (fun q => if q.gen = gen then { q with held := q.held - 1 } else q) })
  | .wordShown _ tile pos gen word => serveTile tile (s.onTile tile (showWord pos gen word))
  | _ => s

/-- An access of the region is in its caboose (R283): while its coupling tokens are held, none is of a new load. -/
def accessHeld (s : State) (k : Nat) : Bool :=
  (s.region k).caboose.any (fun q => match q.act with
    | .access _ => true
    | .send f => (match f.msg with | .port _ => true | _ => false)
    | _ => false)

/-- An effect may be released (R401): its delay has passed, its tag is confirmed, no earlier effect of its stream is
held; a fence waits for every earlier effect (R280), a trigger for the requests and name writes before it (R165), a
forwarded coupling token for every access (R283), a report for room (R384), an error for a fault-buffer entry
(R140), a decrement until its read has been delivered (R153). -/
def releasable (s : State) (k n : Nat) (e : Effect) : Bool :=
  let r := s.region k
  !s.fatal && !r.rolling && e.entered + r.hold ≤ s.now r.die && r.confirmed e.site e.station e.tag &&
  !((r.caboose.take n).any (fun q => q.stream == e.stream)) &&
  (match e.act with
   | .trigger => n == 0 && triggerMay s k
   | .report _ _ _ => s.reportRoom || s.reports.length < 64
   | .error q _ _ => !handlerFull s k q.code
   | .release r tile pos gen => !((s.tile tile).serving.any (fun v => v.req == r && v.pos == pos && v.gen == gen))
   | .send f => (match f.msg with
     | .port q => q.op != 0x280 || n == 0
     | .token t => !(f.cls == .data && t.port == .c && ctlKind t == 0x01) || (accessesDone s k && !accessHeld s k)
     | _ => true)
   | _ => true)

/-- A released effect is a retirement (R241): a token, name word, reader decrement or request, and a report (R289). -/
def retires (a : Act) : Bool :=
  match a with
  | .send f => (match f.msg with | .port q => q.op != 0x280 | _ => true)
  | .release _ _ _ _ | .wordShown _ _ _ _ _ | .access _ | .error _ _ _ | .report _ _ _ | .forward _ _ => true
  | _ => false

/-- The effect at place `n` of a region's caboose is released: performed, unless its key was already released before a
rollback (R401, R407). -/
def releaseEffect (s : State) (k n : Nat) : Option State :=
  let s0 := retireTags s k
  match (s0.region k).caboose[n]? with
  | none => none
  | some e =>
    if !releasable s0 k n e then none
    else
      let dup := (s0.region k).keyOut e.key
      let s1 := (s0.onRegion k (fun r => { r with
        caboose := r.caboose.eraseIdx n,
        keysOut := if dup || r.unprot then r.keysOut else r.keysOut ++ [(e.key, e.wave)]
        keysAwait := r.keysAwait.erase e.key }))
      some (if dup then dropAct k e.act s1 else performAct k e.act (if retires e.act then s1.progress k else s1))

/-! ### Progress monitor and fault buffer -/

/-- The matching entries of the oldest live tags of a region, waiting operands, marked sets and running values alike (R31), as
(row, column, station) keys with their records. -/
def stallEntries (s : State) (r : Region) : List (Nat × ErrRec) :=
  (r.peSites.map (fun x => ((holders (s.pe (Site.key x))).filter (fun h => h.1 == r.ctx &&
    0 < (heldBy (s.pe (Site.key x)) h.1 h.2.1 h.2.2).1 && (match r.domainOf (member (Site.key x) h.2.1) with
     | some i => let d := r.domains.getD i Domain.none; d.isLive h.2.2 && d.oldest h.2.2
     | none => false))).map (fun h => (Site.key x * 512 + h.2.1, (⟨0x0D, x, h.2.1, r.ctx, h.2.2⟩ : ErrRec))))).flatten

/-- The last `wave` firing of a region. -/
def stallWave (r : Region) : List (Nat × ErrRec) :=
  match r.lastWave with
  | some (x, st, tag) => [(x, ⟨0x0D, Site.ofKey x, st, r.ctx, tag⟩)]
  | none => []

/-- The record of a stall: the first of R242's list that exists, the lowest site of its kind. -/
def stallRecord (s : State) (k : Nat) : ErrRec :=
  let r := s.region k
  let low := leastBy (fun (x : Nat × ErrRec) => x.1)
  match low (stallEntries s r) with
  | some x => x.2
  | none => match low (stallTiles s k) with
    | some x => x.2
    | none => match low (stallWaits s k) with
      | some x => x.2
      | none => match low (stallWave r) with
        | some x => x.2
        | none => ⟨0x0D, r.corner, 0, r.ctx, 0⟩

/-- The counter of a region that is not quiescent has reached its limit (R241, R242). -/
def stallDue (s : State) (k : Nat) : Bool :=
  let r := s.region k
  r.status != 0 && !r.warned && !r.halted && !quiescent s k && 2 ^ r.limit ≤ progressNow s k

/-- The stall is recorded in the region's status and raised (R242, R349); no other is until a retirement. -/
def raiseStall (s : State) (k : Nat) : State :=
  let e := stallRecord s k
  (s.onRegion k (fun r => { r with stalled := true, warned := true, stallRec := BitVec.ofNat 64 (2 ^ 63 + field e.payload 55 0) })).raiseError
    k e none false

/-- STALL (R242). -/
def execStall (r : Nat) (s : State) : Host.Outcome State Fault Refusal :=
  .next (if stallDue s r then raiseStall s r else s)

/-- The first error that waited for the fault buffer takes the freed entry (R140). -/
def faultFreed (s : State) (h : Nat) : Option State :=
  let g := s.region h
  match g.faultWait, freeFault 64 g.faults 0 with
  | w :: ws, some e =>
    some ((s.onRegion h (fun g => { g with faults := Map.put g.faults e w.saved, faultWait := ws })).post
      (errorFlight g (s.handlerSite g) w.origin e))
  | _, _ => none

/-- FAULT_ENTRY_FREED (R140). -/
def execFaultEntryFreed (r : Nat) (s : State) : Host.Outcome State Fault Refusal := .next ((faultFreed s r).getD s)

end Sys2Proof.Machine
end

