-- ==== Sys2Proof/Machine/Select.lean ====
section
/-! DEFINITION. Halt-settled regions (R376), and the issue selector of a PE (R223, R224): which ready entry issues, and the issue
itself, which sets the firing register that station words act on. -/

namespace Sys2Proof.Machine

/-- A message in flight stays where it is now (R372, R376): it waits at an operator's input, or in its router for a matching entry
or the assembler of a row. -/
def flightStays (s : State) (n : Nat) : Bool :=
  match s.net[n]? with
  | none => true
  | some f => match f.msg with
    | .token _ => isOper (Site.ofKey f.dst) ||
        ((arrive s n).isNone && (feed s n).isNone && (coupleArrives s n).isNone && (squashArrives s n).isNone)
    | _ => false

/-- A message is in flight inside a region (R372, R376). -/
def flyingInside (s : State) (k : Nat) : Bool :=
  (List.range s.net.length).any (fun n => (match s.net[n]? with | some f => s.inside k f | none => false) && !flightStays s n)

/-- A result is kept by its station where it is (R105, R228, R371): it, or an earlier one of its station, has to wait for an
admission or for room among effects that are not confirmed. -/
def resultKept (s : State) (k site : Nat) (q : Result) : Bool :=
  match (s.pe site).results.find? (fun a => a.ctx == q.ctx && a.station == q.station) with
  | none => false
  | some a => a.ready ≤ s.now (Site.ofKey site).die && ((admitResult s k site a).isNone || !cabooseRoom s (some k) (effectCount s k a.ctx a.emits))

/-- No firing of the region's context is in execution (R372, R376): each has emitted, or keeps its result; a controller form of the
matrix array waits for rows. -/
def noneExecuting (s : State) (k : Nat) : Bool :=
  let r := s.region k
  r.peSites.all (fun x => (s.pe (Site.key x)).results.all (fun q => q.ctx != r.ctx || resultKept s k (Site.key x) q)) &&
  (!((s.matrix (Site.key r.corner)).queue.any (fun q => q.ctx == r.ctx)) || (systolic r.corner s).isNone)

/-- Every access that the region has released is performed (R376); elements held at a translation fault do not count (R363). -/
def releasedDone (s : State) (k : Nat) : Bool :=
  !(s.accesses.any (fun a => a.region == k + 1 && a.phase < 5 && !(s.holds.any (fun h => h.access == a.id)))) && !requestsOpen s k

/-- Halt-settled (R376): no firing of the context is in execution, nothing of it is in flight inside the region, the
caboose holds no confirmed effect, every released access is performed, and every name word has landed. -/
def State.settledNow (s : State) (k : Nat) : Bool :=
  let r := s.region k
  r.halted && noneExecuting s k && !flyingInside s k && !(r.caboose.any (fun e => r.confirmed e.site e.station e.tag)) &&
  releasedDone s k && !wordsOpen s k

/-- A ready entry that the selector does not pass over (R223): its station's first lane has credit, no earlier result of
the station is still to leave, and its region issues. R105's example has a station issue while an earlier result of it is
still to leave; the model follows R223 (log entry 82). -/
def eligible (s : State) (x : Nat) (full : List Nat) (p : Pe) (e : Ready) : Bool :=
  let r := match s.regionAt (Site.ofKey x) e.ctx with
    | some k => s.region k
    | none => .empty
  !(full.contains (stKey e.ctx e.station)) &&
  !(p.results.any (fun q => q.ctx == e.ctx && q.station == e.station)) && r.issues && !stationWaits p r e.ctx e.station &&
  (!r.halted || (match s.regionAt (Site.ofKey x) e.ctx with | some k => s.settledNow k | none => false))

/-- The eligible entry of one context that was matched earliest. -/
def pickIn (s : State) (x : Nat) (full : List Nat) (p : Pe) (c : Nat) : Option Ready :=
  leastBy Ready.matched (p.ready.filter (fun e => e.ctx == c && eligible s x full p e))

/-- The first context after `c`, of the next `n`, with an eligible entry, and that entry (R223). -/
def pickFrom (s : State) (x : Nat) (full : List Nat) (p : Pe) : Nat → Nat → Option Ready
  | 0, _ => none
  | n + 1, c => match pickIn s x full p ((c + 1) % 8) with
    | some e => some e
    | none => pickFrom s x full p n ((c + 1) % 8)

/-- The entry that the selector issues at a PE in this cycle: at most one per cycle (R223). `full` names the stations whose
lane has no credit. -/
def State.pick (s : State) (x : Nat) (full : List Nat) : Option Ready :=
  let p := s.pe x
  if p.ready.isEmpty || s.fatal || s.now (Site.ofKey x).die < p.nextIssue then none else pickFrom s x full p 8 p.lastCtx

/-- The issue of a ready entry: it leaves the ready queue, the selector remembers its context, and it becomes the firing
(R223). An issue uses up one debug step (R377). -/
def State.issue (s : State) (x : Nat) (e : Ready) : State :=
  let s' := s.onPe x (fun p => { p with
    ready := p.ready.erase e, lastCtx := e.ctx, nextIssue := s.now (Site.ofKey x).die + 1 })
  let s'' := match s.regionAt (Site.ofKey x) e.ctx with
    | some k => s'.onRegion k (fun r => { r with stepping := r.stepping - 1 })
    | none => s'
  { s'' with firing := ⟨x, e.ctx, e.station, e.tag, e.matched, e.toks, e.entries, e.shared⟩ }

end Sys2Proof.Machine
end

