-- ==== Sys2Proof/Machine/Tiles.lean ====
section
/-! DEFINITION. Memory tiles: name writes and reads (R256 to R262), folds (R263 to R267), the scrubber (R273, R415,
R416). -/

namespace Sys2Proof.Machine

/-- The slot without its granule bits. -/
def clearGranules (pos : Nat) (t : Tile) : Tile :=
  let keep := fun (kv : Nat × Bool) => kv.1 / 512 != pos
  { t with present := t.present.filter keep, released := t.released.filter keep, poisoned := t.poisoned.filter keep }

/-- A slot is occupied by a generation (R256). -/
def occupy (d : Desc) (pos gen : Nat) (t : Tile) : Tile :=
  let q := Map.get t.slots Slot.empty pos
  let t' := clearGranules pos t
  { t' with
    slots := Map.put t'.slots pos { q with
      gen := gen, readers := d.readers, held := 0, cursor := 0, rcursor := 0, state := 1 }
    writers := t'.writers.filter (fun kv => kv.1 / 8192 != pos)
    peeks := t'.peeks.filter (fun v => v.pos != pos) }

/-- What a name word does at its slot (R256). -/
inductive WordRes where
  | wrote (t : Tile)
  | stall
  | fault (code : Nat)
  deriving DecidableEq, Repr

/-- The state of a slot whose cursor has moved. -/
def fillState (d : Desc) (q : Slot) : Nat :=
  if q.cursor < d.words then 1 else if q.readers = 0 && q.held = 0 then 3 else 2

/-- A word is written at the cursor of its slot (R152, R254, R256). `shown` says that it arrives released. -/
def putWord (d : Desc) (pos : Nat) (w : NameWord) (shown : Bool) (t : Tile) : Tile :=
  let q := Map.get t.slots Slot.empty pos
  let g := q.cursor / 8
  let q1 := { q with
    cursor := q.cursor + 1, rcursor := if shown then q.rcursor + 1 else q.rcursor, stamp := (q.stamp + 1) % 65536 }
  let q2 := { q1 with state := fillState d q1 }
  let whole := fun (g c : Nat) => (g + 1) * 8 ≤ c || d.words ≤ c
  { t with
    data := Map.put t.data (pos * d.words + q.cursor) w.payload
    slots := Map.put t.slots pos q2
    present := if whole g q2.cursor then Map.put t.present (granKey pos g) true else t.present
    released := if shown && whole (q.rcursor / 8) q2.rcursor then Map.put t.released (granKey pos (q.rcursor / 8)) true else t.released
    poisoned := if w.poison then Map.put t.poisoned (granKey pos g) true else t.poisoned }

/-- R256's table. -/
def writeWord (d : Desc) (pos gen : Nat) (w : NameWord) (shown : Bool) (t : Tile) : WordRes :=
  let q := Map.get t.slots Slot.empty pos
  let newer := d.newer gen q.gen
  let fresh := .wrote (putWord d pos w shown (occupy d pos gen t))
  if q.state = 0 then fresh
  else if newer then (if q.state = 1 || q.state = 2 then .stall else fresh)
  else if gen = q.gen then
    (if q.state = 4 then fresh else if q.state = 1 then .wrote (putWord d pos w shown t) else .fault 0x06)
  else .fault 0x04

/-- What a read request does at its slot (R258). -/
inductive ReadRes where
  | serve (hold : Bool)
  | only
  | defer
  | fault (code : Nat)
  deriving DecidableEq, Repr

/-- The data of a spent slot is in place (R258): a resize does not move it (R264). -/
def inPlace (t : Tile) (pos : Nat) : Bool := Map.get t.present false (granKey pos 0)

/-- R258's table. -/
def readSlot (d : Desc) (pos gen : Nat) (k : ReadKind) (t : Tile) : ReadRes :=
  let q := Map.get t.slots Slot.empty pos
  let eff := q.readers - q.held
  if q.state = 0 then .defer
  else if d.newer gen q.gen then .defer
  else if q.state = 4 then .fault 0x05
  else if gen = q.gen then
    (if q.state = 3 then (if k == .npeek && inPlace t pos then .serve false else .fault 0x04)
     else match k with
       | .npeek => .serve false
       | .nrd => if 0 < eff then .serve true else .fault 0x04
       | .nrel => if 0 < eff then .only else .fault 0x04)
  else .fault 0x04

/-- A replayed read whose decrement was released before the rollback is answered from the kept words of its first run,
and its decrement is dropped with them (R408). -/
def keptRead (site rs rst : Nat) (r : NameRead) (s : State) : Option State :=
  let act : Act := .release r site 0 0
  let key : EffKey := ⟨rs, rst, effTarget rs rst act, (s.region r.region).ctx, effTag r.tag act, 0, 0⟩
  let o := (s.pe rs).occurrence key
  if (s.region r.region).keyOut { key with n := o.1 } then
    let f : Flight := ⟨rs, rst, .request, site, 0, .read r, r.region + 1, false, false⟩
    some (deliverKept r.region (isResponse f) ((s.tile site).desc r.ctx r.stmt).words
      ((s.onPe rs (fun _ => o.2)).onRegion r.region (fun g => { g with
        keysAwait := g.keysAwait.erase { key with n := o.1 } })))
  else none

/-- A read request is handled at its slot (R258). `at'` is (site key, station) of the reader. -/
def handleRead (site : Nat) (rs rst : Nat) (r : NameRead) (pos gen : Nat) (s : State) : State :=
  let t := s.tile site
  let d := t.desc r.ctx r.stmt
  let first := d.firstTile (Site.ofKey site).die
  let hold := fun (s : State) =>
    enterCaboose r.region rs rst r.tag (s.region r.region).wave 0 (.release r site pos gen)
      (s.onTile site (fun t => { t with slots := Map.alter t.slots Slot.empty pos (fun q => { q with held := q.held + 1 }) }))
  match keptRead site rs rst r s with
  | some s' => s'
  | none =>
  match readSlot d pos gen r.kind t with
  | .serve h =>
    let s' := s.onTile site (fun t => { t with serving := t.serving ++ [⟨r, pos, gen, 0, false⟩] })
    serveTile site (if h then hold s' else s')
  | .only => hold s
  | .defer =>
    let s' := s.onTile site (fun t => { t with deferred := t.deferred ++ [{ r with counted := true }] })
    if r.counted then s'
    else countFold first (descKey r.ctx r.stmt) (fun c => { c with deferred := satInc c.deferred }) s'
  | .fault code =>
    if code = 0x04 then expireRead site r s
    else s.raiseError r.region (nameRec code rs rst r.ctx r.tag) (some (expiredToken r).1) (expiredToken r).2

/-- The deferred requests of a slot are handled anew when it is occupied (R258). The reader of a deferred request is
known by its token's context and targets; its own site stands in no field the tile keeps but the request's. -/
def retryDeferred (site pos : Nat) (s : State) : State :=
  let t := s.tile site
  let mine := t.deferred.filter (fun r => match (t.desc r.ctx r.stmt).place r.tag with
    | some (sl, _) => (t.desc r.ctx r.stmt).posOf sl == pos
    | none => false)
  let s' := s.onTile site (fun t => { t with deferred := t.deferred.filter (fun r => !mine.contains r) })
  mine.foldl (fun s r => match ((s.tile site).desc r.ctx r.stmt).place r.tag with
    | some (_, g) => handleRead site r.site r.station r pos g s
    | none => s) s'

/-- The tile's statement is being resized (R264). -/
def resizing (s : State) (d : Desc) (die ctx stmt : Nat) : Bool :=
  match (s.tile (d.firstTile die)).resizing with
  | some q => q.ctx == ctx && q.stmt == stmt
  | none => false

/-- Where a name of a request lies: slot position and generation here, or another tile of its segment. -/
def locate (s : State) (site ctx stmt tag : Nat) : Option (Nat × Nat × Nat) :=
  let d := (s.tile site).desc ctx stmt
  match d.place tag with
  | none => none
  | some (sl, g) => some (Site.key (d.tileOf (Site.ofKey site).die sl), d.posOf sl, g)

/-- The key of a name word that lands now (R407), and its PE with one more counted. -/
def wordKey (rs rst : Nat) (w : NameWord) (s : State) : EffKey × Pe :=
  let key : EffKey := ⟨rs, rst, effTarget rs rst (.wordShown w.stmt 0 0 0 0), w.ctx, w.tag, 0, 0⟩
  let o := (s.pe rs).occurrence key
  ({ key with n := o.1 }, o.2)

/-- A replayed copy of a released word is dropped without effect (R262, R407), and the kept answer to a name that it
completes is delivered (R429). -/
def dropWord (site rs k words : Nat) (w : NameWord) (key : EffKey × Pe) (s : State) : State :=
  let s1 := (s.onPe rs (fun _ => key.2)).onRegion k (fun r => { r with keysAwait := r.keysAwait.erase key.1 })
  match w.reply with
  | some rep =>
    if (key.1.n + 1) % words = 0 then
      deliverKept k (fun f => f.cls == .response && f.site == site && f.lane == Token.lane rep &&
        (f.msg.token?.map Token.tag) == some rep.tag) 1 s1
    else s1
  | none => s1

/-- A word reaches its slot: written, faulted, or stalled with the words behind it (R256). One from another region is an input of
the tile's (R404). -/
def landWord (site rs rst : Nat) (inside : Bool) (home : Option Nat) (w : NameWord) (pos gen : Nat) (s : State) :
    Option State :=
  let t := s.tile site
  let d := t.desc w.ctx w.stmt
  let key := wordKey rs rst w s
  if inside && (s.region (home.getD 0)).keyOut key.1 then
    some (dropWord site rs (home.getD 0) d.words w key s)
  else match writeWord d pos gen w (!inside) t with
    | .stall => none
    | .fault code =>
      let s' := s.raiseError (home.getD 0) (nameRec code rs rst w.ctx w.tag) (some w.l) true
      some (if code = 0x04 then countFold (d.firstTile (Site.ofKey site).die) (descKey w.ctx w.stmt)
        (fun c => { c with expired := satInc c.expired }) s' else s')
    | .wrote t' =>
      let q' := Map.get t'.slots Slot.empty pos
      let s1 := s.onTile site (fun _ => t')
      let s2 := match inside, home with
        | true, some k => enterCaboose k rs rst w.tag (s.region k).wave 0 (.wordShown w.stmt site pos gen (q'.cursor - 1)) s1
        | false, some k => acceptInput s1 k ⟨rs, rst, .request, site, site * 2048 + 8, .word w, 0, true, false⟩
        | _, _ => s1
      let s3 := match w.reply with
        | some rep => if q'.cursor = d.words then
            s2.post ⟨site, 2, .response, Site.key (Token.site rep), Token.lane rep,
              .token { rep with payload := BitVec.ofNat 64 d.words }, (home.getD 0) + 1, true, false⟩ else s2
        | none => s2
      some (serveTile site (if q'.cursor = 1 then retryDeferred site pos s3 else s3))

/-- A write stall is counted, at the first arrival of its word (R267). -/
def countStall (site : Nat) (w : NameWord) (s : State) : State :=
  if w.counted then s
  else countFold (((s.tile site).desc w.ctx w.stmt).firstTile (Site.ofKey site).die) (descKey w.ctx w.stmt)
    (fun c => { c with stalls := satInc c.stalls }) s

/-- A word of the same station for the same tile is ahead of the word at place `n`: it was forwarded to another port there
(R35, R152, R265). -/
def wordAhead (s : State) (n : Nat) (fl : Flight) : Bool :=
  (s.net.take n).any (fun g => g.site == fl.site && g.station == fl.station && g.dst == fl.dst && (match g.msg with
    | .word _ => true
    | _ => false))

/-- A name word that reaches its tile (R256): it is written, faults, or stalls at the head of the write queue; behind a stalled
word it waits there, whatever tile its name lies in (R269). One of the tile's own region waits for room in the caboose (R401). -/
def nameWrite (s : State) (n : Nat) : Option State :=
  match headOfLane s.net n with
  | none => none
  | some fl => match fl.msg with
    | .word w =>
      let site := fl.dst
      let t := s.tile site
      let d := t.desc w.ctx w.stmt
      match locate s site w.ctx w.stmt w.tag with
      | none => none
      | some (at', pos, gen) =>
        let home := s.tileRegion (Site.ofKey site) w.ctx
        let inside := home == some (fl.region - 1) && fl.region != 0
        let w' := { w with site := fl.site, station := fl.station, inside := inside }
        if wordAhead s n fl || resizing s d (Site.ofKey site).die w.ctx w.stmt || (inside && !cabooseRoom s home 1) then none
        else if !t.stalled.isEmpty then
          (if t.stalled.length < 8 then some ((dropFlight s n).onTile site (fun t => { t with stalled := t.stalled ++ [w'] }))
           else none)
        else if at' != site then none
        else match landWord site fl.site fl.station inside home w pos gen (dropFlight s n) with
          | some s' => some s'
          | none =>
            some ((countStall site w (dropFlight s n)).onTile site (fun t => { t with stalled := [{ w' with counted := true }] }))
    | _ => none

/-- NAME_WORD_WRITE (R256). -/
def execNameWordWrite (n : Nat) (s : State) : Host.Outcome State Fault Refusal := .next (s.orHeld (nameWrite s n))

/-- A request is forwarded to the tile that its name lies in now, to port 3 there (R265, R268). -/
def forwardTo (at' : Nat) (f : Flight) : Flight := { f with dst := at', lane := at' * 2048 + 12 }

/-- The word at the head of a tile's write queue is handled anew (R256). A word whose slot has moved to another tile goes
there (R265). One that stalls there for the first time is counted (R267). -/
def retryWord (s : State) (x : Site) : Option State :=
  let site := Site.key x
  match (s.tile site).stalled with
  | [] => none
  | w :: ws =>
    match locate s site w.ctx w.stmt w.tag with
    | none => none
    | some (at', pos, gen) =>
      let s0 := s.onTile site (fun t => { t with stalled := ws })
      let d := (s.tile site).desc w.ctx w.stmt
      if resizing s d x.die w.ctx w.stmt || (w.inside && !cabooseRoom s (s.tileRegion x w.ctx) 1) then none
      else if at' != site then
        some (s0.post (forwardTo at' ⟨w.site, w.station, .request, at', 0, .word w,
          if w.inside then (s.tileRegion x w.ctx).getD 0 + 1 else 0, !w.inside, false⟩))
      else match landWord site w.site w.station w.inside (s.tileRegion x w.ctx) w pos gen s0 with
        | some s' => some s'
        | none => if w.counted then none else some ((countStall site w s).onTile site (fun t => { t with
            stalled := { w with counted := true } :: ws }))

/-- STALLED_WORD_RETRY (R256). -/
def execStalledWordRetry (x : Site) (s : State) : Host.Outcome State Fault Refusal := .next (s.orHeld (retryWord s x))

/-- A name read or release that reaches its tile (R258). One that would be deferred waits while the deferred table is full
(R269), and one with a decrement while the caboose is (R401). -/
def nameRead (s : State) (n : Nat) : Option State :=
  match headOfLane s.net n with
  | none => none
  | some fl => match fl.msg with
    | .read r =>
      let site := fl.dst
      match locate s site r.ctx r.stmt r.tag with
      | none => none
      | some (at', pos, gen) =>
        let d := (s.tile site).desc r.ctx r.stmt
        if at' != site || resizing s d (Site.ofKey site).die r.ctx r.stmt || (r.kind != .npeek && !cabooseRoom s (some r.region) 1) ||
          (readSlot d pos gen r.kind (s.tile site) == .defer && 256 ≤ (s.tile site).deferred.length) then none
        else some (handleRead site fl.site fl.station { r with
          site := fl.site, station := fl.station, since := if r.since = 0 then s.now (Site.ofKey site).die else r.since } pos gen (dropFlight s n))
    | _ => none

/-- NAME_READ_REQUEST (R258). -/
def execNameReadRequest (n : Nat) (s : State) : Host.Outcome State Fault Refusal := .next (s.orHeld (nameRead s n))

/-- A request whose name's slot lies in another tile of the segment goes there (R265), when its turn at its port has come (R269), the
statement is not being resized (R264), and the queue of port 3 there has room (R268). -/
def forwardRequest (s : State) (n : Nat) : Option State :=
  match headOfLane s.net n with
  | none => none
  | some fl =>
    let t := s.tile fl.dst
    let die := (Site.ofKey fl.dst).die
    let place := match fl.msg with
      | .read r => if resizing s (t.desc r.ctx r.stmt) die r.ctx r.stmt then none else locate s fl.dst r.ctx r.stmt r.tag
      | .word w =>
        if resizing s (t.desc w.ctx w.stmt) die w.ctx w.stmt || !t.stalled.isEmpty || wordAhead s n fl then none
        else locate s fl.dst w.ctx w.stmt w.tag
      | _ => none
    match place with
    | some (at', _, _) =>
      if at' = fl.dst || 8 ≤ queueLength s (forwardTo at' fl).dst (forwardTo at' fl).lane then none
      else some ((dropFlight s n).post (forwardTo at' fl))
    | none => none

/-- REQUEST_FORWARD (R265). -/
def execRequestForward (n : Nat) (s : State) : Host.Outcome State Fault Refusal := .next (s.orSelf (forwardRequest s n))

/-! ### Folds -/

/-- The moduli of a fold form are allowed for the statement and fit its segment (R155, R249, R253). -/
def moduliOk (d : Desc) (m : Word) : Bool :=
  let d' := { d with w2 := m }
  (List.range 4).all (fun k => if k < d.dims then 1 ≤ d'.modulus k else d'.modulus k == 1) &&
  (d'.slots + d.tiles - 1) / d.tiles * d.words * 8 ≤ 786432 && (d'.slots + d.tiles - 1) / d.tiles ≤ 4096 &&
  (!d.wrap || (d'.modulus 0 == 2 ^ (d'.modulus 0).log2 && d'.modulus 0 ≤ 256))

/-- The occupied slots of a segment: slot number, tile, position, record (R264). -/
def occupied (s : State) (d : Desc) (die : Nat) : List (Nat × Nat × Nat × Slot) :=
  ((List.range d.tiles).map (fun i =>
    let site := Site.key (d.tileOf die i)
    ((s.tile site).slots.filter (fun kv => kv.2.state != 0 && kv.1 * d.tiles + i < d.slots)).map
      (fun kv => (kv.1 * d.tiles + i, site, kv.1, kv.2)))).flatten

/-- A live occupant (R255). -/
def Slot.live (q : Slot) : Bool := q.state == 1 || q.state == 2

/-- The indices of a name from its slot and generation, innermost first (R252, R264). -/
def nameIndex (d : Desc) : Nat → Nat → Nat → List Nat
  | 0, _, _ => []
  | k + 1, sl, g =>
    let m := max 1 (d.modulus k)
    let c := (d.extent k + m - 1) / m
    (g % c * m + sl % m) :: nameIndex d k (sl / m) (g / c)

/-- Slot and generation of indices given innermost first (R252). -/
def placeIndex (d : Desc) : Nat → List Nat → Nat → Nat × Nat × Nat × Nat
  | _, [], _ => (0, 0, 1, 1)
  | k, i :: is, n =>
    let m := max 1 (d.modulus k)
    let c := (d.extent k + m - 1) / m
    let r := placeIndex d (k - 1) is n
    (i % m + m * r.1, i / m + c * r.2.1, m * r.2.2.1, c * r.2.2.2)

/-- Where an occupant goes under new moduli: slot and generation (R264). -/
def newPlace (d d' : Desc) (sl g : Nat) : Nat × Nat :=
  let r := placeIndex d' (d.dims - 1) (nameIndex d d.dims sl g) 0
  (r.1, r.2.1)

/-- The occupants with their new places. -/
def moves (s : State) (d d' : Desc) (die : Nat) : List ((Nat × Nat) × Nat × Nat × Slot) :=
  (occupied s d die).map (fun o => (newPlace d d' o.1 o.2.2.2.gen, o.2.1, o.2.2.1, o.2.2.2))

/-- Two occupants that R264 does not let meet: two live, or a spent one newer than a live one it meets. -/
def moveClash (d : Desc) (xs : List ((Nat × Nat) × Nat × Nat × Slot)) : Bool :=
  xs.any (fun a => xs.any (fun b =>
    !(a.2.1 == b.2.1 && a.2.2.1 == b.2.2.1) && a.1.1 == b.1.1 &&
    ((a.2.2.2.live && b.2.2.2.live) || (!a.2.2.2.live && b.2.2.2.live && d.newer a.1.2 b.1.2))))

/-- The fold request of a flight at its first tile. -/
def foldAt (s : State) (n : Nat) (k : FoldKind) : Option (Flight × FoldReq × Desc) :=
  match headOfLane s.net n with
  | some fl => match fl.msg with
    | .fold q =>
      let d := (s.tile fl.dst).desc q.ctx q.stmt
      if q.kind == k && (s.tile fl.dst).resizing == none then some (fl, q, d) else none
    | _ => none
  | none => none

/-- The token of a fold form to its target A (R155). `fold.set` and `fold.q` are no requests, so that their tokens are data
(R32). -/
def foldReply (site k : Nat) (q : FoldReq) (v : Nat) (s : State) : State :=
  q.reply.foldl (fun s t => s.post ⟨site, 3, if q.kind == .resize then .response else .data, Site.key (Token.site t), Token.lane t,
    .token { t with payload := BitVec.ofNat 64 v }, k + 1, true, false⟩) s

/-- fold-illegal: the request faults and changes nothing (R155). -/
def foldFault (fl : Flight) (q : FoldReq) (s : State) : State :=
  s.raiseError q.region (nameRec 0x12 fl.site fl.station q.ctx q.token.tag.toNat) (some q.token) true

/-- Two regions are of one load (R329): they have the record of its first header in common. -/
def sameLoad (s : State) (a b : Nat) : Bool := (s.region a).valid && (s.region b).valid && (s.region a).loadBase == (s.region b).loadBase

/-- Every copy of a descriptor takes the new moduli (R264): at the tiles of its segment, and at the PEs of its load. -/
def setModuli (d : Desc) (die ctx stmt : Nat) (m : Word) (s : State) : State :=
  let put := fun (ds : Map Desc) => if (Map.find ds (descKey ctx stmt)).isSome then Map.put ds (descKey ctx stmt) { d with w2 := m } else ds
  let home := s.tileRegion (Site.ofKey (d.firstTile die)) ctx
  let s1 := (d.segment die).foldl (fun s k => s.onTile k (fun t => { t with descs := put t.descs })) s
  { s1 with pes := s1.pes.map (fun kp =>
      if (match home, s.regionAt (Site.ofKey kp.1) ctx with
        | some a, some b => sameLoad s a b
        | _, _ => false) then (kp.1, { kp.2 with descs := put kp.2.descs }) else kp) }

/-- The count that a fold of unchanged moduli returns (R263). -/
def lastResize (s : State) (first k : Nat) : Nat := (Map.get (s.tile first).counts ⟨0, 0, 0, 0⟩ k).resized

/-- `fold.resize` at the segment's first tile: its checks, and the wait begins (R264). -/
def resizeStart (s : State) (n : Nat) : Option State :=
  match foldAt s n .resize with
  | none => none
  | some (fl, q, d) =>
    let s0 := dropFlight s n
    let die := (Site.ofKey fl.dst).die
    let d' := { d with w2 := q.moduli }
    let ms := moves s d d' die
    if q.moduli = d.w2 then some (foldReply fl.dst q.region q (lastResize s fl.dst (descKey q.ctx q.stmt)) s0)
    else if !moduliOk d q.moduli || moveClash d' ms then some (foldFault fl q s0)
    else
      let live := (ms.filter (fun m => m.2.2.2.live)).length
      some ((d.segment die).foldl (fun s k => s.onTile k (fun t => { t with scrubWrite := none }))
        (s0.onTile fl.dst (fun t => { t with resizing := some q, resizeAt := s.now die + 8 + live * ((d.words + 7) / 8) })))

/-- FOLD_RESIZE_START (R264). -/
def execFoldResizeStart (n : Nat) (s : State) : Host.Outcome State Fault Refusal := .next (s.orHeld (resizeStart s n))

/-- The data, granule bits and released words of a slot of a tile: words; present, released, poisoned; words that wait for
earlier ones (R261). -/
structure SlotData where
  words : List (Nat × Word)
  grans : List (Nat × Bool × Bool × Bool)
  shown : List Nat
  deriving DecidableEq, Repr

/-- What a slot of a tile holds. -/
def slotData (d : Desc) (t : Tile) (pos : Nat) : SlotData :=
  ⟨(List.range d.words).map (fun k => (k, Map.get t.data 0 (pos * d.words + k))),
   (List.range ((d.words + 7) / 8)).map (fun g => (g, Map.get t.present false (granKey pos g),
     Map.get t.released false (granKey pos g), Map.get t.poisoned false (granKey pos g))),
   (t.writers.filter (fun kv => kv.1 / 8192 == pos)).map (fun kv => kv.1 % 8192)⟩

/-- A tile without any slot of its statement. -/
def bareTile (t : Tile) : Tile :=
  { t with data := [], slots := [], present := [], released := [], poisoned := [], writers := [], peeks := [] }

/-- A moved occupant is put into its new slot: a live one with its data, a spent one its record alone (R264). -/
def placeMoved (d : Desc) (die : Nat) (m : (Nat × Nat) × Nat × Nat × Slot) (data : SlotData) (s : State) : State :=
  let pos := d.posOf m.1.1
  s.onTile (Site.key (d.tileOf die m.1.1)) (fun t =>
    let t1 := { t with slots := Map.put t.slots pos { m.2.2.2 with gen := m.1.2 } }
    if !m.2.2.2.live then t1
    else
      let t2 := { t1 with
        data := data.words.foldl (fun dm kw => Map.put dm (pos * d.words + kw.1) kw.2) t1.data
        writers := data.shown.foldl (fun m w => Map.put m (pos * 8192 + w) 1) t1.writers }
      data.grans.foldl (fun t g => { t with
        present := if g.2.1 then Map.put t.present (granKey pos g.1) true else t.present
        released := if g.2.2.1 then Map.put t.released (granKey pos g.1) true else t.released
        poisoned := if g.2.2.2 then Map.put t.poisoned (granKey pos g.1) true else t.poisoned }) t2)

/-- The spent occupants that keep their records: none where a live one, or a newer spent one, takes the slot (R264). A discarded
occupant, of which R264 does not speak, counts as a spent one (DESIGN CHOICE, log entry 116). -/
def keepSpent (d : Desc) (ms : List ((Nat × Nat) × Nat × Nat × Slot)) : List ((Nat × Nat) × Nat × Nat × Slot) :=
  ms.filter (fun a => !a.2.2.2.live && !(ms.any (fun b =>
    b.1.1 == a.1.1 && !(a.2.1 == b.2.1 && a.2.2.1 == b.2.2.1) && (b.2.2.2.live || d.newer b.1.2 a.1.2))))

/-- Where an effect on a name of the statement of a segment acts after its slot has moved (R260 to R262, R264). -/
def moveEffect (d : Desc) (die : Nat) (e : Effect) : Effect :=
  let at' := fun (tile tag : Nat) =>
    if (d.segment die).contains tile then (d.place tag).map (fun (sl, g) => (Site.key (d.tileOf die sl), d.posOf sl, g)) else none
  let acting := fun (a : Act) => { e with act := a, stream := effStream e.site e.station a }
  match e.act with
  | .release r tile _ _ => match at' tile r.tag with
    | some (x, pos, g) => acting (.release r x pos g)
    | none => e
  | .wordShown st tile _ _ word => match at' tile e.tag with
    | some (x, pos, g) => acting (.wordShown st x pos g word)
    | none => e
  | _ => e

/-- The accepted reads of a segment's tiles go with their slots (R264, R265). -/
def moveReads (d d' : Desc) (die : Nat) (s : State) : State :=
  let all := ((d.segment die).map (fun k => (s.tile k).serving)).flatten
  let at' := fun (v : Serving) => d'.place v.req.tag
  let s1 := (d.segment die).foldl (fun s k => s.onTile k (fun t => { t with serving := [] })) s
  all.foldl (fun s v => match at' v with
    | some (sl, g) => s.onTile (Site.key (d'.tileOf die sl)) (fun t => { t with
        serving := t.serving ++ [{ v with pos := d'.posOf sl, gen := g }] })
    | none => s) s1

/-- A statement of a segment takes new moduli (R264, R266): its occupants move with their reads and effects, the descriptor
copies change, and every request that waited is handled anew by its name. -/
def applyFold (die : Nat) (q : FoldReq) (d : Desc) (s : State) : State :=
  let d' := { d with w2 := q.moduli }
  let ms := moves s d d' die
  let live := ms.filter (fun m => m.2.2.2.live)
  let all := (keepSpent d' ms ++ live).map (fun m => (m, slotData d (s.tile m.2.1) m.2.2.1))
  let waits := ((d.segment die).map (fun k => (s.tile k).deferred.map (fun r =>
    (⟨r.site, r.station, .request, k, k * 2048 + r.port * 4, .read r, r.region + 1, false, false⟩ : Flight)))).flatten
  let s1 := (d.segment die).foldl (fun s k => s.onTile k (fun t => { bareTile t with deferred := [], scrubWrite := none })) s
  let s2 := setModuli d die q.ctx q.stmt q.moduli (all.foldl (fun s m => placeMoved d' die m.1 m.2 s) s1)
  let s3 := moveReads d d' die s2
  let s4 : State := { s3 with
    regions := s3.regions.map (fun kr => (kr.1, { kr.2 with caboose := kr.2.caboose.map (moveEffect d' die) }))
    net := s3.net ++ waits }
  (d.segment die).foldl (fun s k => serveTile k s) s4

/-- `fold.set` at the segment's first tile (R263): with no live occupant it acts as a resize does (R266). -/
def foldSet (s : State) (n : Nat) : Option State :=
  match foldAt s n .set with
  | none => none
  | some (fl, q, d) =>
    let s0 := dropFlight s n
    let die := (Site.ofKey fl.dst).die
    let k := descKey q.ctx q.stmt
    if q.moduli = d.w2 then some (foldReply fl.dst q.region q (lastResize s fl.dst k) s0)
    else if !moduliOk d q.moduli || (occupied s d die).any (fun o => o.2.2.2.live) then some (foldFault fl q s0)
    else some (foldReply fl.dst q.region q 0 (countFold fl.dst k (fun c => { c with resized := 0 }) (applyFold die q d s0)))

/-- FOLD_SET_APPLY (R266). -/
def execFoldSetApply (n : Nat) (s : State) : Host.Outcome State Fault Refusal := .next (s.orHeld (foldSet s n))

/-- The move of a resize and the end of its wait (R264). -/
def resizeDone (s : State) (x : Site) : Option State :=
  let site := Site.key x
  let t := s.tile site
  match t.resizing with
  | none => none
  | some q =>
    if s.now x.die < t.resizeAt then none
    else
      let d := t.desc q.ctx q.stmt
      let live := ((occupied s d x.die).filter (fun o => o.2.2.2.live)).length
      some (foldReply site q.region q live ((countFold site (descKey q.ctx q.stmt) (fun c => { c with resized := live })
        (applyFold x.die q d s)).onTile site (fun t => { t with resizing := none })))

/-- FOLD_RESIZE_COMPLETE (R264). -/
def execFoldResizeComplete (x : Site) (s : State) : Host.Outcome State Fault Refusal := .next (s.orSelf (resizeDone s x))

/-- `fold.q` at the segment's first tile (R155, R267): the counters, which the read clears. -/
def foldQuery (s : State) (n : Nat) : Option State :=
  match foldAt s n .query with
  | none => none
  | some (fl, q, d) =>
    let c := Map.get (s.tile fl.dst).counts ⟨0, 0, 0, 0⟩ (descKey q.ctx q.stmt)
    let live := ((occupied s d (Site.ofKey fl.dst).die).filter (fun o => o.2.2.2.live)).length
    let v := min 0xFFFF live + c.stalls * 2 ^ 16 + c.deferred * 2 ^ 32 + c.expired * 2 ^ 48
    some (foldReply fl.dst q.region q v (countFold fl.dst (descKey q.ctx q.stmt)
      (fun c => { c with stalls := 0, deferred := 0, expired := 0 }) (dropFlight s n)))

/-- FOLD_QUERY_SERVE (R267). -/
def execFoldQueryServe (n : Nat) (s : State) : Host.Outcome State Fault Refusal := .next (s.orSelf (foldQuery s n))

/-! ### Scrubbing -/

/-- A granule of a tile is marked poisoned, and logged with the tile port that found it (R273): of every slot that has a word
in it. The entry has the context of the tile's statement and tag 0, since no firing met the exception (DESIGN CHOICE, log
entry 111). -/
def poisonGranule (site gran port : Nat) (s : State) : State :=
  let t := s.tile site
  let w := tileWords t
  let ctx := ((t.descs.map Prod.fst).getD 0 0) / 4096
  let s1 := s.onTile site (fun t => { t with poisoned := (List.range 8).foldl (fun m i =>
    Map.put m (granKey ((gran * 8 + i) / w) ((gran * 8 + i) % w / 8)) true) t.poisoned })
  match s.tileRegion (Site.ofKey site) ctx with
  | some k => s1.onRegion k (fun r => r.logPoison (s.now (Site.ofKey site).die) (logEntry 4 (Site.ofKey site) port ctx 0))
  | none => s1

/-- The statement that a tile holds is being resized (R264). -/
def tileResizing (s : State) (x : Site) : Bool :=
  (s.tile (Site.key x)).descs.any (fun kd => resizing s kd.2 x.die (kd.1 / 4096) (kd.1 % 4096))

/-- SCRUB_GRANULE (R416): the scrubber reads the next granule and its slot's record through port 3. `fixed`: the read
corrected a word, and the write-back is due with the stamp read. `bad`: it found an uncorrectable word. -/
def scrubRead (s : State) (x : Site) (fixed bad : Bool) : Option State :=
  let site := Site.key x
  let t := s.tile site
  if !isTile x || tileResizing s x || field (s.die x.die).scrub 15 0 = 0 then none
  else
    let g := t.scrubPos
    let pos := g * 8 / tileWords t
    let stamp := (Map.get t.slots Slot.empty pos).stamp
    let words := (List.range 8).map (fun k => Map.get t.data 0 (g * 8 + k))
    let s1 := s.onTile site (fun t => { t with
      scrubPos := (g + 1) % 12288, scrubWrite := if fixed then some (g, stamp, words) else t.scrubWrite })
    some (if bad then poisonGranule site g 3 s1 else s1)

/-- SCRUB_GRANULE (R416). -/
def execScrubGranule (x : Site) (fixed bad : Bool) (s : State) : Host.Outcome State Fault Refusal :=
  .next (s.orSelf (scrubRead s x fixed bad))

/-- A word as the sparse data of a tile holds it. -/
def putData (dm : Map Word) (k : Nat) (w : Word) : Map Word := if w = 0 then Map.del dm k else Map.put dm k w

/-- SCRUB_WRITEBACK (R416): the corrected granule is written back, unless the slot's stamp has changed. -/
def scrubBack (s : State) (x : Site) : Option State :=
  let site := Site.key x
  let t := s.tile site
  match t.scrubWrite with
  | none => none
  | some (g, stamp, words) =>
    let pos := g * 8 / tileWords t
    if (Map.get t.slots Slot.empty pos).stamp = stamp then
      some (s.onTile site (fun t => { t with
        scrubWrite := none
        data := (List.range 8).foldl (fun dm k => putData dm (g * 8 + k) (words.getD k 0)) t.data }))
    else some (s.onTile site (fun t => { t with scrubWrite := none }))

/-- SCRUB_WRITEBACK (R416). -/
def execScrubWriteback (x : Site) (s : State) : Host.Outcome State Fault Refusal := .next (s.orSelf (scrubBack s x))

/-- TILE_SCRUB_COMPLETE (R415): the scrub of a reported tile ends, 6,144 cy after its report; data is unchanged. -/
def execTileScrubComplete (x : Site) (s : State) : Host.Outcome State Fault Refusal :=
  let t := s.tile (Site.key x)
  .next (if t.scrubDone != 0 && t.scrubDone ≤ s.now x.die then s.onTile (Site.key x) (fun t => { t with scrubDone := 0 }) else s)

end Sys2Proof.Machine
end

