-- ==== Sys2Proof/Machine/Access.lean ====
section
/-! DEFINITION. Accesses to addressed memory (R275 to R286): serving units (R356), the walk of a translation (R353 to
R355), the making of an access, and its performance at its home (R359, R366). -/

namespace Sys2Proof.Machine

/-- The class of a PORT (R213). -/
def Oper.portClass (o : Oper) : Nat := field (Map.get o.pm 0 0) 2 0

/-- The I/O die as a serving unit (R361). -/
def ioUnit : Nat := 63

/-- The serving unit of an operator site (R356). -/
def servingUnit (s : State) (site : Nat) : Nat :=
  let x := Site.ofKey site
  let o := s.oper site
  if x.die = 24 || (o.kind == 11 && (o.portClass == 1 || o.portClass == 2)) then ioUnit
  else 2 * x.die + (if x.col ≤ 68 then 0 else 1)

/-! ### The walk -/

/-- The end of a walk: a page with its size shift, frame and permissions, or a fault with its level and cause (R361). -/
inductive Walk where
  | page (shift frame : Nat) (r w refs : Bool)
  | fault (level cause : Nat)
  deriving DecidableEq, Repr

/-- A table word; none when it is uncorrectable (R360, R417). -/
def tableWord (s : State) (a : Nat) : Option Word :=
  if s.poisonMem.contains (a / 8) then none else some (Memory.readWord s.mem a)

/-- The physical address that an entry gives (R354). -/
def entryAddr (e : Word) : Nat := field e 51 16 * 65536

/-- A valid entry of a level is malformed (R354, R355). -/
def entryBad (level index : Nat) (e : Word) : Bool :=
  let leaf := bit e 1
  field e 7 5 != 0 || field e 63 52 != 0 ||
  (level == 0 && leaf) || (level == 2 && !leaf) ||
  (level == 1 && leaf && (field e 28 16 != 0 || bit e 4)) ||
  (!leaf && (bit e 2 || bit e 3 || bit e 4 || field e 15 8 != 0)) ||
  !mapped (entryAddr e) ||
  (level == 2 && bit e 4 && entryAddr e % 2 ^ 21 != 65536 * (index % 32))

/-- The page of a leaf entry (R354, R355). -/
def entryPage (level index : Nat) (e : Word) : Walk :=
  if level = 1 then .page 29 (entryAddr e) (bit e 2) (bit e 3) (field e 15 8 != 0)
  else if bit e 4 then .page 21 (entryAddr e - 65536 * (index % 32)) (bit e 2) (bit e 3) (field e 15 8 != 0)
  else .page 16 (entryAddr e) (bit e 2) (bit e 3) (field e 15 8 != 0)

/-- The walk from a table at one level down, three levels in all (R353). -/
def walkFrom (s : State) (va : Nat) : Nat → Nat → Nat → Walk
  | 0, level, _ => .fault level 2
  | n + 1, level, table =>
    let index := if level = 0 then va / 2 ^ 42 % 32768 else if level = 1 then va / 2 ^ 29 % 8192 else va / 2 ^ 16 % 8192
    match tableWord s (table + 8 * index) with
    | none => .fault level 3
    | some e =>
      if !bit e 0 then .fault level 1
      else if entryBad level index e then .fault level 2
      else if bit e 1 then entryPage level index e
      else walkFrom s va n (level + 1) (entryAddr e)

/-- The walk of a canonical address in a context (R353, R369). -/
def walk (s : State) (ctx va : Nat) : Walk :=
  let root := Map.get s.modRegs.troot 0 ctx
  if bit root 0 then walkFrom s va 3 0 (field root 51 18 * 2 ^ 18) else .fault 0 1

/-- A cached translation of a unit (R357): of the largest page, so that all of a run of 2 MiB translates through its one
(R355). -/
def cached (s : State) (unit ctx va : Nat) : Option Tlb :=
  let hit := fun (shift : Nat) => s.tlb.find? (fun t => t.unit == unit && t.ctx == ctx && t.shift == shift && t.page == va / 2 ^ shift)
  (hit 29).orElse (fun _ => (hit 21).orElse (fun _ => hit 16))

/-- The translation of an address at a unit: from its cache, or from the walk (R357). -/
def translate (s : State) (unit ctx va : Nat) : Walk :=
  match cached s unit ctx va with
  | some t => .page t.shift t.frame t.r t.w t.refs
  | none => walk s ctx va

/-- A unit's cache takes a translation; of 4,096 entries the oldest makes room (R357). -/
def fillTlb (unit ctx va : Nat) (w : Walk) (s : State) : State :=
  match w with
  | .fault _ _ => s
  | .page sh fr r wr refs =>
    if (cached s unit ctx va).isSome then s
    else
      let mine := s.tlb.filter (fun t => t.unit == unit)
      let keep := if mine.length < 4096 then s.tlb else match mine with
        | t :: _ => s.tlb.erase t
        | [] => s.tlb
      { s with tlb := keep ++ [⟨unit, ctx, sh, va / 2 ^ sh, fr, r, wr, refs⟩] }

/-! ### Making accesses -/

/-- An access of zeros. -/
def Access.none : Access :=
  { id := 0, kind := .read, op := 0, oper := 0, region := 0, ctx := 0, unit := 0, stream := 0, va := 0, size := 0,
    data := [], cmp := [], pa := 0, phase := 0, before := [], elem := 0, tag := 0, seq := 0, part := 0, req := Option.none,
    bytes := [], poison := false, tok := Option.none }

/-- A range cut at 64-byte sectors: two accesses where an element crosses one (R276). -/
def sectorParts : Nat → Nat → Nat → List (Nat × Nat)
  | 0, _, _ => []
  | n + 1, va, size =>
    if size = 0 then [] else (va, min size (64 - va % 64)) :: sectorParts n (va + min size (64 - va % 64)) (size - min size (64 - va % 64))

/-- A new access, with the next number. -/
def addAccess (a : Access) (s : State) : State :=
  { s with accesses := s.accesses ++ [{ a with id := s.nextAcc }], nextAcc := s.nextAcc + 1 }

/-- The access of a number. -/
def State.access (s : State) (n : Nat) : Option Access := s.accesses.find? (fun a => a.id == n)

/-- The state with an access changed. -/
def State.onAccess (s : State) (n : Nat) (g : Access → Access) : State :=
  { s with accesses := s.accesses.map (fun a => if a.id == n then g a else a) }

/-- The state without some accesses. -/
def State.dropAccesses (s : State) (p : Access → Bool) : State := { s with accesses := s.accesses.filter (fun a => !p a) }

/-- The parts of one element of an operator enter its region's caboose (R191, R156); without a region they go at once. `tok`
is the token that the element comes of, which a fault saves (R140). -/
def operAccess (site : Nat) (kind : AccKind) (op elem tag seq va size : Nat) (data cmp : List Byte) (tok : Option Token)
    (s : State) : State :=
  let o := s.oper site
  (sectorParts (size / 64 + 2) va size).foldl (fun s part =>
    let n := s.nextAcc
    let a : Access := { Access.none with
      kind := kind, op := op, oper := site, region := o.region, ctx := operCtx o, unit := servingUnit s site,
      stream := 2 * site, va := BitVec.ofNat 64 part.1, size := part.2, data := (data.drop (part.1 - va)).take part.2,
      cmp := cmp, phase := if o.region = 0 then 0 else 6, elem := elem, tag := tag, seq := seq, part := part.1 - va, tok := tok }
    let s1 := addAccess a s
    if o.region = 0 then s1 else enterCaboose (o.region - 1) site 0 tag (s.region (o.region - 1)).wave seq (.access n) s1) s

/-! ### Performing -/

/-- An operator delivers an uncorrectable word: an origin of cause 4 at its own site (R417, R59). -/
def logMemory (site tag : Nat) (s : State) : State :=
  let o := s.oper site
  if o.region = 0 then s
  else s.onRegion (o.region - 1) (fun r => r.logPoison (s.now (Site.ofKey site).die) (logEntry 4 (Site.ofKey site) 0 (operCtx o) tag))

/-- A word of a range is uncorrectable (R417). -/
def rangePoisoned (s : State) (pa size : Nat) : Bool := s.poisonMem.any (fun w => pa / 8 ≤ w && w ≤ (pa + size - 1) / 8)

/-- A write mends the sectors it goes to (R417). -/
def mendRange (pa size : Nat) (s : State) : State :=
  { s with poisonMem := s.poisonMem.filter (fun w => !(pa / 64 ≤ w / 8 && w / 8 ≤ (pa + size - 1) / 64)) }

/-- A page under migration that holds an address of the old frame. -/
def migrating (s : State) (pa : Nat) : Option Migration :=
  s.migrations.find? (fun m => m.old ≤ pa && pa < m.old + m.size)

/-- A sector of a migrating page is copied to the new frame (R366). -/
def copySector (m : Migration) (i : Nat) (s : State) : State :=
  if m.copied.contains i then s
  else { s with
    mem := Memory.writeBytes s.mem (m.new + 64 * i) (Memory.readBytes s.mem (m.old + 64 * i) 64)
    migrations := s.migrations.map (fun x => if x == m then { x with copied := x.copied ++ [i] } else x) }

/-- A read at the home: a migrating page's sector is copied by it (R366). -/
def readHome (pa size : Nat) (s : State) : List Byte × State :=
  let bs := Memory.readBytes s.mem pa size
  match migrating s pa with
  | some m => (bs, copySector m ((pa - m.old) / 64) s)
  | none => (bs, s)

/-- A page under migration that holds an address of the new frame. -/
def migratedTo (s : State) (pa : Nat) : Option Migration :=
  s.migrations.find? (fun m => m.new ≤ pa && pa < m.new + m.size)

/-- A write at the home: a copied sector of a migrating page is written in both frames (R366), by a write to its new frame too, so
that both hold one sector (R276; log entry 101). -/
def writeHome (pa : Nat) (bs : List Byte) (s : State) : State :=
  let s1 := mendRange pa bs.length { s with mem := Memory.writeBytes s.mem pa bs }
  match migrating s pa, migratedTo s pa with
  | some m, _ =>
    if m.copied.contains ((pa - m.old) / 64) then { s1 with mem := Memory.writeBytes s1.mem (m.new + (pa - m.old)) bs } else s1
  | none, some m =>
    if m.copied.contains ((pa - m.new) / 64) then { s1 with mem := Memory.writeBytes s1.mem (m.old + (pa - m.new)) bs } else s1
  | none, none => s1

/-- The access size of an atomic (R162). -/
def atomicSize (q : PortReq) : Nat :=
  if q.op = 0x20C then (if q.fmt == .f64 then 8 else 4) else if q.w32 then 4 else 8

/-- The new value of an atomic from the old one, and the cause of an exceptional result (R55, R162). -/
def atomicNew (q : PortReq) (old : Nat) : Nat × Option Cause :=
  let w := 8 * atomicSize q
  let v := q.data.toNat % 2 ^ w
  let c := q.cmp.toNat % 2 ^ w
  if q.op = 0x20B then ((old + v) % 2 ^ w, none)
  else if q.op = 0x20C then
    let r := sumTo q.fmt q.round q.sat false [decodeF q.fmt old, decodeF q.fmt v]
    (r.bits, r.cause)
  else if q.op = 0x20D then (if signed w v < signed w old then v else old, none)
  else if q.op = 0x20E then (if signed w old < signed w v then v else old, none)
  else if q.op = 0x20F then (Nat.land old v, none)
  else if q.op = 0x210 then (Nat.lor old v, none)
  else if q.op = 0x211 then (v, none)
  else (if old = c then v else old, none)

/-- Bytes taken from a forwarding table (R214) in place of those read: `cmp` marks them, `data` holds them. -/
def overlay : List Byte → List Byte → List Byte → List Byte
  | b :: bs, d :: ds, m :: ms => (if m == 0 then b else d) :: overlay bs ds ms
  | bs, _, _ => bs

/-- The exceptional result of an atomic is logged as an origin of its station (R59). -/
def logAtomic (q : PortReq) (c : Option Cause) (s : State) : State :=
  match c with
  | some _ => s.onRegion q.region (fun r => r.logPoison (s.now r.die)
      (logEntry (causeNum c) (Site.ofKey q.site) q.station q.token.ctx.toNat q.fired))
  | none => s

/-- An access is performed at its home (R275, R276): the bytes it returns, whether they are poisoned, by T2 (R417) or by the expander
of T3 (R367), and the state. A PORT that delivers an uncorrectable word logs it (R417). An atomic copies no sector of a migrating
page (R366). -/
def performMem (a : Access) (s : State) : List Byte × Bool × State :=
  let bad := rangePoisoned s a.pa a.size || (inT3 a.pa && Config.expanderPoison a.id)
  let log := fun (s : State) => if bad && a.req.isSome then logMemory a.oper a.tag s else s
  match a.kind with
  | .read =>
    let r := readHome a.pa a.size s
    (overlay r.1 a.data a.cmp, bad, log r.2)
  | .write => ([], false, writeHome a.pa a.data s)
  | .queue => ([], false, writeHome a.pa a.data s)
  | .atomic =>
    match a.req with
    | some q =>
      let old := Memory.readBytes s.mem a.pa a.size
      let n := atomicNew q (leNat old)
      (old, bad || n.2.isSome, logAtomic q n.2 (log (writeHome a.pa (leBytes a.size n.1) s)))
    | none => ([], false, s)

/-! ### Fault records -/

/-- The fault queue has room (R361, R369). -/
def State.faultRoom (s : State) : Bool :=
  bit s.modRegs.fqcfg 16 && ringUsed s.modRegs.fqFull s.modRegs.fqtail s.modRegs.fqhead < 2 ^ field s.modRegs.fqcfg 4 0

/-- A record is written into the fault queue; the vector is raised when it was empty (R360, R385). -/
def State.putFault (s : State) (ws : List Word) : State :=
  let g := s.modRegs
  let at' := g.fqbase.toNat + 32 * (field g.fqtail 15 0 % 2 ^ field g.fqcfg 4 0)
  let s' := { s with
    hostMem := Memory.writeBytes s.hostMem at' (wordBytes ws)
    modRegs := { g with fqtail := BitVec.ofNat 64 ((field g.fqtail 15 0 + 1) % 65536), fqFull := ringFull g.fqtail g.fqhead } }
  if ringUsed g.fqFull g.fqtail g.fqhead = 0 then s'.raiseVector (field g.fqcfg 15 8) else s'

/-- Records that no hold stands for, cause 8, wait in order for room (R365). -/
def drainRetire : List (List Word) → State → State
  | [], s => { s with faultQ := [] }
  | w :: ws, s => if s.faultRoom then drainRetire ws (s.putFault w) else { s with faultQ := w :: ws }

/-- Held units write their records, in order, while the queue has room (R361). -/
def drainHolds : List Hold → State → State
  | [], s => s
  | h :: hs, s =>
    if h.written then drainHolds hs s
    else if s.faultRoom then
      drainHolds hs { s.putFault h.words with holds := s.holds.map (fun x =>
        if x.unit == h.unit && x.id == h.id then { x with written := true } else x) }
    else s

/-- The access code of a fault record (R361). -/
def accessCode (a : Access) : Nat :=
  if 0x18 ≤ a.op && a.op ≤ 0x1D && a.req.isNone then 3
  else match a.kind with
    | .read => 0
    | .write => 1
    | .atomic => 2
    | .queue => 1

/-- The element that a fault record names (R361): of a transfer, whose accesses carry its number, the place of the access's sector in
its source, its destination or its page (DEDUCED, log entry 109); 0 for a request. -/
def faultElement (s : State) (a : Access) : Nat :=
  if a.req.isSome then 0
  else if 0x18 ≤ a.op && a.op ≤ 0x1D then
    match (s.oper a.oper).moves.find? (fun m => m.id == a.elem) with
    | some m =>
      let start := if m.phase = 0 then a.va.toNat else if a.op = 0x1D || a.op = 0x1C then m.src.toNat
        else if a.op = 0x1B then m.dst.toNat else if a.kind == .read then m.src.toNat else m.dst.toNat
      a.va.toNat / 64 - start / 64
    | none => 0
  else a.elem

/-- The words of a fault record (R361). The stream of a request that goes through no PORT has no identifier of PM14: 0. -/
def faultWords (s : State) (a : Access) (level cause id : Nat) : List Word :=
  let o := s.oper a.oper
  let x := Site.ofKey a.oper
  let own := a.req.isNone || a.op < 0x213
  [BitVec.ofNat 64 (a.va.toNat % 2 ^ 57 + a.ctx * 2 ^ 57 + accessCode a * 2 ^ 60 + level * 2 ^ 62),
   BitVec.ofNat 64 ((if own then field (Map.get o.pm 0 14) 15 0 else 0) + a.tag % 65536 * 2 ^ 16 + cause * 2 ^ 32 + a.unit * 2 ^ 36 +
     (Map.get s.slots 1 a.oper - 1) * 2 ^ 42 + id * 2 ^ 48),
   BitVec.ofNat 64 (faultElement s a % 2 ^ 32 + x.die * 2 ^ 32 + x.row * 2 ^ 37 + x.col * 2 ^ 44 + a.seq % 64 * 2 ^ 52), 0]

/-- A translation fault holds the stream at its element, writes the record, and tells the handler (R360). -/
def holdAccess (a : Access) (level cause : Nat) (s : State) : State :=
  let id := Map.get s.holdIds 0 a.unit
  let h : Hold := ⟨a.unit, id, a.id, false, faultWords s a level cause id⟩
  let s1 := { s with holds := s.holds ++ [h], holdIds := Map.put s.holdIds a.unit ((id + 1) % 65536) }
  let s2 := (s1.onAccess a.id (fun a => { a with phase := 1 })).onOper a.oper (fun o =>
    if o.state = 2 then { o with state := 3 } else o)
  let s3 := drainHolds s2.holds s2
  s3.raiseError (a.region - 1) ⟨0x08, Site.ofKey a.oper, 0, a.ctx, a.tag⟩ none false

/-! ### Pins -/

/-- The pin key of an access: its operator's pass, its transfer, or the request itself (R364). -/
def Access.pinKey (a : Access) : Nat :=
  if a.req.isSome then 2 * a.id + 1 else if 0x18 ≤ a.op && a.op ≤ 0x1D then 2 * a.elem + 1 else 2 * a.oper

/-- The pages that a unit has pinned (R364). -/
def pinnedPages (s : State) (unit : Nat) : Nat :=
  ((s.pins.filter (fun p => p.unit == unit)).map (fun p => (p.ctx, p.page))).eraseDups.length

/-- The access has a pin on a page. -/
def hasPin (s : State) (a : Access) (page : Nat) : Bool :=
  s.pins.any (fun p => p.unit == a.unit && p.ctx == a.ctx && p.page == page && p.stream == a.pinKey)

/-- The access's stream holds a pin on a page already (R364): its own, or one of another request of the stream. -/
def holdsPin (s : State) (a : Access) (page : Nat) : Bool :=
  hasPin s a page || (a.req.isSome && s.accesses.any (fun b =>
    b.req.isSome && b.oper == a.oper && b.stream == a.stream && b.phase < 5 && hasPin s b page))

/-- A stream's pin on a page of `2 ^ sh` bytes. -/
def pinPage (a : Access) (page sh : Nat) (s : State) : State :=
  if hasPin s a page then s else { s with pins := s.pins ++ [⟨a.unit, a.ctx, page, sh, a.pinKey⟩] }

/-- The pins of a stream are released (R364). -/
def unpin (key : Nat) (s : State) : State := { s with pins := s.pins.filter (fun p => p.stream != key) }

end Sys2Proof.Machine
end

