-- ==== Sys2Proof/Machine/Operators.lean ====
section
/-! DEFINITION. The stream operators but PORT and COMPARE (R191 to R211): what an operator emits, passes, affine
patterns (R196 to R198), and the steps of each kind. -/

namespace Sys2Proof.Machine

/-! ### Tokens in and out -/

/-- A token that an operator takes now: first of its lane, on a port of its kind, nothing wrong with it (R193, R194),
while its region accepts inputs (R406). An input of a stream comes out of its FIFO first (R237). -/
def operFlight (s : State) (n : Nat) : Option (Flight × Token) :=
  match headOfLane s.net n with
  | none => none
  | some fl => match fl.msg with
    | .token t =>
      let o := s.oper fl.dst
      let r := s.region (o.region - 1)
      if isOper (Token.site t) && !s.fatal && (operBad o t).isNone && operState s fl.dst t == .open &&
        (o.region == 0 || (!(r.rolling && fl.input) && (fifoOf s (o.region - 1) fl t).isNone)) then
        some (fl, t) else none
    | _ => none

/-- The flight is taken; it is kept as an input of the operator's region where it came from outside (R404). -/
def takeFlight (n : Nat) (fl : Flight) (s : State) : State :=
  let o := s.oper fl.dst
  let s' := dropFlight s n
  if o.region = 0 then s' else acceptInput s' (o.region - 1) fl

/-- An operator's data token on one port: the state after it is taken, the site, and the token. -/
def dataToken (s : State) (n kind : Nat) (port : Port) : Option (Flight × Token) :=
  match operFlight s n with
  | some (fl, t) => if (s.oper fl.dst).kind = kind && t.port == port then some (fl, t) else none
  | none => none

/-- An operator command of one kind (R194). -/
def commandToken (s : State) (n code : Nat) : Option (Flight × Token) :=
  match operFlight s n with
  | some (fl, t) => if t.port == .c && ctlKind t = code then some (fl, t) else none
  | none => none

/-- A token leaves an operator for a target, or waits in it to leave (R226, R228, R401). -/
def operForce (site : Nat) (g : Target) (t : Token) (s : State) : State := putOut site ⟨g, t, true, false⟩ s

/-- A token that is no admission leaves an operator, or waits in it to leave: a completion or a trip token (R230). -/
def operTell (site : Nat) (g : Target) (t : Token) (s : State) : State := putOut site ⟨g, t, false, false⟩ s

/-- The operator can send to a target now: nothing waits to leave before, and the token need not wait. -/
def operCan (site : Nat) (g : Target) (t : Token) (s : State) : Bool :=
  (s.oper site).out.isEmpty && outCan site ⟨g, t, true, false⟩ s

/-- A token leaves an operator for a target, or what it comes of waits. -/
def operSend (site : Nat) (g : Target) (t : Token) (s : State) : Option State :=
  if operCan site g t s then some (outGo site ⟨g, t, true, false⟩ s) else none

/-- `to` (R192). -/
def toA (o : Oper) : Target := targetOf (field (Map.get o.pm 0 12) 31 0)
/-- `to2` (R192). -/
def toB (o : Oper) : Target := targetOf (field (Map.get o.pm 0 12) 63 32)
/-- `done` (R192). -/
def toDone (o : Oper) : Target := targetOf (field (Map.get o.pm 0 13) 31 0)
/-- `empty` (R192). -/
def toEmpty (o : Oper) : Target := targetOf (field (Map.get o.pm 0 13) 63 32)
/-- The tag base (R192). -/
def tagBase (o : Oper) : Nat := field (Map.get o.pm 0 14) 31 16
/-- The stream identifier (R192). -/
def streamId (o : Oper) : Nat := field (Map.get o.pm 0 14) 15 0

/-- A control token that the hardware makes: fmt 6, seq 0 (R20). -/
def hwToken (kind arg tag ends : Nat) : Token :=
  { Token.zero with
    payload := BitVec.ofNat 64 (kind * 2 ^ 56 + arg), fmt := .i64, tag := BitVec.ofNat 16 tag, ends := BitVec.ofNat 4 ends }

/-- A completion token (R21, R195). -/
def completion (count stream status tag : Nat) : Token :=
  hwToken 0x03 (count % 2 ^ 32 + stream % 2 ^ 16 * 2 ^ 32 + status * 2 ^ 48) tag 0

/-- An error of an operator site leaves as its tokens do: to a handler in another region through the caboose (R60, R156,
R191). -/
def siteError (site tag : Nat) (r : ErrRec) (saved : Option Token) (s : State) : State :=
  let o := s.oper site
  if o.region = 0 then s.raiseError 0 r saved saved.isSome
  else sendOne site 0 (operCtx o) tag (s.region (o.region - 1)).wave (some (o.region - 1)) (.error r saved saved.isSome) s

/-- An error of an operator (R139, R140): its record names the site, station 0, the context and a tag. -/
def operError (site code tag : Nat) (saved : Option Token) (s : State) : State :=
  siteError site tag ⟨code, Site.ofKey site, 0, operCtx (s.oper site), tag⟩ saved s

/-- A sink's report of its first poisoned token of a (ctx, tag) (R60). -/
def sinkReport (site : Nat) (t : Token) (s : State) : State :=
  if !t.poison then s
  else
    let k := (s.oper site).region - 1
    let q := s.sinkFirst k site 0 t.ctx.toNat t.tag.toNat
    if q.1 then
      siteError site t.tag.toNat (sinkRecord (s.region k) ⟨0x03, Site.ofKey site, 0, t.ctx.toNat, t.tag.toNat⟩) none q.2
    else q.2

/-! ### Patterns -/

/-- The counts of a pattern's levels in force (R196, R206). -/
def imageCounts (o : Oper) : List Nat :=
  if o.kind = 4 then
    (List.range (field (Map.get o.pm 0 0) 2 0 + 1)).map (fun i => field (Map.get o.pm 0 (1 + i)) 31 0)
  else (List.range (field (Map.get o.pm 0 1) 7 5 + 1)).map (fun i => field (Map.get o.pm 0 (3 + i)) 31 0)

/-- The counts for the next pass: the image's, as bound tokens have changed them (R201, R206). -/
def nextCounts (o : Oper) : List Nat := if o.nextCounts.isEmpty then imageCounts o else o.nextCounts

/-- The strides of a pattern's levels (R200). -/
def strides (o : Oper) : List Int :=
  (List.range (field (Map.get o.pm 0 1) 7 5 + 1)).map (fun i => signed 32 (field (Map.get o.pm 0 (3 + i)) 63 32))

/-- Element size in bytes (R200). -/
def elemSize (o : Oper) : Nat := 2 ^ field (Map.get o.pm 0 1) 1 0

/-- The lowest tag level: the one above seqlev (R196). -/
def tagLevel (o : Oper) : Nat :=
  if o.kind = 4 then 0 else if field (Map.get o.pm 0 1) 10 8 = 7 then 0 else field (Map.get o.pm 0 1) 10 8 + 1

/-- The number of a pattern's elements. -/
def total : List Nat → Nat
  | [] => 1
  | n :: ns => n * total ns

/-- The indices of element `j`, level 0 first (R196). -/
def indices : List Nat → Nat → List Nat
  | [], _ => []
  | n :: ns, j => j % n :: indices ns (j / n)

/-- Indices as one number, the lowest level fastest. -/
def mixed : List Nat → List Nat → Nat
  | i :: is, n :: ns => i + n * mixed is ns
  | _, _ => 0

/-- The tag of an element, every zero count taken as 1 (R196, R197). -/
def patternTag (base lowest : Nat) (ix counts : List Nat) : Nat :=
  (base + mixed (ix.drop lowest) ((counts.drop lowest).map (max 1))) % 65536

/-- All indices up to a level are the last of theirs. -/
def lastUpTo : Nat → List Nat → List Nat → Bool
  | 0, _, _ => true
  | n + 1, i :: is, c :: cs => i + 1 == c && lastUpTo n is cs
  | _ + 1, _, _ => false

/-- The end bits of an element (R18). -/
def patternEnds (ix counts : List Nat) : Nat :=
  sumNat ((List.range 4).map (fun k => if lastUpTo (k + 1) ix counts then 2 ^ k else 0))

/-- The seq of an element (R196). -/
def patternSeq (o : Oper) (ix : List Nat) : Nat :=
  if o.kind = 4 || field (Map.get o.pm 0 1) 10 8 = 7 then 0 else ix.getD (field (Map.get o.pm 0 1) 10 8) 0 % 64

/-- The offset of an element from the base (R196). -/
def patternOffset : List Nat → List Int → Int
  | i :: is, q :: qs => (i : Int) * q + patternOffset is qs
  | _, _ => 0

/-- The highest level whose count is zero (R197). -/
def zeroLevel : List Nat → Nat → Option Nat
  | [], _ => none
  | n :: ns, k => match zeroLevel ns (k + 1) with
    | some h => some h
    | none => if n = 0 then some k else none

/-- The EMPTY tokens of a pattern with a zero count: tags and end bits, in order (R197). -/
def emptyTokens (base lowest : Nat) (counts : List Nat) : List Token :=
  match zeroLevel counts 0 with
  | none => []
  | some h =>
    let above := counts.drop (h + 1)
    if above.isEmpty then []
    else (List.range (total above)).map (fun j =>
      let up := indices above j
      let ix := (List.range (h + 1)).map (fun _ => 0) ++ up
      let ends := sumNat ((List.range 4).map (fun k => if k ≤ h || lastUpTo (k - h) up above then 2 ^ k else 0))
      hwToken 0x06 0 (patternTag base lowest ix counts) ends)

/-- The pattern with some counts lies in its extent (R198). -/
def inExtent (o : Oper) (counts : List Nat) : Bool :=
  if counts.contains 0 then true
  else
    let spans := (counts.zip (strides o)).map (fun (cs : Nat × Int) => ((cs.1 : Int) - 1) * cs.2)
    let hi := sumInt (spans.map (fun (x : Int) => max x 0)) + (elemSize o : Int)
    let lo := sumInt (spans.map (fun (x : Int) => min x 0))
    0 ≤ lo && hi ≤ (((Map.get o.pm 0 2).toNat : Nat) : Int)

/-- An address range lies below 2^57 (R198). -/
def inSpace (a : Int) (size : Nat) : Bool := 0 ≤ a && a + (size : Int) ≤ ((2 ^ 57 : Nat) : Int)

/-! ### Passes -/

/-- Every coupling token due to an operator has arrived: it arms no further pass (R336). -/
def closed (o : Oper) : Bool := max 1 o.fanin ≤ o.joins && o.joins != 0

/-- A kind whose passes take an engine slot (R358). A LOOKUP, which has no pass in the sense of R194, takes one while it holds a
position (DEDUCED, log entry 80). -/
def takesSlot (kind : Nat) : Bool := kind ≤ 3

/-- A unit has a free engine slot, of 64 (R358). -/
def slotFree (s : State) (unit : Nat) : Bool := (s.slots.filter (fun kv => servingUnit s kv.1 == unit)).length < 64

/-- The lowest slot number of a unit that is not given, plus one. -/
def freeNumber (s : State) (unit : Nat) : Nat :=
  (((List.range 64).map (· + 1)).find? (fun i => !(s.slots.any (fun kv => servingUnit s kv.1 == unit && kv.2 == i)))).getD 64

/-- A pass that has a slot gets the lowest free number with its first access (log entry 104): until then its slot's is 0, and the
number plus one after that. -/
def numberSlot (site : Nat) (s : State) : State :=
  if Map.find s.slots site = some 0 then { s with slots := Map.put s.slots site (freeNumber s (servingUnit s site)) } else s

/-- An operator that holds an engine slot, or finds one free (R358). -/
def slotRoom (s : State) (site : Nat) : Bool := (Map.find s.slots site).isSome || slotFree s (servingUnit s site)

/-- An operator takes an engine slot unless it has one, and the slot its number (R358). -/
def claimSlot (site : Nat) (s : State) : State :=
  numberSlot site (if (Map.find s.slots site).isSome then s else { s with slots := Map.put s.slots site 0 })

/-- The bytes that a GATHER item or SCATTER element takes (R203, R205). -/
def itemSize (o : Oper) : Nat :=
  if o.kind = 3 then 2 ^ field (Map.get o.pm 0 1) 2 1 else field (Map.get o.pm 0 3) 63 32

/-- The address mode of a GATHER or SCATTER. -/
def itemMode (o : Oper) : Nat := if o.kind = 3 then field (Map.get o.pm 0 1) 0 0 else field (Map.get o.pm 0 1) 1 0

/-- Where an item lies (R203, R204, R352): its address, or the fault of its index or address. -/
def itemAddr (o : Oper) (x : Word) : Except Nat Nat :=
  let base := (Map.get o.pm 0 0).toNat
  let extent := (Map.get o.pm 0 2).toNat
  if itemMode o = 1 then
    if x.toNat < base || base + extent < x.toNat + itemSize o then .error 0x07
    else if inSpace (x.toNat : Int) (itemSize o) then .ok x.toNat else .error 0x0B
  else
    let i := signed 64 x.toNat
    if i < 0 || ((extent : Nat) : Int) ≤ i then .error 0x07
    else
      let a := (base : Int) + i * ((field (Map.get o.pm 0 3) 31 0 : Nat) : Int)
      if inSpace a (itemSize o) then .ok a.toNat else .error 0x0B

/-- The address of LOAD or STORE element with indices `ix` (R196). -/
def elementAddr (o : Oper) (ix : List Nat) : Int := (o.base.toNat : Int) + patternOffset ix (strides o)

/-- An access of an operator that has not been translated yet stands before its next element (R356, R360); one that a
rollback found on its way does not, until the replay issues its element again (R282). -/
def unissued (s : State) (site : Nat) : Bool :=
  s.accesses.any (fun a => a.oper == site && a.req.isNone && (a.phase == 0 || a.phase == 1 || a.phase == 6) &&
    !(0x10 ≤ a.op && a.op ≤ 0x13))

/-- The region of an operator lets it start elements (R375, R406). -/
def operMay (s : State) (site : Nat) : Bool :=
  let o := s.oper site
  let r := s.region (o.region - 1)
  o.region == 0 || (!r.halted && !r.rolling && r.status != 6 && r.saving != 2)

/-- The operator is not parked with its region: what returns to it meanwhile waits (R30, R373). -/
def operAwake (s : State) (site : Nat) : Bool :=
  (s.oper site).region == 0 || (s.region ((s.oper site).region - 1)).status != 6

/-- A GATHER or SCATTER item is finished, whatever became of it (R203 to R205). -/
def itemDone (site : Nat) (s : State) : State :=
  s.onOper site (fun o =>
    let f := o.sent + 1
    { o with sent := f, state := if f = field (Map.get o.pm 0 5) 31 0 && (o.state = 2 || o.state = 3) then 5 else o.state })

/-- An item is delivered as one token of payload 0 with poison (R204), and counts as delivered (R195). -/
def poisonItem (site tag : Nat) (s : State) : State :=
  (fun (s : State) => s.onOper site (fun o => { o with done := o.done + 1 })) <| operForce site (toA (s.oper site)) { Token.zero with
    fmt := Fmt.ofCode (BitVec.ofNat 3 (field (Map.get (s.oper site).pm 0 1) 4 2)), poison := true, ends := 3,
    tag := BitVec.ofNat 16 tag } s

/-- An item faults: only itself ends, and the pass completes with status 3 (R204, R205). `tok` is the item's index or address
token; an item of an index array has none, and a token is saved that holds the index or address (DESIGN CHOICE, log entry
90). -/
def itemFault (site code tag : Nat) (payload : Word) (tok : Option Token) (s : State) : State :=
  let o := s.oper site
  let saved : Token := { Token.zero with
    payload := payload, tag := BitVec.ofNat 16 tag, ctx := BitVec.ofNat 3 (operCtx o), fmt := .i64,
    die := BitVec.ofNat 5 (Site.ofKey site).die, row := BitVec.ofNat 7 (Site.ofKey site).row,
    col := BitVec.ofNat 8 (Site.ofKey site).col }
  let s1 := operError site code tag (some (tok.getD saved)) (s.onOper site (fun o => { o with status := 3 }))
  itemDone site (if o.kind = 2 then poisonItem site tag s1 else s1)

/-- The mask of a group has served its last item (R204). -/
def dropMask (site k : Nat) (s : State) : State :=
  s.onOper site (fun o =>
    if k % 64 = 63 || k + 1 = field (Map.get o.pm 0 5) 31 0 then { o with mask := none } else o)

/-- A mask is at hand for item `k`, or none is needed (R204). -/
def maskReady (o : Oper) : Bool := !(bit (Map.get o.pm 0 1) 5) || o.mask.isSome

/-- Items of a GATHER's pass from the oldest that is not delivered to the last that it has taken: at most 64 (R305). -/
def itemsOut (s : State) (site : Nat) : Nat :=
  let o := s.oper site
  o.pos - ((s.accesses.filter (fun a => a.oper == site && a.req.isNone && a.kind == .read && a.phase < 7 &&
    !(0x10 ≤ a.op && a.op ≤ 0x13))).map Access.elem).foldl min o.pos

/-- The caboose of an operator's region has room for the accesses of `size` bytes (R401). -/
def accessRoom (s : State) (site size : Nat) : Bool :=
  let k := (s.oper site).region
  k == 0 || (s.region (k - 1)).caboose.isEmpty || cabooseRoom s (some (k - 1)) (size / 64 + (if size ≤ 1 then 1 else 2))

/-- The index of the next item of a mode 2 GATHER that its mask keeps is requested (R203, R204): an item is taken once its
mask is at hand, and a mask bit of 0 skips it. An index beyond the address space faults its item. -/
def gatherNext (site : Nat) : Nat → State → State
  | 0, s => s
  | n + 1, s =>
    let o := s.oper site
    if o.state != 2 || unissued s site || !operMay s site || field (Map.get o.pm 0 5) 31 0 ≤ o.pos || 64 ≤ itemsOut s site ||
      !maskReady o || !accessRoom s site 8 then s
    else
      let mask := o.mask.getD .zero
      let masked := bit (Map.get o.pm 0 1) 5
      let size := 2 ^ field (Map.get o.pm 0 6) 1 0
      let a := (Map.get o.pm 0 4).toNat + o.pos * size
      let tag := (tagBase o + o.pos) % 65536
      let s1 := dropMask site o.pos (s.onOper site (fun o => { o with pos := o.pos + 1 }))
      if masked && !mask.poison && !(bit mask.payload (o.pos % 64)) then gatherNext site n (itemDone site s1)
      else if inSpace (a : Int) size then
        operAccess site .read 1 o.pos tag 0 a size [] (if masked && mask.poison then [1] else []) none (numberSlot site s1)
      else gatherNext site n (itemFault site 0x0B tag (BitVec.ofNat 64 a) none s1)

/-- The next element of a LOAD, or the next index of a mode 2 GATHER, is requested (R201, R203): in emission order, one
at a time (R356). An element outside the address space ends the pass there (R198). -/
def issueNext (site : Nat) (s : State) : State :=
  let o := s.oper site
  if o.state != 2 || unissued s site || !operMay s site then s
  else if o.kind = 0 then
    if o.sent ≤ o.pos || !accessRoom s site (elemSize o) then s
    else
      let ix := indices o.counts o.pos
      let tag := patternTag (tagBase o) (tagLevel o) ix o.counts
      let a := elementAddr o ix
      if inSpace a (elemSize o) then
        operAccess site .read 0 o.pos tag (patternSeq o ix) a.toNat (elemSize o) [] [] none
          ((numberSlot site s).onOper site (fun o => { o with pos := o.pos + 1 }))
      else
        let t := Token.toTarget { Token.zero with
          ctx := BitVec.ofNat 3 (operCtx o), tag := BitVec.ofNat 16 tag, seq := BitVec.ofNat 6 (patternSeq o ix) } (toA o)
        operError site 0x0B tag (some t) (s.onOper site (fun o => { o with
          sent := o.pos, status := 3, state := if o.done = o.pos then 5 else o.state }))
  else if o.kind = 2 && itemMode o = 2 then gatherNext site (field (Map.get o.pm 0 5) 31 0 - o.pos + 1) s
  else s

/-- A region resumes work: its operators request their next elements. -/
def wakeOpers (k : Nat) (s : State) : State :=
  ((regionOpers s k).map Prod.fst).foldl (fun s x => issueNext x s) s

/-- The operators of a region for whose next accesses the caboose of state `s` had no room request them in `t` (R401). -/
def wakeFull (s : State) (k : Nat) (t : State) : State :=
  (((regionOpers s k).map Prod.fst).filter (fun x => !accessRoom s x 8)).foldl (fun t x => issueNext x t) t

/-- CABOOSE_RELEASE (R401). -/
def execCabooseRelease (r n : Nat) (s : State) : Host.Outcome State Fault Refusal :=
  .next (match releaseEffect s r n with
    | some t => wakeFull s r t
    | none => s)

/-- A LOOP's pass begins at a tag that a squash may have retired before (R232): tokens of it are discarded no more (R146). -/
def reviveTag (site tag : Nat) (s : State) : State :=
  let k := (s.oper site).region - 1
  match (s.region k).domainOf (member site 0) with
  | none => s
  | some i => s.onRegion k (fun r => r.onDomain i (fun d => { d with dead := d.dead.filter (fun t => t != tag) }))

/-- A pass begins (R194, R196 to R198, R201). The trip token of a LOOP is no admission (R206, R230). -/
def beginPass (site : Nat) (arm : Arm) (s : State) : State :=
  let s0 := s.onOper site (fun o => { o with
    pm := match arm.base with
      | some b => Map.put o.pm (if o.kind = 2 then 4 else 0) b
      | none => o.pm })
  let o := s0.oper site
  let counts := if o.kind = 0 || o.kind = 1 || o.kind = 4 then nextCounts o else []
  let n :=
    if o.kind = 0 || o.kind = 1 || o.kind = 4 then total counts
    else if o.kind = 8 then 4 * field (Map.get o.pm 0 0) 31 0
    else 0
  let s1 := s0.onOper site (fun o => { o with
    state := 2, passNo := o.passNo + 1, epoch := o.epoch + 1, done := 0, pos := 0, sent := n, tag := arm.tag, base := Map.get o.pm 0 0,
    counts := counts, status := 0, arrivals := [], discard := false,
    expTag := if o.kind = 4 then o.nextTag else o.expTag,
    held := if o.kind = 8 then [] else o.held, expSeq := if o.kind = 8 then 0 else o.expSeq })
  let s2 :=
    if o.kind = 4 then
      operTell site (toB o) { Token.zero with
        payload := BitVec.ofNat 64 (counts.getD (field (Map.get o.pm 0 0) 15 13) 0), fmt := .i64,
        tag := BitVec.ofNat 16 o.nextTag } (reviveTag site o.nextTag s1)
    else s1
  if (o.kind = 0 || o.kind = 1) && 2 ^ 57 ≤ (Map.get o.pm 0 0).toNat then
    operError site 0x0A arm.tag (some { Token.zero with
      payload := Map.get o.pm 0 0, tag := BitVec.ofNat 16 arm.tag, ctx := BitVec.ofNat 3 (operCtx o) })
      (s2.onOper site (fun o => { o with state := 5, status := 3, sent := 0 }))
  else if (o.kind = 0 || o.kind = 1 || o.kind = 4) && n = 0 then
    let base := if o.kind = 4 then o.nextTag else tagBase o
    (emptyTokens base (tagLevel o) counts).foldl (fun s t => operForce site (toEmpty o) t s)
      (s2.onOper site (fun o => { o with state := 5 }))
  else issueNext site s2

/-- The next armed pass starts, when an engine slot is free where its kind takes one (R194, R358). -/
def startNext (site : Nat) (s : State) : State :=
  let o := s.oper site
  if o.state != 0 && o.state != 4 then s
  else match o.arms with
  | [] => s
  | arm :: rest =>
    if closed o then s.onOper site (fun o => { o with arms := [], state := 0 })
    else if takesSlot o.kind then
      (if slotFree s (servingUnit s site) then
        beginPass site arm { s.onOper site (fun o => { o with arms := rest }) with slots := Map.put s.slots site 0 }
       else s.onOper site (fun o => { o with state := 4 }))
    else beginPass site arm (s.onOper site (fun o => { o with arms := rest }))

/-- A pass is armed, or queued behind the running one (R194, R201). -/
def armPass (site : Nat) (arm : Arm) (s : State) : State :=
  if closed (s.oper site) then s
  else startNext site (s.onOper site (fun o => { o with arms := o.arms ++ [arm], discard := false }))

/-- The epoch that an operator's write belongs to. -/
def passOf (a : Access) : Nat := leNat (a.cmp.drop 8)

/-- A read, or a write not yet released, of an operator's abandoned pass; a hold is cancelled with it (R363). -/
def abandon (site : Nat) (s : State) : State :=
  let ids := (s.accesses.filter (fun a => a.oper == site && a.req.isNone && a.phase < 7 &&
    (a.kind == .read || a.phase == 1))).map Access.id
  { s.dropAccesses (fun a => ids.contains a.id) with holds := s.holds.filter (fun h => !ids.contains h.access) }

/-- A mask token of a group of which no item has been taken stays for the next pass (R204). -/
def groupMask (o : Oper) : Option Token := if o.pos % 64 = 0 || field (Map.get o.pm 0 5) 31 0 ≤ o.pos then o.mask else none

/-- The pass ends: slot and pins are released, the completion is sent, and the next armed pass starts (R195, R358,
R364). -/
def endPass (site : Nat) (complete : Bool) (s : State) : State :=
  let o := s.oper site
  let count := if o.kind = 4 then o.sent else if o.kind = 8 then 8 * o.done else o.done
  let s1 := unpin (2 * site) { s with slots := Map.del s.slots site }
  let s2 := s1.onOper site (fun o => { o with
    state := 0, mask := groupMask o, arrivals := [],
    nextTag := if o.kind = 4 then (o.expTag + o.sent) % 65536 else o.nextTag })
  let s3 := if complete then operTell site (toDone o) (completion count (streamId o) o.status o.tag) s2 else s2
  startNext site s3

/-- An element is done: performed or delivered. -/
def elementDone (site : Nat) (s : State) : State :=
  s.onOper site (fun o =>
    let d := o.done + 1
    { o with done := d, state := if (o.kind = 0 || o.kind = 1 || o.kind = 8) && d = o.sent && o.state = 2 then 5 else o.state })

/-! ### Commands -/

/-- An `arm` command (R194): its pass completes under the tag base (R195). REORDER, SIEVE, LOOKUP and COMPARE accept it
and nothing changes. -/
def armCommand (s : State) (n : Nat) : Option State :=
  match commandToken s n 0x10 with
  | none => none
  | some (fl, _) =>
    let s1 := takeFlight n fl s
    let o := s.oper fl.dst
    some (if o.kind ≤ 4 || o.kind = 8 then armPass fl.dst ⟨tagBase o, none⟩ s1 else s1)

/-- ARM (R194). -/
def execArm (n : Nat) (s : State) : Host.Outcome State Fault Refusal := .next (s.orHeld (armCommand s n))

/-- REORDER and SIEVE forget what they hold (R194). -/
def forget (o : Oper) : Oper :=
  if o.kind = 7 then { o with held := [], expTag := field (Map.get o.pm 0 0) 31 16, expSeq := 0 }
  else { o with sieve := [] }

/-- A rewound pass gives up its slot and its pins, and takes a slot again (R358, R363, R364). -/
def freshSlot (site : Nat) (s : State) : State :=
  let s1 := unpin (2 * site) s
  if (Map.find s1.slots site).isSome then { s1 with slots := Map.put s1.slots site 0 } else s1

/-- A `rewind` command (R194): the pass starts again at element 0. One of a zero count, whose completion is still due, has no element
to emit again: the model sends its EMPTY tokens, and a LOOP's trip token, once (DESIGN CHOICE, log entry 105). -/
def rewindCommand (s : State) (n : Nat) : Option State :=
  match commandToken s n 0x11 with
  | none => none
  | some (fl, _) =>
    let site := fl.dst
    let s1 := takeFlight n fl s
    let o := s1.oper site
    some (if o.kind = 7 || o.kind = 9 then s1.onOper site forget
      else if o.state = 2 || o.state = 3 || o.state = 5 then
        let s2 := (freshSlot site (abandon site s1)).onOper site (fun o => { o with
          epoch := o.epoch + 1, state := 2, done := 0, pos := 0, status := 0, arrivals := [], mask := groupMask o,
          sent := if o.kind = 0 || o.kind = 1 || o.kind = 4 then total o.counts
            else if o.kind = 8 then 4 * field (Map.get o.pm 0 0) 31 0 else 0,
          held := [], held2 := [], expSeq := 0, discard := false })
        issueNext site (if (s2.oper site).sent = 0 && (o.kind = 0 || o.kind = 1 || o.kind = 4) then s2.onOper site (fun o => { o with state := 5 })
          else s2)
      else s1.onOper site (fun o => { o with discard := false }))

/-- REWIND (R194). -/
def execRewind (n : Nat) (s : State) : Host.Outcome State Fault Refusal := .next (s.orHeld (rewindCommand s n))

/-- A transfer that ends before its page's entries are written leaves the page where it was (R366). -/
def dropMigration (ids : List Nat) (s : State) : State :=
  { s with migrations := s.migrations.filter (fun g => !(ids.contains g.oper)) }

/-- The completion of a transfer goes to a target, as the answer to its command (R32); one to a place that does not exist is
misdirected (R27). Into its PORT's region it is an input (R404), and its flight carries the tag of its command. Its count is that of the
bytes moved, or of a drive's blocks: R195 speaks of elements alone (DESIGN CHOICE, log entry 106). -/
def tellTransfer (site : Nat) (g : Target) (m : Transfer) (status : Nat) (s : State) : State :=
  let o := s.oper site
  let t := completion m.pos m.stream status m.tag
  let u := operToken o g t
  if o.region != 0 && placeExists (Token.site u) u.station.toNat && s.regionAt (Token.site u) u.ctx.toNat == some (o.region - 1) then
    s.post ⟨site, m.cmd + 1, .response, Site.key (Token.site u), Token.lane u, .token u, o.region, true, false⟩
  else putOut site ⟨g, t, false, true⟩ s

/-- A transfer of a PORT completes (R195, R215): to the descriptor's done target, or where that is not valid to the PORT's own
(DESIGN CHOICE, log entry 106), under its tag and stream. Its pins are released (R364). -/
def transferDone (site : Nat) (m : Transfer) (status : Nat) (s : State) : State :=
  let o := s.oper site
  let s1 := (unpin (2 * m.id + 1) (if m.phase = 3 then s else dropMigration [m.id] s)).onOper site (fun o => { o with
    moves := o.moves.filter (fun x => x.id != m.id) })
  let g := targetOf (field m.done 31 0)
  if g.valid then tellTransfer site g m status s1
  else if (toDone o).valid then tellTransfer site (toDone o) m status s1
  else s1

/-- A flushed PORT's request that a translation fault holds goes with its hold (R363): it is not performed, its station's place is
free again (R158), and its ordering domain goes on. -/
def dropHeld (site : Nat) (s : State) : State :=
  let gone := s.accesses.filter (fun a => a.oper == site && a.req.isSome && s.holds.any (fun h => h.access == a.id))
  gone.foldl (fun s a =>
    let s1 : State := { unpin a.pinKey (s.dropAccesses (fun x => x.id == a.id)) with holds := s.holds.filter (fun h => h.access != a.id) }
    match a.req with
    | some q => (if holdsPlace q then freeAt q.site (stKey q.token.ctx.toNat q.station) s1 else s1).onOper site (fun o => { o with
        doms := o.doms.map (fun kd => if kd.1 == q.region && (q.op == 0x209 || q.op == 0x20A) then (kd.1, { kd.2 with busy := false }) else kd) })
    | none => s1) s

/-- A `flush` command (R194): the pass ends at once, with status 1; a PORT's transfers end so, and the holds of its request streams
are cancelled (R363). -/
def flushCommand (s : State) (n : Nat) : Option State :=
  match commandToken s n 0x12 with
  | none => none
  | some (fl, _) =>
    let site := fl.dst
    let s1 := takeFlight n fl s
    let o := s1.oper site
    some (if o.kind = 7 || o.kind = 9 then s1.onOper site forget
      else if o.kind = 11 then o.moves.foldl (fun s m => transferDone site m 1 s) (dropHeld site (abandon site s1))
      else if o.state = 2 || o.state = 3 || o.state = 5 then
        endPass site true ((abandon site s1).onOper site (fun o => { o with
          status := 1, epoch := o.epoch + 1, held := [], held2 := [],
          sent := if o.kind = 4 then min o.sent o.done else o.sent }))
      else if o.state = 4 then match o.arms with
        | arm :: rest => endPass site true (s1.onOper site (fun o => { o with arms := rest, status := 1, done := 0, tag := arm.tag }))
        | [] => s1
      else s1)

/-- FLUSH (R194). -/
def execFlush (n : Nat) (s : State) : Host.Outcome State Fault Refusal := .next (s.orHeld (flushCommand s n))

/-- A running operator waits for input or credit (R194): for data, a mask or admission, with nothing of its own under way, or
for tokens that cannot leave. -/
def passWaits (s : State) (site : Nat) : Bool :=
  let o := s.oper site
  let idle := !(s.accesses.any (fun a => a.oper == site && a.req.isNone && a.phase < 7))
  !o.out.isEmpty || (o.state == 2 && idle &&
    (if o.kind = 2 || o.kind = 3 then o.sent < field (Map.get o.pm 0 5) 31 0
     else if o.kind = 8 then o.done < o.sent else o.pos < o.sent))

/-- The state that a status token shows (R194): 0 idle, 1 armed, 2 running, 3 held, 4 waiting, for an engine slot too (R358).
Armed is a pass that has taken, requested and emitted no element yet (DEDUCED, log entry 92). -/
def statusState (s : State) (site : Nat) : Nat :=
  let o := s.oper site
  if o.state = 3 || o.state = 4 then o.state
  else if o.kind = 6 then (if o.held.isEmpty && !slotRoom s site && s.net.any (fun f => f.dst == site) then 4 else 0)
  else if o.state = 0 then (if o.arms.isEmpty then 0 else 1)
  else if o.state = 2 && o.pos = 0 && o.done = 0 && o.out.isEmpty then 1
  else if passWaits s site then 4 else 2

/-- The payload of a status token (R194). -/
def statusPayload (s : State) (site : Nat) : Word :=
  let o := s.oper site
  BitVec.ofNat 64 ((if o.kind = 8 then 8 * o.done else o.done) % 2 ^ 32 + o.passNo % 65536 * 2 ^ 32 + statusState s site * 2 ^ 48)

/-- A `status` command (R194): a status token goes to the reply target. That of a PORT or GATHER answers a request (R32). -/
def statusCommand (s : State) (n : Nat) : Option State :=
  match commandToken s n 0x13 with
  | none => none
  | some (fl, t) =>
    let o := s.oper fl.dst
    some (putOut fl.dst ⟨targetOf (field t.payload 31 0), { Token.zero with payload := statusPayload s fl.dst, fmt := .i64 },
      false, o.kind == 2 || o.kind == 11⟩ (takeFlight n fl s))

/-- STATUS (R194). -/
def execStatus (n : Nat) (s : State) : Host.Outcome State Fault Refusal := .next (s.orSelf (statusCommand s n))

/-! ### GATE -/

/-- A GATE's mode (R207). -/
def gateMode (o : Oper) : Nat := field (Map.get o.pm 0 0) 1 0

/-- Held tokens that an opening lets go: those of the gate's mode (R207). -/
def gateLeaves (o : Oper) : List Token :=
  if gateMode o = 0 then (if o.isOpen then o.held else [])
  else if gateMode o = 1 then o.held.filter (fun t => o.opened.contains t.tag.toNat)
  else o.held.take o.grants

/-- The held tokens that may leave do, in arrival order (R207). -/
def gateRelease (site : Nat) (s : State) : State :=
  let o := s.oper site
  let out := gateLeaves o
  out.foldl (fun s t => operForce site (toA o) t s) (s.onOper site (fun o => { o with
    held := if gateMode o = 2 then o.held.drop o.grants else o.held.filter (fun t => !out.contains t)
    grants := o.grants - out.length }))

/-- An opening, of a tag (R207). -/
def gateOpening (site tag : Nat) (s : State) : State :=
  gateRelease site (s.onOper site (fun o =>
    if gateMode o = 0 then { o with isOpen := true }
    else if gateMode o = 1 then { o with opened := (tag :: o.opened.filter (fun t => t != tag)).take 64 }
    else { o with grants := o.grants + field (Map.get o.pm 0 0) 63 32 }))

/-- An `open` command (R194, R207). -/
def openCommand (s : State) (n : Nat) : Option State :=
  match commandToken s n 0x14 with
  | none => none
  | some (fl, t) => some (gateOpening fl.dst t.tag.toNat (takeFlight n fl s))

/-- OPEN (R207). -/
def execGateOpen (n : Nat) (s : State) : Host.Outcome State Fault Refusal := .next (s.orSelf (openCommand s n))

/-- A `close` command closes an open gate (R194): no tag stays opened, and no grant is left (DESIGN CHOICE, log entry 107: R207 tells of
a close in mode 0 alone). -/
def closeCommand (s : State) (n : Nat) : Option State :=
  match commandToken s n 0x15 with
  | none => none
  | some (fl, _) => some ((takeFlight n fl s).onOper fl.dst (fun o => { o with isOpen := false, opened := [], grants := 0 }))

/-- CLOSE (R194). -/
def execGateClose (n : Nat) (s : State) : Host.Outcome State Fault Refusal := .next (s.orSelf (closeCommand s n))

/-- A data token at a GATE passes, is held, or waits in the router (R207). -/
def gateToken (s : State) (n : Nat) : Option State :=
  match dataToken s n 5 .l with
  | none => none
  | some (fl, t) =>
    let site := fl.dst
    let o := s.oper site
    let depth := field (Map.get o.pm 0 1) 6 0
    let passes := (gateMode o == 0 && o.isOpen) || (gateMode o == 1 && o.opened.contains t.tag.toNat) ||
      (gateMode o == 2 && 0 < o.grants)
    if !passes && depth ≤ o.held.length then none
    else some (gateRelease site ((takeFlight n fl s).onOper site (fun o => { o with held := o.held ++ [t] })))

/-- GATE_DATA (R207). -/
def execGateData (n : Nat) (s : State) : Host.Outcome State Fault Refusal := .next (s.orSelf (gateToken s n))

/-- A completion at a GATE opens it with status 0, and goes on to `done` otherwise (R207). -/
def gateComplete (s : State) (n : Nat) : Option State :=
  match commandToken s n 0x03 with
  | none => none
  | some (fl, t) =>
    let s1 := takeFlight n fl s
    some (if field t.payload 55 48 = 0 then gateOpening fl.dst t.tag.toNat s1
      else operTell fl.dst (toDone (s.oper fl.dst)) t s1)

/-- GATE_COMPLETION (R207). -/
def execGateCompletion (n : Nat) (s : State) : Host.Outcome State Fault Refusal := .next (s.orSelf (gateComplete s n))

/-! ### Bound and base tokens -/

/-- A bound token (R201, R206). -/
def bound (s : State) (n : Nat) : Option State :=
  match commandToken s n 0x04 with
  | none => none
  | some (fl, t) =>
    let site := fl.dst
    let o := s.oper site
    let counts := (nextCounts o).set (field t.payload 34 32) (field t.payload 31 0)
    let s1 := takeFlight n fl s
    if o.kind = 4 then
      let s2 := s1.onOper site (fun o => { o with nextCounts := counts })
      some (if o.state = 0 && o.arms.isEmpty then armPass site ⟨t.tag.toNat, none⟩ s2 else s2)
    else if inExtent o counts then some (s1.onOper site (fun o => { o with nextCounts := counts }))
    else some (operError site 0x07 t.tag.toNat (some t) s1)

/-- BOUND_TOKEN (R201). -/
def execBoundToken (n : Nat) (s : State) : Host.Outcome State Fault Refusal := .next (s.orHeld (bound s n))

/-- A base token on a LOAD (R201); a poisoned one is no address (R57). -/
def baseToken (s : State) (n : Nat) : Option State :=
  match dataToken s n 0 .l with
  | none => none
  | some (fl, t) =>
    let s1 := takeFlight n fl s
    some (if t.poison then operError fl.dst 0x03 t.tag.toNat none s1 else armPass fl.dst ⟨t.tag.toNat, some t.payload⟩ s1)

/-- LOAD_BASE_TOKEN (R201). -/
def execLoadBaseToken (n : Nat) (s : State) : Host.Outcome State Fault Refusal := .next (s.orHeld (baseToken s n))

/-! ### Returns -/

/-- A finished access is kept for a replay of its wave, in a protected region, or forgotten (R282, R403). -/
def keepAccess (a : Access) (s : State) : State :=
  let r := s.region (a.region - 1)
  if a.region = 0 || r.unprot then s.dropAccesses (fun x => x.id == a.id)
  else s.onAccess a.id (fun x => { x with phase := 8, before := [r.wave] })

/-- The accesses of one element of an operator, by their place in it. -/
def elementParts (s : State) (a : Access) : List Access :=
  s.accesses.filter (fun x => x.oper == a.oper && x.req.isNone && x.kind == a.kind && x.op == a.op && x.elem == a.elem && x.phase < 7)

/-- Every part of an element has been performed. -/
def partsReady (ps : List Access) : Bool := !ps.isEmpty && ps.all (fun x => x.phase == 5)

/-- The tokens of a GATHER block (R204). -/
def blockTokens (o : Oper) (a : Access) (ps : List Access) : List Token :=
  let size := itemSize o
  let bytes := (ps.map Access.bytes).flatten
  let n := if size < 8 then 1 else size / 8
  (List.range n).map (fun i =>
    let bad := ps.any (fun p => p.poison && p.part ≤ 8 * i && 8 * i < p.part + p.size)
    let last := i + 1 == n
    { Token.zero with
      payload := BitVec.ofNat 64 (leNat ((bytes.drop (8 * i)).take (min 8 size)))
      fmt := Fmt.ofCode (BitVec.ofNat 3 (field (Map.get o.pm 0 1) 4 2))
      poison := bad || a.op == 2
      ends := if last then 3 else if i % 8 == 7 then 1 else 0
      tag := BitVec.ofNat 16 a.tag
      seq := BitVec.ofNat 6 (i / 8 % 64) })

/-- Data for an element returns (R201, R204): a LOAD's elements leave in emission order, a GATHER's items in any. -/
def elementReturn (s : State) (n : Nat) : Option State :=
  match s.access n with
  | none => none
  | some a =>
    let site := a.oper
    let o := s.oper site
    let ps := elementParts s a
    if a.req.isSome || a.kind != .read || !partsReady ps || !operAwake s site then none
    else if o.kind = 0 && a.elem = o.done && (o.state = 2 || o.state = 3) then
      let ix := indices o.counts a.elem
      let bad := ps.any Access.poison
      let t : Token := { Token.zero with
        payload := BitVec.ofNat 64 (leNat (ps.map Access.bytes).flatten)
        fmt := Fmt.ofCode (BitVec.ofNat 3 (field (Map.get o.pm 0 1) 4 2))
        poison := bad
        ends := BitVec.ofNat 4 (patternEnds ix o.counts)
        tag := BitVec.ofNat 16 a.tag
        seq := BitVec.ofNat 6 a.seq }
      (operSend site (toA o) t s).map (fun s1 =>
        issueNext site (elementDone site (ps.foldl (fun s p => keepAccess p s) (if bad then logMemory site a.tag s1 else s1))))
    else if o.kind = 2 && a.op != 1 then
      let ts := blockTokens o a ps
      if ts.all (fun t => operCan site (toA o) t s) then
        let s1 := ts.foldl (fun s t => operForce site (toA o) t s) s
        let s2 := if ps.any Access.poison then logMemory site a.tag s1 else s1
        some (issueNext site (itemDone site (elementDone site (ps.foldl (fun s p => keepAccess p s) s2))))
      else none
    else none

/-- ELEMENT_DATA_RETURN (R201). -/
def execElementDataReturn (n : Nat) (s : State) : Host.Outcome State Fault Refusal := .next (s.orHeld (elementReturn s n))

/-- A pass ends: every element is done, or a STORE or SCATTER can receive no more data (R195, R336). -/
def passEnds (s : State) (x : Site) : Option State :=
  let site := Site.key x
  let o := s.oper site
  if !operAwake s site then none
  else if o.state = 5 then some (endPass site true s)
  else if (o.kind = 1 || o.kind = 3) && o.state = 2 && closed o &&
    !(s.accesses.any (fun a => a.oper == site && a.req.isNone && a.phase < 8)) then
    some (endPass site true (s.onOper site (fun o => { o with status := 1 })))
  else none

/-- PASS_COMPLETION (R195). -/
def execPassCompletion (x : Site) (s : State) : Host.Outcome State Fault Refusal := .next (s.orHeld (passEnds s x))

/-! ### STORE -/

/-- The element that a STORE's token names (R202): the `c`-th arrival of its (tag, seq). Where every level is a tag level, its tag
alone names it, and a second token of the tag names it again. A pattern without tag levels takes
tokens of any tag: R310's store has them (DEDUCED, log entry 88). -/
def storeElement (o : Oper) (t : Token) (c : Nat) : Option (List Nat) :=
  let lv := tagLevel o
  let tags := total (o.counts.drop lv)
  let d := if (o.counts.drop lv).isEmpty then 0 else (t.tag.toNat + 65536 - tagBase o) % 65536
  let hasSeq := field (Map.get o.pm 0 1) 10 8 != 7
  let sl := field (Map.get o.pm 0 1) 10 8
  let lower := if hasSeq then total (o.counts.take sl) else 1
  let width := if hasSeq then o.counts.getD sl 1 else 1
  let ys := if hasSeq then (if t.seq.toNat < width then (width - t.seq.toNat + 63) / 64 else 0) else (if t.seq = 0 then 1 else 0)
  let low := c % lower
  let y := c / lower % (max 1 ys)
  let copies := (tags - d + 65535) / 65536
  let m := if hasSeq then c / (lower * max 1 ys) else c % (max 1 copies)
  let j := d + 65536 * m
  if ys = 0 || tags ≤ j || lower = 0 then none
  else some ((if hasSeq then indices (o.counts.take sl) low ++ [t.seq.toNat + 64 * y] else []) ++ indices (o.counts.drop lv) j)

/-- A data token at a STORE (R202): written at the element that it names, or held back while no pass takes it. -/
def storeToken (s : State) (n : Nat) : Option State :=
  match dataToken s n 1 .l with
  | none => none
  | some (fl, t) =>
    let site := fl.dst
    let o := s.oper site
    let zero := o.counts.contains 0
    if !(o.state = 2 && (o.pos < o.sent) || (o.state = 5 && zero)) || !operMay s site then none
    else if !accessRoom s site (elemSize o) then none
    else
      let s1 := takeFlight n fl (numberSlot site s)
      let key := t.tag.toNat * 64 + t.seq.toNat
      let c := Map.get o.arrivals 0 key
      match (if zero then none else storeElement o t c) with
      | none => some (operError site 0x07 t.tag.toNat (some t) s1)
      | some ix =>
        let a := elementAddr o ix
        if !inSpace a (elemSize o) then
          some (operError site 0x0B t.tag.toNat (some t) (s1.onOper site (fun o => { o with
            status := 3, sent := o.pos, state := if o.done = o.pos then 5 else o.state })))
        else
          let s2 := sinkReport site t (s1.onOper site (fun o => { o with
            arrivals := Map.put o.arrivals key (c + 1), pos := o.pos + 1 }))
          some (operAccess site .write 0 (mixed ix o.counts) t.tag.toNat t.seq.toNat a.toNat (elemSize o)
            (leBytes (elemSize o) t.payload.toNat) (leBytes 8 t.payload.toNat ++ leBytes 4 o.epoch) (some t) s2)

/-- STORE_DATA_TOKEN (R202). -/
def execStoreDataToken (n : Nat) (s : State) : Host.Outcome State Fault Refusal := .next (s.orHeld (storeToken s n))

/-! ### GATHER and SCATTER -/

/-- An item with its index or address: requested, or delivered as R204 gives; `marked`: under a poisoned mask. -/
def fetchItem (site k tag seq : Nat) (x : Word) (poison marked : Bool) (tok : Option Token) (s : State) : State :=
  if poison then itemDone site (poisonItem site tag (operError site 0x03 tag none s))
  else match itemAddr (s.oper site) x with
    | .error code => itemFault site code tag x tok s
    | .ok a => operAccess site .read (if marked then 2 else 0) k tag seq a (itemSize (s.oper site)) [] (leBytes 8 x.toNat) tok s

/-- An item of a token (R204): skipped where its mask bit is 0, or fetched. -/
def takeItem (site k : Nat) (t : Token) (s : State) : State :=
  let o := s.oper site
  let mask := o.mask.getD .zero
  let masked := bit (Map.get o.pm 0 1) 5
  if masked && !mask.poison && !(bit mask.payload (k % 64)) then itemDone site s
  else fetchItem site k t.tag.toNat t.seq.toNat t.payload t.poison (masked && mask.poison) (some t) s

/-- The index of a mode 2 item has been read: the item is taken, and the next index requested (R203, R358). -/
def indexRead (a : Access) (s : State) : State :=
  let site := a.oper
  let o := s.oper site
  let ps := elementParts s a
  if !partsReady ps then s
  else
    let size := 2 ^ field (Map.get o.pm 0 6) 1 0
    let i := signed (8 * size) (leNat (ps.map Access.bytes).flatten)
    let s1 := ps.foldl (fun s p => keepAccess p s) s
    issueNext site (fetchItem site a.elem a.tag 0 (BitVec.ofInt 64 i) (ps.any Access.poison) (a.cmp == [1]) none s1)

/-- An index or address token at a GATHER (R203, R204); in mode 2 it starts a pass. An arm that it makes waits where the tender has no
free slot (R358). -/
def gatherToken (s : State) (n : Nat) : Option State :=
  match dataToken s n 2 .l with
  | none => none
  | some (fl, t) =>
    let site := fl.dst
    if itemMode (s.oper site) = 2 then
      let s1 := takeFlight n fl s
      some (if t.poison then operError site 0x03 t.tag.toNat none s1 else armPass site ⟨t.tag.toNat, some t.payload⟩ s1)
    else
      let s0 := if (s.oper site).state = 0 then armPass site ⟨tagBase (s.oper site), none⟩ s else s
      let o := s0.oper site
      if o.state = 4 && (s.oper site).state = 0 then some s0
      else if !(o.state = 2 || o.state = 3) || field (Map.get o.pm 0 5) 31 0 ≤ o.pos || 64 ≤ itemsOut s0 site || !maskReady o || !operMay s0 site ||
        !accessRoom s0 site (itemSize o) then none
      else
        let s1 := (takeFlight n fl (numberSlot site s0)).onOper site (fun o => { o with pos := o.pos + 1 })
        some (dropMask site o.pos (takeItem site o.pos t s1))

/-- GATHER_ITEM (R203). -/
def execGatherItem (n : Nat) (s : State) : Host.Outcome State Fault Refusal := .next (s.orHeld (gatherToken s n))

/-- A mask token is consumed for the next group of items (R204); a poisoned one is reported and masks nothing. -/
def maskToken (s : State) (n : Nat) : Option State :=
  match dataToken s n 2 .p with
  | none => none
  | some (fl, t) =>
    let site := fl.dst
    if (s.oper site).mask.isSome then none
    else
      let s1 := (takeFlight n fl s).onOper site (fun o => { o with mask := some t })
      some (issueNext site (if t.poison then operError site 0x03 t.tag.toNat none s1 else s1))

/-- GATHER_MASK (R204). -/
def execGatherMask (n : Nat) (s : State) : Host.Outcome State Fault Refusal := .next (s.orHeld (maskToken s n))

/-- A matched pair of a SCATTER writes its element (R205). -/
def scatterPair (site : Nat) (l r : Token) (s : State) : State :=
  let o := s.oper site
  let s1 := (numberSlot site s).onOper site (fun o => { o with pos := o.pos + 1 })
  if l.poison then itemDone site (operError site 0x03 l.tag.toNat none s1)
  else match itemAddr o l.payload with
    | .error code => itemFault site code l.tag.toNat l.payload (some l) s1
    | .ok a => operAccess site .write 0 o.pos l.tag.toNat l.seq.toNat a (itemSize o) (leBytes (itemSize o) r.payload.toNat)
        (leBytes 8 l.payload.toNat ++ leBytes 4 o.epoch) (some l) (sinkReport site r s1)

/-- A token on L or R of a SCATTER is matched with its twin of the same tag and seq (R205). -/
def scatterToken (s : State) (n : Nat) : Option State :=
  match operFlight s n with
  | none => none
  | some (fl, t) =>
    let site := fl.dst
    let o := s.oper site
    if o.kind != 3 || t.port == .c || o.state != 2 || field (Map.get o.pm 0 5) 31 0 ≤ o.pos || !operMay s site ||
      !accessRoom s site (itemSize o) then none
    else
      let same := fun (u : Token) => u.tag == t.tag && u.seq == t.seq
      let mine := if t.port == .l then o.held else o.held2
      let other := if t.port == .l then o.held2 else o.held
      match other.find? same with
      | some u =>
        let s1 := (takeFlight n fl s).onOper site (fun o =>
          if t.port == .l then { o with held2 := o.held2.erase u } else { o with held := o.held.erase u })
        some (if t.port == .l then scatterPair site t u s1 else scatterPair site u t s1)
      | none =>
        if mine.any same then none
        else some ((takeFlight n fl s).onOper site (fun o =>
          if t.port == .l then { o with held := o.held ++ [t] } else { o with held2 := o.held2 ++ [t] }))

/-- SCATTER_FIRING (R205). -/
def execScatterFiring (n : Nat) (s : State) : Host.Outcome State Fault Refusal := .next (s.orHeld (scatterToken s n))

/-! ### LOOP -/

/-- The payload of iteration `ix` (R206). -/
def loopPayload (ix : List Nat) : Word :=
  BitVec.ofNat 64 (sumNat ((List.range 4).map (fun k => ix.getD k 0 % 65536 * 2 ^ (16 * k))))

/-- The next iteration of a LOOP's pass leaves once its tag is admitted (R206, R228, R230). -/
def loopNext (s0 : State) (x : Site) : Option State :=
  let site := Site.key x
  let k := (s0.oper site).region - 1
  let s := if (s0.oper site).region = 0 then s0 else retireTags s0 k
  let o := s.oper site
  if o.kind != 4 || o.state != 2 || o.sent ≤ o.pos || !o.out.isEmpty || !operMay s site then none
  else
    let ix := indices o.counts o.pos
    let tag := loopTag o
    let m := member site 0
    let t : Token := { Token.zero with
      payload := loopPayload ix, fmt := .i64, tag := BitVec.ofNat 16 tag, ends := BitVec.ofNat 4 (patternEnds ix o.counts) }
    let go := fun (s : State) => some ((operForce site (toA o) t s).onOper site (fun o => { o with
      pos := o.pos + 1, done := o.done + 1, state := if o.pos + 1 = o.sent then 5 else o.state }))
    if !(toA o).valid || o.region = 0 then go s
    else if !cabooseRoom s (some k) 1 then none
    else match (s.region k).domainOf m with
      | none => go s
      | some i =>
        if ((s.region k).domains.getD i Domain.none).isLive tag then go s
        else if canAdmit s k i (some m) tag && isNext s k i tag m then go (admitTag k i (some m) tag s)
        else none

/-- LOOP_ITERATION (R230). -/
def execLoopIteration (x : Site) (s : State) : Host.Outcome State Fault Refusal := .next (s.orSelf (loopNext s x))

/-! ### LOOKUP -/

/-- A position at a LOOKUP (R208): its table entry is read, or the position is out of range. The first of those that it holds takes
an engine slot, or waits for one (R358; log entry 80). One whose entry would cross 2^57 is
delivered as R204 gives for an out-of-range item (R352). -/
def lookupToken (s : State) (n : Nat) : Option State :=
  match dataToken s n 6 .l with
  | none => none
  | some (fl, t) =>
    let site := fl.dst
    let o := s.oper site
    let shift := field (Map.get o.pm 0 1) 37 32
    let x := t.payload.toNat / 2 ^ shift
    let a := ((Map.get o.pm 0 0).toNat : Int) + ((8 * x : Nat) : Int)
    let out := fun (code : Nat) => operError site code t.tag.toNat (some t) (operForce site (toA o)
      { t with payload := 0, poison := true, fmt := .i64, ends := if code = 0x0B then 3 else t.ends } (takeFlight n fl s))
    if !operMay s site || !accessRoom s site 8 then none
    else if t.poison then some (operError site 0x03 t.tag.toNat none (takeFlight n fl s))
    else if field (Map.get o.pm 0 1) 31 0 ≤ x then (if o.held.isEmpty then some (out 0x07) else none)
    else if !inSpace a 8 then (if o.held.isEmpty then some (out 0x0B) else none)
    else if !slotRoom s site then none
    else some (operAccess site .read 0 o.pos t.tag.toNat t.seq.toNat a.toNat 8 [] (leBytes 8 t.payload.toNat) (some t)
      ((takeFlight n fl (claimSlot site s)).onOper site (fun o => { o with held := o.held ++ [t], pos := o.pos + 1 })))

/-- LOOKUP_POSITION (R208). -/
def execLookupPosition (n : Nat) (s : State) : Host.Outcome State Fault Refusal := .next (s.orHeld (lookupToken s n))

/-- A table entry returns (R208): an address to `to`, or a T4 descriptor to `to2`; outputs leave in input order. The slot
and the pins of a LOOKUP are released when it holds no position (R358, R364; DEDUCED, log entry 80). -/
def lookupReturn (s : State) (n : Nat) : Option State :=
  match s.access n with
  | none => none
  | some a =>
    let site := a.oper
    let o := s.oper site
    let ps := elementParts s a
    match o.held with
    | [] => none
    | t :: rest =>
      if o.kind != 6 || a.elem != o.done || !partsReady ps || !operAwake s site then none
      else
        let e := leNat (ps.map Access.bytes).flatten
        let bad := ps.any Access.poison
        let failed := a.op == 3
        let shift := field (Map.get o.pm 0 1) 37 32
        let v := if e / 2 ^ 63 = 0 then e + t.payload.toNat % 2 ^ shift * field (Map.get o.pm 0 2) 31 0 else e % 2 ^ 63
        let g := if e / 2 ^ 63 = 0 then toA o else toB o
        (operSend site (if failed then toA o else g) { t with
            payload := if failed then 0 else BitVec.ofNat 64 v, fmt := .i64, poison := bad || failed } s).map (fun s1 =>
          let s2 := (ps.foldl (fun s p => keepAccess p s) (if bad then logMemory site a.tag s1 else s1)).onOper site (fun o => { o with
            held := rest, done := o.done + 1 })
          if rest.isEmpty then unpin (2 * site) { s2 with slots := Map.del s2.slots site } else s2)

/-- LOOKUP_ENTRY_RETURN (R208). -/
def execLookupEntryReturn (n : Nat) (s : State) : Host.Outcome State Fault Refusal := .next (s.orSelf (lookupReturn s n))

/-! ### REORDER -/

/-- A token is next in a REORDER's order (R209). -/
def reorderNext (o : Oper) (t : Token) : Bool :=
  t.tag.toNat == o.expTag && (!(bit (Map.get o.pm 0 0) 0) || t.seq.toNat == o.expSeq)

/-- The expectation after a token has left (R209). -/
def reorderStep (o : Oper) (t : Token) : Oper :=
  if bit (Map.get o.pm 0 0) 0 && !(t.ends.getLsbD 0) then { o with expSeq := (o.expSeq + 1) % 64 }
  else { o with expTag := (o.expTag + 1) % 65536, expSeq := 0 }

/-- Held tokens that are next leave, one after the other (R209). -/
def reorderDrain (site : Nat) : Nat → State → State
  | 0, s => s
  | n + 1, s =>
    let o := s.oper site
    match o.held.find? (reorderNext o) with
    | none => s
    | some t => reorderDrain site n (operForce site (toA o) t
        (s.onOper site (fun o => reorderStep { o with held := o.held.erase t } t)))

/-- A token at a REORDER leaves in order, is held, or waits in the router (R209). -/
def reorderTake (s : State) (n : Nat) : Option State :=
  match dataToken s n 7 .l with
  | none => none
  | some (fl, t) =>
    let site := fl.dst
    let o := s.oper site
    if reorderNext o t then
      if operCan site (toA o) t s then
        some (reorderDrain site 64 (operForce site (toA o) t
          ((takeFlight n fl s).onOper site (fun o => reorderStep o t))))
      else none
    else if field (Map.get o.pm 0 1) 6 0 ≤ o.held.length then none
    else some ((takeFlight n fl s).onOper site (fun o => { o with
      held := o.held ++ [t] }))

/-- REORDER_TOKEN (R209). -/
def execReorderToken (n : Nat) (s : State) : Host.Outcome State Fault Refusal := .next (s.orSelf (reorderTake s n))

/-! ### DECODE -/

/-- The bits of an XF8 stream: most significant bit of each byte first (R66). -/
def streamBits (bs : List Byte) : List Bool :=
  (bs.map (fun (b : Byte) => (List.range 8).map (fun i => b.getLsbD (7 - i)))).flatten

/-- The first `n` bits as a number, most significant first, and the rest; none when there are fewer. -/
def takeBits : Nat → Nat → List Bool → Option (Nat × List Bool)
  | 0, v, bs => some (v, bs)
  | _ + 1, _, [] => none
  | n + 1, v, b :: bs => takeBits n (2 * v + one b) bs

/-- A prefix code of a table (R68): its bits, and the delta; `none` opens the escape of the table. -/
def prefixCodes (table : Nat) : List (List Bool × Option Nat) :=
  if table = 0 then
    [([false], some 0), ([true, false], some 1), ([true, true, false], some 2), ([true, true, true, false], some 3),
     ([true, true, true, true], none)]
  else if table = 1 then
    [([false, false], some 0), ([false, true], some 1), ([true, false, false], some 2), ([true, false, true], some 3),
     ([true, true, false, false], some 4), ([true, true, false, true], some 5), ([true, true, true], none)]
  else if table = 2 then
    [([false, false, false], some 0), ([false, false, true], some 1), ([false, true, false], some 2),
     ([false, true, true], some 3), ([true, false, false], some 4), ([true, false, true], some 5),
     ([true, true, false], some 6), ([true, true, true], none)]
  else [([false], some 0), ([true], none)]

/-- The delta that a table's escape value gives; none for an unused code (R68, R70). -/
def escapeDelta (table x : Nat) : Option Nat :=
  if table = 0 then (if x ≤ 11 then some (x + 4) else none)
  else if table = 1 then (if x ≤ 9 then some (x + 6) else none)
  else if table = 2 then (if x ≤ 8 then some (x + 7) else none)
  else if x = 0 then none else some x

/-- What reading a block gives: more bits wanted, a malformed block, or a value and the bits after it. -/
inductive Read (α : Type) where
  | more
  | bad
  | got (x : α) (rest : List Bool)
  deriving DecidableEq, Repr

/-- A delta (R68). -/
def readDelta (table : Nat) (bs : List Bool) : Read Nat :=
  match (prefixCodes table).find? (fun c => c.1.isPrefixOf bs) with
  | some (code, some d) => .got d (bs.drop code.length)
  | some (code, none) => match takeBits 4 0 (bs.drop code.length) with
    | none => .more
    | some (x, rest) => match escapeDelta table x with
      | some d => .got d rest
      | none => .bad
  | none => .more

/-- Elements of a coded block (R67). -/
def readElements (table base : Nat) : Nat → List Bool → Read (List Nat)
  | 0, bs => .got [] bs
  | n + 1, bs =>
    match takeBits 1 0 bs with
    | none => .more
    | some (sign, b1) => match readDelta table b1 with
      | .more => .more
      | .bad => .bad
      | .got d b2 =>
        if base < d then .bad
        else match takeBits 3 0 b2 with
          | none => .more
          | some (f, b3) => match readElements table base n b3 with
            | .got xs rest => .got ((sign * 128 + (base - d) * 8 + f) :: xs) rest
            | .more => .more
            | .bad => .bad

/-- Raw elements (R67). -/
def readRaw : Nat → List Bool → Read (List Nat)
  | 0, bs => .got [] bs
  | n + 1, bs => match takeBits 8 0 bs with
    | none => .more
    | some (x, rest) => match readRaw n rest with
      | .got xs r => .got (x :: xs) r
      | .more => .more
      | .bad => .bad

/-- One XF8 block from a byte boundary (R66 to R70): its 32 values. -/
def readBlock (bs : List Bool) : Read (List Nat) :=
  match takeBits 16 0 bs with
  | none => .more
  | some (h, rest) =>
    let base := h / 2 ^ 12
    let table := h / 2 ^ 10 % 4
    if h % 2 ^ 9 != 0 then .bad
    else if h / 2 ^ 9 % 2 = 1 then (if base != 0 || table != 0 then .bad else readRaw 32 rest)
    else readElements table base 32 rest

/-- Output token `k` of a DECODE pass (R210). -/
def decodedToken (o : Oper) (k : Nat) (xs : List Nat) (poison : Bool) : Token :=
  { Token.zero with
    payload := packLanes .e4m3 xs, fmt := .e4m3, poison := poison, tag := BitVec.ofNat 16 (tagBase o + k / 512),
    seq := BitVec.ofNat 6 (k / 8 % 64), ends := if k % 8 = 7 then 1 else 0 }

/-- Blocks that stand whole in the buffer are decoded (R210): four tokens each. `expSeq` is the next byte in the first
held token. -/
def decodeBlocks (site : Nat) : Nat → State → State
  | 0, s => s
  | n + 1, s =>
    let o := s.oper site
    if o.state != 2 then s
    else
      let bytes := ((o.held.map (fun (t : Token) => leBytes 8 t.payload.toNat)).flatten).drop o.expSeq
      let bits := streamBits bytes
      match readBlock bits with
      | .more => s
      | .bad => operError site 0x01 (((o.held.getLast?).getD .zero).tag.toNat) (o.held.getLast?) (s.onOper site (fun o => { o with
            state := 5, status := 2, discard := true, held := [], expSeq := 0 }))
      | .got xs rest =>
        let used := o.expSeq + (bits.length - rest.length + 7) / 8
        let bad := (o.held.take ((used + 7) / 8)).any Token.poison
        let outs := (List.range 4).map (fun i => decodedToken o (o.done + i) ((xs.drop (8 * i)).take 8) bad)
        let s1 := outs.foldl (fun s t => elementDone site (operForce site (toA o) t s)) (s.onOper site (fun o => { o with
          held := o.held.drop (used / 8), expSeq := used % 8 }))
        let s2 := if (s1.oper site).state = 5 then s1.onOper site (fun o => { o with held := [], expSeq := 0 }) else s1
        decodeBlocks site n s2

/-- A stream token at a DECODE (R210). -/
def decodeToken (s : State) (n : Nat) : Option State :=
  match dataToken s n 8 .l with
  | none => none
  | some (fl, t) =>
    let site := fl.dst
    let o := s.oper site
    if o.discard then some (takeFlight n fl s)
    else if o.state != 2 || !operMay s site then none
    else some (decodeBlocks site 4 ((takeFlight n fl s).onOper site (fun o => { o with held := o.held ++ [t] })))

/-- DECODE_INPUT (R210). -/
def execDecodeInput (n : Nat) (s : State) : Host.Outcome State Fault Refusal := .next (s.orHeld (decodeToken s n))

/-! ### SIEVE -/

/-- a + b ≥ c, exactly, of values that are no NaN (R211). -/
def geSum (a b c : FVal) : Bool :=
  match a, c with
  | .inf true, .inf true => true
  | .inf true, _ => false
  | .inf false, _ => true
  | _, .inf neg => neg
  | _, _ =>
    let q := minExp [a, b, c] 0
    c.scaled q ≤ a.scaled q + b.scaled q

/-- One score of a tag, its turn come (R211). -/
def sieveOne (o : Oper) (x : SieveTag) (t : Token) : SieveTag :=
  let sv := decodeF .f32 (lane .f32 t.payload 0)
  let odd := t.poison || sv == .nan
  let zero : FVal := .fin false 0 0
  let m := if odd then x.max else if geSum sv zero (decodeF .f32 x.max) then lane .f32 t.payload 0 else x.max
  let j := 64 * x.group + t.seq.toNat
  let i := (x.tag + 65536 - tagBase o) % 65536
  let diag := bit (Map.get o.pm 0 1) 16 && (j : Int) == (i : Int) + signed 16 (field (Map.get o.pm 0 1) 15 0)
  let keep := j == 0 || diag || odd || geSum sv (decodeF .f32 (field (Map.get o.pm 0 0) 31 0)) (decodeF .f32 m)
  { x with max := m, next := x.next + 1, mask := if keep then Nat.lor x.mask (2 ^ t.seq.toNat) else x.mask }

/-- A tag's waiting scores are tested in seq order; a closing one sends the mask (R211). A score that is NaN is reported as a
poisoned one is (R296; DEDUCED, log entry 89). -/
def sieveRun (site tag : Nat) : Nat → State → State
  | 0, s => s
  | n + 1, s =>
    let o := s.oper site
    match o.sieve.find? (fun x => x.tag == tag) with
    | none => s
    | some x => match x.waiting.find? (fun t => t.seq.toNat == x.next % 64) with
      | none => s
      | some t =>
        let y := { sieveOne o x t with waiting := x.waiting.erase t }
        let s1 := if t.poison || decodeF .f32 (lane .f32 t.payload 0) == .nan then operError site 0x03 tag none s else s
        if t.ends.getLsbD 0 then
          let out : Token := { Token.zero with
            payload := BitVec.ofNat 64 y.mask, fmt := .i64, tag := BitVec.ofNat 16 tag,
            seq := BitVec.ofNat 6 (x.group % 64), ends := t.ends &&& 3 }
          let s2 := operForce site (toB o) out (operForce site (toA o) out s1)
          let gone := t.ends.getLsbD 1
          sieveRun site tag n (s2.onOper site (fun o => { o with
            sieve := if gone then o.sieve.filter (fun q => q.tag != tag)
              else o.sieve.map (fun q => if q.tag == tag then { y with group := x.group + 1, next := 0, mask := 0 } else q) }))
        else sieveRun site tag n (s1.onOper site (fun o => { o with
          sieve := o.sieve.map (fun q => if q.tag == tag then y else q) }))

/-- A score at a SIEVE (R211). The running maximum starts at −∞, the FP32 pattern 0xFF800000. -/
def sieveToken (s : State) (n : Nat) : Option State :=
  match dataToken s n 9 .l with
  | none => none
  | some (fl, t) =>
    let site := fl.dst
    let o := s.oper site
    let tag := t.tag.toNat
    let known := o.sieve.any (fun x => x.tag == tag)
    if !known && 16 ≤ o.sieve.length then none
    else
      let s1 := (takeFlight n fl s).onOper site (fun o => { o with
        sieve := if known then o.sieve.map (fun x => if x.tag == tag then { x with waiting := x.waiting ++ [t] } else x)
          else o.sieve ++ [⟨tag, 0xFF800000, 0, 0, 0, [t]⟩] })
      some (sieveRun site tag 65 s1)

/-- SIEVE_SCORE (R211). -/
def execSieveScore (n : Nat) (s : State) : Host.Outcome State Fault Refusal := .next (s.orSelf (sieveToken s n))

end Sys2Proof.Machine
end

