-- ==== Sys2Proof/Machine/Ports.lean ====
section
/-! DEFINITION. PORT operators (R158 to R164, R213 to R216), hardware queue forms (R163), transfers (R215, R366, R368),
and what follows the performance of an access. -/

namespace Sys2Proof.Machine

/-! ### Requests -/

/-- The requesting station has one request fewer outstanding (R158); that of a flushed region waits for nothing. -/
def freeOut (q : PortReq) (s : State) : State :=
  if q.site = 0 || !holdsPlace q then s else freeAt q.site (stKey q.token.ctx.toNat q.station) s

/-- The record of an error of a request: its station, and the firing's context and tag (R22). -/
def requestRec (code : Nat) (q : PortReq) : ErrRec := ⟨code, Site.ofKey q.site, q.station, q.token.ctx.toNat, q.fired⟩

/-- A request faults (R140, R159): its operand on L is saved. -/
def requestFault (code : Nat) (q : PortReq) (s : State) : State :=
  (freeOut q s).raiseError q.region (requestRec code q) (some q.l) true

/-- A response from a unit at a site to a target (R32, R404). -/
def respond (site : Nat) (region : Nat) (g : Target) (t : Token) (s : State) : State :=
  if !g.valid then s
  else
    let t' := Token.toTarget t g
    s.post ⟨site, 0, .response, Site.key (Token.site t'), Token.lane t', .token t', region, true, false⟩

/-- The access size of a request (R160 to R162). -/
def requestSize (q : PortReq) : Nat :=
  if 0x20B ≤ q.op then atomicSize q else 2 ^ (q.aux % 4)

/-- The stream of a request: its station's requests through one PORT (R158). -/
def requestStream (q : PortReq) : Nat := 2 * (member q.site q.station * 8 + q.token.ctx.toNat) + 1

/-- The bytes of a PORT's forwarding table that a load finds (R214): of its own stream's stores not yet performed, the
latest of each byte. -/
def forwarded (s : State) (o : Oper) (q : PortReq) (va size : Nat) : List Byte × List Byte :=
  let hits := o.fwd.filter (fun f => f.stream == requestStream q && f.sector == va / 64 &&
    s.accesses.any (fun a => a.id == f.access && a.phase < 5))
  let at' := fun (a : Nat) => (hits.reverse.findSome? (fun (f : Fwd) => (f.bytes.find? (fun b => b.1 == a)).map Prod.snd))
  ((List.range size).map (fun i => (at' (va + i)).getD 0), (List.range size).map (fun i => if (at' (va + i)).isSome then 1 else 0))

/-- A store enters the forwarding table: of 32 entries the oldest makes room, once its store is performed (R214). -/
def forwardStore (s : State) (o : Oper) (q : PortReq) (va size id : Nat) : List Fwd :=
  let e : Fwd := ⟨requestStream q, va / 64, (List.range size).map (fun i => (va + i, BitVec.ofNat 8 (q.data.toNat / 2 ^ (8 * i)))), id⟩
  if o.fwd.length < 32 then o.fwd ++ [e]
  else match o.fwd with
    | f :: rest => if s.accesses.any (fun a => a.id == f.access && a.phase < 5) then o.fwd else rest ++ [e]
    | [] => [e]

/-- A message that fences and triggers noted on its way to a site has been taken up there: for one such note the accesses `ids`, those
that the message has become, stand from now on (R165, R280). -/
def takeNoted (m : Msg) (site : Nat) (ids : List Nat) (s : State) : State :=
  let mine := fun (f : Flight) => f.dst == site && f.msg == m
  let fence := fun (f : FenceWait) =>
    if f.ahead.any mine then { f with ahead := f.ahead.eraseP mine, covered := f.covered ++ ids } else f
  { s with
    opers := s.opers.map (fun (ko : Nat × Oper) => (ko.1, { ko.2 with fences := ko.2.fences.map fence }))
    regions := s.regions.map (fun (kr : Nat × Region) =>
      if kr.2.trigAhead.any mine then
        (kr.1, { kr.2 with trigAhead := kr.2.trigAhead.eraseP mine, trigCovers := kr.2.trigCovers ++ ids })
      else kr) }

/-- A request is served: its checks of R159 that need no translation, then its access. -/
def serveRequest (site : Nat) (q : PortReq) (s : State) : State :=
  let size := requestSize q
  if 2 ^ 57 ≤ q.addr.toNat then requestFault 0x0A q (takeNoted (.port q) site [] s)
  else if q.addr.toNat % size != 0 then requestFault 0x11 q (takeNoted (.port q) site [] s)
  else
    let o := s.oper site
    let wide := sectorRead q
    let va := if wide then q.addr.toNat / 64 * 64 else q.addr.toNat
    let n := if wide then 64 else size
    let useFwd := bit (Map.get o.pm 0 0) 3
    let isLoad := q.op == 0x207 || q.op == 0x209
    let isStore := q.op == 0x208 || q.op == 0x20A
    let fw := if useFwd && isLoad then forwarded s o q va n else ([], [])
    let a : Access := { Access.none with
      kind := if isLoad then .read else if isStore then .write else .atomic
      op := q.op, oper := site, region := q.region + 1, ctx := q.token.ctx.toNat, unit := servingUnit s site,
      stream := requestStream q, va := BitVec.ofNat 64 va, size := n
      data := if isStore then leBytes n q.data.toNat else fw.1
      cmp := fw.2, tag := q.token.tag.toNat, seq := q.token.seq.toNat, req := some q }
    let s1 := addAccess a (takeNoted (.port q) site [s.nextAcc] s)
    if useFwd && isStore then s1.onOper site (fun o => { o with fwd := forwardStore s o q va n s.nextAcc }) else s1

/-- The entry that a store needs in a full forwarding table is not free yet (R214). -/
def forwardBusy (s : State) (o : Oper) (q : PortReq) : Bool :=
  bit (Map.get o.pm 0 0) 3 && (q.op == 0x208 || q.op == 0x20A) && 32 ≤ o.fwd.length &&
  (match o.fwd with
   | f :: _ => s.accesses.any (fun a => a.id == f.access && a.phase < 5)
   | [] => false)

/-! ### Ordered requests -/

/-- An ordering domain when its load is configured (R161). -/
def OrdDom.start : OrdDom := ⟨0, none, false, [], [], false⟩

/-- Place, predecessor and successor of an ordered request (R161). -/
def ordSeq (q : PortReq) : Nat := q.aux / 4 % 16
/-- The predecessor field (R161). -/
def ordPred (q : PortReq) : Nat := q.aux / 64 % 32
/-- The successor field (R161). -/
def ordSucc (q : PortReq) : Nat := q.aux / 2048 % 32

/-- The key of a request's ordering domain: its region, and another one for what a flush left of that region's (R161,
R339). -/
def ordKey (q : PortReq) : Nat := if q.site = 0 then 1536 + q.region else q.region

/-- The waiting request that the domain wants next (R161): of its wave, which is a request's firing's tag. -/
def ordWant (d : OrdDom) : Option PortReq :=
  let mine := d.waiting.filter (fun q => q.fired == d.wave)
  match d.last with
  | none => mine.find? (fun q => ordPred q == 0x1F)
  | some (sq, succ) => if succ = 0x10 then mine.find? (fun q => ordPred q == sq) else mine.find? (fun q => ordSeq q == succ)

/-- A domain after a request of it has been performed, or has ended in a fault (R161; the latter DEDUCED, log entry
15). What it has seen of a wave it forgets when its wave numbers have gone half way round from there: the number is then that
of a wave to come (DESIGN CHOICE, log entry 42). -/
def ordStep (d : OrdDom) (q : PortReq) : OrdDom :=
  if ordSucc q = 0x1F then { d with
    wave := (d.wave + 1) % 65536, last := none, busy := false,
    seen := d.seen.filter (fun x => x / 16 != (d.wave + 32768) % 65536) }
  else { d with last := some (ordSeq q, ordSucc q), busy := false }

/-- The domain's next request is performed when it is there and nothing of the domain is under way (R161). -/
def ordNext (site key : Nat) : Nat → State → State
  | 0, s => s
  | n + 1, s =>
    let d := Map.get (s.oper site).doms OrdDom.start key
    if d.busy || d.stopped then s
    else match ordWant d with
      | none => s
      | some q =>
        let d1 := { d with waiting := d.waiting.erase q }
        let put := fun (d : OrdDom) (s : State) => s.onOper site (fun o => { o with doms := Map.put o.doms key d })
        let clash := match d.last with
          | some (sq, _) => ordPred q != sq && ordPred q != 0x10
          | none => false
        if clash then requestFault 0x15 q (takeNoted (.port q) site [] (put { d1 with stopped := true } s))
        else if 2 ^ 57 ≤ q.addr.toNat || q.addr.toNat % requestSize q != 0 then
          ordNext site key n (serveRequest site q (put (ordStep d1 q) s))
        else serveRequest site q (put { d1 with busy := true } s)

/-- An ordered request arrives at its PORT (R161). A second one of a wave and seq faults. -/
def ordArrive (site : Nat) (q : PortReq) (s : State) : State :=
  let d := Map.get (s.oper site).doms OrdDom.start (ordKey q)
  let me := q.fired * 16 + ordSeq q
  if d.seen.contains me then requestFault 0x15 q (takeNoted (.port q) site [] s)
  else ordNext site (ordKey q) (d.waiting.length + 2) (s.onOper site (fun o => { o with
    doms := Map.put o.doms (ordKey q) { d with waiting := d.waiting ++ [q], seen := d.seen ++ [me] } }))

/-- What follows an ordered request, performed or failed. -/
def ordDone (site : Nat) (q : PortReq) (s : State) : State :=
  if q.op = 0x209 || q.op = 0x20A then
    let d := Map.get (s.oper site).doms OrdDom.start (ordKey q)
    ordNext site (ordKey q) (d.waiting.length + 1) (s.onOper site (fun o => { o with doms := Map.put o.doms (ordKey q) (ordStep d q) }))
  else s

/-! ### Responses -/

/-- The tokens that answer a request (R160 to R162). An old value of 4 bytes fills the payload zero-extended: R162 says only that
it is emitted (DESIGN CHOICE, log entry 93). -/
def answers (q : PortReq) (bs : List Byte) (poison : Bool) : List Token :=
  let t : Token := { q.token with poison := q.token.poison || poison }
  if q.op = 0x208 || q.op = 0x20A then [{ t with payload := 0 }]
  else if sectorRead q then (List.range 8).map (fun i => { t with
    payload := BitVec.ofNat 64 (leNat ((bs.drop (8 * i)).take 8)), seq := BitVec.ofNat 6 i,
    ends := if i = 7 then 1 else 0 })
  else [{ t with payload := BitVec.ofNat 64 (leNat bs) }]

/-- The place of a request is free when the last token of its response is accepted, or at once where it has none (R158). -/
def owePlace (site : Nat) (q : PortReq) (ts : List Token) (s : State) : State :=
  if q.site = 0 then s
  else match ts.getLast?, q.targetB.valid with
  | some t, true =>
    let t' := Token.toTarget t q.targetB
    s.onOper site (fun o => { o with owed := o.owed ++ [⟨Token.lane t', t', q.site, stKey q.token.ctx.toNat q.station⟩] })
  | _, _ => freeOut q s

/-- A request has been performed: its response goes to target B, and its pin is free (R158, R160 to R162). -/
def requestDone (a : Access) (q : PortReq) (s : State) : State :=
  let site := a.oper
  let ts := answers q a.bytes a.poison
  let s1 := ts.foldl (fun s t => respond site (s.oper site).region q.targetB t s)
    (unpin a.pinKey (owePlace site q ts (s.dropAccesses (fun x => x.id == a.id))))
  let s2 := if q.op = 0x20C && a.poison && !q.targetB.valid then s1.raiseError q.region (requestRec 0x03 q) none false else s1
  ordDone site q s2

/-- A request faults at its unit, after it has been accepted (R159, R362). -/
def requestFails (a : Access) (code : Nat) (q : PortReq) (s : State) : State :=
  ordDone a.oper q (requestFault code q (unpin a.pinKey (s.dropAccesses (fun x => x.id == a.id))))

/-! ### Hardware queues -/

/-- A queue's occupancy (R383). -/
def QueueReg.used (q : QueueReg) : Nat := (field q.tail 31 0 + 2 ^ 32 - field q.head 31 0) % 2 ^ 32

/-- A queue's depth (R163, R383). -/
def QueueReg.depth (q : QueueReg) : Nat := 2 ^ field q.cfg 4 0

/-- The virtual address of entry `i` of a queue (R163, R383). -/
def QueueReg.slot (q : QueueReg) (i : Nat) : Nat := field q.base 56 0 + 16 * (i % q.depth)

/-- Where a queue entry lies (R163, R360): at a physical address, or its page does not permit the access, or its translation faults at
a level for a cause. -/
inductive QueuePlace where
  | at (pa : Nat)
  | denied
  | fault (level cause : Nat)
  deriving DecidableEq, Repr

/-- The place of entry `i` of a queue (R163, R360). -/
def queuePa (s : State) (q : QueueReg) (i : Nat) (write : Bool) : QueuePlace :=
  match translate s ioUnit (field q.cfg 7 5) (q.slot i) with
  | .page sh fr r w _ => if (if write then w else r) then .at (fr + q.slot i % 2 ^ sh) else .denied
  | .fault level cause => .fault level cause

/-- The access of a queue form that a translation fault holds (R360): it stands for the form while that waits at the I/O die. -/
def queueHeld (s : State) (q : PortReq) : Bool := s.accesses.any (fun a => a.req == some q && a.op == q.op)

/-- A translation fault holds a queue form at its entry (R360): its stream is its station's requests to the I/O die, which hold their
order; `d` is its queue and `i` the entry. -/
def holdQueue (q : PortReq) (d : QueueReg) (i level cause : Nat) (s : State) : State :=
  let io := Site.key ⟨24, 0, 0⟩
  let a : Access := { Access.none with
    id := s.nextAcc, kind := if q.op = 0x213 then .write else .read, op := q.op, oper := io, region := q.region + 1,
    ctx := field d.cfg 7 5, unit := ioUnit, stream := requestStream q, va := BitVec.ofNat 64 (d.slot i), phase := 1
    tag := q.token.tag.toNat, seq := q.token.seq.toNat, req := some q }
  holdAccess a level cause (addAccess a s)

/-- An entry is pushed on a launch queue: how many instances the arbiter has taken is noted (R343). -/
def markPush (n index : Nat) (s : State) : State :=
  if 192 ≤ n then { s with pushed := s.pushed ++ [⟨n - 192, index, s.taken⟩] } else s

/-- A form delivers an uncorrectable word of a queue entry: an origin of cause 4 at the I/O die (R417, R59). -/
def logQueue (q : PortReq) (bad : Bool) (s : State) : State :=
  if bad && q.site != 0 then
    s.onRegion q.region (fun r => r.logPoison (s.now r.die) (logEntry 4 ⟨24, 0, 0⟩ 0 q.token.ctx.toNat q.token.tag.toNat))
  else s

/-- A queue form at the I/O die (R163, R341, R383); none while it waits. An entry whose page does not permit the access faults
with protection, DEDUCED (log entry 15); one whose translation faults is held (R360): `held` is the state from which it waits at
the head of its lane. All answers leave the I/O die as one source, in the order of service: R35 leaves the order of those to different
stations open (DESIGN CHOICE, log entry 108). -/
def serveQueue (q : PortReq) (held s : State) : Option State :=
  let n := q.aux % 256
  let d := Map.get s.queues .zero n
  let io := Site.key ⟨24, 0, 0⟩
  let barred := if q.op = 0x213 then bit d.cfg 9 else bit d.cfg 10
  let fault := fun (code : Nat) => requestFault code q s
  if !(bit d.cfg 8) || barred then some (fault 0x14)
  else if q.op = 0x213 then
    if d.depth ≤ d.used then none
    else match queuePa s d (field d.tail 31 0) true with
      | .denied => some (fault 0x09)
      | .fault level cause => some (holdQueue q d (field d.tail 31 0) level cause held)
      | .at pa =>
        let s1 := writeHome pa (leBytes 8 q.addr.toNat ++ leBytes 8 q.data.toNat) s
        let d1 : QueueReg := { d with tail := BitVec.ofNat 64 ((field d.tail 31 0 + 1) % 2 ^ 32) }
        some (respond io 0 q.targetA { q.token with payload := 0 }
          (markPush n (field d.tail 31 0) { s1 with queues := Map.put s.queues n d1 }))
  else if q.op = 0x214 then
    if d.used = 0 then none
    else match queuePa s d (field d.head 31 0) false with
      | .denied => some (fault 0x09)
      | .fault level cause => some (holdQueue q d (field d.head 31 0) level cause held)
      | .at pa =>
        let r := readHome pa 16 s
        let bad := rangePoisoned s pa 16
        let s1 := logQueue q bad { r.2 with queues := Map.put s.queues n { d with head := BitVec.ofNat 64 ((field d.head 31 0 + 1) % 2 ^ 32) } }
        some (respond io 0 q.targetB { q.token with payload := BitVec.ofNat 64 (leNat (r.1.drop 8)), poison := q.token.poison || bad }
          (respond io 0 q.targetA { q.token with payload := BitVec.ofNat 64 (leNat (r.1.take 8)), poison := q.token.poison || bad } s1))
  else
    let answer := fun (v : Nat) (bad : Bool) (s : State) =>
      respond io 0 q.targetB { q.token with payload := BitVec.ofNat 64 v, poison := q.token.poison || bad }
        (respond io 0 q.targetA { q.token with payload := BitVec.ofNat 64 d.used, fmt := .i64 } s)
    if d.used = 0 then some (answer 0 false s)
    else match queuePa s d (field d.head 31 0) false with
      | .denied => some (fault 0x09)
      | .fault level cause => some (holdQueue q d (field d.head 31 0) level cause held)
      | .at pa =>
        let r := readHome pa 8 s
        some (answer (leNat r.1) (rangePoisoned s pa 8) (logQueue q (rangePoisoned s pa 8) r.2))

/-! ### Fences -/

/-- A fence marker reaches its PORT (R164, R280). -/
def fenceArrive (site : Nat) (q : PortReq) (s : State) : State :=
  if q.site = 0 then s
  else if (s.oper site).fences.any (fun f => f.req == q && !f.arrived) then
    s.onOper site (fun o => { o with
      fences := updFirst (fun f => f.req == q && !f.arrived) (fun f => { f with arrived := true }) o.fences })
  else s.onOper site (fun o => { o with fences := o.fences ++ [{ fenceOf s site q with arrived := true }] })

/-- A request through a PORT, as queue forms and markers are not (R163, R164). -/
def throughPort (q : PortReq) : Bool := q.op < 0x213

/-- A fence marker of the region stands in a PORT: later requests wait behind it (R164). -/
def fenced (o : Oper) (region : Nat) : Bool := o.fences.any (fun f => f.arrived && f.req.region == region)

/-- A message of the region is on its way to the same PORT before place `n` of the network. -/
def portAhead (s : State) (n : Nat) (fl : Flight) (p : PortReq → Bool) : Bool :=
  (s.net.take n).any (fun g => g.region == fl.region && g.dst == fl.dst && (match g.msg with
    | .port q => p q
    | _ => false))

/-- What a fence covers is still on its way or in an ordering domain (R280): no access stands for it yet. -/
def aheadOpen (s : State) (f : Flight) : Bool :=
  s.net.any (fun g => g.dst == f.dst && g.msg == f.msg) ||
  (match f.msg with
   | .port q => (s.oper f.dst).doms.any (fun d => d.2.waiting.contains q)
   | _ => false)

/-- A fence whose covered accesses are performed emits L to target B (R164, R280). -/
def fenceEnds (s : State) (site n : Nat) : Option State :=
  match (s.oper site).fences[n]? with
  | none => none
  | some f =>
    if !f.arrived || s.accesses.any (fun a => f.covered.contains a.id && a.phase < 5) || f.ahead.any (aheadOpen s) then none
    else some (respond site (s.oper site).region f.req.targetB f.req.token
      (s.onOper site (fun o => { o with fences := o.fences.eraseIdx n })))

/-- FENCE_COMPLETE (R280): `r` is the PORT's site key. -/
def execFenceComplete (r n : Nat) (s : State) : Host.Outcome State Fault Refusal := .next (s.orSelf (fenceEnds s r n))

/-- The requests outstanding at a PORT (R158, R214): accepted, and their response, if they have one, not accepted. -/
def portOut (s : State) (site : Nat) : Nat :=
  let o := s.oper site
  (s.accesses.filter (fun a => a.oper == site && (a.req.map throughPort).getD false && a.phase < 5)).length +
  sumNat (o.doms.map (fun d => d.2.waiting.length)) + o.owed.length

/-- A request arrives at a PORT, or a queue form at the I/O die (R214, R163). -/
def portRequest (s : State) (n : Nat) : Option State :=
  match headOfLane s.net n with
  | none => none
  | some fl => match fl.msg with
    | .port q =>
      let s1 := dropFlight s n
      if 0x213 ≤ q.op && q.op ≤ 0x215 then
        (if queueHeld s q then none else (serveQueue q s s1).map (fun u => if queueHeld u q then u else takeNoted (.port q) fl.dst [] u))
      else
        let o := s.oper fl.dst
        if o.kind != 11 then some (requestFault 0x02 q (takeNoted (.port q) fl.dst [] s1))
        else if q.op = 0x280 then (if portAhead s n fl throughPort then none else some (fenceArrive fl.dst q s1))
        else
          if field (Map.get o.pm 0 4) 8 0 ≤ portOut s fl.dst || fenced o q.region || forwardBusy s o q ||
            portAhead s n fl (fun p => p.op == 0x280) then none
          else if q.op = 0x209 || q.op = 0x20A then some (ordArrive fl.dst q s1)
          else some (serveRequest fl.dst q s1)
    | _ => none

/-- PORT_REQUEST (R214). -/
def execPortRequest (n : Nat) (s : State) : Host.Outcome State Fault Refusal := .next (s.orHeld (portRequest s n))

/-! ### Transfers -/

/-- The class that a transfer command needs (R215). -/
def transferClass (code : Nat) : Nat :=
  if code = 0x18 || code = 0x1D then 0 else if code = 0x19 || code = 0x1A then 1 else 2

/-- A command waits behind a fence marker of its sender's region, but for one that the fence itself waits for (R278, R280). -/
def commandFenced (s : State) (fl : Flight) : Bool :=
  (s.oper fl.dst).fences.any (fun f => f.arrived && f.req.region + 1 == fl.region &&
    !(f.ahead.any (fun g => g.dst == fl.dst && g.msg == fl.msg)))

/-- A transfer command at a PORT reads its descriptor (R194, R215). The entry that stands for the transfer has its
number; the descriptor's read carries it as its element. -/
def transferCommand (code : Nat) (s : State) (n : Nat) : Option State :=
  match commandToken s n code with
  | none => none
  | some (fl, t) =>
    let site := fl.dst
    let o := s.oper site
    if !cabooseRoom s (if o.region = 0 then none else some (o.region - 1)) 1 || commandFenced s fl then none
    else
      let s1 := takeNoted fl.msg site [s.nextAcc] (takeFlight n fl s)
      let id := s1.nextAcc
      let m : Transfer := ⟨id, code, t.tag.toNat, 0, 0, 0, 0, t.tag.toNat, 0, 0, 0, 0, 0, operCtx o, t, servingUnit s site, []⟩
      let s2 := (addAccess { Access.none with
        op := code, oper := site, region := o.region, ctx := operCtx o, phase := 4, stream := 2 * site, tag := t.tag.toNat } s1).onOper
        site (fun o => { o with moves := o.moves ++ [m] })
      some (operAccess site .read code id t.tag.toNat 0 (field t.payload 50 0 * 64) 64 [] [] (some t) s2)

/-- COPY (R215). -/
def execCopy (n : Nat) (s : State) : Host.Outcome State Fault Refusal := .next (s.orHeld (transferCommand 0x18 s n))
/-- HOST_READ (R215). -/
def execHostRead (n : Nat) (s : State) : Host.Outcome State Fault Refusal := .next (s.orHeld (transferCommand 0x19 s n))
/-- HOST_WRITE (R215). -/
def execHostWrite (n : Nat) (s : State) : Host.Outcome State Fault Refusal := .next (s.orHeld (transferCommand 0x1A s n))
/-- NVME_READ (R215). -/
def execNvmeRead (n : Nat) (s : State) : Host.Outcome State Fault Refusal := .next (s.orHeld (transferCommand 0x1B s n))
/-- NVME_WRITE (R215). -/
def execNvmeWrite (n : Nat) (s : State) : Host.Outcome State Fault Refusal := .next (s.orHeld (transferCommand 0x1C s n))
/-- MIGRATE (R366). -/
def execMigrate (n : Nat) (s : State) : Host.Outcome State Fault Refusal := .next (s.orHeld (transferCommand 0x1D s n))

/-- The transfer that an access of a PORT belongs to. -/
def moveOf (s : State) (site id : Nat) : Option Transfer := (s.oper site).moves.find? (fun m => m.id == id)

/-- The state with a transfer changed. -/
def onMove (site : Nat) (m m' : Transfer) (s : State) : State :=
  s.onOper site (fun o => { o with moves := o.moves.map (fun x => if x.id == m.id then m' else x) })

/-- A transfer ends (R195, R215): its entry goes, its pins are released, and its completion is sent. -/
def endTransfer (site : Nat) (m : Transfer) (status : Nat) (s : State) : State :=
  transferDone site m status (s.dropAccesses (fun a => a.id == m.id || (a.oper == site && a.req.isNone && a.elem == m.id)))

/-- An access that a transfer makes: its command has passed the caboose already (R156). -/
def moveAccess (site : Nat) (kind : AccKind) (m : Transfer) (va size : Nat) (data : List Byte) (s : State) : State :=
  let o := s.oper site
  addAccess { Access.none with
    kind := kind, op := m.kind, oper := site, region := o.region, ctx := m.ctx, unit := m.unit, tok := some m.token,
    stream := 2 * site, va := BitVec.ofNat 64 va, size := size, data := data, elem := m.id, tag := m.tag } s

/-- The next piece of a copy or host-write is read (R215): within one sector of source and destination. -/
def nextPiece (site : Nat) (m : Transfer) (s : State) : State :=
  if m.len.toNat ≤ m.pos then
    (if m.kind = 0x1A then onMove site m { m with phase := 2 } s else endTransfer site m 0 s)
  else
    let src := m.src.toNat + m.pos
    let dst := m.dst.toNat + m.pos
    moveAccess site .read m src (min (m.len.toNat - m.pos) (min (64 - src % 64) (64 - dst % 64))) [] s

/-- An NVMe pair's words (R369). -/
def pairWord (s : State) (n w : Nat) : Word := Map.get s.modRegs.nqp 0 (4 * n + w)

/-- The blocks of an NVMe transfer. -/
def Transfer.blocks (m : Transfer) : Nat := field m.len 31 0

/-- The bytes of an NVMe transfer, and where they lie (R215, R368). -/
def nvmeBytes (s : State) (m : Transfer) : Nat := m.blocks * 2 ^ (9 + field (pairWord s m.qp 2) 39 36)
/-- The virtual address of an NVMe transfer's data (R215). -/
def nvmeVa (m : Transfer) : Nat := if m.kind = 0x1B then m.dst.toNat else m.src.toNat

/-- The PRP list of a transfer whose data take more than two pages of 4,096 bytes (R368): the bus address of each page but the first.
Its layout is the NVM command set's, PRESUMED (log entry 16). -/
def prpList (s : State) (m : Transfer) : List Nat :=
  let va := nvmeVa m
  let n := (va + nvmeBytes s m + 4095) / 4096 - (va / 4096 + 1)
  if n ≤ 1 then [] else (List.range n).map (fun i => s.modRegs.nwin.toNat + (va / 4096 + 1 + i) * 4096)

/-- The NVMe command of a transfer (R368). Its layout is the NVM command set's, PRESUMED (log entry 16); the place of a
PRP list is the device's own and left free (log entry 5). -/
def nvmeCommand (s : State) (m : Transfer) (cid : Nat) : List Byte :=
  let lba := if m.kind = 0x1B then m.src else m.dst
  let va := nvmeVa m
  let bytes := nvmeBytes s m
  let prp1 := s.modRegs.nwin.toNat + va
  let second := (va / 4096 + 1) * 4096
  let prp2 := if va + bytes ≤ second then 0 else if va + bytes ≤ second + 4096 then s.modRegs.nwin.toNat + second
    else (Config.freeWord s.fresh).toNat
  leBytes 4 ((if m.kind = 0x1B then 2 else 1) + cid % 65536 * 2 ^ 16) ++ leBytes 4 (field m.len 63 32) ++ leBytes 16 0 ++
    leBytes 8 prp1 ++ leBytes 8 prp2 ++ leBytes 8 lba.toNat ++ leBytes 16 (m.blocks - 1)

/-- A transfer's range leaves the address space: it faults, and completes with status 3 (R198, R215). -/
def transferRange (site : Nat) (m : Transfer) (s : State) : State :=
  endTransfer site m 3 (operError site 0x0B m.tag (some m.token) s)

/-- An NVMe command is queued and its doorbell written (R368); its PRP list is built beside it, in the I/O die. A transfer of 0 blocks
completes with status 2, as one of too many does (DESIGN CHOICE, log entry 106). -/
def startNvme (site : Nat) (m : Transfer) (s : State) : State :=
  let w2 := pairWord s m.qp 2
  if 65536 < m.blocks || m.blocks = 0 || !(bit w2 63) then endTransfer site m 2 s
  else if 2 ^ 57 < nvmeVa m + nvmeBytes s m then transferRange site m s
  else
    let depth := 2 ^ field w2 35 32
    let tail := (Map.get s.modRegs.nqp 0 (1024 + m.qp)).toNat
    let next := (tail + 1) % depth
    let s1 := writeHome (field (pairWord s m.qp 0) 51 0 + 64 * tail) (nvmeCommand s m m.id) { s with fresh := s.fresh + 1 }
    onMove site m { m with phase := 2, prp := prpList s m } { s1 with
      hostMem := Memory.writeBytes s1.hostMem (pairWord s m.qp 3).toNat (leBytes 4 next)
      modRegs := { s1.modRegs with nqp := Map.put s1.modRegs.nqp (1024 + m.qp) (BitVec.ofNat 64 next) } }

/-- The bytes of a page of size code `z` (R215). -/
def pageBytes (z : Nat) : Nat := if z = 0 then 2 ^ 16 else if z = 1 then 2 ^ 21 else 2 ^ 29

/-- The address of the leaf entry that maps an address: in the leaf table, or in the middle table for a 512 MiB page
(R353). -/
def entryPlace (s : State) (ctx va z : Nat) : Nat :=
  let mid := entryAddr (Memory.readWord s.mem (field (Map.get s.modRegs.troot 0 ctx) 51 18 * 2 ^ 18 + 8 * (va / 2 ^ 42 % 32768)))
  let at1 := mid + 8 * (va / 2 ^ 29 % 8192)
  if z = 2 then at1 else entryAddr (Memory.readWord s.mem at1) + 8 * (va / 2 ^ 16 % 8192)

/-- The next sector of a migration that is not copied is read, which copies it; when all are, the page's entries get the
new frame and the page is invalidated (R366). The reads walk and pin as a transfer's do (R364). -/
def migrateNext (site : Nat) (m : Transfer) (s : State) : State :=
  match s.migrations.find? (fun g => g.oper == m.id) with
  | none => endTransfer site m 3 s
  | some g =>
    match (List.range (g.size / 64)).find? (fun i => !(g.copied.contains i)) with
    | some i =>
      let o := s.oper site
      addAccess { Access.none with
        op := m.kind, oper := site, region := o.region, ctx := m.ctx, unit := m.unit, tok := some m.token, stream := 2 * site,
        va := BitVec.ofNat 64 (g.page + 64 * i), size := 64, elem := m.id, tag := m.tag } s
    | none =>
      let n := if m.len.toNat = 1 then 32 else 1
      let s1 := (List.range n).foldl (fun s i =>
        let e := Memory.readWord s.mem (g.entry + 8 * i)
        writeHome (g.entry + 8 * i) (leBytes 8 (setField e 51 16 ((g.new + 65536 * i) / 65536)).toNat) s) s
      let waits := (s1.accesses.filter (fun a => a.ctx == g.ctx && 2 ≤ a.phase && a.phase < 5 && a.id != m.id &&
        g.old ≤ a.pa && a.pa < g.old + g.size)).map Access.id
      onMove site m { m with phase := 3 } { s1 with
        tlb := s1.tlb.filter (fun t => !(t.ctx == g.ctx && t.frame == g.old))
        inval := s1.inval ++ [⟨3, g.ctx, g.page, waits⟩] }

/-- A migration begins, or completes with status 3 (R366). One of a page size that R215 does not name, or at a PORT with `fwd` 0, which
serves none, completes with status 2 and raises no fault (DESIGN CHOICE, log entry 106). -/
def startMigrate (site : Nat) (m : Transfer) (s : State) : State :=
  let z := m.len.toNat
  let size := pageBytes z
  let va := m.src.toNat
  if !(bit (Map.get (s.oper site).pm 0 0) 3) || 3 ≤ z then endTransfer site m 2 s
  else if 2 ^ 57 < va + size then transferRange site m s
  else match walk s m.ctx va with
    | .page sh fr _ _ refs =>
      if 2 ^ sh != size || !refs || va % size != 0 || m.dst.toNat % size != 0 || !(mapped m.dst.toNat) ||
        s.migrations.any (fun g => g.old == fr) then endTransfer site m 3 s
      else
        let g : Migration := ⟨m.id, fr, m.dst.toNat, size, m.ctx, va, [], entryPlace s m.ctx va z⟩
        migrateNext site m { s with migrations := s.migrations ++ [g] }
    | .fault _ _ => endTransfer site m 3 s

/-- A virtual address that its context maps in T2. -/
def vaInT2 (s : State) (ctx : Nat) (va : Nat) : Bool :=
  match walk s ctx va with
  | .page sh fr _ _ _ => !(inT3 (fr + va % 2 ^ sh))
  | .fault _ _ => true

/-- The serving unit of a transfer (R356): the I/O die for a class other than 0, for a migrate, whose destination is a frame, and for
a copy from or to an address that is not in T2, as its first or its last byte shows (DEDUCED, log entry 109). -/
def transferUnit (s : State) (site : Nat) (m : Transfer) : Nat :=
  let last := m.len.toNat - 1
  if m.kind = 0x18 && vaInT2 s m.ctx m.src.toNat && vaInT2 s m.ctx (m.src.toNat + last) && vaInT2 s m.ctx m.dst.toNat &&
    vaInT2 s m.ctx (m.dst.toNat + last) then servingUnit s site
  else ioUnit

/-- A transfer's descriptor has been read: it is checked and the transfer begins (R215). -/
def startTransfer (site : Nat) (m : Transfer) (bs : List Byte) (s : State) : State :=
  let w := fun (i n : Nat) => leNat ((bs.drop i).take n)
  let o := s.oper site
  let qp := w 24 4
  let m1 : Transfer := { m with
    src := BitVec.ofNat 64 (w 0 8), dst := BitVec.ofNat 64 (w 8 8), len := BitVec.ofNat 64 (w 16 8), qp := qp % 64,
    tag := w 28 2, stream := w 30 2, done := BitVec.ofNat 64 (w 32 4), phase := 1 }
  let m1 := { m1 with unit := transferUnit s site m1 }
  let s1 := onMove site m m1 s
  let first := field (Map.get o.pm 0 1) 5 0
  let count := field (Map.get o.pm 0 1) 12 6
  let nvme := transferClass m.kind == 2
  let bad := transferClass m.kind != o.portClass || (nvme && (qp < first || first + count ≤ qp)) || 64 ≤ qp || w 36 28 != 0
  let virtual := fun (a : Word) (n : Nat) => a.toNat + n ≤ 2 ^ 57
  if bad then endTransfer site m1 2 (operError site 0x01 m1.tag (some m1.token) s1)
  else if m.kind = 0x1D then startMigrate site m1 s1
  else if nvme then startNvme site m1 s1
  else if (m.kind = 0x18 || m.kind = 0x1A) && !(virtual m1.src m1.len.toNat) ||
    (m.kind = 0x18 || m.kind = 0x19) && !(virtual m1.dst m1.len.toNat) then
    transferRange site m1 s1
  else if m.kind = 0x19 then onMove site m1 { m1 with phase := 2 } s1
  else nextPiece site m1 s1

/-- An access of a transfer has been performed (R215). -/
def transferStep (a : Access) (s : State) : State :=
  let site := a.oper
  let s1 := s.dropAccesses (fun x => x.id == a.id)
  match moveOf s site a.elem with
  | none => s1
  | some m =>
    if m.phase = 0 then startTransfer site m a.bytes s1
    else if transferClass m.kind = 2 then 
      (if a.kind == .read then { s1 with hostBytes := s1.hostBytes.take a.part ++ a.bytes ++ s1.hostBytes.drop (a.part + a.size) } else s1)
    else if m.kind = 0x1D then migrateNext site m s1
    else if a.kind == .read then
      let dst := m.dst.toNat + m.pos
      if m.kind = 0x1A then
        let m1 := { m with pos := m.pos + a.size }
        nextPiece site m1 (onMove site m m1 { s1 with hostMem := Memory.writeBytes s1.hostMem dst a.bytes })
      else moveAccess site .write m dst a.size a.bytes s1
    else
      let m1 := { m with pos := m.pos + a.size }
      let s2 := onMove site m m1 s1
      if m.kind = 0x19 then (if m.len.toNat ≤ m1.pos then endTransfer site m1 0 s2 else s2) else nextPiece site m1 s2

/-- A read completion of the host link (R275): it brings a host-read's data, or shows a host-write performed. `n` is the
transfer's number. -/
def linkCompletion (s : State) (n : Nat) (data : List Byte) : Option State :=
  match s.access n with
  | none => none
  | some e => match moveOf s e.oper n with
    | none => none
    | some m =>
      if m.phase != 2 then none
      else if m.kind = 0x1A then some (endTransfer e.oper m 0 s)
      else if m.kind = 0x19 && data.length = m.len.toNat then
        let s1 := onMove e.oper m { m with phase := 1 } s
        if data.isEmpty then some (endTransfer e.oper m 0 s1)
        else some ((sectorParts (data.length / 64 + 2) m.dst.toNat data.length).foldl (fun s p =>
          moveAccess e.oper .write m p.1 p.2 ((data.drop (p.1 - m.dst.toNat)).take p.2) s) s1)
      else none

/-- HOST_LINK_COMPLETION (R275). -/
def execHostLinkCompletion (n : Nat) (data : List Byte) (s : State) : Host.Outcome State Fault Refusal :=
  .next (s.orSelf (linkCompletion s n data))

/-- A polled completion entry ends an NVMe command, and the CQ head doorbell is written (R368). One whose data met a range or
permission fault has status 3 (R215). The end waits for the data accesses (R195). -/
def nvmeEnds (s : State) (n status : Nat) : Option State :=
  match s.access n with
  | none => none
  | some e => match moveOf s e.oper n with
    | none => none
    | some m =>
      if m.phase != 2 || transferClass m.kind != 2 ||
        s.accesses.any (fun a => a.oper == e.oper && a.req.isNone && a.op == m.kind && a.elem == n && a.id != n) then none
      else
        let w2 := pairWord s m.qp 2
        let head := ((Map.get s.modRegs.nqp 0 (1088 + m.qp)).toNat + 1) % 2 ^ field w2 35 32
        let bell := (pairWord s m.qp 3).toNat + 4 * 2 ^ field w2 46 43
        let s1 := { s with
          hostMem := Memory.writeBytes s.hostMem bell (leBytes 4 head)
          modRegs := { s.modRegs with nqp := Map.put s.modRegs.nqp (1088 + m.qp) (BitVec.ofNat 64 head) } }
        some (if m.status = 3 then endTransfer e.oper m 3 s1
          else if status = 0 then endTransfer e.oper { m with pos := m.blocks } 0 (onMove e.oper m { m with pos := m.blocks } s1)
          else endTransfer e.oper m 4 s1)

/-- NVME_COMPLETION (R368): `n` is the transfer's number. -/
def execNvmeCompletion (n status : Nat) (s : State) : Host.Outcome State Fault Refusal := .next (s.orSelf (nvmeEnds s n status))

/-- The transfer that a drive's data access through a pair serves: of its direction, and its data lie there (R215, R368). -/
def driveMove (s : State) (q : Nat) (write : Bool) (va size : Nat) : Option (Nat × Transfer) :=
  ((s.opers.map (fun ko => ko.2.moves.map (fun m => (ko.1, m)))).flatten).find? (fun x =>
    x.2.phase == 2 && x.2.kind == (if write then 0x1B else 0x1C) && x.2.qp == q && nvmeVa x.2 ≤ va &&
    va + size ≤ nvmeVa x.2 + nvmeBytes s x.2)

/-- A drive's data access through the window makes accesses of its transfer, which are translated in the pair's context at the
I/O die (R356, R368); the bytes of a read go back to the drive once it is performed. One that serves no transfer is dropped. -/
def driveAccess (s : State) (q : Nat) (write : Bool) (addr : Nat) (data : List Byte) : Option State :=
  let w2 := pairWord s q 2
  let va := addr - s.modRegs.nwin.toNat
  if !(bit w2 63) || addr < s.modRegs.nwin.toNat then none
  else match driveMove s q write va data.length with
    | none => none
    | some (site, m) =>
      some ((sectorParts (data.length / 64 + 2) va data.length).foldl (fun s p =>
        addAccess { Access.none with
          kind := if write then .write else .read, op := m.kind, oper := site, region := (s.oper site).region, ctx := field w2 42 40,
          unit := ioUnit, tok := some m.token, stream := 2 * site, va := BitVec.ofNat 64 p.1, size := p.2,
          data := if write then (data.drop (p.1 - va)).take p.2 else [], elem := m.id, tag := m.tag, part := p.1 - va } s)
        (if write then s else { s with hostBytes := List.replicate data.length 0 }))

/-- DRIVE_DATA_ACCESS (R368). -/
def execDriveDataAccess (q : Nat) (write : Bool) (addr : Nat) (data : List Byte) (s : State) :
    Host.Outcome State Fault Refusal := .next (s.orSelf (driveAccess s q write addr data))

/-! ### Drawbar -/

/-- The tokens of a drawbar PORT that its region's caboose holds (R216, R401). -/
def forwardsHeld (s : State) (site : Nat) : Nat :=
  let k := (s.oper site).region
  if k = 0 then 0
  else ((s.region (k - 1)).caboose.filter (fun e => match e.act with
    | .forward x _ => x == site
    | _ => false)).length

/-- A token on port R of a drawbar PORT leaves for the other module (R216, R390): beyond its region, so through the caboose (R156,
R191). -/
def forwardToken (s : State) (n : Nat) : Option State :=
  match dataToken s n 11 .r with
  | none => none
  | some (fl, t) =>
    let site := fl.dst
    let o := s.oper site
    if o.portClass != 3 || 1024 ≤ o.unacked.length + forwardsHeld s site then none
    else if o.region = 0 then some (sendNumbered site t (sinkReport site t (takeFlight n fl s)))
    else if !cabooseRoom s (some (o.region - 1)) 1 then none
    else
      let s1 := sinkReport site t (takeFlight n fl s)
      some (enterCaboose (o.region - 1) site 0 t.tag.toNat (s.region (o.region - 1)).wave t.seq.toNat (.forward site t) s1)

/-- DRAWBAR_FORWARD (R216). -/
def execDrawbarForward (n : Nat) (s : State) : Host.Outcome State Fault Refusal := .next (s.orSelf (forwardToken s n))

/-- A stream token from another module at its PORT (R285, R390): the next one of its stream is emitted to `to`, any other
discarded; an acknowledgement is due. With 64 unacknowledged tokens the acknowledgement goes first. -/
def receiveSlot (p module : Nat) (slot : LinkSlot) (s : State) : Option State :=
  let g := targetOf slot.dst.toNat
  let site := Site.key (Target.site g)
  let o := s.oper site
  let mine := fun (x : StreamIn) => x.module == module && x.src == slot.src
  let e := (s.streamsIn.find? mine).getD ⟨module, slot.src, 0, p, site, 0⟩
  let put := fun (n : Nat) (s : State) => ({ s with
    streamsIn := s.streamsIn.filter (fun x => !mine x) ++ [{ e with next := n, link := p, site := site, due := e.due + 1 }] } : State)
  if o.kind != 11 then some s
  else if 64 ≤ e.due && (s.link e.link).state == 2 then none
  else if slot.seq != e.next then some (put e.next s)
  else
    let t := Token.ofWords (BitVec.ofNat 64 (slot.token.toNat % 2 ^ 64)) (BitVec.ofNat 64 (slot.token.toNat / 2 ^ 64))
    (operSend site (toA o) t s).map (put ((e.next + 1) % 2 ^ 32))

/-- The first received slot of a port is the one named. -/
def slotPort (s : State) (module : Nat) (slot : LinkSlot) : Option Nat :=
  (s.links.find? (fun kp => kp.2.inQ.head? == some (module, slot))).map Prod.fst

/-- The first slot received on a port reaches its PORT. -/
def takeSlot (s : State) (module : Nat) (slot : LinkSlot) : Option State :=
  match slotPort s module slot with
  | none => none
  | some p => if s.fatal then none
    else (receiveSlot p module slot s).map (fun s1 => s1.onLink p (fun q => { q with inQ := q.inQ.drop 1 }))

/-- DRAWBAR_RECEIVE (R390). -/
def execDrawbarReceive (module : Nat) (slot : LinkSlot) (s : State) : Host.Outcome State Fault Refusal :=
  .next (s.orSelf (takeSlot s module slot))

/-! ### After an access -/

/-- A write of an operator's pass is performed: its element is done when its other part is (R195, R276). -/
def writeDone (a : Access) (s : State) : State :=
  let site := a.oper
  let o := s.oper site
  let first := if a.part = 0 then a.id else a.id - 1
  let waits := s.accesses.any (fun x => x.oper == site && x.req.isNone && x.kind == .write && x.phase < 5 &&
    x.elem == a.elem && x.id != a.id && (if x.part = 0 then x.id else x.id - 1) == first)
  let s1 := keepAccess a s
  if waits || passOf a != o.epoch % 2 ^ 32 then s1
  else if o.kind = 3 then itemDone site (elementDone site s1) else elementDone site s1

/-- What follows the performance of an access, by what it was made for. -/
def afterPerform (a : Access) (s : State) : State :=
  match a.req with
  | some q => requestDone a q s
  | none =>
    if 0x18 ≤ a.op && a.op ≤ 0x1D then transferStep a s
    else if a.op = 4 then s.dropAccesses (fun x => x.id == a.id)
    else if 0x10 ≤ a.op && a.op ≤ 0x13 then keepAccess a s
    else match a.kind with
      | .write => writeDone a s
      | .read => if a.op = 1 && operAwake s a.oper then indexRead a s else s
      | _ => s

/-- An access is performed, with what follows (R275). -/
def performAccess (a : Access) (s : State) : State :=
  let r := performMem a s
  let a' := { a with phase := 5, bytes := r.1, poison := a.poison || r.2.1 }
  afterPerform a' (r.2.2.onAccess a.id (fun _ => a'))

end Sys2Proof.Machine
end

