-- ==== Sys2Proof/Machine/Tender.lean ====
section
/-! DEFINITION. The tenders and the I/O die's translation (R351 to R369): walks and holds, pins, arrival at the home and
its filter, invalidation, retirement, patrol; and the stop of a fatal error (R422). -/

namespace Sys2Proof.Machine

/-! ### The fatal stop -/

/-- A fatal error stops the module (R421, R422): FSTAT records the class and the die, and the links go down. `site` is what the dump
gives as the detecting site (R423; which site a cause gives, log entry 118). -/
def State.fatalStop (s : State) (cls die site : Nat) : State :=
  if s.fatal then s
  else { s with
    fatal := true
    fatalSite := BitVec.ofNat 64 (site % 2 ^ 32)
    modRegs := { s.modRegs with fstat := BitVec.ofNat 64 (cls % 16 + die % 32 * 2 ^ 6) }
    links := s.links.map (fun (kp : Nat × LinkPort) => (kp.1, { kp.2 with lstat := setField kp.2.lstat 2 0 0 })) }

/-! ### Element faults -/

/-- An element faults (R198, R204, R205, R208, R362): the token that it comes of is saved, where there is one. The data of a drive
that fail leave its transfer to complete with status 3 (R215). -/
def elementFails (a : Access) (code : Nat) (s : State) : State :=
  let site := a.oper
  let o := s.oper site
  let saved : Token := { Token.zero with
    payload := BitVec.ofNat 64 (leNat (a.cmp.take 8)), tag := BitVec.ofNat 16 a.tag, seq := BitVec.ofNat 6 a.seq,
    ctx := BitVec.ofNat 3 a.ctx, die := BitVec.ofNat 5 (Site.ofKey site).die, row := BitVec.ofNat 7 (Site.ofKey site).row,
    col := BitVec.ofNat 8 (Site.ofKey site).col }
  let same := fun (x : Access) => x.oper == site && x.req.isNone && x.elem == a.elem && x.kind == a.kind && x.phase < 7
  match a.req with
  | some q => requestFails a code q { s with net := if a.op < 0x213 then s.net else s.net.eraseP (fun f => f.msg == .port q) }
  | none =>
    if 0x18 ≤ a.op && a.op ≤ 0x1D then
      match moveOf s site a.elem with
      | some m =>
        let s1 := operError site code a.tag (some (a.tok.getD saved)) s
        if m.phase = 2 && transferClass m.kind = 2 then
          onMove site m { m with status := 3 } (s1.dropAccesses (fun x => x.id == a.id))
        else endTransfer site m 3 s1
      | none => s.dropAccesses (fun x => x.id == a.id)
    else if o.kind = 0 then
      operError site code a.tag (some (Token.toTarget { saved with payload := 0 } (toA o)))
        ((s.dropAccesses (fun x => x.oper == site && x.req.isNone && a.elem ≤ x.elem && x.phase < 7)).onOper site (fun o => { o with
          sent := a.elem, status := 3, state := if o.done = a.elem then 5 else 2 }))
    else if o.kind = 1 then
      let first := if a.part = 0 then a.id else a.id - 1
      let s1 := s.dropAccesses (fun x => x.oper == site && x.req.isNone && first ≤ x.id && x.phase < 7)
      let left := ((s1.accesses.filter (fun x => x.oper == site && x.req.isNone && x.kind == .write && x.phase < 7 &&
        passOf x == o.epoch % 2 ^ 32)).map (fun x => if x.part = 0 then x.id else x.id - 1)).eraseDups.length
      operError site code a.tag (some (a.tok.getD saved)) (s1.onOper site (fun o => { o with
        sent := o.done + left, pos := o.done + left, status := 3, state := if left = 0 then 5 else 2 }))
    else if o.kind = 6 then
      operError site code a.tag (some (a.tok.getD saved)) ({ s with accesses := s.accesses.map (fun x =>
        if same x then { x with op := 3, phase := 5, bytes := [], poison := false } else x) })
    else
      let s1 := s.dropAccesses same
      let s2 := itemFault site code a.tag (if a.op = 1 then a.va else BitVec.ofNat 64 (leNat (a.cmp.take 8))) a.tok s1
      if o.kind = 2 && itemMode o = 2 then issueNext site s2 else s2

/-! ### Translation -/

/-- The earlier elements of the access's stream have been translated (R356, R360). -/
def inTurn (s : State) (a : Access) : Bool :=
  !(s.accesses.any (fun b => b.oper == a.oper && b.stream == a.stream && b.id < a.id && (b.phase == 0 || b.phase == 1)))

/-- The page of an access permits it (R354). -/
def permits (k : AccKind) (r w : Bool) : Bool :=
  match k with
  | .read => r
  | .write | .queue => w
  | .atomic => r && w

/-- A translated access takes its pin and goes on to its home, or waits for a pin (R364). -/
def takePin (a : Access) (page sh pa : Nat) (s : State) : State :=
  if holdsPin s a page || s.pins.any (fun p => p.unit == a.unit && p.ctx == a.ctx && p.page == page) ||
    pinnedPages s a.unit < 1024 then
    issueNext a.oper ((pinPage a page sh s).onAccess a.id (fun x => { x with phase := 2, pa := pa }))
  else s.onAccess a.id (fun x => { x with phase := 1 })

/-- A walk ends (R354, R360): the element is translated, faults, or is held. -/
def walkEnd (s : State) (n : Nat) : Option State :=
  match s.access n with
  | none => none
  | some a =>
    if a.phase != 0 || !inTurn s a then none
    else match translate s a.unit a.ctx a.va.toNat with
      | .fault level cause => some (holdAccess a level cause s)
      | .page sh fr r w refs =>
        let page := a.va.toNat / 2 ^ sh * 2 ^ sh
        let s1 := fillTlb a.unit a.ctx a.va.toNat (.page sh fr r w refs) s
        if !permits a.kind r w then some (elementFails a 0x09 s1)
        else if !refs && !holdsPin s a page then some (elementFails a 0x0C s1)
        else some (takePin a page sh (fr + a.va.toNat % 2 ^ sh) s1)

/-- TRANSLATION_WALK_END (R354): `n` is the access's number. -/
def execTranslationWalkEnd (n : Nat) (s : State) : Host.Outcome State Fault Refusal := .next (s.orHeld (walkEnd s n))

/-- An access waits for a pin, and is held by no fault. -/
def waitsPin (s : State) (a : Access) : Bool := a.phase == 1 && !(s.holds.any (fun h => h.access == a.id))

/-- A first touch that found the pin table full goes on when a pin is free (R364): it is translated now, and checked as any first
touch. -/
def pinGrant (s : State) (n : Nat) : Option State :=
  match s.access n with
  | none => none
  | some a =>
    if !waitsPin s a || 1024 ≤ pinnedPages s a.unit then none else walkEnd (s.onAccess n (fun x => { x with phase := 0 })) n

/-- PIN_GRANTED (R364). -/
def execPinGranted (n : Nat) (s : State) : Host.Outcome State Fault Refusal := .next (s.orHeld (pinGrant s n))

/-- The first operator of a unit that waits for an engine slot starts its pass (R358). -/
def slotFreed (s : State) (u : Nat) : Option State :=
  match s.opers.find? (fun ko => ko.2.state == 4 && !ko.2.arms.isEmpty && servingUnit s ko.1 == u) with
  | none => none
  | some ko => if slotFree s u then some (startNext ko.1 s) else none

/-- ENGINE_SLOT_FREED (R358). -/
def execEngineSlotFreed (u : Nat) (s : State) : Host.Outcome State Fault Refusal := .next (s.orHeld (slotFreed s u))

/-! ### The home -/

/-- The home of a physical address: the stack's tender, or the I/O die (R275, R351). -/
def homeOf (pa : Nat) : Nat := if inT3 pa then ioUnit else pa / 2 ^ 36

/-- The two filter positions of a physical address (R359). -/
def filterSpots (pa : Nat) : Nat × Nat :=
  (pa / 64 % 4096, Nat.xor (Nat.xor (pa / 2 ^ 18 % 4096) (pa / 2 ^ 30 % 4096)) (pa / 2 ^ 42 % 1024))

/-- The numbers of in-flight writes and atomics at a home that map to a filter position (R359). -/
def filterAt (s : State) (home spot : Nat) : List Nat :=
  (s.accesses.filter (fun b => (b.phase == 3 || b.phase == 4) && b.kind != .read && homeOf b.pa == home &&
    ((filterSpots b.pa).1 == spot || (filterSpots b.pa).2 == spot))).map Access.id

/-- An access is ordered at its home: performed, but a write to T3 waits for the expander (R275, R359, R367). -/
def orderAccess (a : Access) (s : State) : State :=
  if inT3 a.pa && a.kind != .read then s.onAccess a.id (fun x => { x with phase := 4 }) else performAccess a s

/-- Two accesses of a stream go to one sector (R276): of one virtual address, whatever frame of a migrating page each found, or of one
place of physical memory. -/
def sameSector (a b : Access) : Bool :=
  b.size != 0 && ((b.ctx == a.ctx && b.va.toNat / 64 == a.va.toNat / 64) || (2 ≤ b.phase && b.phase ≤ 4 && b.pa / 64 == a.pa / 64))

/-- Every earlier access of the stream to the same sector has been performed (R160, R276). -/
def sectorTurn (s : State) (a : Access) : Bool :=
  !(s.accesses.any (fun b => b.oper == a.oper && b.stream == a.stream && b.id < a.id && b.phase < 5 && sameSector a b))

/-- An access arrives at its home (R359): it waits on a filter hit, or is ordered; a write to T3 that was ordered is
completed by its expander (R367). An access whose replayed copy was dropped counts again where it stood (R282). -/
def tenderStep (s : State) (n : Nat) : Option State :=
  match s.access n with
  | none => none
  | some a =>
    if a.phase = 2 && sectorTurn s a then
      let h := homeOf a.pa
      let h1 := filterAt s h (filterSpots a.pa).1
      let h2 := filterAt s h (filterSpots a.pa).2
      if !h1.isEmpty && !h2.isEmpty then
        some (s.onAccess n (fun x => { x with phase := 3, before := (h1 ++ h2).eraseDups }))
      else some (orderAccess a s)
    else if a.phase = 4 && inT3 a.pa then some { performAccess a s with cxl := Map.del s.cxl n }
    else if a.phase = 5 && a.req.isNone && (a.kind == .write || (a.op == 1 && operAwake s a.oper)) then some (afterPerform a s)
    else none

/-- TENDER_ACCESS (R359): `n` is the access's number. -/
def execTenderAccess (n : Nat) (s : State) : Host.Outcome State Fault Refusal := .next (s.orHeld (tenderStep s n))

/-- The writes that an access waited for at the filter are performed (R359). -/
def filterEnd (s : State) (n : Nat) : Option State :=
  match s.access n with
  | none => none
  | some a =>
    if a.phase != 3 || s.accesses.any (fun b => a.before.contains b.id && b.phase < 5) then none
    else some (orderAccess a s)

/-- FILTER_WAIT_END (R359). -/
def execFilterWaitEnd (n : Nat) (s : State) : Host.Outcome State Fault Refusal := .next (s.orHeld (filterEnd s n))

/-- A write that its expander has not completed in time is retried once; a second failure is fatal (R367). -/
def cxlTimeout (s : State) (n : Nat) : Option State :=
  match s.access n with
  | none => none
  | some a =>
    if a.phase != 4 || !inT3 a.pa then none
    else if Map.get s.cxl 0 n = 0 then some { s with cxl := Map.put s.cxl n 1 }
    else some (s.fatalStop 1 24 0)

/-- CXL_WRITE_TIMEOUT (R367). -/
def execCxlWriteTimeout (n : Nat) (s : State) : Host.Outcome State Fault Refusal := .next (s.orSelf (cxlTimeout s n))

/-! ### Resolutions -/

/-- The host interface has accepted a version, and no fatal error has stopped the module (R381, R422). -/
def State.hostOpen (s : State) : Bool := bit s.modRegs.hifact 16 && !s.fatal

/-- A host's write takes effect only then. -/
def hostEvent (s : State) (g : State → State) : State := if s.hostOpen then g s else s

/-- The held record that a TRES value names (R362, R369). -/
def heldBy? (s : State) (v : Word) : Option Hold :=
  s.holds.find? (fun h => h.written && h.id == field v 15 0 && h.unit == field v 23 18)

/-- A TRES that names no held record is counted (R362). -/
def ignoreTres (s : State) : State :=
  s.onRegs (fun g => { g with tstat := setField g.tstat 31 16 (field g.tstat 31 16 + 1) })

/-- A hold is taken off (R362). -/
def unhold (h : Hold) (s : State) : State :=
  let s1 := { s with holds := s.holds.filter (fun x => !(x.unit == h.unit && x.id == h.id)) }
  match s.access h.access with
  | some a => s1.onOper a.oper (fun o => if o.state = 3 then { o with state := 2 } else o)
  | none => s1

/-- The held access is a queue form's: the form itself waits at the I/O die. -/
def Access.ofQueue (a : Access) : Bool := a.req.isSome && 0x213 ≤ a.op && a.op ≤ 0x215

/-- TRES retry: the walk is made again (R362); that of a queue form as the I/O die serves it again. -/
def tresRetry (v : Word) (s : State) : State :=
  match heldBy? s v with
  | some h =>
    let s1 := unhold h s
    if (s1.access h.access).any Access.ofQueue then s1.dropAccesses (fun x => x.id == h.access)
    else s1.onAccess h.access (fun x => { x with phase := 0 })
  | none => ignoreTres s

/-- TRES_RETRY (R362). -/
def execTresRetry (v : Word) (s : State) : Host.Outcome State Fault Refusal :=
  .next (hostEvent s (fun s => if field v 17 16 = 1 then tresRetry v s else s))

/-- TRES fail: the element faults with protection (R362). -/
def tresFail (v : Word) (s : State) : State :=
  match heldBy? s v with
  | some h => match s.access h.access with
    | some a => elementFails a 0x09 (unhold h s)
    | none => unhold h s
  | none => ignoreTres s

/-- TRES_FAIL (R362). -/
def execTresFail (v : Word) (s : State) : Host.Outcome State Fault Refusal :=
  .next (hostEvent s (fun s => if field v 17 16 = 2 then tresFail v s else s))

/-- FQHEAD is written: room in the queue lets units write the records they hold (R361). -/
def fqheadWrite (v : Word) (s : State) : State :=
  let s1 := s.onRegs (fun g => { g with
    fqhead := BitVec.ofNat 64 (field v 15 0), fqFull := g.fqFull && field v 15 0 == field g.fqhead 15 0 })
  let s2 := drainRetire s1.faultQ s1
  drainHolds s2.holds s2

/-- FQHEAD_WRITE (R361, R369). -/
def execFqheadWrite (v : Word) (s : State) : Host.Outcome State Fault Refusal := .next (hostEvent s (fqheadWrite v))

/-! ### Invalidation and retirement -/

/-- A cached translation that a TINV value matches (R357). -/
def tinvHits (scope ctx page : Nat) (t : Tlb) : Bool :=
  scope == 2 || (t.ctx == ctx && (scope == 1 || page / 2 ^ t.shift == t.page))

/-- An access translated in the space that is invalidated, and not performed yet (R357): with one of the dropped translations, or,
where its unit's cache has lost that since, of the page itself. -/
def tinvWaits (scope ctx page : Nat) (dropped : List Tlb) (a : Access) : Bool :=
  2 ≤ a.phase && a.phase < 5 && a.size != 0 &&
  (scope == 2 || (a.ctx == ctx && (scope == 1 || a.va.toNat / 2 ^ 16 == page / 2 ^ 16 ||
    dropped.any (fun t => t.unit == a.unit && t.ctx == a.ctx && t.page == a.va.toNat / 2 ^ t.shift))))

/-- A page begins retirement: its leaf entry is valid with refs = 0 (R365). -/
def startRetire (ctx page : Nat) (s : State) : State :=
  match walk s ctx page with
  | .page sh _ _ _ refs => if refs then s else { s with retire := s.retire ++ [(ctx, page / 2 ^ sh * 2 ^ sh, sh)] }
  | .fault _ _ => s

/-- An invalidation begins (R357): the caches drop what it matches. -/
def startTinv (v : Word) (s : State) : State :=
  let scope := field v 61 60
  let ctx := field v 59 57
  let page := field v 56 16 * 65536
  let s1 := { s with
    tlb := s.tlb.filter (fun t => !tinvHits scope ctx page t)
    inval := s.inval ++ [⟨scope, ctx, page, (s.accesses.filter (tinvWaits scope ctx page (s.tlb.filter (tinvHits scope ctx page)))).map Access.id⟩] }
  if scope = 0 then startRetire ctx page s1 else s1

/-- A TINV write: it waits while an earlier invalidation is not complete (R369). -/
def tinvWrite (v : Word) (s : State) : State :=
  if s.inval.isEmpty && s.tinvWait.isEmpty then startTinv v s else { s with tinvWait := s.tinvWait ++ [v] }

/-- TINV_PAGE (R357). -/
def execTinvPage (v : Word) (s : State) : Host.Outcome State Fault Refusal :=
  .next (hostEvent s (fun s => if field v 61 60 = 0 then tinvWrite v s else s))
/-- TINV_CONTEXT (R357). -/
def execTinvContext (v : Word) (s : State) : Host.Outcome State Fault Refusal :=
  .next (hostEvent s (fun s => if field v 61 60 = 1 then tinvWrite v s else s))
/-- TINV_ALL (R357). -/
def execTinvAll (v : Word) (s : State) : Host.Outcome State Fault Refusal :=
  .next (hostEvent s (fun s => if field v 61 60 = 2 then tinvWrite v s else s))

/-- The migration of a page ends with its invalidation (R366). -/
def endMigration (ctx page : Nat) (s : State) : State :=
  match s.migrations.find? (fun g => g.ctx == ctx && g.page == page) with
  | none => s
  | some g =>
    let s1 := { s with migrations := s.migrations.filter (fun x => x != g) }
    match s1.access g.oper with
    | some e => match moveOf s1 e.oper g.oper with
      | some m => endTransfer e.oper { m with pos := g.size } 0 s1
      | none => s1
    | none => s1

/-- The first invalidation completes, and a TINV that waited starts (R357, R369). -/
def invalEnds (s : State) : Option State :=
  match s.inval with
  | [] => none
  | i :: rest =>
    if s.accesses.any (fun a => i.waits.contains a.id && a.phase < 5) then none
    else
      let s1 := if i.scope = 3 then endMigration i.ctx i.page { s with inval := rest } else { s with inval := rest }
      match s1.inval, s1.tinvWait with
      | [], v :: vs => some (startTinv v { s1 with tinvWait := vs })
      | _, _ => some s1

/-- INVALIDATION_COMPLETE (R357). -/
def execInvalidationComplete (s : State) : Host.Outcome State Fault Refusal := .next (s.orSelf (invalEnds s))

/-- A retiring page that no unit pins gets its record of cause 8, once no invalidation is under way (R365). -/
def retireRecord (s : State) (n : Nat) : Option State :=
  match s.retire[n]? with
  | none => none
  | some (ctx, page, sh) =>
    if !s.inval.isEmpty || s.pins.any (fun p => p.ctx == ctx && p.page < page + 2 ^ sh && page < p.page + 2 ^ p.shift) then none
    else
      let ws := [BitVec.ofNat 64 (page % 2 ^ 57 + ctx * 2 ^ 57), BitVec.ofNat 64 (8 * 2 ^ 32 + 63 * 2 ^ 36), 0, 0]
      some (drainRetire (s.faultQ ++ [ws]) { s with retire := s.retire.eraseIdx n })

/-- PAGE_RETIRE_RECORD (R365). -/
def execPageRetireRecord (n : Nat) (s : State) : Host.Outcome State Fault Refusal := .next (s.orSelf (retireRecord s n))

/-! ### Patrol -/

/-- T2_PATROL (R417): the patrol reads the next sector of a stack. A word that it corrects reads as before; one that it
cannot correct delivers poison until a write covers it. -/
def execT2Patrol (stack : Nat) (fixed bad : Bool) (s : State) : Host.Outcome State Fault Refusal :=
  let i := Map.get s.patrol 0 stack
  .next (if s.fatal || 48 ≤ stack then s else { s with
    patrol := Map.put s.patrol stack ((i + 1) % 2 ^ 30)
    poisonMem := if bad && !fixed && !(s.poisonMem.contains (stack * 2 ^ 33 + 8 * i)) then
      s.poisonMem ++ [stack * 2 ^ 33 + 8 * i] else s.poisonMem })

end Sys2Proof.Machine
end

