-- ==== Sys2Proof/Machine/Region.lean ====
section
/-! DEFINITION. Regions as the host and the arbiter drive them: flushing (R339), drain detection (R337), halt and resume (R375),
and the clear commands (R349). -/

namespace Sys2Proof.Machine

/-! ### A region's parts -/

/-- The context of a running value's key. -/
def accCtx (k : Nat) : Nat := k / 65536 % 8

/-- A PE without anything of a context but its stations: no operands, firings or running values (R339). -/
def purgeCtx (c : Nat) (p : Pe) : Pe :=
  { p with
    entries := p.entries.filter (fun e => e.ctx != c)
    marked := p.marked.filter (fun e => e.ctx != c)
    ready := p.ready.filter (fun e => e.ctx != c)
    results := p.results.filter (fun e => e.ctx != c)
    invar := p.invar.keep (fun k => k % 8 != c)
    accum := p.accum.keep (fun k => accCtx k != c)
    pendingOut := p.pendingOut.keep (fun k => k % 8 != c)
    joins := p.joins.keep (fun k => k % 8 != c)
    forwarded := p.forwarded.filter (fun k => k % 8 != c)
    emitted := p.emitted.filter (fun e => e.1.ctx != c) }

/-- A PE without weights, accumulators and rows (R172). -/
def purgeMatrix (p : Pe) : Pe := { p with active := [], shadow := [], cells := [], west := [], north := [] }

/-- A change at every PE of a region. -/
def onRegionPes (k : Nat) (g : Pe → Pe) (s : State) : State :=
  ((s.region k).peSites.map Site.key).foldl (fun s x => s.onPe x g) s

/-- A change at every operator site of a region. -/
def onRegionOpers (k : Nat) (g : Nat → Oper → Oper) (s : State) : State :=
  { s with opers := s.opers.map (fun (ko : Nat × Oper) => (ko.1, if ko.2.region == k + 1 then g ko.1 ko.2 else ko.2)) }

/-- The context of a region owns its matrix state (R172). -/
def ownsMatrix (s : State) (k : Nat) : Bool := (s.matrix (Site.key (s.region k).corner)).owner == some (s.region k).ctx

/-- Every descriptor copy of a tile is of this context. -/
def tileOf (c : Nat) (t : Tile) : Bool := !t.descs.isEmpty && t.descs.all (fun kd => kd.1 / 4096 == c)

/-- The memory tiles that hold statements of a region's context (R248). -/
def regionTiles (s : State) (k : Nat) : List Nat :=
  (s.tiles.filter (fun kt => tileOf (s.region k).ctx kt.2 && s.tileRegion (Site.ofKey kt.1) (s.region k).ctx == some k)).map
    Prod.fst

/-- A tile with every slot empty and the stamp at zero (R272); its descriptor copies stay. -/
def Tile.emptied (t : Tile) : Tile := { Tile.clear with owner := t.owner, descs := t.descs, scrubPos := t.scrubPos, scrubDone := t.scrubDone }

/-- Named storage of a region reset (R272). -/
def resetNames (k : Nat) (s : State) : State :=
  (regionTiles s k).foldl (fun s x => s.onTile x Tile.emptied) s

/-! ### Flushing -/

/-- A request whose station no longer waits for it: no target, and no station to tell. -/
def orphanReq (k : Nat) (q : PortReq) : PortReq :=
  if q.region = k then { q with
    targetA := targetOf 0, targetB := targetOf 0, site := 0, station := 0 }
  else q

/-- A name read of a flushed region, with no target (R339). -/
def orphanRead (k : Nat) (r : NameRead) : NameRead := if r.region = k then { r with targets := [] } else r

/-- A fold request of a flushed region, with no answer (R339). -/
def orphanFold (k : Nat) (q : FoldReq) : FoldReq := if q.region = k then { q with reply := [] } else q

/-- What a flushed region has released and is on its way takes effect; its answers have no target (R339). -/
def orphanFlight (k : Nat) (f : Flight) : Flight :=
  if f.region != k + 1 then f
  else { f with msg := match f.msg with
    | .port q => .port (orphanReq k q)
    | .read r => .read (orphanRead k r)
    | .fold q => .fold (orphanFold k q)
    | .word w => .word { w with reply := none }
    | m => m }

/-- The requests of a flushed region that wait in a tile have no target (R339). -/
def orphanTile (s : State) (k : Nat) (t : Tile) : Tile :=
  { t with
    serving := t.serving.map (fun v => { v with req := orphanRead k v.req })
    deferred := t.deferred.map (orphanRead k)
    stalled := t.stalled.map (fun w => if s.regionAt (Site.ofKey w.site) w.ctx == some k then { w with reply := none } else w)
    peeks := t.peeks.filter (fun v => v.req.region != k)
    resizing := t.resizing.map (orphanFold k) }

/-- At a PORT, the fences of a flushed region go, with the places of its stations, and its ordering domain makes room for that of
the next load (R161, R339). -/
def orphanPort (s : State) (k : Nat) (o : Oper) : Oper :=
  { o with
    owed := o.owed.filter (fun w => s.regionAt (Site.ofKey w.site) (w.station % 8) != some k)
    fences := o.fences.filter (fun f => f.req.region != k)
    doms := match Map.find o.doms k with
      | some d => Map.put (Map.del o.doms k) (1536 + k) { d with waiting := d.waiting.map (orphanReq k) }
      | none => o.doms }

/-- An answer on its way to a region (R339). -/
def answersTo (s : State) (k : Nat) (f : Flight) : Bool :=
  f.isAnswer && s.regionAt (Site.ofKey f.dst) (s.region k).ctx == some k

/-- Accesses released before a flush are still performed; nobody waits for them (R339). Operation 4 marks those of an
operator. What no caboose had released, and what only a replay would use, is dropped. -/
def orphanAccess (k : Nat) (a : Access) : Option Access :=
  if a.region != k + 1 then some a
  else if a.phase = 6 || 8 ≤ a.phase || a.phase = 1 then none
  else match a.req with
    | some q => some { a with req := some (orphanReq k q) }
    | none =>
      if a.kind == .read || a.phase = 5 then none
      else some { a with op := 4 }

/-- An operator after a flush: idle, nothing held, its parameters as they are (R194, R339). -/
def flushOper (o : Oper) : Oper :=
  if o.kind = 11 then { o with joins := 0, forwarded := false, moves := [], out := [] }
  else { Oper.idle with
    kind := o.kind, pm := o.pm, region := o.region, fanin := o.fanin, nextTag := o.nextTag, passNo := o.passNo, epoch := o.epoch
    expTag := if o.kind = 7 then field (Map.get o.pm 0 0) 31 16 else o.expTag, discard := o.discard }

/-- A barrier wait of a station of a region (R166): `w` holds its site, and its tag, context and station. -/
def waitOf (s : State) (k : Nat) (w : List Emit × Nat × Nat) : Bool :=
  w.2.2 / 512 % 8 == (s.region k).ctx && s.regionAt (Site.ofKey w.2.1) (s.region k).ctx == some k

/-- A barrier without the operands that stations of a flushed region have waiting there (R339). -/
def Barrier.without (mine : (List Emit × Nat × Nat) → Bool) (b : Barrier) : Barrier :=
  { b with
    opened := b.opened.map (fun g => { g with waits := g.waits.filter (fun w => !mine w) })
    queue := b.queue.filter (fun q => q.1.all (fun w => !mine w)) }

/-- The matrix operations and assembled rows of a flushed region's context go; weights and accumulators, which are no tokens, stay
(R339). -/
def flushMatrix (k : Nat) (s : State) : State :=
  let c := (s.region k).ctx
  let s1 := if ownsMatrix s k then onRegionPes k (fun p => { p with west := [], north := [] }) s else s
  s1.onMatrix (Site.key (s.region k).corner) (fun m => { m with queue := m.queue.filter (fun q => q.ctx != c) })

/-- A flushing reconfiguration empties a region (R339). -/
def flushRegion (k : Nat) (s : State) : State :=
  let r := s.region k
  let gone := (s.accesses.filter (fun a => a.region == k + 1 && (orphanAccess k a).isNone)).map Access.id
  let moves := ((regionOpers s k).map (fun ko => ko.2.moves)).flatten
  let s1 : State := { dropMigration ((moves.filter (fun m => m.phase != 3)).map Transfer.id) s with
    net := (s.net.filter (fun f => !(s.inside k f || answersTo s k f))).map (orphanFlight k)
    tiles := s.tiles.map (fun kt => (kt.1, orphanTile s k kt.2))
    opers := s.opers.map (fun ko => (ko.1, if ko.2.kind = 11 then orphanPort s k ko.2 else ko.2))
    accesses := s.accesses.filterMap (orphanAccess k)
    holds := s.holds.filter (fun h => !(gone.contains h.access))
    slots := s.slots.filter (fun kv => (s.oper kv.1).region != k + 1)
    snaps := s.snaps.filter (fun x => x.region != k) }
  let s2 := (regionOpers s1 k).foldl (fun s ko => unpin (2 * ko.1) s)
    (moves.foldl (fun s m => unpin (2 * m.id + 1) s) s1)
  let s3 := flushMatrix k (onRegionOpers k (fun _ o => flushOper o) (onRegionPes k (purgeCtx r.ctx) s2))
  let s4 := s3.onRegion k (fun r => { r with
    caboose := [], inputs := [], keysOut := [], keysAwait := [], replayQ := [], rolling := false, restarts := 0, launchQ := []
    streams := r.streams.map (fun q => { q with fifo := [] })
    domains := r.domains.map (fun d => { d with
      live := [], late := [], dead := [], sources := d.sources.map (fun x => { x with live := [] }) })
    frames := [], trigAhead := [], trigCovers := [], drainedTo := [], serialSet := false, halted := false, stepping := 0
    preempt := .none, clkKept := [], clkReplay := [], freed := [], refree := [], reported := [], progress := 0, progressAt := s.now r.die })
  resetNames k (s4.onRegion r.loadBase (fun b => { b with
    barriers := b.barriers.map (fun (kb : Nat × Barrier) => (kb.1, kb.2.without (waitOf s k))) }))

/-- RCMD command 2 (R339, R348): the region shows drained (log entry 18). -/
def flushByHost (r : Nat) (s : State) : State :=
  if (s.region r).valid && (s.region r).status != 1 then (flushRegion r s).onRegion r (fun g => { g with status := 4 }) else s

/-- REGION_FLUSH (R339). -/
def execRegionFlush (r : Nat) (s : State) : Host.Outcome State Fault Refusal := .next (hostEvent s (flushByHost r))

/-! ### Drained -/

/-- The stations of a region's context that have not forwarded. -/
def joinsOpen (s : State) (k : Nat) : Bool :=
  let r := s.region k
  r.peSites.any (fun x =>
    let p := s.pe (Site.key x)
    p.ctxState r.ctx == 1 && (List.range (p.ctxCount r.ctx)).any (fun st => !(p.forwarded.contains (stKey r.ctx st))))

/-- A region is drained (R337), but not while it is halted (R340): nothing of the old load is on its way in it or waits at an
entry (R283, R334). -/
def drainedNow (s : State) (k : Nat) : Bool :=
  let r := s.region k
  r.status == 3 && !r.halted && !joinsOpen s k && (regionOpers s k).all (fun ko => ko.2.forwarded && ko.2.out.isEmpty) &&
  r.caboose.isEmpty && accessesDone s k && !wordsOpen s k && r.launchQ.isEmpty && r.streams.all (fun q => q.fifo.isEmpty) &&
  !(s.net.any (s.inside k))

/-- REGION_DRAINED (R337): the status shows drained. -/
def execRegionDrained (r : Nat) (s : State) : Host.Outcome State Fault Refusal :=
  .next (if s.fatal || !drainedNow s r then s else s.onRegion r (fun g => { g with status := 4 }))

/-! ### Halt, resume and clears -/

/-- RCMD command 3 (R348, R375). -/
def haltCommand (r : Nat) (s : State) : State := if (s.region r).valid then haltRegion r s else s

/-- REGION_HALT (R375). -/
def execRegionHalt (r : Nat) (s : State) : Host.Outcome State Fault Refusal := .next (hostEvent s (haltCommand r))

/-- A halted region goes on (R375). -/
def resumeRegion (k : Nat) (s : State) : State :=
  if (s.region k).halted then
    wakeOpers k (s.onRegion k (fun r => { r with halted := false, stepping := 0, progressAt := s.now r.die }))
  else s

/-- REGION_RESUME (R375). -/
def execRegionResume (r : Nat) (s : State) : Host.Outcome State Fault Refusal := .next (hostEvent s (resumeRegion r))

/-- RCMD command 5 (R349). -/
def clearLog (r : Nat) (s : State) : State := s.onRegion r (fun g => { g with log := [], logCycles := [], overflow := 0 })

/-- CLEAR_POISON_LOG (R58, R349). -/
def execClearPoisonLog (r : Nat) (s : State) : Host.Outcome State Fault Refusal := .next (hostEvent s (clearLog r))

/-- RCMD command 6 (R349). The monitor stays silent until a retirement (R242). -/
def clearStall (r : Nat) (s : State) : State := s.onRegion r (fun g => { g with stallRec := 0, stalled := false })

/-- CLEAR_STALL (R349). -/
def execClearStall (r : Nat) (s : State) : Host.Outcome State Fault Refusal := .next (hostEvent s (clearStall r))

end Sys2Proof.Machine
end

