-- ==== Sys2Proof/Machine/Image.lean ====
section
/-! DEFINITION. A Casow image as it lies in memory (R13, R325 to R328): its header, load table and sections. -/

namespace Sys2Proof.Machine

/-- A stream declaration (R237, R328). `clean`: its bytes that must be zero are. -/
structure StreamDecl where
  entry  : BitVec 32
  depth  : Nat
  tokens : Nat
  window : Nat
  region : Nat
  clean  : Bool
  deriving DecidableEq, Repr

/-- An operator record (R328). -/
structure OperRec where
  place  : Target
  kind   : Nat
  region : Nat
  fanin  : Nat
  clean  : Bool
  pms    : List Word
  deriving DecidableEq, Repr

/-- A configuration record (R328): the word and its sideband address. -/
structure CfgRec where
  word  : StationWord
  side  : Word
  clean : Bool
  deriving DecidableEq, Repr

/-- An initial-data block (R328): its address and length, and where its bytes lie. `clean`: its length is at least 1 and
every byte of its header and padding that must be zero is. -/
structure DataBlock where
  va    : Word
  len   : Nat
  start : Nat
  clean : Bool
  deriving DecidableEq, Repr

/-- One load of an image, as parsed. `whole`: every part lies inside its section and the section inside the image. -/
structure LoadSec where
  index   : Nat
  ctx     : Nat
  ntok    : Nat
  heads   : List (List Word)
  bars    : List Nat
  streams : List StreamDecl
  tokens  : List (Word × Word)
  opers   : List OperRec
  recs    : List CfgRec
  blocks  : List DataBlock
  clean   : Bool
  whole   : Bool
  deriving DecidableEq, Repr

/-- The little-endian number of `n` bytes of memory (R6). -/
def memNat (s : State) (a n : Nat) : Nat := leNat (Memory.readBytes s.mem a n)

/-- 64-bit words of memory, `n` of them. -/
def memWords (s : State) (a n : Nat) : List Word := (List.range n).map (fun i => Memory.readWord s.mem (a + 8 * i))

/-- A stream declaration at an address. -/
def readStream (s : State) (a : Nat) : StreamDecl :=
  ⟨BitVec.ofNat 32 (memNat s a 4), memNat s (a + 4) 2, memNat s (a + 6) 2, memNat s (a + 8) 2, memNat s (a + 10) 1,
    memNat s (a + 11) 5 == 0⟩

/-- An operator record at an address. -/
def readOper (s : State) (a : Nat) : OperRec :=
  ⟨targetOf (memNat s a 4), memNat s (a + 4) 1 % 16, memNat s (a + 5) 1, memNat s (a + 6) 1 % 16,
    memNat s (a + 4) 1 < 16 && memNat s (a + 6) 1 < 16 && memNat s (a + 7) 9 == 0, memWords s (a + 16) 16⟩

/-- A configuration record at an address. -/
def readRec (s : State) (a : Nat) : CfgRec :=
  ⟨BitVec.ofNat 128 (memNat s a 16), BitVec.ofNat 64 (memNat s (a + 16) 8), memNat s (a + 24) 8 == 0⟩

/-- The kind of a record's word (R328). -/
def CfgRec.kind (r : CfgRec) : Nat := field r.side 3 0
/-- Its destination site. -/
def CfgRec.site (r : CfgRec) : Site := ⟨field r.side 8 4, field r.side 15 9, field r.side 23 16⟩
/-- Its index. -/
def CfgRec.index (r : CfgRec) : Nat := field r.side 36 24
/-- Its coupling count. -/
def CfgRec.fanin (r : CfgRec) : Nat := field r.side 40 37

/-- `n` initial-data blocks from an address: header, data, and padding to 16 bytes (R328). -/
def readBlocks (s : State) : Nat → Nat → List DataBlock
  | 0, _ => []
  | n + 1, a =>
    let len := memNat s (a + 8) 4
    let stop := a + 16 + (len + 15) / 16 * 16
    ⟨BitVec.ofNat 64 (memNat s a 8), len, a + 16,
      memNat s (a + 12) 1 < 8 && memNat s (a + 13) 3 == 0 && 1 ≤ len && memNat s (a + 16 + len) (stop - (a + 16 + len)) == 0⟩ ::
      readBlocks s n stop

/-- The end of the last block. -/
def blocksEnd (a : Nat) : List DataBlock → Nat
  | [] => a
  | [b] => b.start + (b.len + 15) / 16 * 16
  | _ :: bs => blocksEnd a bs

/-- The load of an index of the image at an address (R325, R328). -/
def readLoad (s : State) (img i : Nat) : LoadSec :=
  let len := memNat s (img + 24) 8
  let e := img + memNat s (img + 32) 8 + 32 * i
  let off := memNat s e 8
  let size := memNat s (e + 8) 8
  let sec := img + off
  let ntok := memNat s (e + 17) 1
  let nreg := memNat s (e + 18) 2
  let nstr := memNat s (e + 20) 2
  let nop := memNat s (e + 22) 2
  let bar := memNat s (e + 24) 4
  let nblk := memNat s (e + 28) 4
  let streams := sec + bar + 128
  let toks := streams + 16 * nstr
  let ops := toks + 16 * ntok
  let cfg := ops + 144 * nop
  let fits := bar + 128 + 16 * nstr + 16 * ntok + 144 * nop + 16 ≤ size && off + size ≤ len && 32 * nreg ≤ bar
  let n := if fits then memNat s cfg 8 else 0
  let data := cfg + 16 + 32 * n
  let whole := fits && data + 16 * nblk ≤ sec + size
  if !whole then ⟨i, 0, 0, [], [], [], [], [], [], [], true, false⟩
  else
    let blocks := readBlocks s nblk data
    { index := i
      ctx := memNat s (e + 16) 1 % 8
      ntok := ntok
      heads := (List.range nreg).map (fun j => memWords s (sec + 32 * j) 4)
      bars := (List.range 64).map (fun j => memNat s (sec + bar + 2 * j) 2)
      streams := (List.range nstr).map (fun j => readStream s (streams + 16 * j))
      tokens := (List.range ntok).map (fun j => (Memory.readWord s.mem (toks + 16 * j), Memory.readWord s.mem (toks + 16 * j + 8)))
      opers := (List.range nop).map (fun j => readOper s (ops + 144 * j))
      recs := (List.range n).map (fun j => readRec s (cfg + 16 + 32 * j))
      blocks := blocks
      clean := memNat s (e + 16) 1 < 8 && memNat s (cfg + 8) 8 == 0
      whole := blocksEnd data blocks ≤ sec + size }

/-- Number of loads of the image at an address (R325). -/
def imageLoads (s : State) (img : Nat) : Nat := memNat s (img + 12) 4

/-- A region record as a header gives it (R327, R348). -/
def headRegion (h : List Word) : Region :=
  let w := h.getD 0 0
  { Region.empty with
    head := w, head1 := h.getD 1 0, head2 := h.getD 2 0, head3 := h.getD 3 0
    ctl := BitVec.ofNat 64 (field w 63 59 + field w 58 51 * 64) }

/-- The regions of a load, in header order. -/
def LoadSec.regions (l : LoadSec) : List Region := l.heads.map headRegion

/-- The number of the load's region that holds a PE site. -/
def LoadSec.regionOf (l : LoadSec) (x : Site) : Option Nat := firstIdx (fun r => r.holdsPe x) l.regions 0

/-- The context-table entries of a load (R29, R328): site and entry. -/
def LoadSec.entries (l : LoadSec) : List (Site × BitVec 32) :=
  (l.recs.filter (fun r => r.kind == 1 && r.index == l.ctx)).map (fun r => (r.site, BitVec.ofNat 32 r.word.toNat))

/-- The entry of the load's context at a PE. -/
def LoadSec.entryAt (l : LoadSec) (x : Site) : Option (BitVec 32) := (l.entries.find? (fun e => e.1 == x)).map Prod.snd

/-- The station count of the load at a PE, where it has an entry. -/
def LoadSec.countAt (l : LoadSec) (x : Site) : Option Nat := (l.entryAt x).map (fun e => field e 19 10)

/-- A station of a load: site, logical number, word and producer count. -/
structure Station where
  site  : Site
  st    : Nat
  word  : StationWord
  fanin : Nat
  deriving DecidableEq, Repr

/-- The stations of a load (R29): a record's slot less the entry's base. A slot outside its entry is rejected
(`layoutRejects`). -/
def LoadSec.stations (l : LoadSec) : List Station :=
  (l.recs.filter (fun r => r.kind == 2)).map (fun r =>
    ⟨r.site, r.index - field ((l.entryAt r.site).getD 0) 8 0, r.word, r.fanin⟩)

/-- The station of a site and number. -/
def LoadSec.stationAt (l : LoadSec) (x : Site) (st : Nat) : Option Station :=
  l.stations.find? (fun q => q.site == x && q.st == st)

/-- The operator record at a site. -/
def LoadSec.operAt (l : LoadSec) (x : Site) : Option OperRec := l.opers.find? (fun o => Target.site o.place == x)

/-- An operator as its record gives it (R191). -/
def OperRec.oper (o : OperRec) : Oper :=
  { Oper.idle with kind := o.kind, pm := (List.range 16).zip o.pms, fanin := o.fanin }

/-- The targets of a station: its own, and the column stations of a run (R88, R183). -/
def stationTargets (r : Region) (w : StationWord) : List Target :=
  let f := decodeFields w
  validTargets f ++ columnTargets r (wordOp w) f

/-! ### Graphs of a load -/

/-- The loads of the image at an address. -/
def imageSecs (s : State) (img : Nat) : List LoadSec := (List.range (imageLoads s img)).map (readLoad s img)

/-- The context that a word's emissions go to (R84). -/
def destCtx (op : Nat) (f : Fields) (ctx : Nat) : Nat := emitCtx op f ctx

/-- The member number of a destination. -/
def targetMember (t : Target) : Nat :=
  member (Site.key (Target.site t)) (if isPe (Target.site t) then t.station.toNat else 0)

/-- A stream's or token's destination as a member number. -/
def tokenMember (t : Token) : Nat :=
  member (Site.key (Token.site t)) (if isPe (Token.site t) then t.station.toNat else 0)

/-- The members in context `c` that a station's emissions reach: its targets where it emits in that context (R84), and
the column stations of a run, which are of its own. -/
def Station.feeds (r : Region) (own c : Nat) (q : Station) : List Nat :=
  let op := wordOp q.word
  let f := decodeFields q.word
  (if destCtx op f own = c then (validTargets f).map targetMember else []) ++
  (if own = c then (columnTargets r op f).map targetMember else [])

/-- The members in context `c` that an operator's tokens reach: its four targets where it emits in that context (R192). -/
def OperRec.feeds (c : Nat) (o : OperRec) : List Nat :=
  if operCtx o.oper = c then ((operTargets o.oper).filter Target.valid).map targetMember else []

/-- The members of region `k` of a load: its stations and operators with the members they feed in the load's context. -/
def LoadSec.nodes (l : LoadSec) (k : Nat) : List (Nat × List Nat) :=
  let r := l.regions.getD k Region.empty
  (l.stations.filter (fun q => l.regionOf q.site == some k)).map (fun (q : Station) =>
    (member (Site.key q.site) q.st, q.feeds r l.ctx l.ctx)) ++
  (l.opers.filter (fun o => o.region == k)).map (fun (o : OperRec) =>
    (member (Site.key (Target.site o.place)) 0, o.feeds l.ctx))

/-! ### Domains of a load (R225) -/

/-- One source of a load's region: member, window, and where its walk starts. -/
structure Start where
  member  : Nat
  window  : Nat
  sites   : List Nat
  deriving DecidableEq, Repr

/-- The nodes of region `k` with only the members of the same region that they feed. -/
def LoadSec.edges (l : LoadSec) (k : Nat) : List (Nat × List Nat) :=
  let nodes := l.nodes k
  let names := nodes.map Prod.fst
  nodes.map (fun n => (n.1, n.2.filter (fun m => names.contains m)))

/-- One round of the walk: the members reached and their successors. -/
def reachStep (edges : List (Nat × List Nat)) (xs : List Nat) : List Nat :=
  (xs ++ ((edges.filter (fun e => xs.contains e.1)).map Prod.snd).flatten).eraseDups

/-- The members reached from some, in at most `n` rounds. -/
def reach (edges : List (Nat × List Nat)) : Nat → List Nat → List Nat
  | 0, xs => xs
  | n + 1, xs =>
    let ys := reachStep edges xs
    if ys.length = xs.length then xs else reach edges n ys

/-- The starts of region `k`: `wave` stations, LOOPs, stream entries, and the launch tokens, which are one source that
starts at every member they name (R225, R226). -/
def LoadSec.starts (l : LoadSec) (k : Nat) (toks : List Token) : List Start :=
  (l.stations.filter (fun q => l.regionOf q.site == some k && wordOp q.word == 0x187)).map (fun (q : Station) =>
      let m := member (Site.key q.site) q.st
      (⟨m, (decodeFields q.word).imm16.toNat, [m]⟩ : Start)) ++
  (l.opers.filter (fun o => o.region == k && o.kind == 4)).map (fun (o : OperRec) =>
      let m := member (Site.key (Target.site o.place)) 0
      (⟨m, field (o.pms.getD 0 0) 11 3, [m]⟩ : Start)) ++
  (l.streams.filter (fun d => d.region == k)).map (fun (d : StreamDecl) =>
      let m := targetMember (targetOf d.entry.toNat)
      (⟨m, d.window, [m]⟩ : Start)) ++
  (let mine := toks.filter (fun t => if isPe (Token.site t) then l.regionOf (Token.site t) == some k else
      (match l.operAt (Token.site t) with | some o => o.region == k | none => false))
   let w := (mine.map (fun t => t.tag.toNat)).eraseDups.length
   match (mine.map tokenMember).eraseDups with
   | [] => []
   | m :: ms => [(⟨m, w, m :: ms⟩ : Start)])

/-- A start joins the domains that its walk meets, merged into one. -/
def mergeStart (edges : List (Nat × List Nat)) (ds : List Domain) (x : Start) : List Domain :=
  let ms := reach edges (edges.length + 1) x.sites
  let hit := ds.filter (fun d => d.members.any (fun m => ms.contains m))
  let rest := ds.filter (fun d => !(d.members.any (fun m => ms.contains m)))
  rest ++ [{ Domain.none with
    members := ((hit.map Domain.members).flatten ++ ms).eraseDups
    sources := (hit.map Domain.sources).flatten ++ [⟨x.member / 512, x.member % 512, x.window, []⟩] }]

/-- The members in context `c` that the `squash` stations of the image target (R146). -/
def squashed (ls : List LoadSec) (c : Nat) : List Nat :=
  (ls.map (fun (m : LoadSec) => ((m.stations.filter (fun q =>
    wordOp q.word == 0x18C && destCtx 0x18C (decodeFields q.word) m.ctx == c)).map (fun (q : Station) =>
      (validTargets (decodeFields q.word)).map targetMember)).flatten)).flatten

/-- The domains of region `k` of a load of an image, with these launch tokens (R225). One is speculative where a squash
of the image targets a member of it (R231). -/
def LoadSec.domains (l : LoadSec) (ls : List LoadSec) (k : Nat) (toks : List Token) : List Domain :=
  let wrong := squashed ls l.ctx
  ((l.starts k toks).foldl (mergeStart (l.edges k)) []).map (fun (d : Domain) =>
    { d with specul := d.members.any (fun m => wrong.contains m) })

/-! ### Producers (R333) -/

/-- What each producer of region `k`'s members feeds: the region's stations other than a `wave`, its operators, its stream
entries, the launch with these tokens, and each `couple` station of another region of the image: of another load, one that emits into this
load's context from its own (R84). -/
def LoadSec.feeders (l : LoadSec) (ls : List LoadSec) (k : Nat) (toks : List Token) : List (List Nat) :=
  let waves := (l.stations.filter (fun q => wordOp q.word == 0x187)).map (fun (q : Station) => member (Site.key q.site) q.st)
  ((l.nodes k).filter (fun n => !waves.contains n.1)).map Prod.snd ++
  (l.streams.filter (fun d => d.region == k)).map (fun (d : StreamDecl) => [targetMember (targetOf d.entry.toNat)]) ++
  [toks.map tokenMember] ++
  (ls.map (fun (m : LoadSec) => (m.stations.filter (fun q => wordOp q.word == 0x289 &&
    !(m.index == l.index && m.regionOf q.site == some k) && (m.index == l.index || m.ctx != l.ctx))).map (fun (q : Station) =>
      q.feeds Region.empty m.ctx l.ctx))).flatten

/-- The producer count of a member, from what the producers feed (R333). -/
def producerCount (feeders : List (List Nat)) (m : Nat) : Nat := (feeders.filter (fun ts => ts.contains m)).length

end Sys2Proof.Machine
end

