-- ==== Sys2Proof/Machine/Check.lean ====
section
/-! DEFINITION. What the loader checks of an image (R98, R99, R240, R274, R326, R329, R413) and how it reports a
rejection (R350). The order of the checks and the choice among several faults are those of log entry 37. -/

namespace Sys2Proof.Machine

/-- A rejection: its code, the place of the word at fault, and the lowest bit of its field (R99, R350). -/
structure Reject where
  code    : Nat
  site    : Site
  ctx     : Nat
  station : Nat
  low     : Nat
  deriving DecidableEq, Repr

/-- A rejection of the image as a whole. -/
def Reject.image (code low : Nat) : Reject := ⟨code, ⟨0, 0, 0⟩, 0, 0, low⟩

/-- The order of rejections (R98, R99): by code, then die, row, column, context and station. -/
def Reject.order (x : Reject) : Nat := (x.code * 1048576 + Site.key x.site) * 4096 + x.ctx * 512 + x.station

/-- LDREP (R350). -/
def Reject.ldrep (x : Reject) : Word :=
  BitVec.ofNat 64 (2 ^ 63 + x.code % 256 + x.site.die % 32 * 2 ^ 8 + x.site.row % 128 * 2 ^ 13 + x.site.col % 256 * 2 ^ 20 +
    x.ctx % 8 * 2 ^ 28 + x.station % 512 * 2 ^ 31 + x.low % 128 * 2 ^ 40)

/-- A check that fails gives a rejection. -/
def rejectIf (c : Bool) (x : Reject) : List Reject := if c then [x] else []

/-! ### Station words (R98) -/

/-- The lowest bit of the first field at fault under a code, within a station word (R71, R350). -/
def faultBit (code : Nat) (o : Option OpInfo) (op : Nat) (f : Fields) : Nat :=
  let t := fun (bad : Target → Bool) => if bad f.a then 32 else if bad f.b then 0 else 64
  let noSat := 0x20B ≤ op && op ≤ 0x212 && op != 0x20C
  if code = 0x40 || code = 0x41 then 118
  else if code = 0x42 then
    (if f.rsv then 98
     else if f.w32 && !((o.map OpInfo.w32).getD false) then 96
     else if f.svc && !svcOk op f then 97
     else if !((o.map (fun o => auxOk op o f)).getD true) then 64
     else if f.imm16 != 0 && !f.imm && !f.tri && f.tagop != 4 then 80
     else if !Target.zeroed f.a then 32
     else if !Target.zeroed f.b then 0
     else if op = 0x18D || op = 0x18F then 0
     else t Target.valid)
  else if code = 0x43 then 116
  else if code = 0x44 then 100
  else if code = 0x45 then 80
  else if code = 0x46 then (if f.tri then 99 else 105)
  else if code = 0x47 then t (fun g => g.valid && !placeExists (Target.site g) g.station.toNat)
  else if code = 0x48 then (if sendsToPort op then 32 else t (fun g => g.valid && g.port != .c))
  else if code = 0x49 then (if f.a == f.b then 0 else 64)
  else if code = 0x4A then 105
  else if code = 0x4B then 101
  else if code = 0x4C then
    (if f.lock && !((o.map OpInfo.lock).getD false) then 112
     else if (o.map OpInfo.passing).getD false && f.round != .rne then 110
     else if f.sat && ((o.map OpInfo.passing).getD false || (noSat && (o.map (fun o => o.fmts.admits f.fmtOut)).getD false &&
       !(f.w32 && f.fmtOut != .i64))) then 109 else 113)
  else 112

/-- The bits where targets A, B and C stand. -/
def targetBits (f : Fields) : List (Target × Nat) :=
  [(f.a, 32), (f.b, 0), (Fields.targetC f, 64)].filter (fun x => x.1.valid)

/-- A station is a `nop` without targets (R176). -/
def plainNop (w : StationWord) : Bool := wordOp w == 0x28E && (validTargets (decodeFields w)).isEmpty

/-- The loads of an image in which a target in context `c` is looked for (R86): the load itself for its own context, and
for another one every load that declares it. -/
def searched (l : LoadSec) (ls : List LoadSec) (c : Nat) : List LoadSec :=
  if c = l.ctx then [l] else ls.filter (fun m => m.ctx == c)

/-- target-invalid beyond the word (R86): a station at or past the count of the destination context. DESIGN CHOICE (log
entry 37): at a PE where the load declares no entry of its own context that count is 0; a PE where no searched load
declares another context is left to arrival. -/
def beyondCount (l : LoadSec) (ls : List LoadSec) (c : Nat) (t : Target) : Bool :=
  let x := Target.site t
  let ns := (searched l ls c).filterMap (fun m => m.countAt x)
  isPe x && (c == l.ctx || !ns.isEmpty) && ns.all (fun n => n ≤ t.station.toNat)

/-- Whether a load's station or operator at a target lacks the target's port (R86): it is not in the opcode's list, or an immediate
supplies it; none where the load has neither there. An arity of 0 takes nothing from the list: R86 leaves it to arrival. -/
def LoadSec.lacksPort (l : LoadSec) (t : Target) : Option Bool :=
  let x := Target.site t
  if isPe x then
    (l.stationAt x t.station.toNat).map (fun q => match opInfo (wordOp q.word) with
      | some o => t.port != .c && !acceptsPort o { decodeFields q.word with arity := 1 } t.port
      | none => false)
  else (l.operAt x).map (fun o => !((operPorts o.kind).contains t.port))

/-- The loads in which a target's destination is looked for (R86): a station in those of its context; an operator, which is of no
context, in the load itself, or, where that has none at the site, in every load. -/
def searchedFor (l : LoadSec) (ls : List LoadSec) (c : Nat) (t : Target) : List LoadSec :=
  if isPe (Target.site t) then searched l ls c else if (l.operAt (Target.site t)).isSome then [l] else ls

/-- A data port that the destination does not have (R86): at every searched load's station or operator there. -/
def wrongPort (l : LoadSec) (ls : List LoadSec) (c : Nat) (t : Target) : Bool :=
  let bads := (searchedFor l ls c t).filterMap (fun m => m.lacksPort t)
  !bads.isEmpty && bads.all id

/-- A squash's target is a `wave` or a LOOP (R146). -/
def squashTarget (l : LoadSec) (ls : List LoadSec) (c : Nat) (t : Target) : Bool :=
  (searched l ls c).any (fun m =>
    if isPe (Target.site t) then
      (match m.stationAt (Target.site t) t.station.toNat with | some q => wordOp q.word == 0x187 | none => false)
    else (match m.operAt (Target.site t) with | some o => o.kind == 4 | none => false))

/-- The feed PEs of a region: the west column, and in OS mode the north row (R176). -/
def feedPes (r : Region) (os : Bool) : List Site :=
  (List.range r.height).map (fun i => peSite r.die (r.row + i) r.col) ++
  (if os then (List.range r.width).map (fun j => peSite r.die r.row (r.col + j)) else [])

/-- A `mm.mode` names stations that are not what R176 and R308 want. -/
def badFeed (l : LoadSec) (r : Region) (f : Fields) : Bool :=
  let mode := f.aux16.toNat % 4
  let n := field f.aux16 10 2
  let isNop := fun (x : Site) (st : Nat) => match l.stationAt x st with | some q => plainNop q.word | none => false
  (mode == 1 || mode == 2) &&
    (!((feedPes r (mode == 2)).all (fun x => isNop x n)) || (mode == 2 && !isNop r.corner (n + 1)))

/-- A `mm.run` names a column station that some PE of the last row lacks (R183). -/
def badColumn (l : LoadSec) (r : Region) (f : Fields) : Bool :=
  (columnTargets r 0x303 f).any (fun t => (l.countAt (Target.site t)).getD 0 ≤ t.station.toNat)

/-- Controller forms (R173). -/
def controllerForm (op : Nat) : Bool := op == 0x300 || (0x302 ≤ op && op ≤ 0x30A)

/-- The conversion station of a region of a load (R91): the first in order of site whose number is `cst` and whose SVC is
set (log entry 9). -/
def LoadSec.convOf (l : LoadSec) (r : Region) : Option Station :=
  leastBy (fun (q : Station) => q.site.row * 256 + q.site.col)
    (l.stations.filter (fun q => r.cvalid && r.holdsPe q.site && q.st == r.cst && (decodeFields q.word).svc))

/-- The statements of a load with their descriptor copies: number, site, descriptor. -/
def LoadSec.copies (l : LoadSec) : List (Nat × Site × Desc) :=
  let halves := l.recs.filter (fun r => r.kind == 3)
  (halves.filter (fun r => r.index % 2 == 0)).map (fun (r : CfgRec) =>
    let hi := (halves.find? (fun q => q.site == r.site && q.index == r.index + 1)).map CfgRec.word
    let w := fun (x : BitVec 128) (i : Nat) => BitVec.ofNat 64 (x.toNat / 2 ^ (64 * i))
    (r.index / 2, r.site, (⟨w r.word 0, w r.word 1, w (hi.getD 0) 0, w (hi.getD 0) 1⟩ : Desc)))

/-- A statement's descriptor. -/
def LoadSec.descOf (l : LoadSec) (n : Nat) : Option Desc := (l.copies.find? (fun c => c.1 == n)).map (fun c => c.2.2)

/-- The format of a name form is not its statement's (R136). -/
def foreignFormat (l : LoadSec) (op : Nat) (f : Fields) : Bool :=
  0x200 ≤ op && op ≤ 0x202 && (match l.descOf f.aux16.toNat with | some d => f.fmtOut != d.fmt | none => false)

/-- The rejections of one station word: its own (`wordReject`), and those of its surroundings (R98). -/
def stationRejects (l : LoadSec) (ls : List LoadSec) (q : Station) : List Reject :=
  let op := wordOp q.word
  let f := decodeFields q.word
  let o := opInfo op
  let bad := fun (code low : Nat) => (⟨code, q.site, l.ctx, q.st, low⟩ : Reject)
  let r := match l.regionOf q.site with
    | some k => l.regions.getD k Region.empty
    | none => Region.empty
  let c := destCtx op f l.ctx
  let own := match wordReject op f with
    | some c => [bad c (faultBit c o op f)]
    | none => []
  own ++
  rejectIf (f.svc && !(match l.convOf r with | some c => c.site == q.site && c.st == q.st | none => false)) (bad 0x42 97) ++
  rejectIf (controllerForm op && q.site != r.corner) (bad 0x42 118) ++
  rejectIf ((l.regionOf q.site).isNone) (bad 0x42 0) ++
  rejectIf (op == 0x286 && !r.handler) (bad 0x42 118) ++
  ((targetBits f).map (fun x => rejectIf (beyondCount l ls c x.1) (bad 0x47 x.2))).flatten ++
  rejectIf (op == 0x300 && badFeed l r f) (bad 0x47 66) ++
  rejectIf (op == 0x303 && badColumn l r f) (bad 0x47 64) ++
  ((targetBits f).map (fun x => rejectIf (wrongPort l ls c x.1) (bad 0x48 x.2))).flatten ++
  ((targetBits f).map (fun x => rejectIf (op == 0x18C && !squashTarget l ls c x.1) (bad 0x48 x.2))).flatten ++
  rejectIf (sendsToPort op && !(match l.operAt (Target.site f.a) with | some p => p.kind == 11 | none => false)) (bad 0x48 32) ++
  rejectIf (0x207 ≤ op && op ≤ 0x212 && f.b.valid &&
    (match l.stationAt (Target.site f.b) f.b.station.toNat with
     | some p => reserveOf p.word < reserveOf q.word
     | none => false)) (bad 0x4B 101) ++
  rejectIf (foreignFormat l op f) (bad 0x4C 113) ++
  rejectIf (f.lock && !r.cvalid) (bad 0x4D 112)

/-! ### Headers, streams, operators, records (R327, R328, R199) -/

/-- The lowest bit of a field, where it is at fault. -/
def faultAt (bad : Bool) (low : Nat) : List Nat := if bad then [low] else []

/-- The tag ranges of two pools meet (R147). -/
def poolsMeet (a b : Option (Nat × Nat)) : Bool :=
  match a, b with
  | some (n, t), some (m, u) => t < u + m && u < t + n
  | _, _ => false

/-- The fields of words 0 and 1 of a region header that are out of their range (R327), each as the lowest bit of its field in its
word (R350). -/
def siteFaults (ctx : Nat) (r : Region) : List Nat :=
  let at' := faultAt
  at' (24 ≤ r.die) 0 ++ at' (r.row % 8 != 0 || 96 < r.row + r.height) 5 ++ at' (r.col % 8 != 0 || 128 < r.col + r.width) 12 ++
  at' (r.height = 0 || 96 < r.height) 19 ++ at' (r.width = 0 || 128 < r.width) 23 ++ at' (r.ctx != ctx) 28 ++
  at' (!r.handler && r.hst != 0) 32 ++ at' (!r.cvalid && r.cst != 0) 42 ++ at' (field r.head 58 51 < 48) 51 ++
  at' (field r.head 63 59 < 12) 59 ++
  at' (field r.head1 15 0 != 0 && (field r.head1 15 0 < 256 || 4096 < field r.head1 15 0)) 0 ++
  at' (field r.head1 63 16 != 0) 16

/-- The fields of words 2 and 3, the frame pools, that are out of their range (R327). -/
def poolFaults (r : Region) : List Nat :=
  let at' := faultAt
  let zero := fun (w : Word) => at' (field w 30 24 != 0) 24 ++ at' (field w 62 56 != 0) 56 ++
    at' (!bit w 31 && field w 30 0 != 0) 0 ++ at' (!bit w 63 && field w 62 32 != 0) 32
  zero r.head2 ++ zero r.head3 ++
  ((List.range 4).map (fun i =>
    at' (match r.pool i with | some (n, t) => 65536 < t + n | none => false) (i % 2 * 32) ++
    at' ((List.range i).any (fun j => poolsMeet (r.pool i) (r.pool j))) (i % 2 * 32))).flatten

/-- The fields of a region header that are out of their range (R327). -/
def headFaults (ctx : Nat) (r : Region) : List Nat := siteFaults ctx r ++ poolFaults r

/-- The fields at fault of a region-header word record (R327, R328): words 0 and 1, or 2 and 3. -/
def headRecFaults (ctx : Nat) (r : CfgRec) : List Nat :=
  let lo := BitVec.ofNat 64 r.word.toNat
  let hi := BitVec.ofNat 64 (r.word.toNat / 2 ^ 64)
  if r.index = 0 then siteFaults ctx (headRegion [lo, hi, 0, 0]) else poolFaults (headRegion [0, 0, lo, hi])

/-- The handler region's entry station is a station of it, of arity 0 (R140). -/
def LoadSec.entryOk (l : LoadSec) (r : Region) : Bool :=
  l.stations.any (fun q => r.holdsPe q.site && q.st == r.hst && (decodeFields q.word).arity == 0)

/-- The field of a context-table entry that is not as R29 has it in an image, as its lowest bit. -/
def entryFault (w : StationWord) : Option Nat :=
  if w.toNat / 2 ^ 32 != 0 then some 32
  else if field w 31 30 != 2 then some 30
  else if field w 29 20 != 0 then some 20
  else if bit w 9 then some 9
  else none

/-- Two rectangles of PEs meet. -/
def Region.meets (a b : Region) : Bool :=
  a.die == b.die && a.row < b.row + b.height && b.row < a.row + a.height &&
  a.col < b.col + b.width && b.col < a.col + a.width

/-- The words of a kind's map that must be zero, from the `a`-th to the `b`-th. -/
def zeroWords (pm : Nat → Word) (a b : Nat) : List Nat :=
  ((List.range (b + 1)).filter (fun i => a ≤ i && pm i != 0)).map (fun _ => 0)

/-- Bits `n` and above of a word must be zero. -/
def zeroFrom (w : Word) (n : Nat) : List Nat := faultAt (2 ^ n ≤ w.toNat) n

/-- An extent lies from 1 to a limit. DESIGN CHOICE (log entry 81): R200 gives the extent as [56:0], 1 to 2^57, and [63:57] as zero;
2^57 is accepted, as the whole word with bit 57 set, and read as such. -/
def extentFault (w : Word) (limit : Nat) : List Nat := faultAt (w == 0 || limit < w.toNat) 0

/-- The fields at fault of an operator's own parameters, each as its lowest bit in its word (R191 to R213, R350): what its kind does
not use is zero, and the rest lies in the limits of its map. -/
def kindFaults (o : OperRec) : List Nat :=
  let pm := fun (i : Nat) => o.pms.getD i 0
  let op := o.oper
  match o.kind with
   | 0 | 1 => zeroFrom (pm 1) 12 ++ faultAt (field (pm 1) 10 8 == 6) 8 ++ faultAt (5 < field (pm 1) 7 5) 5 ++
       faultAt (field (pm 1) 7 5 ≤ 5 && !(inExtent op (imageCounts op))) 0 ++ extentFault (pm 2) (2 ^ 57) ++
       zeroFrom (pm 9) 32 ++ zeroWords pm 10 11 ++ faultAt (o.kind == 1 && field (pm 1) 4 2 != 0) 2
   | 2 => zeroFrom (pm 1) 7 ++ faultAt (field (pm 1) 1 0 == 3) 0 ++
       extentFault (pm 2) (if field (pm 1) 1 0 = 1 then 2 ^ 57 else 2 ^ 32) ++
       (let b := field (pm 3) 63 32
        faultAt (!(b == 1 || b == 2 || b == 4 || b == 8 || (b % 64 == 0 && 64 ≤ b && b ≤ 65536))) 32) ++
       zeroFrom (pm 5) 32 ++ faultAt (pm 5 == 0) 0 ++ zeroFrom (pm 6) 2 ++
       faultAt (field (pm 1) 1 0 == 2 && field (pm 6) 1 0 < 2) 0 ++ zeroWords pm 7 11
   | 3 => zeroFrom (pm 1) 3 ++ extentFault (pm 2) (if bit (pm 1) 0 then 2 ^ 57 else 2 ^ 32) ++ zeroFrom (pm 3) 32 ++
       zeroWords pm 4 4 ++ zeroFrom (pm 5) 32 ++ faultAt (pm 5 == 0) 0 ++ zeroWords pm 6 11
   | 4 => zeroFrom (pm 0) 16 ++ faultAt (5 < field (pm 0) 2 0) 0 ++ faultAt (field (pm 0) 11 3 == 0 || 256 < field (pm 0) 11 3) 3 ++
       faultAt (field (pm 0) 2 0 < field (pm 0) 15 13) 13 ++
       ((List.range 6).map (fun i => zeroFrom (pm (i + 1)) 32)).flatten ++ zeroWords pm 7 11
   | 5 => faultAt (field (pm 0) 1 0 == 3) 0 ++ faultAt (field (pm 0) 31 2 != 0) 2 ++
       faultAt (field (pm 0) 1 0 == 2 && field (pm 0) 63 32 == 0) 32 ++ faultAt (pm 1 == 0 || 64 < (pm 1).toNat) 0 ++ zeroWords pm 2 11
   | 6 => zeroFrom (pm 1) 38 ++ faultAt (field (pm 1) 31 0 == 0) 0 ++ faultAt (56 < field (pm 1) 37 32) 32 ++ zeroFrom (pm 2) 32 ++
       zeroWords pm 3 11
   | 7 => faultAt (field (pm 0) 15 1 != 0) 1 ++ zeroFrom (pm 0) 32 ++ faultAt (pm 1 == 0 || 64 < (pm 1).toNat) 0 ++ zeroWords pm 2 11
   | 8 => zeroFrom (pm 0) 32 ++ faultAt (pm 0 == 0) 0 ++ zeroFrom (pm 1) 1 ++ zeroWords pm 2 11
   | 9 => zeroFrom (pm 0) 32 ++
       faultAt (!(match decodeF .f32 (pm 0).toNat with | .fin neg _ _ => !neg | _ => false)) 0 ++ zeroFrom (pm 1) 17 ++ zeroWords pm 2 11
   | 10 => faultAt (field (pm 0) 31 0 == 0 || 64 < field (pm 0) 31 0) 0 ++ faultAt (field (pm 1) 10 0 != 0) 0 ++
       faultAt (field (pm 1) 42 32 != 0) 32 ++ zeroWords pm 2 11
   | 11 => zeroFrom (pm 0) 4 ++ faultAt (3 < field (pm 0) 2 0) 0 ++
       faultAt (field (pm 0) 2 0 == 2 && (field (pm 1) 12 6 == 0 || 64 < field (pm 1) 12 6)) 6 ++ zeroFrom (pm 1) 13 ++
       zeroFrom (pm 2) 29 ++ faultAt (95 < field (pm 2) 14 8) 8 ++ faultAt (95 < field (pm 2) 21 15) 15 ++
       faultAt (95 < field (pm 2) 28 22) 22 ++ zeroFrom (pm 3) 32 ++ zeroFrom (pm 4) 9 ++
       faultAt (pm 4 == 0 || 256 < (pm 4).toNat) 0 ++ zeroWords pm 5 11
   | _ => []

/-- The fields at fault of PM14 and PM15 (R192). A kind without completions has no stream identifier, and one that forms no tag has no
tag base: a PORT forms none, and its transfers carry the tag and the stream of their descriptors (R215). -/
def commonFaults (o : OperRec) : List Nat :=
  let pm := fun (i : Nat) => o.pms.getD i 0
  let noStream := o.kind == 5 || o.kind == 6 || o.kind == 7 || o.kind == 9 || o.kind == 10 || o.kind == 11
  let noTag := o.kind == 5 || o.kind == 6 || o.kind == 7 || o.kind == 10 || o.kind == 11
  faultAt (noStream && field (pm 14) 15 0 != 0) 0 ++ faultAt (noTag && field (pm 14) 31 16 != 0) 16 ++ zeroFrom (pm 14) 35 ++
  zeroWords pm 15 15

/-- The targets at fault of PM12 and PM13, each as its lowest bit: one that a kind does not use is absent, and an absent one is zero
(R85, R192). -/
def targetFaults (o : OperRec) : List Nat :=
  let p := o.oper
  let twoOut := o.kind == 4 || o.kind == 6 || o.kind == 9
  let noTo := o.kind == 1 || o.kind == 3
  let noDone := o.kind == 6 || o.kind == 7 || o.kind == 9 || o.kind == 10
  let hasEmpty := o.kind == 0 || o.kind == 1 || o.kind == 4
  faultAt (!(Target.zeroed (toA p)) || (noTo && (toA p).valid)) 0 ++
  faultAt (!(Target.zeroed (toB p)) || (!twoOut && (toB p).valid)) 32 ++
  faultAt (!(Target.zeroed (toDone p)) || (noDone && (toDone p).valid)) 0 ++
  faultAt (!(Target.zeroed (toEmpty p)) || (!hasEmpty && (toEmpty p).valid)) 32

/-- A `done` or `empty` target names port C of an arity-0 station or of an operator (R199). -/
def controlTarget (l : LoadSec) (ls : List LoadSec) (c : Nat) (t : Target) : Bool :=
  let x := Target.site t
  t.port == .c &&
  (if isPe x then (searched l ls c).all (fun m => match m.stationAt x t.station.toNat with
      | some q => (decodeFields q.word).arity == 0
      | none => true)
   else isOper x && ls.any (fun m => (m.operAt x).isSome))

/-- The fields at fault of an operator record's first 16 bytes, each as its lowest bit in its 64-bit word (R328): site, kind, region,
and the bytes that are zero. -/
def placeFaults (l : LoadSec) (o : OperRec) : List Nat :=
  let x := Target.site o.place
  let p := o.oper
  faultAt (!o.place.valid) 31 ++
  faultAt (!isOper x || (x.die == 24 && !(o.kind == 11 && (Oper.portClass p == 1 || Oper.portClass p == 2))) ||
    (l.opers.filter (fun q => q.place == o.place)).length != 1) 11 ++
  faultAt (o.place.station != 0) 2 ++ faultAt (o.place.port != .l) 0 ++ faultAt (12 ≤ o.kind) 32 ++
  faultAt (l.heads.length ≤ o.region) 40 ++ faultAt (!o.clean) 36

/-- The rejections of one operator record. Its tokens are in the context of PM14, which may be another than the load's
(R192). -/
def operRejects (l : LoadSec) (ls : List LoadSec) (o : OperRec) : List Reject :=
  let x := Target.site o.place
  let p := o.oper
  let c := operCtx p
  let bad := fun (code low : Nat) => (⟨code, x, l.ctx, 0, low⟩ : Reject)
  let outs := (operTargets p).zip [0, 32, 0, 32]
  (placeFaults l o ++ kindFaults o ++ commonFaults o ++ targetFaults o).map (bad 0x42) ++
  (outs.map (fun t => rejectIf (t.1.valid && (!placeExists (Target.site t.1) t.1.station.toNat || beyondCount l ls c t.1))
    (bad 0x47 t.2))).flatten ++
  (outs.map (fun t => rejectIf (t.1.valid && wrongPort l ls c t.1) (bad 0x48 t.2))).flatten ++
  rejectIf ((toDone p).valid && !controlTarget l ls c (toDone p)) (bad 0x48 0) ++
  rejectIf ((toEmpty p).valid && !controlTarget l ls c (toEmpty p)) (bad 0x48 32)

/-- The fields at fault of a stream declaration, each as its lowest bit in its 16 bytes (R328). -/
def streamFaults (l : LoadSec) (d : StreamDecl) : List Nat :=
  faultAt (!(targetOf d.entry.toNat).valid) 31 ++
  faultAt (d.depth = 0 || (l.regions.getD d.region Region.empty).replayCap < d.depth) 32 ++
  faultAt (d.window = 0 || 256 < d.window) 64 ++ faultAt (l.regions.length ≤ d.region) 80 ++ faultAt (!d.clean) 88

/-- The fields at fault of a configuration record, each as its lowest bit in its sideband address, or of a region-header word in that
word (R327, R328). A word of a header lies on a compute die and on the grid. -/
def recFaults (l : LoadSec) (r : CfgRec) : List Nat :=
  faultAt (4 ≤ r.kind) 0 ++
  faultAt (r.kind == 0 && 24 ≤ r.site.die) 4 ++ faultAt (r.kind == 0 && 97 < r.site.row) 9 ++ faultAt (r.kind == 0 && 137 < r.site.col) 16 ++
  faultAt (r.kind == 1 && (l.regionOf r.site).isNone) 4 ++ faultAt (r.kind == 3 && !(isTile r.site || isPe r.site)) 4 ++
  faultAt ((r.kind == 0 && 2 ≤ r.index) || (r.kind == 1 && r.index != l.ctx) ||
    (r.kind == 2 && (match l.entryAt r.site with
      | some e => r.index < field e 8 0 || field e 8 0 + field e 19 10 ≤ r.index
      | none => true))) 24 ++
  faultAt (r.kind != 2 && r.fanin != 0) 37 ++ faultAt (field r.side 63 41 != 0) 41 ++ faultAt (!r.clean) 0 ++
  (if r.kind = 0 && r.index < 2 then headRecFaults l.ctx r else [])

/-- The rejections of the load's headers, streams, records and data blocks (R140, R327, R328). -/
def layoutRejects (l : LoadSec) : List Reject :=
  let rs := l.regions
  let at' := fun (code low : Nat) (r : Region) => (⟨code, r.corner, r.ctx, 0, low⟩ : Reject)
  rejectIf (!l.clean || 13 < l.ntok || l.heads.isEmpty || !(l.blocks.all DataBlock.clean)) ⟨0x42, ⟨0, 0, 0⟩, l.ctx, 0, 0⟩ ++
  (rs.map (fun r => (headFaults l.ctx r).map (fun low => at' 0x42 low r))).flatten ++
  (rs.map (fun r => rejectIf (r.handler && (!l.entryOk r || 2 ≤ (rs.filter Region.handler).length)) (at' 0x42 31 r))).flatten ++
  (rs.map (fun r => rejectIf (r.cvalid && !(match l.convOf r with
    | some q => svcOk (wordOp q.word) (decodeFields q.word)
    | none => false)) (at' 0x4D 42 r))).flatten ++
  (rs.map (fun r => rejectIf (2 ≤ (rs.filter (fun q => q.meets r)).length) (at' 0x4F 5 r))).flatten ++
  (l.streams.map (fun d =>
    let t := targetOf d.entry.toNat
    (streamFaults l d).map (fun low => (⟨0x42, Target.site t, l.ctx, t.station.toNat, low⟩ : Reject)))).flatten ++
  (l.recs.map (fun r => (recFaults l r).map (fun low => (⟨0x42, r.site, l.ctx, 0, low⟩ : Reject)))).flatten ++
  ((l.recs.filter (fun r => r.kind == 1)).map (fun r => match entryFault r.word with
    | some low => [(⟨0x42, r.site, l.ctx, 0, low⟩ : Reject)]
    | none => [])).flatten ++
  (l.entries.map (fun e => rejectIf (512 < field e.2 8 0 + field e.2 19 10) ⟨0x4F, e.1, l.ctx, 0, 10⟩)).flatten ++
  (l.entries.map (fun e => rejectIf
    (1024 < sumNat ((l.stations.filter (fun q => q.site == e.1)).map (fun q => reserveOf q.word)))
    ⟨0x4E, e.1, l.ctx, 0, 101⟩)).flatten

/-! ### Deadlock checks (R240) -/

/-- A target into another region of the load is declared as a stream's entry (R237). -/
def undeclared (l : LoadSec) (k : Nat) (t : Target) : Bool :=
  let other := if isPe (Target.site t) then
      (match l.regionOf (Target.site t) with | some j => j != k | none => false)
    else (match l.operAt (Target.site t) with | some o => o.region != k | none => false)
  t.valid && other && !(l.streams.any (fun d => d.entry.toNat == Target.bits t))

/-- The window of the domain that a stream's entry feeds (R226, R238). -/
def entryWindow (l : LoadSec) (toks : List Token) (d : StreamDecl) : Nat :=
  match (l.domains [] d.region toks).find? (fun x => x.members.contains (targetMember (targetOf d.entry.toNat))) with
  | some x => x.window
  | none => d.window

/-- The load's initial tokens. -/
def LoadSec.initial (l : LoadSec) : List Token := l.tokens.map (fun t => Token.ofWords t.1 t.2)

/-- Codes 0x50 to 0x52 (R225, R237, R238). -/
def deadlockRejects (l : LoadSec) : List Reject :=
  let toks := l.initial
  ((List.range l.heads.length).map (fun k =>
    let r := l.regions.getD k Region.empty
    rejectIf (8 < (l.domains [] k toks).length) ⟨0x50, r.corner, l.ctx, 0, 0⟩)).flatten ++
  (l.stations.map (fun q => match l.regionOf q.site with
    | some k => ((targetBits (decodeFields q.word)).map (fun t =>
        rejectIf (destCtx (wordOp q.word) (decodeFields q.word) l.ctx == l.ctx && !(sendsToPort (wordOp q.word) && t.2 == 32) &&
          undeclared l k t.1) ⟨0x51, q.site, l.ctx, q.st, t.2⟩)).flatten
    | none => [])).flatten ++
  (l.opers.map (fun o => ((operTargets o.oper).zip [0, 32, 0, 32]).map (fun t =>
    rejectIf (undeclared l o.region t.1) ⟨0x51, Target.site o.place, l.ctx, 0, t.2⟩))).flatten.flatten ++
  (l.streams.map (fun d => rejectIf (d.depth < entryWindow l toks d * d.tokens)
    ⟨0x52, Target.site (targetOf d.entry.toNat), l.ctx, (targetOf d.entry.toNat).station.toNat, 32⟩)).flatten

/-! ### Statements (R274) -/

/-- Forms that name a statement (R83). -/
def nameForm (op : Nat) : Bool := 0x200 ≤ op && op ≤ 0x206

/-- Forms that read or release a name. -/
def readsName (op : Nat) : Bool := 0x201 ≤ op && op ≤ 0x203

/-- The fields of a descriptor that break R151, R250 or R253, each as its lowest bit in its word. -/
def descFaults (d : Desc) : List Nat :=
  let pos := fun (k : Nat) => field d.w3 (8 * k + 3) (8 * k)
  let len := fun (k : Nat) => field d.w3 (8 * k + 7) (8 * k + 4)
  let ds := List.range d.dims
  faultAt (field d.w0 7 7 != 0) 7 ++ faultAt (4096 < d.words) 8 ++ faultAt (d.readers = 0) 30 ++ faultAt (field d.w0 63 42 != 0) 42 ++
  (ds.map (fun k => faultAt (2 ^ (len k + 1) < d.extent k) (16 * k))).flatten ++
  (ds.map (fun k => faultAt (16 < pos k + len k + 1 ||
    ds.any (fun j => j < k && pos j < pos k + len k + 1 && pos k < pos j + len j + 1)) (8 * k))).flatten ++
  ((List.range 4).map (fun k => faultAt (d.dims ≤ k && (pos k != 0 || len k != 0)) (8 * k) ++
    faultAt (d.dims ≤ k && field d.w1 (16 * k + 15) (16 * k) != 0) (16 * k))).flatten ++ faultAt (field d.w3 63 47 != 0) 47 ++
  faultAt (d.wrap && !(d.dims = 1 && len 0 = 15 && d.extent 0 = 65536 && d.modulus 0 == 2 ^ (d.modulus 0).log2 && d.modulus 0 ≤ 256)) 6

/-- The zero bits of one half of a descriptor, as it stands in its record (R250, R328): a half whose other is missing, or that is not
the first of its kind, is checked as well, and the half is not delivered unchecked. -/
def halfFaults (r : CfgRec) : List Nat :=
  let lo := BitVec.ofNat 64 r.word.toNat
  let hi := BitVec.ofNat 64 (r.word.toNat / 2 ^ 64)
  if r.index % 2 = 0 then faultAt (field lo 7 7 != 0) 7 ++ faultAt (field lo 63 42 != 0) 42 else faultAt (field hi 63 47 != 0) 47

/-- The lowest bit of the first modulus at fault (R274, R350). -/
def moduliFault (d : Desc) : Nat :=
  16 * (firstIdx (fun k => if k < d.dims then d.modulus k == 0 else d.modulus k != 1) (List.range 4) 0).getD 0

/-- The load's region that holds a tile (R248). -/
def LoadSec.tileRegion (l : LoadSec) (x : Site) : Option Nat :=
  match firstIdx (fun r => r.spansTile x) l.regions 0 with
  | some k => some k
  | none =>
    (leastBy (fun (kr : Nat × Region) => 1000 - (kr.2.col + kr.2.width))
      (((List.range l.heads.length).zip l.regions).filter (fun kr => kr.2.westOf x))).map Prod.fst

/-- The tiles of a statement's segment. -/
def segTiles (d : Desc) (die : Nat) : List Site := (List.range d.tiles).map (fun i => d.tileOf die i)

/-- A statement's segment (R248): its tiles on the die of each site that holds a copy of its descriptor, which is one die
where the segment lies in one region. -/
def LoadSec.segment (l : LoadSec) (n : Nat) : List Site :=
  match l.descOf n with
  | some d => ((((l.copies.filter (fun c => c.1 == n)).map (fun c => c.2.1.die)).eraseDups).map (segTiles d)).flatten
  | none => []

/-- A segment lies in tiles of one region (R248), and none is a tile of another statement's. -/
def segmentForeign (l : LoadSec) (segs : List (Nat × List Site)) (u : Nat × List Site) (x : Site) : Bool :=
  !isTile x || (l.tileRegion x).isNone || u.2.any (fun y => l.tileRegion y != l.tileRegion x) ||
  segs.any (fun v => v.1 != u.1 && v.2.contains x)

/-- The deferred reads that a tile may have to hold: the windows of the reading stations' domains (R274). -/
def deferrals (l : LoadSec) (toks : List Token) (x : Site) : Nat :=
  sumNat ((l.stations.filter (fun q => readsName (wordOp q.word))).map (fun q =>
    match l.descOf (decodeFields q.word).aux16.toNat, l.regionOf q.site with
    | some d, some k =>
      if (segTiles d (q.site.die)).contains x then
        (match (l.domains [] k toks).find? (fun y => y.members.contains (member (Site.key q.site) q.st)) with
         | some y => y.window
         | none => 1)
      else 0
    | _, _ => 0))

/-- Codes 0x53 to 0x56 (R274). -/
def nameRejects (l : LoadSec) : List Reject :=
  let ns := (l.copies.map (fun c => c.1)).eraseDups
  let segs := ns.map (fun n => (n, l.segment n))
  (l.copies.map (fun c => (descFaults c.2.2 ++ faultAt ((l.descOf c.1) != some c.2.2) 0).map (fun low =>
    (⟨0x53, c.2.1, l.ctx, 0, low⟩ : Reject)))).flatten ++
  ((l.recs.filter (fun r => r.kind == 3)).map (fun r => (halfFaults r).map (fun low =>
    (⟨0x53, r.site, l.ctx, 0, low⟩ : Reject)))).flatten ++
  (l.stations.map (fun q => rejectIf (nameForm (wordOp q.word) && (l.descOf (decodeFields q.word).aux16.toNat).isNone)
    ⟨0x53, q.site, l.ctx, q.st, 64⟩)).flatten ++
  (segs.map (fun u => (u.2.map (fun x => rejectIf (segmentForeign l segs u x) ⟨0x54, x, l.ctx, 0, 32⟩)).flatten)).flatten ++
  (ns.map (fun n => match l.descOf n, l.segment n with
    | some d, x :: _ => rejectIf (!moduliOk d d.w2) ⟨0x55, x, l.ctx, 0, moduliFault d⟩
    | _, _ => [])).flatten ++
  (((segs.map Prod.snd).flatten).map (fun x => rejectIf (256 < deferrals l l.initial x) ⟨0x56, x, l.ctx, 0, 0⟩)).flatten

/-! ### Coupling (R333) and pairs (R413) -/

/-- Code 0x5A: more than 15 producers. -/
def couplingRejects (l : LoadSec) (ls : List LoadSec) : List Reject :=
  ((List.range l.heads.length).map (fun k =>
    let feeders := l.feeders ls k l.initial
    ((l.stations.filter (fun q => l.regionOf q.site == some k)).map (fun (q : Station) =>
      rejectIf (15 < producerCount feeders (member (Site.key q.site) q.st)) ⟨0x5A, q.site, l.ctx, q.st, 0⟩)).flatten ++
    ((l.opers.filter (fun o => o.region == k)).map (fun (o : OperRec) =>
      rejectIf (15 < producerCount feeders (member (Site.key (Target.site o.place)) 0))
        ⟨0x5A, Target.site o.place, l.ctx, 0, 0⟩)).flatten)).flatten

/-- A target moved by the offset between two regions, where it lies in the first. -/
def moveTarget (a b : Region) (t : Target) : Target :=
  let x := Target.site t
  if t.valid && a.holdsPe x then
    let y := peSite b.die (b.row + (peRow x.row - a.row)) (b.col + (peCol x.col - a.col))
    { t with die := BitVec.ofNat 5 y.die, row := BitVec.ofNat 7 y.row, col := BitVec.ofNat 8 y.col }
  else t

/-- A word of copy A as it would stand in copy B, targets out of the region apart. -/
def moveFields (a b : Region) (f : Fields) : Fields :=
  let keep := fun (t : Target) => if a.holdsPe (Target.site t) then moveTarget a b t else targetOf 0
  let c := keep (Fields.targetC f)
  { f with
    a := keep f.a, b := keep f.b
    imm16 := if f.tri then BitVec.ofNat 16 (Target.bits c / 65536) else f.imm16
    aux16 := if f.tri then BitVec.ofNat 16 (Target.bits c) else f.aux16 }

/-- The word of copy B with its targets out of the region blanked. -/
def ownFields (b : Region) (f : Fields) : Fields := moveFields b b f

/-- A form that sends something other than tokens out of its region (R156, R413): a name word or read of a tile of another region, a
request of any kind, atomic, queue operation or fence, a barrier or trigger that others see, a report. -/
def sendsOut (l : LoadSec) (k : Nat) (q : Station) : Bool :=
  let op := wordOp q.word
  let stmt := (decodeFields q.word).aux16.toNat
  (0x207 ≤ op && op ≤ 0x215) || op == 0x280 || op == 0x281 || op == 0x282 || op == 0x285 || op == 0x286 ||
  (nameForm op && !((l.segment stmt).all (fun x => l.tileRegion x == some k)))

/-- What a copy may send out: tokens to one port of the COMPARE, and nothing else (R413). -/
def pairOutputs (l : LoadSec) (k : Nat) (r : Region) (cmp : Site) (port : Port) : Bool :=
  let out := fun (t : Target) => t.valid && !(r.holdsPe (Target.site t)) &&
    !(match l.operAt (Target.site t) with | some o => o.region == k && Target.site t != cmp | none => false)
  let good := fun (t : Target) => Target.site t == cmp && t.port == port
  (l.stations.filter (fun q => l.regionOf q.site == some k)).all (fun q =>
    !sendsOut l k q && (stationTargets r q.word).all (fun t => !out t || good t)) &&
  (l.opers.filter (fun o => o.region == k && o.kind != 10)).all (fun o =>
    o.kind != 1 && o.kind != 3 && o.kind != 11 && (operTargets o.oper).all (fun t => !out t || good t))

/-- A site of copy A as the same site of copy B. -/
def moveSite (a b : Region) (x : Site) : Nat × Nat := (x.row + b.corner.row - a.corner.row, x.col + b.corner.col - a.corner.col)

/-- An operator of a copy with its targets and sites moved to the other copy, those out of the region blanked (R413): kind, site and
parameters. -/
def movedOper (a b : Region) (o : OperRec) : Nat × (Nat × Nat) × List Word :=
  let half := fun (w : Word) (hi lo : Nat) => Target.bits (moveTarget a b (targetOf (field w hi lo)))
  let keep := fun (w : Word) =>
    let out := fun (hi lo : Nat) => if a.holdsPe (Target.site (targetOf (field w hi lo))) then half w hi lo else 0
    BitVec.ofNat 64 (out 31 0 + out 63 32 * 2 ^ 32)
  (o.kind, moveSite a b (Target.site o.place),
   ((List.range 16).zip o.pms).map (fun (iw : Nat × Word) => if iw.1 = 12 || iw.1 = 13 then keep iw.2 else iw.2))

/-- Two regions are copies of one another (R413): their station words, and the parameters of their operators. -/
def copiesAlike (l : LoadSec) (i j : Nat) : Bool :=
  let a := l.regions.getD i Region.empty
  let b := l.regions.getD j Region.empty
  let mine := fun (k : Nat) (r : Region) (g : Fields → Fields) =>
    (l.stations.filter (fun q => l.regionOf q.site == some k)).map (fun (q : Station) =>
      ((peRow q.site.row - r.row, peCol q.site.col - r.col, q.st), wordOp q.word, g (decodeFields q.word)))
  let xs := mine i a (moveFields a b)
  let ys := mine j b (ownFields b)
  let os := fun (k : Nat) => l.opers.filter (fun o => o.region == k && o.kind != 10)
  let us := (os i).map (movedOper a b)
  let vs := (os j).map (movedOper b b)
  xs.length == ys.length && xs.all (fun x => ys.contains x) && us.length == vs.length &&
  us.all (fun u => vs.any (fun v => u.1 == v.1 && u.2.2 == v.2.2))

/-- The region of a COMPARE's copy: the one whose north-west site PM1 names (R212). -/
def copyRegion (l : LoadSec) (v : Nat) : Option Nat :=
  firstIdx (fun r => (targetOf v).valid && r.corner == Target.site (targetOf v)) l.regions 0

/-- Code 0x5B. -/
def pairRejects (l : LoadSec) : List Reject :=
  ((l.opers.filter (fun o => o.kind == 10)).map (fun o =>
    let w := o.pms.getD 1 0
    match copyRegion l (field w 31 0), copyRegion l (field w 63 32) with
    | some i, some j =>
      let a := l.regions.getD i Region.empty
      let b := l.regions.getD j Region.empty
      let x := Target.site o.place
      rejectIf (a.height != b.height || a.width != b.width || a.ctx != b.ctx || !copiesAlike l i j ||
        !pairOutputs l i a x .l || !pairOutputs l j b x .r) ⟨0x5B, x, l.ctx, 0, 0⟩
    | _, _ => [])).flatten

/-! ### The image (R326, R329) -/

/-- The rejections of one load. -/
def loadRejects (l : LoadSec) (ls : List LoadSec) : List Reject :=
  layoutRejects l ++ (l.stations.map (stationRejects l ls)).flatten ++ (l.opers.map (operRejects l ls)).flatten ++
    deadlockRejects l ++ nameRejects l ++ couplingRejects l ls ++ pairRejects l

/-- The first load that is rejected, in table order, and how. -/
def firstReject (ls : List LoadSec) : List LoadSec → Option Reject
  | [] => none
  | l :: rest =>
    match leastBy Reject.order (loadRejects l ls) with
    | some x => some x
    | none => firstReject ls rest

/-- The checks of R326: versions, then checksum and bounds. -/
def versionReject (s : State) (a len : Nat) : Option Reject :=
  if memNat s a 4 != 0x57534143 then some (Reject.image 0x57 0)
  else if memNat s (a + 6) 2 != 1 then some (Reject.image 0x57 1)
  else if memNat s (a + 10) 2 != 1 then some (Reject.image 0x57 2)
  else if memNat s (a + 44) 20 != 0 then some (Reject.image 0x57 11)
  else if memNat s (a + 8) 2 != 0 then some (Reject.image 0x58 2)
  else if memNat s (a + 12) 4 = 0 || 65535 < memNat s (a + 12) 4 then some (Reject.image 0x59 3)
  else if len < memNat s (a + 32) 8 + 32 * memNat s (a + 12) 4 then some (Reject.image 0x59 8)
  else if crc32c (Memory.readBytes s.mem (a + 64) (len - 64)) != memNat s (a + 40) 4 then some (Reject.image 0x59 10)
  else none

/-- The first check that an image at an address fails, in the order of R329: a section that is not inside the image is one
of R326, whatever load it is of, reported at the header's `table` field (log entry 37). -/
def imageReject (s : State) (a len : Nat) : Option Reject :=
  let h := BitVec.ofNat 64 (memNat s (a + 16) 8)
  if h == 0 || s.images.any (fun x => x.handle == h) then some (Reject.image 0x5C 0)
  else if a % 64 != 0 || !inT2 a || len = 0 || !inT2 (a + len - 1) || len != memNat s (a + 24) 8 then some (Reject.image 0x5D 0)
  else match versionReject s a len with
    | some x => some x
    | none =>
      let ls := imageSecs s a
      if ls.any (fun l => !l.whole) then some (Reject.image 0x59 8) else firstReject ls ls

end Sys2Proof.Machine
end

