-- ==== Sys2Proof/Machine/Mark.lean ====
section
/-! DEFINITION. Wave marks and the replay area (R402 to R405): what a mark keeps of a region, and the replay point. -/

namespace Sys2Proof.Machine

/-- What a PE holds for a context besides its stations: its statement
descriptors with the moduli in force, and the matrix part where the context owns it. -/
def partOf (c : Nat) (owns : Bool) (p : Pe) : Pe :=
  { Pe.idle with
    entries := p.entries.filter (fun e => e.ctx == c)
    marked := p.marked.filter (fun e => e.ctx == c)
    ready := p.ready.filter (fun e => e.ctx == c)
    results := p.results.filter (fun e => e.ctx == c)
    invar := p.invar.keep (fun k => k % 8 == c)
    accum := p.accum.keep (fun k => accCtx k == c)
    pendingOut := p.pendingOut.keep (fun k => k % 8 == c)
    joins := p.joins.keep (fun k => k % 8 == c)
    forwarded := p.forwarded.filter (fun k => k % 8 == c)
    emitted := p.emitted.filter (fun e => e.1.ctx == c)
    descs := p.descs.keep (fun k => k / 4096 == c)
    active := if owns then p.active else [], shadow := if owns then p.shadow else []
    cells := if owns then p.cells else [], west := if owns then p.west else []
    north := if owns then p.north else [] }

/-- Two maps with no key in common, as one in rising key order. -/
def joinMaps {α : Type} (a b : Map α) : Map α := a.foldl (fun m kv => Map.put m kv.1 kv.2) b

/-- A PE with the part of a context as it was kept. -/
def putPart (c : Nat) (owns : Bool) (old p : Pe) : Pe :=
  let q := purgeCtx c p
  { q with
    entries := q.entries ++ old.entries, marked := q.marked ++ old.marked, ready := q.ready ++ old.ready
    results := q.results ++ old.results, invar := joinMaps old.invar q.invar, accum := joinMaps old.accum q.accum
    pendingOut := joinMaps old.pendingOut q.pendingOut, joins := joinMaps old.joins q.joins
    forwarded := q.forwarded ++ old.forwarded, emitted := q.emitted ++ old.emitted
    active := if owns then old.active else q.active, shadow := if owns then old.shadow else q.shadow
    cells := if owns then old.cells else q.cells, west := if owns then old.west else q.west
    north := if owns then old.north else q.north }

/-- The transfers of a region's PORTs, each as a flight of its completion's source (R404). -/
def transfersOut (s : State) (k : Nat) : List Flight :=
  ((regionOpers s k).map (fun ko => ko.2.moves.map (fun (m : Transfer) =>
    (⟨ko.1, m.cmd + 1, .response, 0, 0, .token .zero, k + 1, true, false⟩ : Flight)))).flatten

/-- The requests of a region that are outstanding, as the flights that carried them, its transfers, and the responses on their
way to it (R406). -/
def outstanding (s : State) (k : Nat) : List Flight :=
  (s.accesses.filterMap (fun a => match a.req with
    | some q => if q.region == k && a.phase < 5 then
        some (⟨q.site, q.station, .request, a.oper, a.oper * 2048, .port q, k + 1, false, false⟩ : Flight) else none
    | none => none)) ++
  (s.opers.map (fun ko => ((ko.2.doms.map (fun d => d.2.waiting)).flatten.filter (fun q => q.region == k && q.site != 0)).map (fun (q : PortReq) =>
    (⟨q.site, q.station, .request, ko.1, ko.1 * 2048, .port q, k + 1, false, false⟩ : Flight)))).flatten ++
  (s.tiles.map (fun kt => (kt.2.serving.filter (fun v => v.req.region == k)).map (fun (v : Serving) =>
    (⟨v.req.site, v.req.station, .request, kt.1, kt.1 * 2048 + v.req.port * 4, .read v.req, k + 1, false, false⟩ : Flight)))).flatten ++
  transfersOut s k ++
  s.net.filter (fun f => !s.inside k f && (f.isAnswer || f.cls == .request) &&
    (f.region == k + 1 || (match f.msg.token? with
      | some t => s.regionAt (Token.site t) t.ctx.toNat == some k
      | none => false)))

/-- The keys of a region's PEs and of its operator sites: both count emissions (R407). -/
def effectSites (s : State) (k : Nat) : List Nat :=
  (s.region k).peSites.map Site.key ++ (regionOpers s k).map Prod.fst

/-- What is kept of a region at a mark (R403), with the barriers of its load. -/
def markOf (k : Nat) (s : State) : Snap :=
  let r := s.region k
  let owns := ownsMatrix s k
  { region := k, wave := r.wave, state := some { r with barriers := (s.region r.loadBase).barriers }
    pes := (effectSites s k).map (fun x => (x, partOf r.ctx owns (s.pe x)))
    opers := regionOpers s k, tiles := [], flights := s.net.filter (s.inside k)
    matrix := if owns then some (s.matrix (Site.key r.corner)) else none
    captured := outstanding s k
    accs := (s.accesses.filter (fun a => a.region == k + 1 && a.req.isNone && a.phase < 5)).map Access.id }

/-- The region has a replay area (R403): the save pool is not empty. -/
def State.savePool (s : State) : Bool := field s.modRegs.pssize 31 0 != 0

/-- Waves of effects that a region has produced and not released: in its caboose, or of firings not yet emitted. -/
def openWaves (s : State) (k : Nat) : List Nat :=
  let r := s.region k
  r.caboose.map Effect.wave ++
  (r.peSites.map (fun x => ((s.pe (Site.key x)).results.filter (fun q => q.ctx == r.ctx)).map Result.wave)).flatten

/-- The region of a COMPARE's load that a copy's site names (R212, R413). -/
def copyAt (s : State) (o : Oper) (w : Nat) : Option Nat :=
  s.findRegion (fun _ r => (targetOf w).valid && r.corner == Target.site (targetOf w) && r.ctx == (s.region (o.region - 1)).ctx)

/-- The region is the first copy of a COMPARE. -/
def isCopyA (s : State) (k : Nat) (o : Oper) : Bool := o.kind == 10 && copyAt s o (field (Map.get o.pm 0 1) 31 0) == some k

/-- The region is the second copy of a COMPARE. -/
def isCopyB (s : State) (k : Nat) (o : Oper) : Bool := o.kind == 10 && copyAt s o (field (Map.get o.pm 0 1) 63 32) == some k

/-- A COMPARE still holds, or will receive, effects of a region (R414). -/
def comparing (s : State) (k : Nat) : Bool :=
  s.net.any (fun f => f.region == k + 1 && (s.oper f.dst).kind == 10) ||
  s.opers.any (fun ko => (isCopyA s k ko.2 && !ko.2.held.isEmpty) || (isCopyB s k ko.2 && !ko.2.held2.isEmpty))

/-- The replay point after a mark: the least wave that has an effect not yet released (R403). It stays where it is while
the replay has still to produce an effect whose key is in the released-key set (R406, R407; log entry 24). -/
def replayPoint (s : State) (k : Nat) : Nat :=
  if comparing s k || !(s.region k).keysAwait.isEmpty then (s.region k).oldest else max (s.region k).oldest ((openWaves s k).foldl min (s.region k).wave)

/-- The records of the waves that the replay point passes are freed (R403). -/
def freeWaves (k w0 : Nat) (s : State) : State :=
  { s.onRegion k (fun r => { r with
      oldest := w0
      inputs := r.inputs.filter (fun x => w0 ≤ x.1)
      clkKept := if w0 = r.wave then [] else r.clkKept
      freed := if w0 = r.wave then [] else r.freed
      keysOut := r.keysOut.filter (fun q => w0 ≤ q.2) }) with
    snaps := s.snaps.filter (fun x => x.region != k || w0 ≤ x.wave)
    accesses := s.accesses.filter (fun a => !(a.region == k + 1 && 8 ≤ a.phase && a.before.any (fun w => w < w0))) }

/-- An unprotected region is protected again once every wave unreleased at that time is released (R405). -/
def protectAgain (s : State) (k : Nat) : Bool :=
  let r := s.region k
  r.unprot && s.savePool && (openWaves s k).all (fun w => r.oldest < w)

/-- A mark of a region (R402): a new wave begins, its state is kept, and the replay point moves. The mark is one step of the
model: at every PE the same cut, which the hardware takes i + j cycles later at PE (i, j) (DEDUCED, log entry 103). -/
def takeMark (k : Nat) (s : State) : State :=
  let s1 := (s.onRegion k (fun r => { r with wave := r.wave + 1, markAt := (r.markAt / 1024 + 1) * 1024 }))
  let s2 := onRegionPes k (fun p => { p with colour := !p.colour }) s1
  if (s2.region k).unprot && !protectAgain s2 k then s2
  else
    let s3 := s2.onRegion k (fun r => { r with
      oldest := if r.unprot then r.wave else r.oldest, unprot := false, inputs := if r.unprot then [] else r.inputs })
    let s4 := { s3 with snaps := s3.snaps ++ [markOf k s3] }
    freeWaves k (replayPoint s4 k) s4

/-- The first mark of a region, when its load becomes resident. -/
def firstMark (k : Nat) (s : State) : State :=
  let s1 := s.onRegion k (fun r => { r with wave := 0, oldest := 0, markAt := s.now r.die, unprot := !s.savePool })
  let s2 : State := { s1 with snaps := s1.snaps.filter (fun x => x.region != k) }
  if s.savePool then { s2 with snaps := s2.snaps ++ [markOf k s2] } else s2

/-- A region's mark is due: a multiple of 1,024 cycles of its die has passed since the last (R402). -/
def markDue (s : State) (k : Nat) : Bool :=
  let r := s.region k
  !s.fatal && !r.rolling && 2 ≤ r.status && r.status ≤ 4 && r.markAt / 1024 < s.now r.die / 1024

/-- An unprotected region whose waves of that time are all released is protected again between marks (R405): the replay point is its
present wave, and its records begin with what it holds now. -/
def protectNow (k : Nat) (s : State) : State :=
  let s1 := s.onRegion k (fun r => { r with oldest := r.wave, unprot := false, inputs := [] })
  { s1 with snaps := s1.snaps.filter (fun x => x.region != k) ++ [markOf k s1] }

/-- What a region's replay area does between marks (R405): a full undo log makes the region unprotected, and the release of the last
wave that was unreleased then makes it protected again. -/
def replayArea (k : Nat) (s : State) : State :=
  let r := s.region k
  if s.fatal || r.rolling || r.status < 2 || 4 < r.status then s
  else if r.unprot then (if protectAgain s k && r.oldest < r.wave then protectNow k s else s)
  else if Config.undoFull k (s.now r.die) then replayOverrun k s
  else s

/-- WAVE_MARK (R402, R405). -/
def execWaveMark (r : Nat) (s : State) : Host.Outcome State Fault Refusal :=
  .next (if markDue s r then takeMark r s else replayArea r s)

end Sys2Proof.Machine
end

