-- ==== Sys2Proof/Machine/Loader.lean ====
section
/-! DEFINITION. The configuration loader: registering an image (R329), the delivery of configuration words (R330, R331),
and a context's becoming resident (R331, R332). -/

namespace Sys2Proof.Machine

/-! ### Registration -/

/-- IMGSTAT after a command: its bit, and the rejection code (R329). -/
def imgStat (b code : Nat) : Word := BitVec.ofNat 64 (2 ^ b + code % 256 * 256)

/-- IMGCMD command 1 (R329). -/
def registerImage (s : State) : State :=
  let a := s.modRegs.imgaddr.toNat
  let len := s.modRegs.imglen.toNat
  match imageReject s a len with
  | some x => s.onRegs (fun g => { g with imgcmd := 0, imgstat := imgStat 2 x.code, ldrep := x.ldrep })
  | none =>
    { s.onRegs (fun g => { g with imgcmd := 0, imgstat := imgStat 1 0 }) with
      images := s.images ++ [⟨BitVec.ofNat 64 (memNat s (a + 16) 8), a, len⟩] }

/-- The command that IMGCMD holds runs while IMGSTAT shows busy. -/
def imageCommand (s : State) (c : Nat) : Bool := bit s.modRegs.imgstat 0 && s.modRegs.imgcmd.toNat == c && !s.fatal

/-- IMAGE_REGISTER (R329). -/
def execImageRegister (s : State) : Host.Outcome State Fault Refusal :=
  .next (if imageCommand s 1 then registerImage s else s)

/-- The registered image of a handle. -/
def State.imageOf (s : State) (h : Word) : Option Image := s.images.find? (fun x => x.handle == h)

/-- The launch block that the head of a launch queue names: its address and the instance number (R341). -/
def launchHead (s : State) (q : Nat) : Option (Word × Nat) :=
  let d := Map.get s.queues .zero (192 + q)
  if !(bit d.cfg 8) || d.used = 0 then none
  else match queuePa s d (field d.head 31 0) false with
    | .at pa => some (Memory.readWord s.mem pa, memNat s (pa + 8) 4)
    | _ => none

/-- The context in which a launch queue's entries and blocks are translated (R383). -/
def launchCtx (s : State) (q : Nat) : Nat := field (Map.get s.queues .zero (192 + q)).cfg 7 5

/-- The physical address of a launch block, where its page can be read. -/
def blockPa (s : State) (q : Nat) (va : Word) : Option Nat :=
  match translate s ioUnit (launchCtx s q) va.toNat with
  | .page sh fr r _ _ => if r then some (fr + va.toNat % 2 ^ sh) else none
  | .fault _ _ => none

/-- A launch entry at a queue head names an image. -/
def headNames (s : State) (h : Word) : Bool :=
  (List.range 64).any (fun q => match launchHead s q with
    | some (va, _) => match blockPa s q va with
      | some pa => Memory.readWord s.mem pa == h
      | none => false
    | none => false)

/-- IMGCMD command 2 (R329): an image in use is refused. -/
def unregisterImage (s : State) : State :=
  let h := s.modRegs.imghdl
  if s.regions.any (fun kr => kr.2.valid && kr.2.image == h) || headNames s h then
    (s.onRegs (fun g => { g with imgcmd := 0, imgstat := imgStat 4 0 })).refuseWrite
  else { s.onRegs (fun g => { g with imgcmd := 0, imgstat := imgStat 3 0 }) with
    images := s.images.filter (fun x => x.handle != h) }

/-- IMAGE_UNREGISTER (R329). -/
def execImageUnregister (s : State) : Host.Outcome State Fault Refusal :=
  .next (if imageCommand s 2 then unregisterImage s else s)

/-! ### Delivery -/

/-- The load that a region holds, read from the loader's image copy. -/
def regionLoad (s : State) (k : Nat) : Option LoadSec :=
  (s.imageOf (s.region k).image).map (fun i => readLoad s i.addr (s.region k).load)

/-- The loads of the image that a region's load is of, from the same copy. -/
def regionSecs (s : State) (k : Nat) : List LoadSec :=
  match s.imageOf (s.region k).image with
  | some i => imageSecs s i.addr
  | none => []

/-- A configuration word of a region, with its destination (R331). -/
inductive CfgItem where
  | head (i : Nat) (a b : Word)
  | entry (site count : Nat)
  | word (site st : Nat) (w : StationWord) (fanin : Nat)
  | desc (site idx : Nat) (w : StationWord)
  | param (site : Nat) (o : OperRec) (fanin i : Nat)
  deriving DecidableEq, Repr

/-- A list with an item put in by its key, behind those of its key. -/
def insertKey {α : Type} (x : Nat × α) : List (Nat × α) → List (Nat × α)
  | [] => [x]
  | y :: ys => if x.1 < y.1 then x :: y :: ys else y :: insertKey x ys

/-- A list in the order of its keys. -/
def sortKeys {α : Type} (xs : List (Nat × α)) : List α := (xs.foldl (fun ys x => insertKey x ys) []).map Prod.snd

/-- The lane of a site of a region: its PE column, or for a tile the nearest PE column of the region west of it (R330). -/
def laneCol (r : Region) (x : Site) : Nat :=
  if isPe x then x.col
  else ((List.range r.width).map (fun j => (peSite r.die r.row (r.col + j)).col)).foldl
    (fun m c => if c < x.col then max m c else m) 0

/-- The order of a word on its lane (R331): grid row, kind, slot; lanes from west to east. -/
def laneKey (r : Region) (x : Site) (kind slot : Nat) : Nat :=
  ((laneCol r x * 128 + x.row) * 4 + kind) * 16384 + slot

/-- The words of a region in the order of their delivery (R331), operators last. The coupling counts that go with them are
those that the loader gives (R333), with the launch as a producer of what the initial-token table names. -/
def configWords (s : State) (k : Nat) (l : LoadSec) : List CfgItem :=
  let r := s.region k
  let h := l.heads.getD r.index []
  let feeders := l.feeders (regionSecs s k) r.index l.initial
  let count := fun (x : Site) (st : Nat) => producerCount feeders (member (Site.key x) st)
  let mine := fun (x : Site) => if isPe x then r.holdsPe x else l.tileRegion x == some r.index
  let top : Site := ⟨r.die, 0, r.corner.col⟩
  let heads := [(laneKey r top 0 0, CfgItem.head 0 (h.getD 0 0) (h.getD 1 0)), (laneKey r top 0 1, .head 1 (h.getD 2 0) (h.getD 3 0))]
  let entries := (l.entries.filter (fun e => mine e.1)).map (fun (e : Site × BitVec 32) =>
    (laneKey r e.1 1 l.ctx, CfgItem.entry (Site.key e.1) (field e.2 19 10)))
  let words := (l.stations.filter (fun q => mine q.site)).map (fun (q : Station) =>
    (laneKey r q.site 2 q.st, CfgItem.word (Site.key q.site) q.st q.word (count q.site q.st)))
  let descs := (l.recs.filter (fun c => c.kind == 3 && mine c.site)).map (fun (c : CfgRec) =>
    (laneKey r c.site 3 c.index, CfgItem.desc (Site.key c.site) c.index c.word))
  sortKeys (heads ++ entries ++ words ++ descs) ++
  ((l.opers.filter (fun o => o.region == r.index)).map (fun (o : OperRec) =>
    let n := count (Target.site o.place) 0
    (List.range 8).map (fun i => CfgItem.param (Site.key (Target.site o.place)) o n i))).flatten

/-- The slots of a PE that other contexts' stations take (R29); those of a parked context are saved (R373). -/
def takenSlots (p : Pe) (c : Nat) : List (Nat × Nat) :=
  ((List.range 8).filter (fun d => d != c && p.ctxState d != 0 && p.ctxState d != 3)).map (fun d => (p.ctxBase d, p.ctxCount d))

/-- The lowest base at which `n` stations fit among the entries already present (R332). -/
def lowestBase (taken : List (Nat × Nat)) (n : Nat) : Option Nat :=
  leastBy id ((0 :: taken.map (fun t => t.1 + t.2)).filter (fun b =>
    b + n ≤ 512 && taken.all (fun t => b + n ≤ t.1 || t.1 + t.2 ≤ b)))

/-- A context-table entry (R29). -/
def ctxEntry (state count base : Nat) : BitVec 32 := BitVec.ofNat 32 (state * 2 ^ 30 + count * 2 ^ 10 + base)

/-- A PE's context entry in another state. -/
def Pe.setState (c state : Nat) (p : Pe) : Pe :=
  { p with ctxs := Map.put p.ctxs c (ctxEntry state (p.ctxCount c) (p.ctxBase c)) }

/-- Half of a descriptor is written (R250, R328). -/
def putHalf (idx : Nat) (w : StationWord) (d : Desc) : Desc :=
  let lo := BitVec.ofNat 64 w.toNat
  let hi := BitVec.ofNat 64 (w.toNat / 2 ^ 64)
  if idx % 2 = 0 then { d with w0 := lo, w1 := hi } else { d with w2 := lo, w3 := hi }

/-- An operator site as the delivery of its record sets it up (R191, R333). -/
def freshOper (k fanin : Nat) (o : OperRec) : Oper :=
  { Oper.idle with
    kind := o.kind, region := k + 1, fanin := fanin, nextTag := field (o.pms.getD 14 0) 31 16
    expTag := if o.kind = 7 then field (o.pms.getD 0 0) 31 16 else 0 }

/-- An operator site that changes keeps its drawbar stream's numbering and the tokens not yet acknowledged: the far side knows the
stream by its site (R285). Whether a PORT that is parametrised anew goes on numbering the spec leaves open: DESIGN CHOICE, log
entry 113. -/
def Oper.onLine (old new : Oper) : Oper := { new with streamSeq := old.streamSeq, unacked := old.unacked }

/-- One configuration word arrives (R331). A tile that gets a descriptor is its region's from then on (R248). -/
def deliver (k c : Nat) (w : CfgItem) (s : State) : State :=
  match w with
  | .head 0 a b => s.onRegion k (fun r => { r with
      head := a, head1 := b, ctl := BitVec.ofNat 64 (field a 63 59 + field a 58 51 * 64 + one (bit r.ctl 14) * 2 ^ 14) })
  | .head _ a b => s.onRegion k (fun r => { r with head2 := a, head3 := b })
  | .entry x n => s.onPe x (fun p => { p with
      ctxs := Map.put p.ctxs c (ctxEntry 2 n ((lowestBase (takenSlots p c) n).getD 0)) })
  | .word x st v n => s.onPe x (fun p => { p with
      store := Map.put p.store (p.ctxBase c + st) v, coupling := Map.put p.coupling (stKey c st) n })
  | .desc x i v =>
    if isPe (Site.ofKey x) then s.onPe x (fun p => { p with
      descs := Map.alter p.descs Desc.zero (descKey c (i / 2)) (putHalf i v) })
    else s.onTile x (fun t => { t with owner := k + 1, descs := Map.alter t.descs Desc.zero (descKey c (i / 2)) (putHalf i v) })
  | .param x o n i => s.onOper x (fun q =>
      let q' := if i = 0 then q.onLine (freshOper k n o) else q
      { q' with pm := Map.put (Map.put q'.pm (2 * i) (o.pms.getD (2 * i) 0)) (2 * i + 1) (o.pms.getD (2 * i + 1) 0) })

/-- The next word of a loading region is delivered, but not under a debug halt (R340). -/
def deliverNext (s : State) (k : Nat) : Option State :=
  match regionLoad s k with
  | none => none
  | some l =>
    if (s.region k).status != 1 || (s.region k).halted then none
    else match (configWords s k l)[(s.region k).words]? with
      | none => none
      | some w => some ((deliver k l.ctx w s).onRegion k (fun r => { r with words := r.words + 1 }))

/-- CONFIG_WORD_DELIVERY (R330). -/
def execConfigWordDelivery (r : Nat) (s : State) : Host.Outcome State Fault Refusal := .next (s.orSelf (deliverNext s r))

/-! ### Residency -/

/-- The streams of a region as its load declares them (R237). -/
def regionStreams (l : LoadSec) (i : Nat) : List Stream :=
  (l.streams.filter (fun d => d.region == i)).map (fun d => ⟨d.entry, d.depth, d.window, []⟩)

/-- The declared barriers of a load (R166, R325). -/
def loadBarriers (l : LoadSec) : Map Barrier :=
  ((List.range 64).zip l.bars).filterMap (fun b => if b.2 = 0 then none else some (b.1, { Barrier.none with n := b.2 }))

/-- A region's record when its load becomes resident: the logs and the stall are cleared (R59, R349), nothing is live. -/
def freshRegion (r : Region) (l : LoadSec) (ls : List LoadSec) (k now : Nat) : Region :=
  { Region.empty with
    head := r.head, head1 := r.head1, head2 := r.head2, head3 := r.head3, image := r.image, load := r.load
    loadBase := r.loadBase, index := r.index, ctl := r.ctl, status := 2, serial := r.serial, inst := r.inst
    running := r.running, words := r.words, progressAt := now, domains := l.domains ls r.index l.initial
    streams := regionStreams l r.index, barriers := if r.loadBase = k then loadBarriers l else [] }

/-- A newly resident context owns no matrix state: what an earlier load of the context left gives no feed words (R432;
DEDUCED, log entry 23). -/
def releaseMatrix (k : Nat) (s : State) : State :=
  if ownsMatrix s k then
    s.onMatrix (Site.key (s.region k).corner) (fun m => { m with mode := 0, owner := none })
  else s

/-- Every word has been delivered: the contexts become resident in one cycle (R331), but not under a debug halt (R340). -/
def becomeResident (s : State) (k : Nat) : Option State :=
  match regionLoad s k with
  | none => none
  | some l =>
    let r := s.region k
    if r.status != 1 || r.halted || r.words < (configWords s k l).length then none
    else
      let sites := (l.entries.filter (fun e => r.holdsPe e.1)).map (fun e => Site.key e.1)
      let s1 := sites.foldl (fun s x => s.onPe x (fun p => (purgeCtx l.ctx p).setState l.ctx 1)) s
      let s2 := (releaseMatrix k s1).onRegion k (fun r => freshRegion r l (regionSecs s k) k (s.now r.die))
      some (firstMark k (resetNames k s2))

/-- CONTEXT_RESIDENT (R331). -/
def execContextResident (r : Nat) (s : State) : Host.Outcome State Fault Refusal := .next (s.orSelf (becomeResident s r))

end Sys2Proof.Machine
end

