-- ==== Sys2Proof/Machine/Launch.lean ====
section
/-! DEFINITION. Launch blocks (R341 to R345), predecessors (R343) and footprints (R332, R344, R373). -/

namespace Sys2Proof.Machine

/-! ### Launch blocks -/

/-- A launch block (R342). `reserved`: some field that must be zero is not. -/
structure Launch where
  handle : Word
  load   : Nat
  prio   : Nat
  policy : Nat
  budget : Nat
  ntok   : Nat
  preds  : List Word
  doneAt : Word
  tokens : List (Word × Word)
  reserved : Bool
  deriving DecidableEq, Repr

/-- The launch block at a physical address (R342). -/
def readLaunch (s : State) (a : Nat) : Launch :=
  let ntok := memNat s (a + 16) 1
  let preds := [Memory.readWord s.mem (a + 24), Memory.readWord s.mem (a + 32)]
  { handle := Memory.readWord s.mem a
    load := memNat s (a + 8) 2
    prio := memNat s (a + 10) 1 % 8
    policy := memNat s (a + 11) 1 % 4
    budget := memNat s (a + 12) 4
    ntok := ntok
    preds := preds.filter (fun p => bit p 63)
    doneAt := Memory.readWord s.mem (a + 40)
    tokens := (List.range (min ntok 13)).map (fun i =>
      (Memory.readWord s.mem (a + 48 + 16 * i), Memory.readWord s.mem (a + 56 + 16 * i)))
    reserved := 8 ≤ memNat s (a + 10) 1 || 4 ≤ memNat s (a + 11) 1 || memNat s (a + 17) 7 != 0 ||
      preds.any (fun p => field p 62 48 != 0) }

/-- A launch token names a station or port of the load (R345). -/
def tokenFits (l : LoadSec) (t : Token) : Bool :=
  t.ctx.toNat == l.ctx &&
  (if isPe (Token.site t) then
    match l.stationAt (Token.site t) t.station.toNat with
    | some q => match opInfo (wordOp q.word) with
      | some o => t.port == .c || acceptsPort o (decodeFields q.word) t.port
      | none => false
    | none => false
   else match l.operAt (Token.site t) with
    | some o => (operPorts o.kind).contains t.port && t.station == 0
    | none => false)

/-- The load that a block names. -/
def launchLoad (s : State) (b : Launch) : Option LoadSec :=
  match s.imageOf b.handle with
  | some i => if b.load < imageLoads s i.addr then some (readLoad s i.addr b.load) else none
  | none => none

/-- Why a block is malformed (R345): 1 address, 2 handle, 3 load, 4 reserved, 5 count, 6 token. -/
def launchReason (s : State) (va : Word) (b : Launch) : Option Nat :=
  if 2 ^ 57 ≤ va.toNat || va.toNat % 256 != 0 then some 1
  else if (s.imageOf b.handle).isNone then some 2
  else match launchLoad s b with
    | none => some 3
    | some l =>
      if b.reserved then some 4
      else if 13 < b.ntok then some 5
      else if !(b.tokens.all (fun t => tokenFits l (Token.ofWords t.1 t.2))) then some 6
      else none

/-- How many instances the arbiter had taken when the head entry of a launch queue was pushed (R343). -/
def headPushed (s : State) (q : Nat) : Nat :=
  let h := field (Map.get s.queues .zero (192 + q)).head 31 0
  (((s.pushed.filter (fun m => m.queue == q && (h + 2 ^ 32 - m.index) % 2 ^ 32 < 2 ^ 31)).getLast?).map PushMark.taken).getD s.taken

/-- A predecessor of the head entry of a launch queue is met (R343): its triggers have been released, or it has ended. One that
was taken and is not among the 1,024 most recent counts as ended; one that has not appeared is awaited until 1,024 instances have
been taken since the entry was pushed. -/
def predMet (s : State) (q : Nat) (p : Word) : Bool :=
  match s.inst (field p 31 0) with
  | some i => i.phase == 4 || (field p 47 32 != 0 && field p 47 32 ≤ i.triggers) || i.entry + 1024 ≤ s.taken
  | none => s.forgotten.contains (field p 31 0) || headPushed s q + 1024 ≤ s.taken

/-! ### Footprints -/

/-- A region's record holds region `i` of a load of an image. -/
def holdsLoad (s : State) (h : Word) (l : LoadSec) (i k : Nat) : Bool :=
  let r := s.region k
  r.valid && r.image == h && r.load == l.index && r.index == i

/-- A resident region with no running instance (R332). -/
def idleRegion (s : State) (k : Nat) : Bool :=
  let r := s.region k
  r.valid && !r.running && r.status != 1 && r.status != 6

/-- The record in which region `i` of a load is resident and idle, to be reused (R332). -/
def reusable (s : State) (h : Word) (l : LoadSec) (i : Nat) : Option Nat :=
  s.findRegion (fun k r => holdsLoad s h l i k && idleRegion s k && r.status == 2)

/-- The site belongs to a region: a PE, tile or operator of it. -/
def siteOf (s : State) (k x : Nat) : Bool :=
  let r := s.region k
  if isPe (Site.ofKey x) then r.holdsPe (Site.ofKey x)
  else if isTile (Site.ofKey x) then (regionTiles s k).contains x
  else (s.oper x).region == k + 1

/-- The sites of region `i` of a load: PEs with an entry, operators, tiles of its statements. -/
def loadSites (l : LoadSec) (i : Nat) : List Nat :=
  let r := l.regions.getD i Region.empty
  ((l.entries.filter (fun e => r.holdsPe e.1)).map (fun e => Site.key e.1)) ++
  ((l.opers.filter (fun o => o.region == i)).map (fun o => Site.key (Target.site o.place))) ++
  (((l.copies.map (fun c => c.2.1)).filter (fun x => isTile x && l.tileRegion x == some i)).map Site.key).eraseDups

/-- A PE of a rectangle lies in a suspect block or on a die that failed its test (R420, R427). -/
def barredArea (s : State) (r : Region) : Bool :=
  bit s.modRegs.bootstat (8 + r.die) ||
  r.peSites.any (fun x =>
    let b := peRow x.row / 8 * 16 + peCol x.col / 8
    bit (Map.get (s.die r.die).suspe 0 (b / 64)) (b % 64))

/-- The load of an instance. -/
def instLoad (s : State) (x : Inst) : Option LoadSec := (s.imageOf x.image).map (fun i => readLoad s i.addr x.load)

/-- The instances that the arbiter has chosen before entry `n` and that have not started: their footprints are theirs (R344). -/
def chosen (s : State) (n : Nat) : List (Inst × LoadSec) :=
  (s.insts.filter (fun y => y.phase == 0 && y.entry < n)).filterMap (fun y => (instLoad s y).map (fun m => (y, m)))

/-- A load's reservations at a PE (R31). -/
def LoadSec.reservedAt (l : LoadSec) (x : Site) : Nat := sumNat ((l.stations.filter (fun q => q.site == x)).map (fun q => reserveOf q.word))

/-- The region of a load that holds a PE. -/
def LoadSec.regionOfPe (l : LoadSec) (x : Site) : Nat := (firstIdx (fun r => r.holdsPe x) l.regions 0).getD 0

/-- Stations that are to come to a PE and that its context table does not show: counts and reservations of chosen loads, where they
are not resident or are to go, and of loads whose table entry has not been delivered (R331, R344). -/
def dueAt (s : State) (n : Nat) (gone : List Nat) (x : Site) : List (Nat × Nat) :=
  ((chosen s n).filter (fun ym => match reusable s ym.1.image ym.2 (ym.2.regionOfPe x) with
      | some k => gone.contains k
      | none => true)).filterMap (fun ym => (ym.2.countAt x).map (fun c => (c, ym.2.reservedAt x))) ++
  (s.regions.filter (fun kr => kr.2.status == 1 && kr.2.holdsPe x && (s.pe (Site.key x)).ctxState kr.2.ctx == 0)).filterMap (fun kr =>
    (regionLoad s kr.1).bind (fun m => (m.countAt x).map (fun c => (c, m.reservedAt x))))

/-- Station counts placed one after the other at the lowest base that fits (R332); none when one does not. -/
def placeAll : List Nat → List (Nat × Nat) → Option (List (Nat × Nat))
  | [], taken => some taken
  | n :: ns, taken => match lowestBase taken n with
    | some b => placeAll ns (taken ++ [(b, n)])
    | none => none

/-- The load's stations and reservations fit at a PE beside the contexts that stay and those to come (R29, R31, R332). -/
def peFits (s : State) (n : Nat) (l : LoadSec) (gone : List Nat) (e : Site × BitVec 32) : Bool :=
  let p := s.pe (Site.key e.1)
  let stays := fun (d : Nat) => d != l.ctx && p.ctxState d != 0 && p.ctxState d != 3 &&
    !(match s.regionAt e.1 d with | some k => gone.contains k | none => false)
  let ds := (List.range 8).filter stays
  let due := dueAt s n gone e.1
  let theirs := sumNat (ds.map (fun d => sumNat ((List.range (p.ctxCount d)).map (fun st => reserveOf (p.word d st)))))
  (placeAll (due.map Prod.fst ++ [field e.2 19 10]) (ds.map (fun d => (p.ctxBase d, p.ctxCount d)))).isSome &&
  l.reservedAt e.1 + theirs + sumNat (due.map Prod.snd) ≤ 1024

/-- Two loads cannot be resident together (R332): they meet in one context, or share an operator site or a tile. -/
def contend (l m : LoadSec) : Bool :=
  (l.ctx == m.ctx && l.regions.any (fun r => m.regions.any (fun q => r.meets q))) ||
  ((List.range l.heads.length).map (loadSites l)).flatten.any (fun x => !isPe (Site.ofKey x) &&
    ((List.range m.heads.length).map (loadSites m)).flatten.contains x)

/-- An operator site or tile is not used by a load that stays. A parked region's is saved; an operator with an access
outstanding stays its own until that is done (R373). -/
def siteFree (s : State) (gone own : List Nat) (x : Nat) : Bool :=
  s.regions.all (fun kr => !kr.2.valid || !siteOf s kr.1 x || gone.contains kr.1 || own.contains kr.1 || kr.2.status == 6) &&
  (!(isOper (Site.ofKey x)) || (own ++ gone).contains ((s.oper x).region - 1) || !(s.accesses.any (fun a => a.oper == x && a.phase < 8)))

/-- The records that hold a load's regions already: idle to be reused; or, of an instance to be resumed, parked or still running
(R370). -/
def ownRecords (s : State) (h : Word) (l : LoadSec) (parked : Bool) : List (Option Nat) :=
  (List.range l.heads.length).map (fun i =>
    if parked then s.findRegion (fun k r => holdsLoad s h l i k && (r.status == 6 || r.running)) else reusable s h l i)

/-- The records of the load's own context that its rectangles meet, its own apart. -/
def clashing (s : State) (l : LoadSec) (own : List Nat) : List Nat :=
  (s.regions.filter (fun kr => kr.2.valid && kr.2.ctx == l.ctx && !own.contains kr.1 &&
    l.regions.any (fun r => r.meets kr.2))).map Prod.fst

/-- The idle regions of other loads that use a site of the load, or a PE of it. -/
def idleUsers (s : State) (l : LoadSec) (own : List Nat) : List Nat :=
  let sites := ((List.range l.heads.length).map (loadSites l)).flatten
  (s.regions.filter (fun kr => idleRegion s kr.1 && !own.contains kr.1 && sites.any (fun x => siteOf s kr.1 x))).map Prod.fst

/-- A footprint is free once the regions of `gone` are (R332, R344): the load's context is empty or idle wherever it is
needed, and everything fits, beside what the arbiter chose before entry `n`. -/
def footprintFree (s : State) (n : Nat) (h : Word) (l : LoadSec) (parked : Bool) (gone : List Nat) : Bool :=
  let recs := ownRecords s h l parked
  let own := recs.filterMap id
  let need := (List.range l.heads.length).filter (fun i => match recs.getD i none with
    | none => true
    | some k => (s.region k).status == 6)
  let dies := (l.regions.map Region.die).eraseDups
  l.regions.all (fun r => !barredArea s r) && !((chosen s n).any (fun ym => contend l ym.2)) &&
  (clashing s l own).all (fun k => idleRegion s k) &&
  need.all (fun i =>
    let r := l.regions.getD i Region.empty
    (l.entries.filter (fun e => r.holdsPe e.1)).all (peFits s n l gone) &&
    ((loadSites l i).filter (fun x => !isPe (Site.ofKey x))).all (siteFree s gone own)) &&
  dies.all (fun d =>
    (need.filter (fun i => (l.regions.getD i Region.empty).die == d && (recs.getD i none).isNone)).length ≤
      ((List.range 64).filter (fun j => !(s.region (64 * d + j)).valid || gone.contains (64 * d + j))).length)

/-- Of regions that could be evicted, in order, those without which the footprint is not free (R332). -/
def neededOf (free : List Nat → Bool) : List Nat → List Nat → List Nat
  | [], kept => kept
  | k :: ks, kept => if free (kept ++ ks) then neededOf free ks kept else neededOf free ks (kept ++ [k])

/-- The regions that are evicted for a load (R332, R344): those in its own context, and of the idle ones of other contexts such
as it does not fit beside; none where its footprint is not free even so. Which of several idle regions make room R332 leaves open:
the model spares those of the lowest records where others suffice (DESIGN CHOICE, log entry 95). -/
def evictions (s : State) (n : Nat) (h : Word) (l : LoadSec) (parked : Bool) (victims : List Nat) : Option (List Nat) :=
  let own := (ownRecords s h l parked).filterMap id
  let base := clashing s l own
  if footprintFree s n h l parked (base ++ victims) then some base
  else
    let more := (idleUsers s l own).filter (fun k => !base.contains k)
    if footprintFree s n h l parked (base ++ more ++ victims) then
      some (base ++ neededOf (fun ks => footprintFree s n h l parked (base ++ ks ++ victims)) more [])
    else none

end Sys2Proof.Machine
end

