-- ==== Sys2Proof/Machine/Preempt.lean ====
section
/-! DEFINITION. Pre-emption (R370 to R374): requests, drain-to-wave and forced save, parking, and resumption. -/

namespace Sys2Proof.Machine

/-! ### Eviction -/

/-- A PE without a context: its table entry, coupling counts and descriptor copies go (R332). -/
def dropContext (c : Nat) (p : Pe) : Pe :=
  { p with
    ctxs := Map.del p.ctxs c, coupling := p.coupling.keep (fun k => k % 8 != c), descs := p.descs.keep (fun k => k / 4096 != c) }

/-- A resident load's region is flushed and its record, slots, tiles and operators are freed (R332, R339). -/
def evictRegion (k : Nat) (s : State) : State :=
  let c := (s.region k).ctx
  let s1 := flushRegion k s
  let s2 := (regionTiles s1 k).foldl (fun s x => s.onTile x (fun _ => Tile.clear)) s1
  let s3 := onRegionOpers k (fun _ o => o.onLine Oper.idle) (onRegionPes k (dropContext c) s2)
  { s3.onRegion k (fun _ => Region.empty) with
    snaps := s3.snaps.filter (fun x => x.region != k), parked := s3.parked.filter (fun x => x.region != k) }

/-! ### Requests -/

/-- A region is asked to leave; while it drains for a reconfiguration the request is deferred (R340, R371, R372). -/
def askRegion (mode budget policy : Nat) (byHost : Bool) (k : Nat) (s : State) : State :=
  s.onRegion k (fun r => if r.preempt.mode = 0 && r.status != 6 then { r with
    preempt := ⟨if r.status = 3 then mode + 2 else mode, s.now r.die, budget, policy, byHost⟩ } else r)

/-- A PRCMD value, as its record carries it (R382). -/
def prcmd (i mode : Nat) : Word := BitVec.ofNat 64 (i % 2 ^ 32 + mode * 2 ^ 32)

/-! ### Parking -/

/-- A wave boundary (R371). -/
def waveBoundary (s : State) (k : Nat) : Bool :=
  let r := s.region k
  r.domains.all (fun d => d.live.all (fun l => !tagBusy s d r.ctx l.tag)) && noneExecuting s k && r.caboose.isEmpty &&
  accessesDone s k

/-- A forced save has only to be made (R372): every issued firing has emitted, or its station keeps its result; no token of the region
is in flight inside it, but for those that wait where they are; and its caboose holds no confirmed effect. -/
def saveReady (s : State) (k : Nat) : Bool :=
  let r := s.region k
  noneExecuting s k && !flyingInside s k && !(r.caboose.any (fun e => r.confirmed e.site e.station e.tag))

/-! ### What is saved -/

/-- A discardable statement is not kept in a forced save: every slot with an occupant is discarded (R271). -/
def discardSlots (t : Tile) : Tile :=
  if t.descs.any (fun kd => kd.2.discard) then
    { t with
      slots := t.slots.map (fun (kq : Nat × Slot) => (kq.1,
        if kq.2.state = 0 then kq.2 else { kq.2 with state := 4, readers := 0, held := 0, cursor := 0, rcursor := 0 }))
      present := [], released := [], poisoned := [], writers := [] }
  else t

/-- What a region leaves in the save pool when it is parked (R373): its part of every PE, the matrix state where its context owns
it, and the tokens that wait inside it. Its tiles and operators stay where they are until another load needs them. -/
def parkSnap (k : Nat) (s : State) : Snap :=
  { markOf k s with opers := [], flights := [], captured := s.net.filter (s.inside k), accs := [] }

/-- The bytes of tokens (R14). -/
def tokenBytes (n : Nat) : Nat := 16 * n

/-- The bytes of a PE's part of a context (R373). -/
def Pe.savedBytes (p : Pe) : Nat :=
  tokenBytes (p.entries.length + sumNat ((p.marked ++ p.ready).map (fun e => 1 + e.toks.length)) + p.accum.length + p.invar.length +
    sumNat (p.accum.map (fun ka => ka.2.waiting.length)) + sumNat (p.results.map (fun q => q.emits.length))) +
  8 * (p.active.length + p.shadow.length + p.cells.length + sumNat ((p.west ++ p.north).map (fun w => w.words.length)))

/-- The bytes of a tile (R254, R373): slot records, granule bits, data. -/
def Tile.savedBytes (t : Tile) : Nat :=
  16 * t.slots.length + (t.present.length + t.released.length + t.poisoned.length) / 8 + 8 * t.data.length

/-- The bytes of an operator (R373): parameters, pass position, held tokens. -/
def Oper.savedBytes (o : Oper) : Nat :=
  144 + tokenBytes (o.held.length + o.held2.length + o.mask.toList.length + o.waitR.length + o.out.length +
    sumNat (o.sieve.map (fun x => x.waiting.length)))

/-- The bytes of a region's record, FIFOs, replay buffers and caboose (R373). -/
def Region.savedBytes (r : Region) : Nat :=
  256 + 8 * r.log.length + tokenBytes (r.launchQ.length + r.inputs.length + r.frames.length + r.caboose.length +
    sumNat (r.streams.map (fun q => q.fifo.length)))

/-- The bytes that a saved region takes in the save pool: S of R372, by the model's own measure (DESIGN CHOICE, log entry 33: the
layout of the pool belongs to the device). -/
def Snap.bytes (x : Snap) : Nat :=
  sumNat (x.pes.map (fun kp => kp.2.savedBytes)) + sumNat (x.tiles.map (fun kt => kt.2.savedBytes)) +
  sumNat (x.opers.map (fun ko => ko.2.savedBytes)) + (x.state.map Region.savedBytes).getD 0 +
  (match x.matrix with | some m => 8 * m.biases.length + 32 * (1 + m.queue.length) | none => 0) + tokenBytes x.captured.length

/-- The bytes that parking a region saves (R373): with every tile and operator of it, as a pre-emptor that covers them needs. -/
def saveBytes (s : State) (k : Nat) : Nat :=
  Snap.bytes { parkSnap k s with opers := regionOpers s k, tiles := (regionTiles s k).map (fun x => (x, s.tile x)) }

/-- The save pool has room for regions beside what it holds (R374). -/
def State.poolHolds (s : State) (ks : List Nat) : Bool :=
  s.savePool && decide (sumNat (s.parked.map Snap.bytes) + sumNat (ks.map (saveBytes s)) ≤ field s.modRegs.pssize 31 0 * 65536)

/-! ### Requests of the host -/

/-- PRCMD asks every region of a running instance to leave; refused when the pool is too small for what is saved (R370, R374). -/
def hostPreempt (i mode : Nat) (s : State) : State :=
  match s.inst i with
  | some x =>
    if x.phase != 3 || !s.poolHolds x.regions then s.refuseWrite
    else (x.regions.foldl (fun s k => askRegion mode x.budget x.policy true k s) s).onInst i (fun x => { x with byHost := true })
  | none => s.refuseWrite

/-- PREEMPT_DRAIN_TO_WAVE (R371): PRCMD command 1. -/
def execPreemptDrainToWave (i : Nat) (s : State) : Host.Outcome State Fault Refusal :=
  .next (hostEvent s (hostPreempt i 1))

/-- PREEMPT_FORCED_SAVE (R372): PRCMD command 2. -/
def execPreemptForcedSave (i : Nat) (s : State) : Host.Outcome State Fault Refusal :=
  .next (hostEvent s (hostPreempt i 2))

/-- PRCMD command 3: an instance that the host parked becomes a candidate to resume (R373). -/
def hostResume (i : Nat) (s : State) : State :=
  match s.inst i with
  | some x => if x.phase = 5 && x.byHost then s.onInst i (fun x => { x with byHost := false }) else s.refuseWrite
  | none => s.refuseWrite

/-- PREEMPT_RESUME (R373). -/
def execPreemptResume (i : Nat) (s : State) : Host.Outcome State Fault Refusal := .next (hostEvent s (hostResume i))

/-! ### The park -/

/-- The region can be parked (R371, R372, R374, R379). -/
def parkReady (s : State) (k : Nat) : Bool :=
  let r := s.region k
  !s.fatal && !r.rolling && r.valid && r.status != 1 && r.status != 6 && s.poolHolds [k] &&
  ((r.saving == 1 && !r.halted && waveBoundary s k) || (r.saving == 2 && saveReady s k))

/-- Every region of an instance that was asked to leave is parked. -/
def allParked (s : State) (i : Nat) : State :=
  match s.inst i with
  | some x =>
    if x.phase = 3 && x.regions.any (fun k => (s.region k).status == 6) &&
      x.regions.all (fun k => (s.region k).status == 6 || (s.region k).preempt.mode == 0) then
      s.onInst i (fun x => { x with phase := 5 })
    else s
  | none => s

/-- A region is parked (R373). Tiles and operators stay where they are until another load needs them. -/
def parkRegion (k : Nat) (s : State) : State :=
  let r := s.region k
  let owns := ownsMatrix s k
  let snap := parkSnap k s
  let s1 := onRegionPes k (fun p => (if owns then purgeMatrix (purgeCtx r.ctx p) else purgeCtx r.ctx p).setState r.ctx 3) s
  let s2 := if owns then s1.onMatrix (Site.key r.corner) (fun _ => Matrix.clear) else s1
  let s3 := if r.saving = 2 then (regionTiles s2 k).foldl (fun s x => s.onTile x discardSlots) s2 else s2
  let s4 : State := { s3 with parked := s3.parked ++ [snap], net := s3.net.filter (fun f => !s.inside k f) }
  allParked (s4.onRegion k (fun r => { r with status := 6, progress := progressNow s k })) r.inst

/-- PARK (R373). -/
def execPark (r : Nat) (s : State) : Host.Outcome State Fault Refusal :=
  .next (if parkReady s r then parkRegion r s else s)

/-! ### Resumption -/

/-- A parked region's operator or tile that another load displaces is saved with its context (R373). -/
def saveDisplaced (x : Nat) (s : State) : State :=
  { s with parked := s.parked.map (fun p =>
      if isOper (Site.ofKey x) && (s.oper x).region == p.region + 1 then { p with opers := Map.put p.opers x (s.oper x) }
      else if isTile (Site.ofKey x) && (regionTiles s p.region).contains x then { p with tiles := Map.put p.tiles x (s.tile x) }
      else p) }

/-- A parked context's stations at a PE are placed again and its part restored. -/
def restorePe (l : LoadSec) (snap : Snap) (x : Nat) (s : State) : State :=
  let old := Map.get snap.pes .idle x
  let owns := snap.matrix.isSome
  let n := (l.countAt (Site.ofKey x)).getD 0
  let words := l.stations.filter (fun q => Site.key q.site == x)
  s.onPe x (fun p =>
    let b := (lowestBase (takenSlots p l.ctx) n).getD 0
    let q := putPart l.ctx owns old p
    { q with
      store := words.foldl (fun m w => Map.put m (b + w.st) w.word) q.store
      ctxs := Map.put q.ctxs l.ctx (ctxEntry 1 n b)
      descs := joinMaps old.descs (q.descs.keep (fun k => k / 4096 != l.ctx)) })

/-- A captured token that the launch or the token window had put in, and that waits for its admission again (R387). -/
def awaitsAdmission (f : Flight) : Bool := f.site == Site.key ⟨24, 0, 0⟩ && f.region == 0 && f.input && f.cls != .response

/-- A parked region goes on: its state is restored, and the tokens captured meanwhile are delivered in order, ahead of what is still
on its way (R373). -/
def unpark (k : Nat) (s : State) : State :=
  match s.parked.find? (fun p => p.region == k), regionLoad s k with
  | some snap, some l =>
    let r := s.region k
    let sites := ((l.entries.filter (fun e => r.holdsPe e.1)).map (fun e => Site.key e.1))
    let s1 := sites.foldl (fun s x => restorePe l snap x s) s
    let s2 : State := { s1 with
      opers := joinMaps (snap.opers.map (fun ko => (ko.1, (s1.oper ko.1).onLine ko.2))) s1.opers, tiles := joinMaps snap.tiles s1.tiles
      parked := s1.parked.filter (fun p => p.region != k)
      net := snap.captured.filter (fun f => !awaitsAdmission f) ++ s1.net }
    let s3 := match snap.matrix with
      | some m => s2.onMatrix (Site.key r.corner) (fun _ => m)
      | none => s2
    wakeOpers k (s3.onRegion k (fun r => { r with
      launchQ := r.launchQ ++ snap.captured.filter awaitsAdmission, status := match snap.state with | some q => q.status | none => 2
      preempt := .none, progressAt := s.now r.die }))
  | _, _ => s

/-- The regions to evict so that a parked instance can go on, when its footprint is free or can be made so (R373). -/
def resumePlan (s : State) (x : Inst) : Option (List Nat) :=
  match s.imageOf x.image with
  | some i => evictions s (s.taken + 1) x.image (readLoad s i.addr x.load) true []
  | none => none

/-- Every parked region of an instance goes on. -/
def resumeInst (x : Inst) (gone : List Nat) (s : State) : State :=
  let s1 := gone.foldl (fun s k => evictRegion k s) s
  ((x.regions.filter (fun k => (s1.region k).status == 6)).foldl (fun s k => unpark k s) s1).onInst x.num (fun x => { x with
    phase := 3, byHost := false })

/-- A parked instance that may resume does so when its footprint is free. -/
def instResume (s : State) (i : Nat) : Option State :=
  match s.inst i with
  | some x => if x.phase = 5 && !x.byHost then (resumePlan s x).map (fun gone => resumeInst x gone s) else none
  | none => none

/-- INSTANCE_RESUME (R373). -/
def execInstanceResume (i : Nat) (s : State) : Host.Outcome State Fault Refusal := .next (s.orSelf (instResume s i))

/-! ### The budget -/

/-- A drain whose budget has elapsed (R371). A budget of 0 means no limit. -/
def budgetOver (s : State) (k : Nat) : Bool :=
  let r := s.region k
  r.saving == 1 && r.status != 6 && r.preempt.budget != 0 && r.preempt.since + r.preempt.budget ≤ s.now r.die

/-- The budget of an instance's drain elapses: a forced save under policy 3, else the pre-emption is abandoned, and what
was to start in its place with it (R371). -/
def budgetExpires (s : State) (i : Nat) : Option State :=
  match s.inst i with
  | none => none
  | some x =>
    if !(x.regions.any (budgetOver s)) then none
    else if x.policy = 3 then
      some (x.regions.foldl (fun s k => s.onRegion k (fun r =>
        if r.preempt.mode = 1 && r.status != 6 then { r with preempt := { r.preempt with mode := 2 } } else r)) s)
    else
      let s1 := x.regions.foldl (fun s k => s.onRegion k (fun r =>
        if r.status != 6 then { r with preempt := .none } else r)) s
      let s2 := (x.regions.filter (fun k => (s1.region k).status == 6)).foldl (fun s k => unpark k s) s1
      some { s2.onInst i (fun x => { x with byHost := false }) with
        insts := (s2.onInst i (fun x => { x with byHost := false })).insts.filter (fun y => !(y.phase == 0 && x.prio < y.prio)) }

/-- DRAIN_BUDGET_EXPIRY (R371). -/
def execDrainBudgetExpiry (i : Nat) (s : State) : Host.Outcome State Fault Refusal := .next (s.orSelf (budgetExpires s i))

end Sys2Proof.Machine
end

