-- ==== Sys2Proof/Machine/Arbiter.lean ====
section
/-! DEFINITION. The arbiter (R341 to R347, R411): arbitration, the start of an instance, its initial data and tokens, its
end and its abort; and graceful reconfiguration (R334). -/

namespace Sys2Proof.Machine

/-! ### Arbitration -/

/-- A launch queue's head entry is removed, with the notes of pushes that no entry needs any more (R343). -/
def popLaunch (q : Nat) (s : State) : State :=
  let h := (field (Map.get s.queues .zero (192 + q)).head 31 0 + 1) % 2 ^ 32
  let covers := fun (m : PushMark) => m.queue == q && (h + 2 ^ 32 - m.index) % 2 ^ 32 < 2 ^ 31
  let last := (s.pushed.filter covers).getLast?
  { s with
    queues := Map.alter s.queues .zero (192 + q) (fun d => { d with head := BitVec.ofNat 64 h })
    pushed := s.pushed.filter (fun m => !covers m || some m == last) }

/-- The I/O die as the origin of a record. -/
def ioRec (tag : Nat) : ErrRec := ⟨0, ⟨24, 0, 0⟩, 0, 0, tag⟩

/-- The block at a queue's head, when the arbiter can read it: address, instance, block. -/
def headBlock (s : State) (q : Nat) : Option (Word × Nat × Launch) :=
  match launchHead s q with
  | none => none
  | some (va, n) =>
    if 2 ^ 57 ≤ va.toNat || va.toNat % 256 != 0 then some (va, n, readLaunch s 0)
    else (blockPa s q va).map (fun pa => (va, n, readLaunch s pa))

/-- A malformed head is removed and reported (R345). -/
def dropMalformed (s : State) (q : Nat) : Option State :=
  match headBlock s q with
  | none => none
  | some (va, _, b) => (launchReason s va b).map (fun n => (popLaunch q s).deviceReport 0xF0 (fun r => { r with tag := n }) (some va))

/-- The first result of a list of attempts. -/
def firstSome {α : Type} : List (Option α) → Option α
  | [] => none
  | some x :: _ => some x
  | none :: xs => firstSome xs

/-- The queue's head has been chosen and not removed yet. -/
def queueBusy (s : State) (q : Nat) : Bool := s.insts.any (fun i => i.queue == q && (i.phase == 0 || i.phase == 1) && !i.byHost)

/-- The regions of an instance that use a site of a load, in another context. -/
def victimRegions (s : State) (l : LoadSec) (x : Inst) : List Nat :=
  let sites := ((List.range l.heads.length).map (loadSites l)).flatten
  x.regions.filter (fun k => (s.region k).ctx != l.ctx && sites.any (fun z => siteOf s k z))

/-- Instances that may be pre-empted for priority `p`, lowest priority first, then the most recently launched (R344). -/
def victims (s : State) (l : LoadSec) (p : Nat) : List Inst :=
  sortKeys ((s.insts.filter (fun x => x.phase == 3 && x.prio < p && x.policy != 0 && !(victimRegions s l x).isEmpty)).map
    (fun (x : Inst) => (x.prio * 2 ^ 64 + (2 ^ 64 - 1 - x.entry), x)))

/-- The first victims that suffice. -/
def chooseVictims (s : State) (h : Word) (l : LoadSec) : List Inst → List Inst → Option (List Inst)
  | [], _ => none
  | x :: xs, acc =>
    let vs := acc ++ [x]
    if (evictions s (s.taken + 1) h l false ((vs.map (victimRegions s l)).flatten)).isSome then some vs else chooseVictims s h l xs vs

/-- An instance is asked to leave the regions that a load needs, in the mode of its policy (R370). A drain to wave is the graceful way
of R346 (DEDUCED, log entry 114). -/
def preemptFor (l : LoadSec) (x : Inst) (s : State) : State :=
  (victimRegions s l x).foldl (fun s k => askRegion (if x.policy = 2 then 2 else 1) x.budget x.policy false k s) s

/-- An instance is chosen (R344): it stands in phase 0 until its footprint is free. Of 1,024 instances the oldest that has ended
makes room, and is remembered as taken (R343). -/
def chooseInst (q n : Nat) (b : Launch) (s : State) : State :=
  let x : Inst := ⟨n, b.handle, b.load, b.prio, b.policy, b.budget, b.doneAt, q, [], 0, 0, 0, b.tokens, false,
    s.taken + 1⟩
  let old := s.insts.filter (fun y => y.num != n)
  let gone := if old.length < 1024 then none else old.find? (fun y => y.phase == 4)
  { s with
    insts := old.filter (fun y => some y != gone) ++ [x], lastQ := Map.put s.lastQ b.prio q, taken := s.taken + 1
    forgotten := s.forgotten.filter (fun i => i != n) ++ (gone.map Inst.num).toList }

/-- A queue's head starts, when it is a candidate of priority `p` and its footprint is free or can be freed (R344). -/
def tryQueue (s : State) (p q : Nat) : Option State :=
  if queueBusy s q then none
  else match headBlock s q with
    | none => none
    | some (va, n, b) =>
      if b.prio != p || (launchReason s va b).isSome || !(b.preds.all (predMet s q)) then none
      else match launchLoad s b with
        | none => none
        | some l =>
          if (evictions s (s.taken + 1) b.handle l false []).isSome then some (chooseInst q n b s)
          else match chooseVictims s b.handle l (victims s l p) [] with
            | none => none
            | some vs =>
              if s.poolHolds ((vs.map (victimRegions s l)).flatten) then some (chooseInst q n b (vs.foldl (fun s x => preemptFor l x s) s))
              else none

/-- Candidates of one priority: parked instances first, then the queues after the last one served (R344, R373). -/
def tryPrio (s : State) (p : Nat) : Option State :=
  let parked := s.insts.filter (fun x => x.phase == 5 && !x.byHost && x.prio == p)
  match firstSome (parked.map (fun x => instResume s x.num)) with
  | some s' => some s'
  | none => firstSome ((List.range 64).map (fun j => tryQueue s p ((Map.get s.lastQ 0 p + 1 + j) % 64)))

/-- One arbitration (R344), after a malformed head is removed (R345). -/
def arbitrate (s : State) : Option State :=
  match firstSome ((List.range 64).map (dropMalformed s)) with
  | some s' => some s'
  | none => firstSome ((List.range 8).map (fun j => tryPrio s (7 - j)))

/-- LAUNCH_ARBITRATION (R344). -/
def execLaunchArbitration (s : State) : Host.Outcome State Fault Refusal := .next (s.orSelf (arbitrate s))

/-! ### Starting -/

/-- The lowest record of a die that holds no region. -/
def freeRecord (s : State) (die : Nat) : Option Nat :=
  ((List.range 64).map (fun j => 64 * die + j)).find? (fun k => !(s.region k).valid)

/-- The sites that a region's load takes over are cleared; what a parked region had there is saved. -/
def takeSites (l : LoadSec) (i : Nat) (s : State) : State :=
  ((loadSites l i).filter (fun x => !isPe (Site.ofKey x))).foldl (fun s x =>
    let s' := saveDisplaced x s
    if isOper (Site.ofKey x) then s'.onOper x (fun o => o.onLine Oper.idle) else s'.onTile x (fun _ => Tile.clear)) s

/-- Region `i` of a load is given a record: the one it is resident in, or a free one, which begins to load. -/
def placeRegion (x : Inst) (l : LoadSec) (i : Nat) (s : State) : State :=
  let put := fun (k : Nat) (s : State) => s.onInst x.num (fun y => { y with regions := y.regions ++ [k] })
  match reusable s x.image l i with
  | some k => put k (s.onRegion k (fun r => { r with inst := x.num, running := true, triggers := 0 }))
  | none =>
    let r := l.regions.getD i Region.empty
    match freeRecord s r.die with
    | none => s
    | some k => put k ((takeSites l i s).onRegion k (fun _ => { r with
        image := x.image, load := x.load, index := i, status := 1, inst := x.num, running := true }))

/-- The record of the first region keeps the load's barriers (R166). -/
def shareBarriers (n : Nat) (s : State) : State :=
  match s.inst n with
  | some x => x.regions.foldl (fun s k => s.onRegion k (fun r => { r with loadBase := x.regions.headD 0 })) s
  | none => s

/-- A chosen instance's regions are configured, once its footprint is free (R344, R346). -/
def startInst (s : State) (n : Nat) : Option State :=
  match s.inst n with
  | none => none
  | some x =>
    if x.phase != 0 then none
    else match s.imageOf x.image with
      | none => none
      | some im =>
        let l := readLoad s im.addr x.load
        (evictions s x.entry x.image l false []).map (fun gone =>
          let s1 := gone.foldl (fun s k => evictRegion k s) s
          shareBarriers n (((List.range l.heads.length).foldl (fun s i => placeRegion x l i s) s1).onInst n (fun x => { x with
            phase := 1 })))

/-- INSTANCE_START (R346). -/
def execInstanceStart (i : Nat) (s : State) : Host.Outcome State Fault Refusal := .next (s.orSelf (startInst s i))

/-! ### Ending and aborting -/

/-- Bytes are written through the translation of a context at the I/O die; none where some part is not writable. -/
def writeVa (ctx : Nat) : List (Nat × Nat) → List Byte → State → Option State
  | [], _, s => some s
  | (va, n) :: ps, bs, s =>
    match translate s ioUnit ctx va with
    | .page sh fr _ w _ => if w then writeVa ctx ps (bs.drop n) (writeHome (fr + va % 2 ^ sh) (bs.take n) s) else none
    | .fault _ _ => none

/-- A range of virtual addresses, cut at sectors. -/
def vaParts (va n : Nat) : List (Nat × Nat) := sectorParts (n / 64 + 2) va n

/-- The context of an instance's load. -/
def instCtx (s : State) (x : Inst) : Nat := match x.regions with
  | k :: _ => (s.region k).ctx
  | [] => 0

/-- The done store (R342): in the load's context, and dropped where that does not map the address (log entry 41). -/
def doneStore (x : Inst) (v : Nat) (s : State) : State :=
  if x.doneAt = 0 || 2 ^ 57 < x.doneAt.toNat + 8 then s
  else (writeVa (instCtx s x) (vaParts x.doneAt.toNat 8) (leBytes 8 v) s).getD s

/-- An instance is over: its regions stay resident and idle (R332, R342). -/
def instOver (x : Inst) (s : State) : State :=
  (x.regions.foldl (fun s k => s.onRegion k (fun r => { r with running := false })) s).onInst x.num (fun x => { x with phase := 4 })

/-- A region has nothing left to take in: no launch token, nothing in a stream FIFO, nothing on its way to it. -/
def nothingDue (s : State) (k : Nat) : Bool :=
  let r := s.region k
  r.launchQ.isEmpty && r.streams.all (fun q => q.fifo.isEmpty) &&
  !(s.net.any (fun f => s.regionAt (Site.ofKey f.dst) r.ctx == some k))

/-- An instance ends when every region of its load is quiescent (R342). -/
def endInst (s : State) (n : Nat) : Option State :=
  match s.inst n with
  | none => none
  | some x =>
    if x.phase != 3 || !(x.regions.all (fun k => quiescent s k && nothingDue s k && !(s.region k).rolling)) then none
    else some (instOver x (doneStore x x.num s))

/-- INSTANCE_END (R342). -/
def execInstanceEnd (i : Nat) (s : State) : Host.Outcome State Fault Refusal := .next (s.orSelf (endInst s i))

/-- A parked region's saved parts are dropped with its flush. -/
def flushParked (k : Nat) (s : State) : State :=
  { flushRegion k s with parked := s.parked.filter (fun p => p.region != k) }

/-- An instance is aborted (R411): its regions are flushed, the done store has bit 63 set, and it is reported. One that has ended is
none to abort. -/
def abortInst (n : Nat) (tag : Option Nat) (s : State) : State :=
  match s.inst n with
  | none => s
  | some x =>
    if x.phase = 4 then s else
    let s1 := x.regions.foldl (fun s k => (flushParked k s).onRegion k (fun r => { r with
      status := if r.status = 1 then 0 else 4 })) s
    ((instOver x (doneStore x (x.num + 2 ^ 63) s1)).deviceReport 0xF5 (fun r => { r with tag := tag.getD r.tag })
      (some (BitVec.ofNat 64 x.num)))

/-! ### Initial data and tokens -/

/-- Every region of an instance is resident. -/
def instResident (s : State) (x : Inst) : Bool := !x.regions.isEmpty && x.regions.all (fun k => (s.region k).status == 2)

/-- The next initial-data block is written and performed; one that cannot be written aborts the instance (R347). Whether what
lies before the place that fails is written R347 leaves open: the model writes nothing of that block (DESIGN CHOICE, log entry
94). -/
def writeBlock (s : State) (n : Nat) : Option State :=
  match s.inst n with
  | none => none
  | some x => match instLoad s x with
    | none => none
    | some l => match l.blocks[x.dataNext]? with
      | none => none
      | some b =>
        if x.phase != 1 || !instResident s x then none
        else
          let bs := Memory.readBytes s.mem b.start b.len
          let done := if 2 ^ 57 < b.va.toNat + b.len then none else writeVa l.ctx (vaParts b.va.toNat b.len) bs s
          some (match done with
            | some s' => s'.onInst n (fun x => { x with dataNext := x.dataNext + 1 })
            | none => abortInst n (some x.dataNext) (popLaunch x.queue s))

/-- INITIAL_DATA_WRITE (R347). -/
def execInitialDataWrite (i : Nat) (s : State) : Host.Outcome State Fault Refusal := .next (s.orSelf (writeBlock s i))

/-- A launch token on its way from the I/O die (R346): a command to a PORT or GATHER is a request (R32). -/
def launchFlight (s : State) (t : Token) : Flight :=
  ⟨Site.key ⟨24, 0, 0⟩, 0, s.clsOf t, Site.key (Token.site t), Token.lane t, .token t, 0, true, false⟩

/-- An operator is armed at launch by its `auto` bit (R200, R203, R206, R210). -/
def autoArmed (o : Oper) : Bool :=
  if o.kind = 0 || o.kind = 1 then bit (Map.get o.pm 0 1) 11
  else if o.kind = 2 then bit (Map.get o.pm 0 1) 6
  else if o.kind = 4 then bit (Map.get o.pm 0 0) 12
  else if o.kind = 8 then bit (Map.get o.pm 0 1) 0
  else false

/-- The arm command that stands for an arming at launch among a region's kept inputs: a rollback to before the launch
replays it (R194, R404; log entry 25). -/
def armFlight (s : State) (c x : Nat) : Flight :=
  let g : Target := ⟨true, BitVec.ofNat 5 (Site.ofKey x).die, BitVec.ofNat 7 (Site.ofKey x).row, BitVec.ofNat 8 (Site.ofKey x).col, 0, .c⟩
  launchFlight s (Token.toTarget { Token.zero with
    payload := BitVec.ofNat 64 (0x10 * 2 ^ 56), fmt := .i64, ctx := BitVec.ofNat 3 c } g)

/-- A region's producer counts as the loader gives them for a launch with these tokens (R333). -/
def setCounts (l : LoadSec) (toks : List Token) (k : Nat) (s : State) : State :=
  let r := s.region k
  let feeders := l.feeders (regionSecs s k) r.index toks
  let s1 := (l.stations.filter (fun q => r.holdsPe q.site)).foldl (fun s q => s.onPe (Site.key q.site) (fun p => { p with
    coupling := Map.put p.coupling (stKey l.ctx q.st) (producerCount feeders (member (Site.key q.site) q.st)) })) s
  (regionOpers s1 k).foldl (fun s ko => s.onOper ko.1 (fun o => { o with fanin := producerCount feeders (member ko.1 0) })) s1

/-- A region begins an instance: its domains have the launch as a source, as they will after a rollback to before it; so have
its producer counts; its tokens wait for admission in block order; and its operators are armed. -/
def launchRegion (l : LoadSec) (toks : List Token) (k : Nat) (s : State) : State :=
  let r := s.region k
  let mine := toks.filter (fun t => s.regionAt (Token.site t) t.ctx.toNat == some k)
  let ds := l.domains (regionSecs s k) r.index toks
  let s1 := (setCounts l toks k s).onRegion k (fun r => { r with domains := ds, launchQ := r.launchQ ++ mine.map (launchFlight s) })
  let s2 : State := { s1 with
    snaps := s1.snaps.map (fun x => if x.region == k then
      { x with
        state := x.state.map (fun q => { q with domains := ds })
        opers := x.opers.map (fun ko => (ko.1, { ko.2 with fanin := (s1.oper ko.1).fanin })) } else x) }
  ((regionOpers s2 k).filter (fun ko => autoArmed ko.2)).foldl (fun s ko =>
      armPass ko.1 ⟨tagBase ko.2, none⟩ (acceptInput s k (armFlight s r.ctx ko.1)))
    (s2.onRegion k (fun q => { q with progress := 0, progressAt := s.now r.die }))

/-- The initial tokens are injected in block order, and the queue's entry is removed (R346). -/
def injectTokens (s : State) (n : Nat) : Option State :=
  match s.inst n with
  | none => none
  | some x => match instLoad s x with
    | none => none
    | some l =>
      if x.phase != 1 || !instResident s x || x.dataNext < l.blocks.length then none
      else
        let toks := x.tokens.map (fun t => Token.ofWords t.1 t.2)
        some (popLaunch x.queue ((x.regions.foldl (fun s k => launchRegion l toks k s) s).onInst n (fun x => { x with phase := 3 })))

/-- INITIAL_TOKEN_INJECTION (R346). -/
def execInitialTokenInjection (i : Nat) (s : State) : Host.Outcome State Fault Refusal := .next (s.orSelf (injectTokens s i))

/-! ### Graceful reconfiguration -/

/-- The destinations of the arbiter's coupling tokens (R334): every origin, and every station or operator that receives
launch tokens. -/
def couplingDests (s : State) (k : Nat) : List Target :=
  let r := s.region k
  let dest := fun (x : Site) (st : Nat) =>
    (⟨true, BitVec.ofNat 5 x.die, BitVec.ofNat 7 x.row, BitVec.ofNat 8 x.col, BitVec.ofNat 9 st, .c⟩ : Target)
  let origins := (r.peSites.map (fun x =>
      let p := s.pe (Site.key x)
      if p.ctxState r.ctx == 1 then
        ((List.range (p.ctxCount r.ctx)).filter (fun st => Map.get p.coupling 0 (stKey r.ctx st) == 0)).map (dest x)
      else [])).flatten ++
    ((regionOpers s k).filter (fun ko => ko.2.fanin == 0 || ko.2.kind == 4)).map (fun ko => dest (Site.ofKey ko.1) 0)
  let launched := match s.inst r.inst with
    | some x => ((x.tokens.map (fun t => Token.ofWords t.1 t.2)).filter (fun t =>
        s.regionAt (Token.site t) t.ctx.toNat == some k)).map (fun t => dest (Token.site t) t.station.toNat)
    | none => []
  (origins ++ launched).eraseDups

/-- A region's graceful reconfiguration starts (R334): the serial is in force, and one coupling token goes to each
destination, behind launch tokens not yet injected. -/
def startGraceful (k serial : Nat) (s : State) : State :=
  let r := s.region k
  if r.status != 2 || r.serialSet then s
  else
    let fl := fun (g : Target) => { (coupleFlight (Site.key ⟨24, 0, 0⟩) 0 r.ctx k (BitVec.ofNat 64 serial) g).2 with
      cls := .control, region := 0, input := true }
    let flights := (couplingDests s k).map fl
    let s1 := s.onRegion k (fun r => { r with serial := BitVec.ofNat 64 serial, serialSet := true, status := 3 })
    if r.launchQ.isEmpty then flights.foldl (fun s f => s.post f) s1
    else s1.onRegion k (fun r => { r with launchQ := r.launchQ ++ flights })

/-- GRACEFUL_RECONFIGURATION (R334): the serial stands in bits [63:32] of the RCMD value (R348). -/
def execGracefulReconfiguration (r : Nat) (v : Word) (s : State) : Host.Outcome State Fault Refusal :=
  .next (hostEvent s (startGraceful r (field v 63 32)))

end Sys2Proof.Machine
end

