-- ==== Sys2Proof/Machine/Rollback.lean ====
section
/-! DEFINITION. Strike reports and rollback (R398 to R412, R418): what a strike reaches, how a region goes back to its
replay point, and how its inputs are replayed. -/

namespace Sys2Proof.Machine

/-! ### Going back -/

/-- A serving read that the rollback of its region ends: its decrement is still held, or it has none (R408). -/
def readUndone (s : State) (k tile : Nat) (v : Serving) : Bool :=
  v.req.region == k && (v.req.kind == .npeek || (s.region k).caboose.any (fun e => e.act == .release v.req tile v.pos v.gen))

/-- A tile without a region's reads and words on their way (R406): its held decrements are cancelled. -/
def cancelReads (s : State) (k : Nat) (x : Nat) (t : Tile) : Tile :=
  { t with
    serving := t.serving.filter (fun v => !readUndone s k x v)
    deferred := t.deferred.filter (fun r => r.region != k)
    stalled := t.stalled.filter (fun w => s.regionAt (Site.ofKey w.site) w.ctx != some k) }

/-- The region's own tiles lose the tentative words of its firings (R262): each slot falls to its released words. The
replayed copies of those are dropped by their keys (R407) where they arrive. -/
def rollTile (x : Nat) (s : State) : State :=
  (s.tile x).slots.foldl (fun s kq =>
    readsAfterDrop x kq.1 (Map.get (s.tile x).slots Slot.empty kq.1).gen (s.onTile x (dropTentative kq.1))) s

/-- The waits of a barrier as they stood at the mark, for one region (R166, R406): the barrier, and those whose
generation has closed since. -/
def rollBarrier (mine : (List Emit × Nat × Nat) → Bool) (old b : Barrier) : Barrier × List (List Emit × Nat × Nat) :=
  let kept := fun (g : Nat) => ((old.opened.filter (fun x => x.gen == g)).map BarGen.waits).flatten.filter mine
  ({ b with
     opened := b.opened.map (fun x => { x with waits := x.waits.filter (fun w => !mine w) ++ kept x.gen })
     queue := b.queue.filter (fun q => q.1.all (fun w => !mine w)) ++
       old.queue.filter (fun q => match q.1 with | some w => mine w | none => false) },
   ((old.opened.filter (fun x => !(b.opened.any (fun y => y.gen == x.gen)))).map (fun x => x.waits.filter mine)).flatten)

/-- Every barrier of a region's load goes back for that region. -/
def rollBarriers (k : Nat) (old : Map Barrier) (s : State) : State :=
  let base := (s.region k).loadBase
  let c := (s.region k).ctx
  let mine := fun (w : List Emit × Nat × Nat) => w.2.2 / 512 % 8 == c && s.regionAt (Site.ofKey w.2.1) c == some k
  let rs := (s.region base).barriers.map (fun (kb : Nat × Barrier) => (kb.1, rollBarrier mine (Map.get old Barrier.none kb.1) kb.2))
  releaseWaits ((rs.map (fun r => r.2.2)).flatten)
    (s.onRegion base (fun r => { r with barriers := rs.map (fun (x : Nat × Barrier × List (List Emit × Nat × Nat)) => (x.1, x.2.1)) }))

/-- The transfers of a region whose descriptor's read no caboose has released: it was never performed (R282). -/
def heldMoves (s : State) (k : Nat) : List Nat :=
  (s.accesses.filter (fun a => a.region == k + 1 && a.phase == 6 && a.req.isNone && 0x18 ≤ a.op && a.op ≤ 0x1D)).map Access.elem

/-- An operator as it stood at the mark. A PORT keeps the requests and transfers that a caboose has released to it (R282), and goes
back only in its coupling count and in what it has to send; `held` are transfers that were not released. -/
def rollOper (held : List Nat) (old cur : Oper) : Oper :=
  if cur.kind = 11 then { cur with
    joins := old.joins, forwarded := old.forwarded, out := old.out, moves := cur.moves.filter (fun m => !held.contains m.id) }
  else old

/-- The region's accesses at a rollback (R282): those not released are dropped; those issued since the mark wait for the
replay to issue them again. -/
def rollAccess (k : Nat) (snap : Snap) (a : Access) : Option Access :=
  if a.region != k + 1 || a.req.isSome || (0x18 ≤ a.op && a.op ≤ 0x1D) || a.op = 4 then
    (if a.region == k + 1 && a.phase = 6 then none else some a)
  else if a.phase = 6 then none
  else if snap.accs.contains a.id then some { a with phase := if 8 ≤ a.phase then 5 else a.phase }
  else if 8 ≤ a.phase then some { a with phase := 9 }
  else if a.phase = 5 then some { a with phase := 9, before := [snap.wave] }
  else if a.op < 4 then some { a with op := a.op + 0x10 }
  else some a

/-- The requests that have not been performed: on their way, waiting in ordering domains, and in service (R158). -/
def openRequests (s : State) : List PortReq :=
  s.net.filterMap (fun f => match f.msg with | .port q => some q | _ => none) ++
  (s.opers.map (fun ko => (ko.2.doms.map (fun d => d.2.waiting)).flatten)).flatten ++
  s.accesses.filterMap (fun a => if a.phase < 5 then a.req else none)

/-- Places of a PE's stations in a context that requests issued before the mark still hold: not performed, or with a response
on its way (R158). -/
def stillOut (s : State) (snap : Snap) (x c : Nat) : Map Nat :=
  let reqs := (openRequests s).filter (fun q => holdsPlace q && q.site == x && q.token.ctx.toNat == c &&
    snap.captured.any (fun f => f.msg == .port q))
  let owed := ((s.opers.map (fun ko => ko.2.owed)).flatten).filter (fun o => o.site == x && o.station % 8 == c &&
    snap.captured.any (fun f => match f.msg with
      | .port q => q.site == x && stKey q.token.ctx.toNat q.station == o.station && q.token.tag == o.token.tag
      | .token t => t == o.token && f.lane == o.lane
      | _ => false))
  (reqs.map (fun q => stKey c q.station) ++ owed.map Owed.station).foldl (fun m key => Map.alter m 0 key (fun n => n + 1)) []

/-- An engine slot for a pass that was running at the mark and has none now, and none for one that was not (R358). With all 64 of its unit taken it goes on beside
them, since the spec gives a pass that a rollback restores no wait (DESIGN CHOICE, log entry 104). -/
def regainSlot (x : Nat) (s : State) : State :=
  let o := s.oper x
  let runs := if o.kind = 6 then !o.held.isEmpty else takesSlot o.kind && (o.state = 2 || o.state = 3 || o.state = 5)
  if !runs then { s with slots := Map.del s.slots x }
  else if (Map.find s.slots x).isNone then { s with slots := Map.put s.slots x 0 }
  else s

/-- A pass that was held or running at the mark is held where a hold of it still stands, and runs where none does (R363). -/
def heldAsNow (x : Nat) (s : State) : State :=
  let holds := s.holds.any (fun h => s.accesses.any (fun a => a.id == h.access && a.oper == x && a.req.isNone))
  s.onOper x (fun o => if o.state = 2 || o.state = 3 then { o with state := if holds then 3 else 2 } else o)

/-- Tokens of a region that a COMPARE holds, or that are on their way to one, are dropped, and their keys are released no
more (R406, R414). -/
def dropCompared (k : Nat) (s : State) : State :=
  s.opers.foldl (fun s ko =>
    let o := ko.2
    let isL := isCopyA s k o
    let isR := isCopyB s k o
    if !isL && !isR then s
    else
      let lane := ko.1 * 2048 + (if isL then 0 else 1)
      let here := fun (f : Flight) => f.region == k + 1 && f.lane == lane
      let mine := if isL then o.held else o.held2
      let n := (s.net.filter here).length + mine.length
      let s1 : State := { s with net := s.net.filter (fun f => !here f) }
      (s1.onOper ko.1 (fun o => { o with
        held := if isL then [] else o.held, held2 := if isL then o.held2 else []
        counts := if mine.isEmpty then o.counts else [] })).onRegion k (fun r =>
          let keys := r.keysOut.filter (fun q => q.1.target == lane * 16 + 1)
          { r with keysOut := r.keysOut.filter (fun q => !((keys.drop (keys.length - n)).contains q)) })) s

/-- The last element that meets a test goes. -/
def eraseLast {α : Type} (p : α → Bool) (xs : List α) : List α := (xs.reverse.eraseP p).reverse

/-- The reads of a region that its rollback ends at their tiles: served with the decrement still held, or with none, and deferred
(R262, R408). -/
def undoneReads (s : State) (k : Nat) : List NameRead :=
  (s.tiles.map (fun kt => (kt.2.serving.filter (readUndone s k kt.1)).map Serving.req ++ kt.2.deferred.filter (fun r => r.region == k))).flatten

/-- The replay issues such a read anew (R408): the key under which it left for another region's tile is no longer one of a released
effect. -/
def reissueReads (k : Nat) (s : State) : State :=
  (undoneReads s k).foldl (fun s r => s.onRegion k (fun g => { g with
    keysOut := eraseLast (fun q => q.1.site == r.site && q.1.station == r.station && q.1.ctx == g.ctx && q.1.tag == r.token.tag.toNat &&
      q.1.target % 16 == 1 && isTile (Site.ofKey (q.1.target / 32768))) g.keysOut })) s

/-- The request that a name answer on its way answers has been released (R407, R408): a read's decrement, or the last word
of a name, of a station with a target where the answer goes. Their keys name the statement. -/
def answerKept (s : State) (k : Nat) (f : Flight) (t : Token) : Bool :=
  ((s.region k).keysOut.map Prod.fst).any (fun e =>
    let g := decodeFields ((s.pe e.site).word e.ctx e.station)
    let stmt := g.aux16.toNat % 4096
    let d := (s.tile f.site).desc e.ctx stmt
    e.tag == t.tag.toNat && e.ctx == t.ctx.toNat &&
    (e.target == stmt * 16 + 2 || (e.target == stmt * 16 + 3 && (e.n + 1) % d.words == 0)) &&
    (Fields.targets g).any (fun x => x.valid && Token.lane (Token.toTarget t x) == f.lane))

/-- A name answer on its way whose request the replay makes again (R406, R408). -/
def answerGone (s : State) (k : Nat) (snap : Snap) (f : Flight) : Bool :=
  match f.msg.token? with
  | some t => f.isAnswer && isTile (Site.ofKey f.site) && f.station < 3 &&
      s.regionAt (Token.site t) t.ctx.toNat == some k && !(snap.captured.any (fun c => c == f || isResponse c f)) &&
      !answerKept s k f t
  | none => false

/-- The inputs kept since a list was last looked at. -/
def newSince {α : Type} [BEq α] (old cur : List α) : List α := if old.isPrefixOf cur then cur.drop old.length else cur

/-- The part of a list that was there when it was last looked at. -/
def heldBefore {α : Type} [BEq α] (old cur : List α) : List α := if old.isPrefixOf cur then old else []

/-- A region goes back to its replay point (R406): its state is that of mark w0, nothing newer is in flight, and its
inputs wait to be replayed; words that other regions have written to its tiles stand there still (R262). Reloading the words of R331 from the image copy changes nothing that the model holds. -/
def goBack (k : Nat) (snap : Snap) (s : State) : State :=
  let r := s.region k
  let owns := snap.matrix.isSome
  let s0 := reissueReads k (dropCompared k s)
  let s1 : State := { s0 with
    net := s0.net.filter (fun f => !s0.inside k f && !answerGone s0 k snap f)
    tiles := s0.tiles.map (fun (kt : Nat × Tile) => (kt.1, cancelReads s0 k kt.1 kt.2))
    accesses := (s0.accesses.filter (fun a => !((heldMoves s k).contains a.id))).filterMap (rollAccess k snap)
    regions := Map.alter s0.regions .empty k (fun r => { r with caboose := [] })
    snaps := s0.snaps.filter (fun x => x.region != k || x.wave ≤ snap.wave) }
  let undo := (r.caboose.map Effect.act).filter (fun a => match a with | .release _ _ _ _ => true | _ => false)
  let s2 := (s0.tiles.filter (fun kt => (cancelReads s0 k kt.1 kt.2).serving != kt.2.serving)).foldl (fun s kt => serveTile kt.1 s)
    (undo.foldl (fun s a => undoAct k a s) s1)
  let s3 := (regionTiles s2 k).foldl (fun s x => rollTile x s) s2
  let s4 := (snap.pes).foldl (fun s kp => s.onPe kp.1 (fun p =>
    let q := putPart r.ctx owns kp.2 p
    { q with pendingOut := joinMaps (stillOut s snap kp.1 r.ctx) (q.pendingOut.keep (fun k => k % 8 != r.ctx)) })) s3
  let s5 := snap.opers.foldl (fun s ko => regainSlot ko.1 (heldAsNow ko.1 (s.onOper ko.1 (rollOper (heldMoves s0 k) ko.2)))) s4
  let s6 := match snap.matrix with
    | some m => s5.onMatrix (Site.key r.corner) (fun _ => m)
    | none => if ownsMatrix s5 k then
        (onRegionPes k purgeMatrix s5).onMatrix (Site.key r.corner) (fun m => { m with mode := 0, owner := none, queue := [] })
      else s5
  let old := snap.state.getD r
  let replayed := fun (f : Flight) =>
    f.isAnswer && !(snap.captured.any (fun c => c == { f with input := true } || isResponse c f))
  let s7 := s6.onRegion k (fun r => { r with
    frames := old.frames, domains := old.domains, drainedTo := old.drainedTo
    reported := old.reported, triggered := old.triggered, trigAhead := old.trigAhead, trigCovers := old.trigCovers, caboose := [], wave := snap.wave, oldest := snap.wave
    inputs := r.inputs.map (fun x => (snap.wave, x.2.1, { x.2.2 with input := !replayed x.2.2 }))
    rolling := true, keysAwait := (r.keysOut.filter (fun q => snap.wave ≤ q.2)).map Prod.fst
    replayQ := (r.inputs.map (fun x => x.2.2)).filter (fun f => !replayed f && !(match f.msg with | .word _ => true | _ => false))
    clkReplay := newSince old.clkKept r.clkKept ++ r.clkReplay, clkKept := heldBefore old.clkKept r.clkKept
    refree := newSince old.freed r.freed ++ r.refree, freed := heldBefore old.freed r.freed })
  rollBarriers k old.barriers { s7 with net := s7.net ++ snap.flights }

/-- The region's state at its replay point. -/
def replaySnap (s : State) (k : Nat) : Option Snap :=
  s.snaps.find? (fun x => x.region == k && x.wave == (s.region k).oldest)

/-- A region is struck (R399, R406, R410, R411): a loading one is delivered again from its first word; an unprotected one
ends its instance; a second restart within one rollback is fatal; else the region goes back. -/
def strikeRegion (k : Nat) (s : State) : State :=
  let r := s.region k
  if s.fatal || r.status = 0 || r.status = 6 then s
  else if r.status = 1 then s.onRegion k (fun r => { r with words := 0 })
  else if r.unprot then abortInst r.inst none s
  else if r.rolling && 1 ≤ r.restarts then s.fatalStop 3 r.die 0
  else match replaySnap s k with
    | none => abortInst r.inst none s
    | some snap => (goBack k snap s).onRegion k (fun q => { q with restarts := if r.rolling then r.restarts + 1 else 0 })

/-! ### Reports -/

/-- A site lies in the blocks around block `b` (R398, R399): a PE by its own block; an operator site by the blocks its
row or column is adjacent to. -/
def struckPe (b : Nat) (x : Site) : Bool :=
  let near := fun (u v : Nat) => u ≤ v + 1 && v ≤ u + 1
  near (peRow x.row / 8) (b / 16) && near (peCol x.col / 8) (b % 16)

/-- The blocks that an operator site is adjacent to (R398): two for one in a column of memory tiles. -/
def operBlocks (x : Site) : List Nat :=
  let row := if x.row = 0 then 0 else if x.row = 97 then 95 else peRow x.row
  let cols := if x.col = 0 then [0] else if x.col = 137 then [127] else if x.col % 17 = 0 then [peCol (x.col - 1), peCol (x.col + 1)]
    else [peCol x.col]
  cols.map (fun c => row / 8 * 16 + c / 8)

/-- A block's neighbourhood holds another block. -/
def nearBlock (a b : Nat) : Bool :=
  a / 16 ≤ b / 16 + 1 && b / 16 ≤ a / 16 + 1 && a % 16 ≤ b % 16 + 1 && b % 16 ≤ a % 16 + 1

/-- The regions that a block report reaches (R399). -/
def struckRegions (s : State) (die b : Nat) : List Nat :=
  (s.regions.filter (fun kr => kr.2.valid && kr.2.status != 6 &&
    ((kr.2.die == die && kr.2.peSites.any (struckPe b)) ||
     (regionOpers s kr.1).any (fun ko => (Site.ofKey ko.1).die == die && (operBlocks (Site.ofKey ko.1)).any (fun n => nearBlock n b))))).map Prod.fst

/-- The tile that a tile sensor names (R398). -/
def sensorTile (die n : Nat) : Site := ⟨die, 2 * (n % 48) + 1, 17 * (n / 48 + 1)⟩

/-- The regions that hold a tile (R248): that of the load whose statement lies in it, or, with none in it, the one of each context
that holds it by its position. -/
def tileOwners (s : State) (x : Site) : List Nat :=
  let o := (s.tile (Site.key x)).owner
  if o != 0 then [o - 1] else ((List.range 8).filterMap (fun c => s.tileRegion x c)).eraseDups

/-- A resize under way at a tile starts again from its first step (R415). -/
def restartResize (x : Nat) (t : Tile) (s : State) : Tile :=
  match t.resizing with
  | none => t
  | some q =>
    let d := t.desc q.ctx q.stmt
    let die := (Site.ofKey x).die
    let live := ((occupied s d die).filter (fun o => o.2.2.2.live)).length
    { t with resizeAt := s.now die + 8 + live * ((d.words + 7) / 8) }

/-- A tile scrubs itself whole in 6,144 cycles, and a resize of its segment starts again (R415). -/
def scrubTile (x : Site) (s : State) : State :=
  let seg := fun (t : Tile) => t.descs.any (fun kd => (kd.2.segment x.die).contains (Site.key x))
  let s1 := s.onTile (Site.key x) (fun t => { t with scrubDone := s.now x.die + 6144 })
  { s1 with tiles := s1.tiles.map (fun (kt : Nat × Tile) => (kt.1,
      if (Site.ofKey kt.1).die == x.die && seg kt.2 then restartResize kt.1 kt.2 s1 else kt.2)) }

/-- STRLOG (R419). -/
def strikeLog (sensor : Nat) (tile inj : Bool) (cycle : Nat) : Word :=
  BitVec.ofNat 64 (sensor % 512 + one inj * 2 ^ 9 + one tile * 2 ^ 10 + cycle % 2 ^ 32 * 2 ^ 32)

/-- A strike report (R399, R418): counted, logged, reported; the tile scrubs; the regions it reaches are struck. -/
def strike (die : Nat) (tile inj : Bool) (sensor : Nat) (s : State) : State :=
  let log := strikeLog sensor tile inj (s.now die)
  let s1 := s.onDie die (fun d => { d with
    strlog := log
    strcnt := if inj then setField d.strcnt 63 32 (field d.strcnt 63 32 + 1) else setField d.strcnt 31 0 (field d.strcnt 31 0 + 1) })
  let s2 := s1.deviceReport 0xF4 (fun r => { r with site := ⟨die, r.site.row, r.site.col⟩ }) (some log)
  if tile then
    let x := sensorTile die sensor
    (tileOwners s2 x).foldl (fun s k => strikeRegion k s) (scrubTile x s2)
  else (struckRegions s2 die sensor).foldl (fun s k => strikeRegion k s) s2

/-- STRIKE_REPORT (R399). -/
def execStrikeReport (die : Nat) (tile : Bool) (sensor : Nat) (s : State) : Host.Outcome State Fault Refusal :=
  .next (if s.fatal || 24 ≤ die || (if tile then 384 ≤ sensor else 192 ≤ sensor) then s else strike die tile false sensor s)

/-- A rollback is in progress on a die (R419). -/
def rollingOn (s : State) (die : Nat) : Bool := s.regions.any (fun kr => kr.2.rolling && kr.2.die == die)

/-- The sensors that INJPE or INJMT enable, lowest first (R418). -/
def enabled (m : Map Word) (n : Nat) : List Nat := (List.range n).filter (fun i => bit (Map.get m 0 (i / 64)) (i % 64))

/-- An INJGO write of 1 (R418, R419): refused while a rollback is in progress on the die. -/
def inject418 (die : Nat) (s : State) : State :=
  if rollingOn s die then s.refuseWrite
  else
    let d := s.die die
    (enabled d.injmt 384).foldl (fun s n => strike die true true n s)
      ((enabled d.injpe 192).foldl (fun s n => strike die false true n s) s)

/-- INJECT_STRIKE (R418). -/
def execInjectStrike (die : Nat) (s : State) : Host.Outcome State Fault Refusal :=
  .next (hostEvent s (fun s => if die < 24 then inject418 die s else s))

/-- A slot whose record is lost: its granules are poisoned and it is spent (R273, R400). R400 does not say that this is logged: the
model logs it as R273 logs a poisoned granule, under tile port 3, with tag 0 and the statement's context, since no firing is
exceptional (DESIGN CHOICE, log entry 111). -/
def spendSlot (pos site : Nat) (s : State) : State :=
  let n := (tileWords (s.tile site) + 7) / 8
  let ctx := (((s.tile site).descs.map Prod.fst).getD 0 0) / 4096
  let s1 := s.onTile site (fun t => { t with
    slots := Map.alter t.slots Slot.empty pos (fun q => { q with state := 3 })
    poisoned := (List.range n).foldl (fun m g => Map.put m (granKey pos g) true) t.poisoned })
  match s.tileRegion (Site.ofKey site) ctx with
  | some k => s1.onRegion k (fun r => r.logPoison (s.now (Site.ofKey site).die) (logEntry 4 (Site.ofKey site) 3 ctx 0))
  | none => s1

/-- An uncorrectable error, by its place (R400). -/
def uncorrectable (e : ErrorPlace) (s : State) : State :=
  match e with
  | .live k => strikeRegion k s
  | .parked i => if s.parked.any (fun p => (s.region p.region).inst == i) then abortInst i none s else s
  | .tileData x g p => if isTile x && p < 4 then poisonGranule (Site.key x) g p s else s
  | .slotRecord x pos =>
    if isTile x then (spendSlot pos (Site.key x) s) else s
  | .flit x => s.fatalStop 4 x.die (siteBits x 0)

/-- UNCORRECTABLE_ERROR (R400). -/
def execUncorrectableError (e : ErrorPlace) (s : State) : Host.Outcome State Fault Refusal :=
  .next (if s.fatal then s else uncorrectable e s)

/-! ### Replay -/

/-- A replayed input enters as it did before: its tag is live again where it had been admitted (R226, R406). -/
def replayOne (k : Nat) (s : State) (f : Flight) : State :=
  let s1 := match f.msg.token? with
    | some t =>
      let m := member f.dst (if isPe (Site.ofKey f.dst) then t.station.toNat else 0)
      (match (s.region k).domainOf m with
       | some i =>
         if t.port == Port.c || ((s.region k).domains.getD i Domain.none).isLive t.tag.toNat then s
         else admitTag k i (some m) t.tag.toNat s
       | none => s)
    | none => s
  s1.post { f with input := false }

/-- The replay has passed the last kept input: the region runs, and takes new inputs (R406). -/
def replayAll (k : Nat) (s : State) : State :=
  let s1 := (s.region k).replayQ.foldl (replayOne k) s
  wakeOpers k (s1.onRegion k (fun r => { r with rolling := false, restarts := 0, replayQ := [], progressAt := s.now r.die }))

/-- ROLLBACK_COMPLETE (R406). -/
def execRollbackComplete (r : Nat) (s : State) : Host.Outcome State Fault Refusal :=
  .next (if (s.region r).rolling && !s.fatal then replayAll r s else s)

end Sys2Proof.Machine
end

