-- ==== Sys2Proof/Machine/Compare.lean ====
section
/-! DEFINITION. COMPARE operators and pairs of regions (R212, R413, R414). -/

namespace Sys2Proof.Machine

/-- The depth of a COMPARE (R212). -/
def compareDepth (o : Oper) : Nat := field (Map.get o.pm 0 0) 6 0

/-- The two copies of a COMPARE. -/
def copies (s : State) (o : Oper) : List Nat :=
  (copyAt s o (field (Map.get o.pm 0 1) 31 0)).toList ++ (copyAt s o (field (Map.get o.pm 0 1) 63 32)).toList

/-- A pair matches (R212). -/
def pairMatches (a b : Token) : Bool :=
  a.payload == b.payload && a.fmt == b.fmt && a.poison == b.poison && a.ends == b.ends && a.tag == b.tag &&
  a.seq == b.seq && a.ctx == b.ctx

/-- The suspect bits of every block of a region (R414, R420). -/
def suspectRegion (k : Nat) (s : State) : State :=
  let r := s.region k
  (r.peSites.map (fun x => peRow x.row / 8 * 16 + peCol x.col / 8)).eraseDups.foldl (fun s b =>
    s.onDie r.die (fun d => { d with
      suspe := Map.alter d.suspe 0 (b / 64) (fun w => w ||| BitVec.ofNat 64 (2 ^ (b % 64))) })) s

/-- A mismatch (R212, R414): the held tokens are discarded and both copies roll back. A second one before any match
makes their blocks suspect and aborts the instance. -/
def mismatch (site tag : Nat) (s : State) : State :=
  let o := s.oper site
  let ks := copies s o
  let s1 := operError site 0x0F tag none s
  let clear := fun (s : State) => s.onOper site (fun o => { o with held := [], held2 := [], counts := [], mismatch := true })
  if o.mismatch then
    match ks with
    | k :: _ => clear (abortInst (s.region k).inst none (ks.foldl (fun s k => suspectRegion k s) s1))
    | [] => clear s1
  else clear (ks.foldl (fun s k => strikeRegion k s) s1)

/-- The matched token leaves without passing a further caboose (R414). -/
def compareSend (site : Nat) (t : Token) (s : State) : State :=
  let o := s.oper site
  let g := toA o
  if !g.valid then s
  else
    let t' := Token.toTarget t g
    s.post ⟨site, 0, Token.cls t', Site.key (Token.site t'), Token.lane t', .token t', o.region,
      s.regionAt (Token.site t') t'.ctx.toNat != some (o.region - 1), false⟩

/-- A COMPARE's data token (R212): paired in arrival order with the other side's, or held; it waits where its side holds
`depth` tokens. `counts` are the cycles in which the tokens held unpaired came. -/
def compareTake (s : State) (n : Nat) : Option State :=
  match operFlight s n with
  | none => none
  | some (fl, t) =>
    let o := s.oper fl.dst
    let left := t.port == .l
    let mine := if left then o.held else o.held2
    let other := if left then o.held2 else o.held
    if o.kind != 10 || t.port == .c || compareDepth o ≤ mine.length then none
    else
      let s1 := takeFlight n fl s
      match other with
      | [] => some (s1.onOper fl.dst (fun o => { o with
          held := if left then o.held ++ [t] else o.held
          held2 := if left then o.held2 else o.held2 ++ [t]
          counts := o.counts ++ [s.now (Site.ofKey fl.dst).die] }))
      | u :: rest =>
        if pairMatches t u then
          some (compareSend fl.dst (if left then t else u) (s1.onOper fl.dst (fun o => { o with
            held := if left then o.held else rest, held2 := if left then rest else o.held2
            counts := o.counts.drop 1, mismatch := false })))
        else some (mismatch fl.dst (if left then t else u).tag.toNat (s1.onOper fl.dst (fun o => { o with
            held := if left then o.held ++ [t] else o.held, held2 := if left then o.held2 else o.held2 ++ [t] })))

/-- COMPARE_TOKEN (R212). -/
def execCompareToken (n : Nat) (s : State) : Host.Outcome State Fault Refusal := .next (s.orSelf (compareTake s n))

/-- A token has been held unpaired for the time limit (R212). -/
def compareExpires (s : State) (x : Site) : Option State :=
  let site := Site.key x
  let o := s.oper site
  let limit := field (Map.get o.pm 0 0) 63 32
  match o.counts with
  | [] => none
  | since :: _ =>
    if o.kind != 10 || limit = 0 || s.now x.die < since + limit then none
    else some (mismatch site ((o.held ++ o.held2).getD 0 .zero).tag.toNat s)

/-- COMPARE_TIMEOUT (R212). -/
def execCompareTimeout (x : Site) (s : State) : Host.Outcome State Fault Refusal := .next (s.orSelf (compareExpires s x))

end Sys2Proof.Machine
end

