-- ==== Sys2Proof/Machine/Debug.lean ====
section
/-! DEFINITION. The debug block (R377, R378): steps, and the items that a read returns. -/

namespace Sys2Proof.Machine

/-- A DSTEP write (R377, R378). -/
def debugStep (die : Nat) (v : Word) (s : State) : State :=
  let n := field v 15 8
  let k := 64 * die + field v 5 0
  if n = 0 || !(s.region k).halted then s.refuseWrite
  else (s.onRegion k (fun r => { r with stepping := n })).onDie die (fun d => { d with
    dsstat := BitVec.ofNat 64 (field v 5 0 * 2 ^ 16) })

/-- DEBUG_STEP (R377). -/
def execDebugStep (die : Nat) (v : Word) (s : State) : Host.Outcome State Fault Refusal :=
  .next (hostEvent s (fun s => if die < 24 then debugStep die v s else s))

/-- A slot record's 128 bits (R254). -/
def Slot.bits (q : Slot) : BitVec 128 :=
  BitVec.ofNat 128 (q.gen % 2 ^ 16 + q.readers % 2 ^ 12 * 2 ^ 16 + q.held % 2 ^ 12 * 2 ^ 28 + q.cursor % 2 ^ 13 * 2 ^ 40 +
    q.rcursor % 2 ^ 13 * 2 ^ 53 + q.state % 8 * 2 ^ 66 + q.stamp % 2 ^ 16 * 2 ^ 69)

/-- A ready-queue entry as the debug block shows it (R378). -/
def Ready.bits (e : Ready) : BitVec 128 :=
  BitVec.ofNat 128 (e.station % 512 + e.ctx % 8 * 2 ^ 9 + e.tag % 65536 * 2 ^ 12 + e.matched % 2 ^ 32 * 2 ^ 28 + 2 ^ 60)

/-- 32 granule bits of a tile: `bits` is keyed as a tile keeps them, `w` is the words of a tile of the statement. -/
def granuleBits (bits : Map Bool) (w i : Nat) : Nat :=
  sumNat ((List.range 32).map (fun j =>
    let word := (32 * i + j) * 8
    if Map.get bits false (granKey (word / w) (word % w / 8)) then 2 ^ j else 0))

/-- An accumulator entry as the debug block shows it (R378). -/
def Cell.bits (c : Cell) : BitVec 128 :=
  BitVec.ofNat 128 (c.value.toNat + (match c.fmt with | some f => f.code.toNat | none => 8) * 2 ^ 64 + c.rows % 128 * 2 ^ 68)

/-- The tokens that hold a PE's matching entries (R31, R149, R222): waiting operands, the operands of sets that still hold theirs,
and running values with what waits for them. The spec gives entries no order; the model lists them so (DESIGN CHOICE, log entry
110). A running value is shown as a token that carries its value under the key of its station. -/
def Pe.entryTokens (site : Site) (p : Pe) : List Token :=
  p.entries.map Entry.tok ++ (p.holdingSets.map (fun e => e.toks.take e.entries)).flatten ++
  (p.accums.map (fun (ka : Nat × Accum) =>
    ({ Token.zero with
      payload := ka.2.value, die := BitVec.ofNat 5 site.die, row := BitVec.ofNat 7 site.row, col := BitVec.ofNat 8 site.col
      station := BitVec.ofNat 9 (ka.1 / 524288), ctx := BitVec.ofNat 3 (ka.1 / 65536), tag := BitVec.ofNat 16 ka.1
      poison := ka.2.poison, ends := ka.2.ends, seq := BitVec.ofNat 6 ka.2.next } : Token) :: ka.2.waiting)).flatten

/-- A debug item of a PE (R378); none for an undefined space or an index out of range. -/
def peItem (x : Site) (p : Pe) (c space i : Nat) : Option (BitVec 128) :=
  if space = 0 then (if i < p.ctxCount c then some (p.word c i) else none)
  else if space = 1 then (if i < 1024 then some (match (p.entryTokens x)[i]? with | some t => Token.bits t | none => 0) else none)
  else if space = 2 then (if i < 16 then some (match p.ready[i]? with | some e => e.bits | none => 0) else none)
  else if space = 3 then (if i < 8 then some (BitVec.ofNat 128 (Map.get p.ctxs 0 i).toNat) else none)
  else if space = 4 then
    (if i < 512 then
      let bank := if i / 256 = 0 then p.active else p.shadow
      let at' := fun (k : Nat) => (Map.get bank ⟨0, false, false⟩ (i % 256 / 4 * 8 + i % 4 * 2 + k)).value.toNat
      some (BitVec.ofNat 128 (at' 0 + at' 1 * 2 ^ 64))
     else none)
  else if space = 5 then (if i < 16 then some (Map.get p.cells ⟨0, none, 0, false⟩ i).bits else none)
  else none

/-- A debug item of a memory tile (R378). -/
def tileItem (t : Tile) (space i : Nat) : Option (BitVec 128) :=
  if space = 0 then
    (if i < 49152 then some (BitVec.ofNat 128 ((Map.get t.data 0 (2 * i)).toNat + (Map.get t.data 0 (2 * i + 1)).toNat * 2 ^ 64))
     else none)
  else if space = 1 then (if i < 4096 then some (Map.get t.slots Slot.empty i).bits else none)
  else if space = 2 then
    (if i < 384 then
      let w := tileWords t
      some (BitVec.ofNat 128 (granuleBits t.present w i + granuleBits t.released w i * 2 ^ 32 + granuleBits t.poisoned w i * 2 ^ 64))
     else none)
  else none

/-- The tokens that a GATE, REORDER, SIEVE, COMPARE or DECODE holds, in position order (R378). -/
def Oper.heldTokens (o : Oper) : List Token :=
  if !([5, 7, 8, 9, 10].contains o.kind) then []
  else if o.kind = 9 then (o.sieve.map SieveTag.waiting).flatten else o.held ++ o.held2

/-- A debug item of an operator site (R378). -/
def operItem (s : State) (site space i : Nat) : Option (BitVec 128) :=
  let o := s.oper site
  if space = 0 then
    (if i < 8 then some (BitVec.ofNat 128 ((Map.get o.pm 0 (2 * i)).toNat + (Map.get o.pm 0 (2 * i + 1)).toNat * 2 ^ 64)) else none)
  else if space = 1 then (if i = 0 then some (BitVec.ofNat 128 (statusPayload s site).toNat) else none)
  else if space = 2 then (if i < 64 then some (match o.heldTokens[i]? with | some t => Token.bits t | none => 0) else none)
  else none

/-- A region as the debug block shows it: a parked one as it was saved (R377). -/
def debugView (s : State) (k : Option Nat) : State :=
  match k with
  | some k => if (s.region k).status == 6 then unpark k s else s
  | none => s

/-- The item that a DADDR value names (R378). The context table is the PE's own. -/
def debugItem (s : State) (k : Option Nat) (die : Nat) (v : Word) : Option (BitVec 128) :=
  let x : Site := ⟨die, field v 8 2, field v 16 9⟩
  let kind := field v 1 0
  let space := field v 23 20
  let i := field v 39 24
  let w := if space = 3 then s else debugView s k
  if kind = 0 then (if isPe x then peItem x (w.pe (Site.key x)) (field v 19 17) space i else none)
  else if kind = 1 then (if isTile x then tileItem (w.tile (Site.key x)) space i else none)
  else if kind = 2 then (if isOper x then operItem w (Site.key x) space i else none)
  else none

/-- The debug block may read a region: halted and settled, or parked; a site of no region may be read as empty (R377). -/
def readable (s : State) (k : Option Nat) : Bool :=
  match k with
  | none => true
  | some k => s.settledNow k || (s.region k).status == 6 || (s.region k).status == 0

/-- The region that a DADDR value's site belongs to; a tile's or operator's whatever its context (R378). -/
def debugRegion (s : State) (die : Nat) (v : Word) : Option Nat :=
  let x : Site := ⟨die, field v 8 2, field v 16 9⟩
  if field v 1 0 = 1 then
    match (s.tile (Site.key x)).descs with
    | (k, _) :: _ => s.regionAt x (k / 4096)
    | [] => none
  else s.regionAt x (field v 19 17)

/-- A DDATA0 read fetches the item that DADDR selects, or zero with a record (R377, R378). -/
def debugRead (die : Nat) (s : State) : State :=
  let v := (s.die die).daddr
  match (if readable s (debugRegion s die v) then debugItem s (debugRegion s die v) die v else none) with
  | some b =>
    let lo := BitVec.ofNat 64 (b.toNat % 2 ^ 64)
    { s.onDie die (fun d => { d with ddata0 := lo, ddata1 := BitVec.ofNat 64 (b.toNat / 2 ^ 64) }) with hostRead := lo }
  | none => { (s.onDie die (fun d => { d with ddata0 := 0, ddata1 := 0 })).refuseWrite with hostRead := 0 }

/-- DEBUG_READ (R377): a host read of DDATA0. Before the handshake it returns zero (R381), and after a fatal error it takes nothing
further from the machine (R422): it returns what the last one left. -/
def execDebugRead (die : Nat) (s : State) : Host.Outcome State Fault Refusal :=
  .next (if !(bit s.modRegs.hifact 16) then { s with hostRead := 0 }
    else if s.fatal then { s with hostRead := (s.die die).ddata0 }
    else if die < 24 then debugRead die s else s)

end Sys2Proof.Machine
end

