-- ==== Sys2Proof/Machine/Fatal.lean ====
section
/-! DEFINITION. Fatal errors, the dump, resets and power (R420 to R427). -/

namespace Sys2Proof.Machine

/-- FATAL_STOP (R422): a fatal class arises at a die, at a site of it or (0) at none. -/
def execFatalStop (cls : Nat) (place : Detector) (s : State) : Host.Outcome State Fault Refusal :=
  .next (if 1 ≤ cls && cls ≤ 4 && place.die ≤ 24 then s.fatalStop cls place.die place.site else s)

/-- SENSOR_SELF_TEST (R421): SENSTAT records it, and a failure is fatal. -/
def execSensorSelfTest (die sensor : Nat) (ok : Bool) (s : State) : Host.Outcome State Fault Refusal :=
  .next (if s.fatal || 24 ≤ die || 576 ≤ sensor then s
    else
      let s1 := s.onDie die (fun d => { d with
        senstat := BitVec.ofNat 64 (one ok + (if ok then 0 else sensor % 512 * 2) + (field d.senstat 63 32 + 1) % 2 ^ 32 * 2 ^ 32) })
      if ok then s1 else s1.fatalStop 2 die 0)

/-- A free byte of the dump (log entry 5). -/
def freeByte (s : State) (i : Nat) : Byte := BitVec.ofNat 8 (Config.freeWord (s.fresh + i)).toNat

/-- The sections of a dump in the order of R424, each a type and a die: the module's own (types 1 and 8) under the I/O die. -/
def dumpSections : List (Nat × Nat) :=
  let each := fun (t : Nat) => (List.range 24).map (fun d => (t, d))
  (1, 24) :: (each 2 ++ each 3 ++ each 4 ++ each 5) ++ (8, 24) :: (each 6 ++ each 7)

/-- The length of section `i`, which the spec leaves open: free (log entry 5). -/
def sectionLen (s : State) (i : Nat) : Nat := (Config.freeWord (s.fresh + 1 + i)).toNat

/-- How many sections, from the `i`-th on, are written: each takes 32 bytes of the table and its own length, and the first
that would pass DMPSIZE is left out with all after it (R424). -/
def sectionsKept (s : State) (size : Nat) : List (Nat × Nat) → Nat → Nat → Nat
  | [], i, _ => i
  | _ :: xs, i, used =>
    if used + 32 + sectionLen s i ≤ size then sectionsKept s size xs (i + 1) (used + 32 + sectionLen s i) else i

/-- The sections written, `i` on: type, die, offset from the dump's start and bytes, the bytes free (R423, R424). -/
def sectionList (s : State) : List (Nat × Nat) → Nat → Nat → List (Nat × Nat × Nat × List Byte)
  | [], _, _ => []
  | (t, d) :: xs, i, off =>
    (t, d, off, (List.range (sectionLen s i)).map (fun k => freeByte s (1 + dumpSections.length + off + k))) ::
      sectionList s xs (i + 1) (off + sectionLen s i)

/-- An entry of the section table (R423). -/
def sectionEntry (x : Nat × Nat × Nat × List Byte) : List Byte :=
  leBytes 2 x.1 ++ leBytes 2 x.2.1 ++ leBytes 4 0 ++ leBytes 8 x.2.2.1 ++ leBytes 8 x.2.2.2.length ++
  leBytes 4 (crc32c x.2.2.2) ++ leBytes 4 0

/-- The dump's header (R423). -/
def dumpHeader (s : State) (sections len crc : Nat) : List Byte :=
  let cls := field s.modRegs.fstat 3 0
  let die := field s.modRegs.fstat 10 6
  leBytes 4 0x504D5544 ++ leBytes 2 0 ++ leBytes 2 1 ++ leBytes 1 cls ++ leBytes 1 0 ++ leBytes 2 die ++
  leBytes 4 s.fatalSite.toNat ++ leBytes 8 (s.now die) ++ leBytes 4 sections ++
  leBytes 4 (one (decide (sections < dumpSections.length))) ++ leBytes 8 len ++ leBytes 4 crc ++ List.replicate 212 0

/-- The bytes of a dump of `size` bytes at most: header, section table, sections (R423, R424). -/
def dumpBytes (s : State) (size : Nat) : List Byte :=
  let n := sectionsKept s size dumpSections 0 256
  let xs := sectionList s (dumpSections.take n) 0 (256 + 32 * n)
  let body := (xs.map sectionEntry).flatten ++ (xs.map (fun x => x.2.2.2)).flatten
  let len := 256 + body.length
  dumpHeader s n len (crc32c (dumpHeader s n len 0)) ++ body

/-- The dump is written into its host region, FSTAT bits 4 and 5 say so and whether it is truncated, and the fatal vector is
sent (R422 to R425). -/
def writeDump (s : State) : State :=
  let g := s.modRegs
  let size := field g.dmpsize 31 0 * 4096
  let cut := decide (sectionsKept s size dumpSections 0 256 < dumpSections.length)
  let s1 : State := { s with
    hostMem := Memory.writeBytes s.hostMem g.dmpbase.toNat (dumpBytes s size)
    fresh := s.fresh + 1 + dumpSections.length + size
    modRegs := { g with fstat := setField (setField g.fstat 4 4 1) 5 5 (one cut) } }
  s1.raiseVector (field g.mvec 7 0)

/-- DUMP_WRITTEN (R422): once, after a fatal stop, where a dump region is set. -/
def execDumpWritten (s : State) : Host.Outcome State Fault Refusal :=
  .next (if s.fatal && !(bit s.modRegs.fstat 4) && field s.modRegs.dmpsize 31 0 != 0 then writeDump s else s)

/-- An instance holds a region of a die (R425). One that is parked holds none: pre-empting the instances of a die makes a service
window of it (R420). -/
def dieHeld (s : State) (die : Nat) : Bool :=
  s.insts.any (fun x => x.phase != 4 && x.phase != 5 && x.regions.any (fun k => (s.region k).die == die))

/-- What a parked region left at its sites of a die is saved before the die loses it: its operators whole, its tiles with every
slot empty (DESIGN CHOICE, log entry 117). -/
def saveParked (die : Nat) (s : State) : State :=
  { s with parked := s.parked.map (fun p =>
      if p.region / 64 != die then p
      else { p with
        opers := joinMaps p.opers (regionOpers s p.region)
        tiles := (joinMaps p.tiles ((regionTiles s p.region).map (fun x => (x, s.tile x)))).map (fun kt => (kt.1, kt.2.emptied)) }) }

/-- A die is reset (R420, R425): resident contexts and named storage are lost; REPMAP, as the host wrote it, takes effect. A
parked region is not resident: it keeps its record and what the save pool holds of it, and its PEs still hold its tokens back
(DESIGN CHOICE, log entry 117). -/
def resetDie (die : Nat) (s : State) : State :=
  let mine := s.regions.filter (fun kr => kr.2.valid && kr.2.die == die)
  let parked := (mine.filter (fun kr => kr.2.status == 6)).map Prod.fst
  let s1 := ((mine.filter (fun kr => kr.2.status != 6)).map Prod.fst).foldl (fun s k => evictRegion k s) (saveParked die s)
  let off := fun (k : Nat) => (Site.ofKey k).die != die
  let s2 : State := { s1.onDie die (fun d => { DieRegs.reset with repmap := d.repmap, mapped := d.repmap }) with
    pes := s1.pes.keep off, tiles := s1.tiles.keep off, opers := s1.opers.keep off, matrices := s1.matrices.keep off
    clocks := Map.put s1.clocks die 0, net := s1.net.filter (fun f => off f.dst) }
  parked.foldl (fun s k => onRegionPes k (fun p => p.setState (s.region k).ctx 3) s) s2

/-- A BOOTCMD write (R425). -/
def bootCommand (v : Word) (s : State) : State :=
  let die := field v 4 0
  if dieHeld s die then s.refuseWrite
  else if bit v 8 && die < 24 then resetDie die s else s

/-- DIE_RESET (R425). -/
def execDieReset (v : Word) (s : State) : Host.Outcome State Fault Refusal := .next (hostEvent s (bootCommand v))

/-- BOOTSTAT after bring-up (R425, R427). -/
def bootWord (failed : BitVec 24) (ok : Bool) : Word :=
  BitVec.ofNat 64 ((if ok then 0x7F else 0x0F) + failed.toNat * 256)

/-- MODULE_RESET (R427): everything but memory starts anew, and the module is brought up. `failed`: the dies that fail
their test. A sensor that fails is fatal. -/
def execModuleReset (failed : BitVec 24) (sensorsOk : Bool) (s : State) : Host.Outcome State Fault Refusal :=
  let s1 : State := { State.reset with
    agenda := s.agenda, fresh := s.fresh, mem := s.mem, hostMem := s.hostMem, poisonMem := s.poisonMem, booted := sensorsOk
    modRegs := { ModRegs.reset with bootstat := bootWord failed sensorsOk }
    dies := (List.range 24).map (fun d => (d, { DieRegs.reset with
      senstat := BitVec.ofNat 64 (one sensorsOk + 576 * 2 ^ 32) })) }
  .next (if sensorsOk then s1 else s1.fatalStop 2 0 0)

/-- What still takes place after a fatal error (R422): the dump, reads of BAR 0 and a module reset. -/
def afterFatal (i : Instr) : Bool :=
  match i with
  | .dumpWritten | .debugRead _ | .moduleReset _ _ => true
  | .apertureAccess write _ _ => !write
  | _ => false

/-- POWER_THROTTLE (R426): the draw is kept at the limit; results do not change. `draw` is what the module would take, in
units of 10 W. -/
def execPowerThrottle (draw : Nat) (s : State) : Host.Outcome State Fault Refusal :=
  let cap := min 1050 (field s.modRegs.pwrcap 15 0)
  .next (if s.fatal then s
    else s.onRegs (fun g => { g with pwrstat := BitVec.ofNat 64 (min draw cap % 65536 + one (decide (cap < draw)) * 65536) }))

end Sys2Proof.Machine
end

