-- ==== Sys2Proof/Machine/Links.lean ====
section
/-! DEFINITION. Drawbar links: beats, retry, loss, streams and training (R388 to R391). -/

namespace Sys2Proof.Machine

/-- LSTAT with a state and a reason (R391). -/
def LinkPort.mark (state reason : Nat) (p : LinkPort) : LinkPort :=
  { p with lstat := setField (setField p.lstat 2 0 state) 7 4 reason }

/-- A link is lost (R389): LSTAT says why, and the loss is still to be acted on. -/
def LinkPort.lose (reason : Nat) (p : LinkPort) : LinkPort := { LinkPort.mark 3 reason p with told := false }

/-- A sequence is acknowledged by a cumulative acknowledgement, both modulo 2^32. -/
def acked (ack seq : Nat) : Bool := (ack + 2 ^ 32 - seq % 2 ^ 32) % 2 ^ 32 < 2 ^ 31

/-- An accepted beat (R388, R389): the next one is expected, and what it acknowledges leaves the buffer. -/
def LinkPort.accept (b : Beat) (p : LinkPort) : LinkPort :=
  { p with
    recvSeq := (p.recvSeq + 1) % 2 ^ 32, fails := Map.del p.fails b.seq
    unacked := p.unacked.filter (fun x => !acked b.ack x.seq)
    inQ := p.inQ ++ (if b.kind == .data then b.slots.map (fun x => (b.module, x)) else [])
    acksIn := p.acksIn ++ (if b.kind == .streamAck then [(b.ackSite, b.ackSeq)] else [])
    resend := p.resend || b.kind == .retry }

/-- A beat that fails a check (R389): a retry request is to go back; the eighth failure of one beat loses the link. A beat counts under
the sequence that it carries, a corrupt one too (DESIGN CHOICE, log entry 66). -/
def LinkPort.reject (seq : Nat) (p : LinkPort) : LinkPort :=
  let n := Map.get p.fails 0 seq + 1
  let p1 := { p with fails := Map.put p.fails seq n }
  if 8 ≤ n then LinkPort.lose 3 p1 else { p1 with ask := true }

/-- A beat's bytes arrive on a port whose link is up (R388, R389). -/
def receiveBeat (p : Nat) (bytes : List Byte) (s : State) : Option State :=
  let q := s.link p
  let b := Beat.read bytes
  if s.fatal || 96 ≤ p || q.state != 2 then none
  else
    let s1 := s.onLink p (fun q => { q with silence := s.now 24 })
    if b.good && b.seq == q.recvSeq then some (answerLink p (s1.onLink p (LinkPort.accept b)))
    else some (drainLink p (s1.onLink p (LinkPort.reject b.seq)))

/-- BEAT_RECEIVE (R389). -/
def execBeatReceive (p : Nat) (bytes : List Byte) (s : State) : Host.Outcome State Fault Refusal :=
  .next (s.orSelf (receiveBeat p bytes s))

/-- A received retry request: every unacknowledged beat is sent again, the first one first (R389). -/
def resendBeats (p : Nat) (s : State) : Option State :=
  let q := s.link p
  if s.fatal || q.state != 2 || !q.resend then none
  else some (s.onLink p (fun q => { q with
    resend := false, wire := q.wire ++ q.unacked.map Beat.bytes, lrtry := BitVec.ofNat 64 ((field q.lrtry 31 0 + 1) % 2 ^ 32) }))

/-- RETRY_REQUEST (R389). -/
def execRetryRequest (p : Nat) (s : State) : Host.Outcome State Fault Refusal := .next (s.orSelf (resendBeats p s))

/-- No beat for 4,096 cy: a link that was up is lost by silence, a retraining fails without signal, and a first training
leaves the link down (R389, R391). -/
def linkSilent (p : Nat) (s : State) : Option State :=
  let q := s.link p
  if s.fatal || s.now 24 < q.silence + 4096 then none
  else if q.state = 2 then some (s.onLink p (LinkPort.lose 4))
  else if q.state = 1 then some (s.onLink p (fun q => if q.again then LinkPort.lose 2 q else LinkPort.mark 0 2 q))
  else none

/-- LINK_SILENCE_TIMEOUT (R389). -/
def execLinkSilenceTimeout (p : Nat) (s : State) : Host.Outcome State Fault Refusal := .next (s.orSelf (linkSilent p s))

/-! ### A lost link -/

/-- The three drawbar ports of a PORT: `link`, `alt1`, `alt2` (R213). -/
def portLinks (o : Oper) : List Nat :=
  let w := Map.get o.pm 0 2
  [field w 14 8, field w 21 15, field w 28 22]

/-- Completions with status 5 once a PORT has lost its links (R390): of each running pass that feeds it, and of every transfer. -/
def lossCompletions (site : Nat) (s : State) : State :=
  let feeds := fun (k : Nat) (o : Oper) => k != site && (o.state == 2 || o.state == 3) &&
    (((toA o).valid && Site.key (Target.site (toA o)) == site) || ((toB o).valid && Site.key (Target.site (toB o)) == site))
  let s1 := ((s.opers.filter (fun ko => feeds ko.1 ko.2)).map Prod.fst).foldl
    (fun s k => endPass k true (s.onOper k (fun o => { o with status := 5, arms := [] }))) s
  s1.opers.foldl (fun s ko => ko.2.moves.foldl (fun s m => endTransfer ko.1 m 5 s) s) s1

/-- A PORT has lost all three of its links (R390): it raises link-loss at once, passes and transfers end, and the module stops. -/
def linksGone (site : Nat) (s : State) : State :=
  let o := s.oper site
  let r : ErrRec := ⟨0x10, Site.ofKey site, 0, operCtx o, 0⟩
  (lossCompletions site (s.raiseError (o.region - 1) r none false)).fatalStop 1 (Site.ofKey site).die (siteBits (Site.ofKey site) 0)

/-- A PORT whose link is lost (R390): its unacknowledged tokens are sent again, in order, on `alt1`, or on `alt2` when that is lost
too; on `link` only where both alternates are lost and it has been trained anew (R391). -/
def moveStream (p site : Nat) (s : State) : State :=
  let o := s.oper site
  let old := s.onLink p (fun q => { q with outQ := q.outQ.filter (fun x => x.src != BitVec.ofNat 32 (siteBits (Site.ofKey site) 0)) })
  match [1, 2, 0].find? (fun j => (s.link ((portLinks o).getD j 0)).state != 3) with
  | some j =>
    let l := (portLinks o).getD j 0
    drainLink l ((old.onOper site (fun o => { o with linkUsed := j })).onLink l (fun q => { q with
      outQ := q.outQ ++ o.unacked
      lrsnd := BitVec.ofNat 64 ((field q.lrsnd 31 0 + o.unacked.length) % 2 ^ 32) }))
  | none => linksGone site old

/-- A lost link is acted on once (R390): a link event is recorded, with its vector where the report queue takes the record and was
empty (R385), and every stream on the link moves. -/
def loseLink (p : Nat) (s : State) : Option State :=
  let q := s.link p
  if s.fatal || q.state != 3 || q.told then none
  else
    let s1 := (s.onLink p (fun q => { q with told := true, unacked := [], resend := false, ask := false })).deviceReport 0xF3 id none
    let s2 := if s.reportRoom && s.reports.isEmpty && ringUsed s.modRegs.rqFull s.modRegs.rqtail s.modRegs.rqhead = 0 then
      s1.raiseVector (field s1.modRegs.mvec 15 8) else s1
    let sites := (s2.opers.filter (fun ko => ko.2.kind == 11 && ko.2.portClass == 3 && streamLink ko.2 == p)).map Prod.fst
    some (sites.foldl (fun s x => if s.fatal then s else moveStream p x s) s2)

/-- LINK_LOSS (R390). -/
def execLinkLoss (p : Nat) (s : State) : Host.Outcome State Fault Refusal := .next (s.orSelf (loseLink p s))

/-! ### Stream acknowledgements -/

/-- A stream acknowledgement that a port has received (R388, R390): the PORT frees the tokens it covers. -/
def takeAck (x : Site) (seq : Nat) (s : State) : Option State :=
  let a := (BitVec.ofNat 32 (siteBits x 0), seq)
  match s.links.find? (fun kp => kp.2.acksIn.contains a) with
  | none => none
  | some (p, _) => if s.fatal then none
    else some ((s.onLink p (fun q => { q with acksIn := q.acksIn.erase a })).onOper (Site.key x) (fun o => { o with
      unacked := o.unacked.filter (fun u => !acked seq u.seq) }))

/-- STREAM_ACKNOWLEDGEMENT (R390). -/
def execStreamAcknowledgement (x : Site) (seq : Nat) (s : State) : Host.Outcome State Fault Refusal :=
  .next (s.orSelf (takeAck x seq s))

/-- A PORT acknowledges a stream it receives, on the link the stream arrives on (R390): tokens have arrived since it last did. -/
def sendAck (x : Site) (s : State) : Option State :=
  match s.streamsIn.find? (fun e => e.site == Site.key x && 0 < e.due && (s.link e.link).maySend) with
  | none => none
  | some e => if s.fatal then none
    else some ({ s with streamsIn := s.streamsIn.map (fun y => if y == e then { y with due := 0 } else y) }.onLink e.link
      (LinkPort.send (field s.modRegs.modid 7 0) .streamAck [] e.src ((e.next + (2 ^ 32 - 1)) % 2 ^ 32)))

/-- STREAM_ACK_SEND (R390). -/
def execStreamAckSend (x : Site) (s : State) : Host.Outcome State Fault Refusal := .next (s.orSelf (sendAck x s))

/-! ### Training -/

/-- Beats numbered anew from a sequence. -/
def renumber : Nat → List Beat → List Beat
  | _, [] => []
  | n, b :: bs => { b with seq := n } :: renumber (n + 1) bs

/-- A link comes up (R391): the version, the far module and port and the flight time are in LSTAT, and beat sequences
start at 0; beats not yet acknowledged go first. -/
def LinkPort.up (minor module port flight : Nat) (p : LinkPort) : LinkPort :=
  let bs := renumber 0 p.unacked
  { p with
    lstat := BitVec.ofNat 64 (2 + module % 256 * 2 ^ 8 + port % 128 * 2 ^ 16 + (16 + min minor 0) * 2 ^ 24 + flight % 65536 * 2 ^ 32)
    sendSeq := bs.length, recvSeq := 0, unacked := bs, wire := p.wire ++ bs.map Beat.bytes, fails := [], ask := false, resend := false
    told := false }

/-- Training beats of the far side are read (R391). With another major a link that is trained for the first time stays down, and a
retraining has failed, which loses it (R389). -/
def trainLink (p major minor module port flight : Nat) (s : State) : Option State :=
  let q := s.link p
  if s.fatal || 96 ≤ p || q.state != 1 then none
  else if major = 1 then
    some (answerLink p (s.onLink p (fun q => { LinkPort.up minor module port flight q with silence := s.now 24 })))
  else some (s.onLink p (fun q => if q.again then LinkPort.lose 1 q else LinkPort.mark 0 1 q))

/-- LINK_TRAINING (R391). -/
def execLinkTraining (p major minor module port flight : Nat) (s : State) : Host.Outcome State Fault Refusal :=
  .next (s.orSelf (trainLink p major minor module port flight s))

/-- A port starts to train (R391): it sends training beats, with the version 1.0, MODID, its number and a probe. -/
def LinkPort.train (module port now : Nat) (again : Bool) (p : LinkPort) : LinkPort :=
  { LinkPort.mark 1 0 p with again := again, silence := now, trained := p.trained ++ [⟨1, 0, module, port, now⟩] }

/-- An LCTL write with retrain (R391): training starts, of an enabled port. -/
def retrainLink (p : Nat) (s : State) : State :=
  if 96 ≤ p || !(bit (s.link p).lctl 0) then s
  else s.onLink p (fun q => LinkPort.train (field s.modRegs.modid 7 0) p (s.now 24) (q.state != 0) q)

/-- LINK_RETRAIN (R391). -/
def execLinkRetrain (p : Nat) (s : State) : Host.Outcome State Fault Refusal := .next (hostEvent s (retrainLink p))

/-- An LCTL write of enable (R391): a port that is enabled trains, one that is disabled goes down. -/
def enableLink (p : Nat) (on : Bool) (s : State) : State :=
  let q := s.link p
  if 96 ≤ p || bit q.lctl 0 == on then s
  else if on then s.onLink p (fun q => { LinkPort.train (field s.modRegs.modid 7 0) p (s.now 24) false q with lctl := 1 })
  else s.onLink p (fun q => { LinkPort.mark 0 0 q with lctl := 0 })

/-- LINK_ENABLE (R391). -/
def execLinkEnable (p : Nat) (on : Bool) (s : State) : Host.Outcome State Fault Refusal :=
  .next (hostEvent s (enableLink p on))

end Sys2Proof.Machine
end

