-- ==== Sys2Proof/Machine/HostIf.lean ====
section
/-! DEFINITION. The host interface: handshake, registers of BAR 0, aperture and token window (R7, R380 to R387). -/

namespace Sys2Proof.Machine

/-! ### Handshake -/

/-- A HIFNEG write (R381): with go, an equal major is accepted at the smaller minor; later writes are ignored until a
function-level reset. -/
def negotiate (v : Word) (s : State) : State :=
  if s.fatal || !s.booted || field s.modRegs.hifact 17 16 != 0 then s
  else s.onRegs (fun g => { g with
    hifneg := BitVec.ofNat 64 (field v 16 0)
    hifact := if !(bit v 16) then g.hifact
      else if field v 15 8 = 1 then BitVec.ofNat 64 (2 ^ 16 + 2 ^ 8 + min (field v 7 0) 0)
      else BitVec.ofNat 64 (2 ^ 17) })

/-- HIF_HANDSHAKE (R381). -/
def execHifHandshake (v : Word) (s : State) : Host.Outcome State Fault Refusal := .next (negotiate v s)

/-- FUNCTION_LEVEL_RESET (R381): the handshake is open again. -/
def execFunctionLevelReset (s : State) : Host.Outcome State Fault Refusal :=
  .next (if s.fatal then s else s.onRegs (fun g => { g with hifneg := 0, hifact := 0 }))

/-! ### Report queue and hardware queues -/

/-- RQHEAD is written: records that the I/O die holds move into the queue (R384). -/
def rqheadWrite (v : Word) (s : State) : State :=
  let s1 := s.onRegs (fun g => { g with
    rqhead := BitVec.ofNat 64 (field v 15 0), rqFull := g.rqFull && field v 15 0 == field g.rqhead 15 0 })
  drainReports s1.reports s1

/-- RQHEAD_WRITE (R384). -/
def execRqheadWrite (v : Word) (s : State) : Host.Outcome State Fault Refusal := .next (hostEvent s (rqheadWrite v))

/-- A queue's registers changed. -/
def State.onQueue (s : State) (q : Nat) (g : QueueReg → QueueReg) : State :=
  { s with queues := Map.alter s.queues .zero q g }

/-- A host write of QHEAD (R383): of an enabled queue, only at an end the host owns, and by 1 to the entries there are. -/
def queueHead (q : Nat) (v : Word) (s : State) : State :=
  let r := Map.get s.queues .zero q
  let n := (field v 31 0 + 2 ^ 32 - field r.head 31 0) % 2 ^ 32
  if 256 ≤ q then s
  else if bit r.cfg 8 && !(bit r.cfg 10 && 1 ≤ n && n ≤ r.used) then s.refuseWrite
  else s.onQueue q (fun r => { r with head := BitVec.ofNat 64 (field v 31 0) })

/-- QUEUE_HEAD_WRITE (R383). -/
def execQueueHeadWrite (q : Nat) (v : Word) (s : State) : Host.Outcome State Fault Refusal :=
  .next (hostEvent s (queueHead q v))

/-- A host write of QTAIL (R383): of an enabled queue, only at an end the host owns, and by 1 to the free entries. -/
def queueTail (q : Nat) (v : Word) (s : State) : State :=
  let r := Map.get s.queues .zero q
  let n := (field v 31 0 + 2 ^ 32 - field r.tail 31 0) % 2 ^ 32
  if 256 ≤ q then s
  else if bit r.cfg 8 && !(bit r.cfg 9 && 1 ≤ n && n + r.used ≤ 2 ^ field r.cfg 4 0) then s.refuseWrite
  else (if bit r.cfg 8 then markPush q (field r.tail 31 0) s else s).onQueue q (fun r => { r with tail := BitVec.ofNat 64 (field v 31 0) })

/-- QUEUE_TAIL_WRITE (R383). -/
def execQueueTailWrite (q : Nat) (v : Word) (s : State) : Host.Outcome State Fault Refusal :=
  .next (hostEvent s (queueTail q v))

/-- What a launch queue holds when it is enabled is pushed then (R343). -/
def markQueue (q : Nat) (v : Word) (s : State) : State :=
  if bit v 8 then
    markPush q (field (Map.get s.queues .zero q).head 31 0) { s with pushed := s.pushed.filter (fun m => m.queue + 192 != q) }
  else s

/-- A host write of QBASE or QCFG (R383): of an enabled queue, only one that clears enable. -/
def queueSet (q : Nat) (cfg : Bool) (v : Word) (s : State) : State :=
  let r := Map.get s.queues .zero q
  if bit r.cfg 8 && !(cfg && !(bit v 8)) then s.refuseWrite
  else (if cfg then markQueue q v s else s).onQueue q (fun r => if cfg then { r with cfg := BitVec.ofNat 64 (field v 10 0) }
    else { r with base := BitVec.ofNat 64 (field v 56 0) })

/-! ### The token window -/

/-- An injected token that its destination would not take (R387): misdirected, of an empty or loading context, or a control
token that fails R23. -/
def windowBad (s : State) (t : Token) : Bool :=
  let x := Token.site t
  if isPe x then
    let p := s.pe (Site.key x)
    let st := p.ctxState t.ctx.toNat
    st == 0 || st == 2 || (st == 1 && (stationBad p t).isSome)
  else
    let o := s.oper (Site.key x)
    let st := (s.region (o.region - 1)).status
    !isOper x || t.station != 0 || o.region == 0 || st == 0 || st == 1 || (st != 6 && (operBad o t).isSome)

/-- A token of the window enters: to a parked region at once, to be captured; else it waits in its region for admission as
launch tokens do (R387). -/
def windowToken (t : Token) (s : State) : State :=
  match s.regionAt (Token.site t) t.ctx.toNat with
  | none => s.post (launchFlight s t)
  | some k =>
    if (s.region k).status = 6 then s.post (launchFlight s t)
    else s.onRegion k (fun r => { r with launchQ := r.launchQ ++ [launchFlight s t] })

/-- A write to BAR 2 (R386, R387): `v` holds its first 16 bytes. -/
def windowWrite (off len : Nat) (v : BitVec 128) (s : State) : State :=
  let h := BitVec.ofNat 64 (v.toNat % 2 ^ 64)
  let t := Token.ofWords h (BitVec.ofNat 64 (v.toNat / 2 ^ 64))
  if len != 16 || off % 16 != 0 then s.deviceReport 0xF2 id (some h)
  else if 65536 ≤ off then s
  else if windowBad s t then s.deviceReport 0xF2 id (some h)
  else windowToken t s

/-- TOKEN_WINDOW_WRITE (R386, R387). Before the handshake is accepted a write leaves no record (R381). -/
def execTokenWindowWrite (off len : Nat) (v : BitVec 128) (s : State) : Host.Outcome State Fault Refusal :=
  .next (hostEvent s (windowWrite off len v))

/-! ### The memory aperture -/

/-- Bytes read sector by sector at their homes. -/
def readParts : List (Nat × Nat) → State → List Byte × State
  | [], s => ([], s)
  | (a, n) :: ps, s =>
    let x := readHome a n s
    let y := readParts ps x.2
    (x.1 ++ y.1, y.2)

/-- Bytes written sector by sector at their homes. -/
def writeParts : List (Nat × Nat) → List Byte → State → State
  | [], _, s => s
  | (a, n) :: ps, bs, s => writeParts ps (bs.drop n) (writeHome a (bs.take n) s)

/-- An aperture access (R286, R382): at APBASE plus its offset; an unmapped address reads all ones, drops writes, and is
reported. -/
def aperture (write : Bool) (off : Nat) (data : List Byte) (s : State) : State :=
  let pa := field s.modRegs.apbase 51 27 * 2 ^ 27 + off
  let n := data.length
  if n = 0 || 2 ^ 27 < off + n then s
  else if !(mapped pa && mapped (pa + n - 1)) then
    let s1 := s.refuseWrite
    if write then s1 else { s1 with hostBytes := List.replicate n 0xFF }
  else
    let ps := sectorParts (n / 64 + 2) pa n
    if write then writeParts ps data s
    else
      let x := readParts ps s
      { x.2 with hostBytes := x.1 }

/-- APERTURE_ACCESS (R382). The length of `data` is that of the access. Before the handshake a read returns zero (R381); after a fatal
error it returns what memory holds and changes nothing more (R422). -/
def execApertureAccess (write : Bool) (off : Nat) (data : List Byte) (s : State) : Host.Outcome State Fault Refusal :=
  .next (if write then hostEvent s (aperture true off data)
    else if !(bit s.modRegs.hifact 16) then { s with hostBytes := List.replicate data.length 0 }
    else if s.fatal then { s with hostBytes := (aperture false off data s).hostBytes }
    else aperture false off data s)

/-- What a host read of BAR 2 returns (R386). -/
def windowRead (_ : State) (_ : Nat) : Word := 0

/-! ### Register writes -/

/-- An RCTL write (R348): a field out of its range stays as it was. -/
def rctlWrite (k : Nat) (v : Word) (s : State) : State :=
  let l := field v 4 0
  let d := field v 13 6
  s.onRegion k (fun r => { r with
    ctl := BitVec.ofNat 64 ((if 12 ≤ l then l else field r.ctl 4 0) + (if 48 ≤ d then d else field r.ctl 13 6) * 2 ^ 6 +
      field v 14 14 * 2 ^ 14) })

/-- An RCMD write (R348). -/
def rcmdWrite (k : Nat) (v : Word) (s : State) : State :=
  let c := field v 2 0
  if field v 31 3 != 0 then s.refuseWrite
  else if c = 1 then startGraceful k (field v 63 32) s
  else if c = 2 then flushByHost k s
  else if c = 3 then haltCommand k s
  else if c = 4 then resumeRegion k s
  else if c = 5 then clearLog k s
  else if c = 6 then clearStall k s
  else s.refuseWrite

/-- A write in a die's region records (R348, R349): the status block is read-only. -/
def recordWrite (k off : Nat) (v : Word) (s : State) : State :=
  if off = 0x00 then rctlWrite k v s else if off = 0x08 then rcmdWrite k v s else s

/-- A write in a die's debug block (R378). -/
def debugWrite (die off : Nat) (v : Word) (s : State) : State :=
  if off = 0x00 then debugStep die v s
  else if off = 0x10 then s.onDie die (fun d => { d with daddr := BitVec.ofNat 64 (field v 39 0) })
  else s

/-- A REPMAP value is legal: each group names a column 0 to 32, or 63 (R419). -/
def repmapOk (v : Word) : Bool :=
  let g := fun (n : Nat) => n ≤ 32 || n == 63
  g (field v 5 0) && g (field v 13 8) && g (field v 21 16) && g (field v 29 24) && field v 7 6 == 0 && field v 15 14 == 0 &&
  field v 23 22 == 0 && field v 63 30 == 0

/-- A write in a die's reliability block (R418, R419). -/
def reliabilityWrite (die off : Nat) (v : Word) (s : State) : State :=
  if off = 0x10 then
    (if field v 63 16 = 0 then s.onDie die (fun d => { d with scrub := v }) else s.refuseWrite)
  else if off = 0x18 then
    (if 1 < v.toNat || rollingOn s die then s.refuseWrite else if v = 1 then inject418 die s else s)
  else if 0x20 ≤ off && off ≤ 0x30 then s.onDie die (fun d => { d with injpe := Map.put d.injpe ((off - 0x20) / 8) v })
  else if 0x38 ≤ off && off ≤ 0x60 then s.onDie die (fun d => { d with injmt := Map.put d.injmt ((off - 0x38) / 8) v })
  else if 0x68 ≤ off && off ≤ 0x78 then
    s.onDie die (fun d => { d with suspe := Map.alter d.suspe 0 ((off - 0x68) / 8) (fun w => w &&& ~~~v) })
  else if off = 0x80 then (if repmapOk v then s.onDie die (fun d => { d with repmap := v }) else s.refuseWrite)
  else s

/-- A write in a die block (R382). -/
def dieWrite (die off : Nat) (v : Word) (s : State) : State :=
  if off < 0x4000 then recordWrite (64 * die + off / 256) (off % 256) v s
  else if off < 0x6000 then debugWrite die (off - 0x4000) v s
  else reliabilityWrite die (off - 0x6000) v s

/-- A PRCMD write (R370, R382). -/
def prcmdWrite (v : Word) (s : State) : State :=
  let m := field v 33 32
  if m = 1 || m = 2 then hostPreempt (field v 31 0) m s else if m = 3 then hostResume (field v 31 0) s else s

/-- An IMGCMD write (R329): the command is under way until the loader has done it. -/
def imgcmdWrite (v : Word) (s : State) : State :=
  let c := field v 1 0
  if bit s.modRegs.imgstat 0 || c = 0 || c = 3 then s.refuseWrite
  else s.onRegs (fun g => { g with imgcmd := BitVec.ofNat 64 c, imgstat := setField g.imgstat 0 0 1 })

/-- A write in the module control block (R329, R382, R425), by offset in the block. -/
def moduleWrite (off : Nat) (v : Word) (s : State) : State :=
  let low := fun (n : Nat) => BitVec.ofNat 64 (v.toNat % 2 ^ n)
  if off = 0x00 then s.onRegs (fun g => { g with modid := low 8 })
  else if off = 0x08 then s.onRegs (fun g => { g with rqbase := v })
  else if off = 0x10 then
    (if 4 ≤ field v 4 0 && field v 4 0 ≤ 16 then
      let s1 := s.onRegs (fun g => { g with rqcfg := BitVec.ofNat 64 (field v 4 0 + field v 16 8 * 2 ^ 8) })
      drainReports s1.reports s1
     else s.refuseWrite)
  else if off = 0x20 then rqheadWrite v s
  else if off = 0x30 then s.onRegs (fun g => { g with apbase := BitVec.ofNat 64 (field v 51 27 * 2 ^ 27) })
  else if off = 0x38 then s.onRegs (fun g => { g with psbase := v })
  else if off = 0x40 then s.onRegs (fun g => { g with pssize := low 32 })
  else if off = 0x48 then prcmdWrite v s
  else if off = 0x50 then s.onRegs (fun g => { g with mvec := low 16 })
  else if off = 0x58 then s.onRegs (fun g => { g with dmpbase := v })
  else if off = 0x60 then s.onRegs (fun g => { g with dmpsize := low 32 })
  else if off = 0x70 then
    (if 100 ≤ field v 15 0 && field v 15 0 ≤ 1050 then s.onRegs (fun g => { g with pwrcap := low 16 }) else s.refuseWrite)
  else if off = 0x88 then bootCommand v s
  else if off = 0x90 then s.onRegs (fun g => { g with imgaddr := v })
  else if off = 0x98 then s.onRegs (fun g => { g with imglen := low 40 })
  else if off = 0xA0 then s.onRegs (fun g => { g with imghdl := v })
  else if off = 0xA8 then imgcmdWrite v s
  else s

/-- A write of a word of an NVMe queue pair (R369): an enabled pair takes only a clear of its enable. A pair that is registered starts
with its SQ tail and CQ head at 0 (R368). -/
def pairWrite (n w : Nat) (v : Word) (s : State) : State :=
  let set := fun (x : Word) => s.onRegs (fun g => { g with nqp := Map.put g.nqp (4 * n + w) x })
  if bit (pairWord s n 2) 63 && !(w == 2 && !(bit v 63)) then s.refuseWrite
  else if w = 2 then
    let s1 := set (BitVec.ofNat 64 (field v 2 0 + field v 46 16 * 2 ^ 16 + field v 63 63 * 2 ^ 63))
    if bit v 63 then s1.onRegs (fun g => { g with nqp := Map.put (Map.put g.nqp (1024 + n) 0) (1088 + n) 0 }) else s1
  else set v

/-- A TRES write (R362, R369). One that names no held record is counted, whatever its action. -/
def tresWrite (v : Word) (s : State) : State :=
  if (heldBy? s v).isNone then ignoreTres s
  else if field v 17 16 = 1 then tresRetry v s else if field v 17 16 = 2 then tresFail v s else s

/-- A write in the translation control block (R369). -/
def translationWrite (off : Nat) (v : Word) (s : State) : State :=
  if off < 0x40 then s.onRegs (fun g => { g with
    troot := Map.put g.troot (off / 8) (BitVec.ofNat 64 (field v 0 0 + field v 51 18 * 2 ^ 18)) })
  else if off = 0x40 then (if field v 61 60 = 3 then s else tinvWrite v s)
  else if off = 0x50 then s.onRegs (fun g => { g with fqbase := v })
  else if off = 0x58 then
    (if 4 ≤ field v 4 0 && field v 4 0 ≤ 16 then
      let s1 := s.onRegs (fun g => { g with fqcfg := BitVec.ofNat 64 (field v 4 0 + field v 16 8 * 2 ^ 8) })
      let s2 := drainRetire s1.faultQ s1
      drainHolds s2.holds s2
     else s.refuseWrite)
  else if off = 0x68 then fqheadWrite v s
  else if off = 0x70 then tresWrite v s
  else if off = 0x80 then s.onRegs (fun g => { g with nwin := v })
  else if 0x100 ≤ off && off < 0x900 then pairWrite ((off - 0x100) / 32) (off % 32 / 8) v s
  else s

/-- A write of a hardware queue register (R383). -/
def queueWrite (off : Nat) (v : Word) (s : State) : State :=
  let q := off / 32
  if off % 32 = 0 then queueSet q false v s
  else if off % 32 = 8 then queueSet q true v s
  else if off % 32 = 16 then queueHead q v s
  else queueTail q v s

/-- An LCTL write (R391). -/
def lctlWrite (p : Nat) (v : Word) (s : State) : State :=
  let s1 := enableLink p (bit v 0) s
  if bit v 1 then retrainLink p s1 else s1

/-- A write of a word of the MSI-X table: messages of vectors that it unmasks are no longer pending (log entry 112). -/
def msixWrite (i : Nat) (v : Word) (s : State) : State :=
  let s1 : State := { s with msix := Map.put s.msix i v }
  { s1 with msixHeld := s1.msixHeld.filter (fun n => s1.masked n) }

/-- A write of 8 bytes in BAR 0 (R7, R382), by the block it falls in. A read-only register ignores it. -/
def barWrite (off : Nat) (v : Word) (s : State) : State :=
  if off % 8 != 0 then s
  else if off < 0x1000 then (if off = 0x10 then negotiate v s else s)
  else if off < 0x2000 then moduleWrite (off - 0x1000) v s
  else if off < 0x3000 then translationWrite (off - 0x2000) v s
  else if off < 0x4000 then s
  else if off < 0x6000 then queueWrite (off - 0x4000) v s
  else if off < 0x8000 then s
  else if off < 0x9000 then msixWrite ((off - 0x8000) / 8) v s
  else if off < 0x100000 then s
  else if off < 0x1C0000 then dieWrite ((off - 0x100000) / 0x8000) ((off - 0x100000) % 0x8000) v s
  else if off < 0x200000 then s
  else if off < 0x201800 then (if off % 64 = 0 then lctlWrite ((off - 0x200000) / 64) v s else s)
  else if off < 0x8000000 then s
  else if off < 0x10000000 then aperture true (off - 0x8000000) (wordBytes [v]) s
  else s

/-- REGISTER_WRITE (R7): a host write of a register of BAR 0. Before the handshake only the identity block takes it (R381). -/
def execRegisterWrite (off : Nat) (v : Word) (s : State) : Host.Outcome State Fault Refusal :=
  .next (if off = 0x10 then negotiate v s else hostEvent s (barWrite off v))

/-! ### Register reads -/

/-- RSTAT (R349). -/
def rstatWord (s : State) (k : Nat) : Word :=
  let r := s.region k
  BitVec.ofNat 64 ((if r.halted && (r.status == 2 || r.status == 3 || r.status == 4) then 5 else r.status) + one r.unprot * 2 ^ 3 +
    one (s.settledNow k) * 2 ^ 4 + one r.stalled * 2 ^ 5 + field r.serial 31 0 * 2 ^ 32)

/-- What a read of a region record returns (R348, R349). -/
def recordRead (s : State) (k off : Nat) : Word :=
  let r := s.region k
  if off = 0x00 then r.ctl
  else if off = 0x10 then BitVec.ofNat 64 (field r.head 31 0 + one r.valid * 2 ^ 32)
  else if off = 0x40 then rstatWord s k
  else if off = 0x48 then r.stallRec
  else if off = 0x50 then BitVec.ofNat 64 (progressNow s k % 2 ^ 32)
  else if off = 0x58 then BitVec.ofNat 64 r.overflow
  else if 0x60 ≤ off && off ≤ 0x98 then r.log.getD ((off - 0x60) / 8) 0
  else if off = 0xA0 then BitVec.ofNat 64 (r.inst % 2 ^ 32)
  else 0

/-- What a read of a die's debug and reliability blocks returns (R378, R419); a read of DDATA0 is `debugRead`. -/
def dieRead (s : State) (die off : Nat) : Word :=
  let d := s.die die
  if off < 0x4000 then recordRead s (64 * die + off / 256) (off % 256)
  else if off = 0x4008 then
    let left := (s.region (64 * die + field d.dsstat 21 16)).stepping
    BitVec.ofNat 64 (one (decide (0 < left)) + left % 256 * 2 ^ 8 + field d.dsstat 21 16 * 2 ^ 16)
  else if off = 0x4010 then d.daddr
  else if off = 0x4020 then d.ddata1
  else if off = 0x6000 then d.strcnt
  else if off = 0x6008 then d.strlog
  else if off = 0x6010 then d.scrub
  else if 0x6020 ≤ off && off ≤ 0x6030 then Map.get d.injpe 0 ((off - 0x6020) / 8)
  else if 0x6038 ≤ off && off ≤ 0x6060 then Map.get d.injmt 0 ((off - 0x6038) / 8)
  else if 0x6068 ≤ off && off ≤ 0x6078 then Map.get d.suspe 0 ((off - 0x6068) / 8)
  else if off = 0x6080 then d.repmap
  else if off = 0x6088 then d.senstat
  else 0

/-- What a read of the module control block returns (R329, R382, R425). -/
def moduleRead (s : State) (off : Nat) : Word :=
  let g := s.modRegs
  if off = 0x00 then g.modid else if off = 0x08 then g.rqbase else if off = 0x10 then g.rqcfg
  else if off = 0x18 then g.rqtail else if off = 0x20 then g.rqhead else if off = 0x28 then g.ldrep
  else if off = 0x30 then g.apbase else if off = 0x38 then g.psbase else if off = 0x40 then g.pssize
  else if off = 0x50 then g.mvec else if off = 0x58 then g.dmpbase else if off = 0x60 then g.dmpsize
  else if off = 0x68 then g.fstat else if off = 0x70 then g.pwrcap else if off = 0x78 then g.pwrstat
  else if off = 0x80 then g.bootstat else if off = 0x90 then BitVec.ofNat 64 (field g.imgaddr 51 6 * 64) else if off = 0x98 then g.imglen
  else if off = 0xA0 then g.imghdl else if off = 0xB0 then g.imgstat else 0

/-- What a read of the translation control block returns (R369). -/
def translationRead (s : State) (off : Nat) : Word :=
  let g := s.modRegs
  if off < 0x40 then Map.get g.troot 0 (off / 8)
  else if off = 0x48 then BitVec.ofNat 64 (one (!s.inval.isEmpty))
  else if off = 0x50 then g.fqbase else if off = 0x58 then g.fqcfg else if off = 0x60 then g.fqtail
  else if off = 0x68 then g.fqhead
  else if off = 0x78 then BitVec.ofNat 64 ((s.holds.filter Hold.written).length % 65536 + field g.tstat 31 16 * 65536)
  else if off = 0x80 then g.nwin
  else if 0x100 ≤ off && off < 0x900 then Map.get g.nqp 0 ((off - 0x100) / 8)
  else 0

/-- 64 of the MSI-X pending bits (R382). -/
def pendingBits (s : State) (i : Nat) : Word :=
  BitVec.ofNat 64 (sumNat ((List.range 64).map (fun j => if s.msixHeld.contains (64 * i + j) then 2 ^ j else 0)))

/-- What a host read of a register of BAR 0 returns (R7, R381, R382); reading does not change the machine, but at DDATA0. -/
def barRead (s : State) (off : Nat) : Word :=
  if off % 8 != 0 then 0
  else if off = 0x00 then 0x4C5A5455 else if off = 0x08 then 0x100 else if off = 0x10 then s.modRegs.hifneg
  else if off = 0x18 then s.modRegs.hifact
  else if !(bit s.modRegs.hifact 16) then 0
  else if 0x1000 ≤ off && off < 0x2000 then moduleRead s (off - 0x1000)
  else if 0x2000 ≤ off && off < 0x3000 then translationRead s (off - 0x2000)
  else if 0x4000 ≤ off && off < 0x6000 then
    let q := Map.get s.queues .zero ((off - 0x4000) / 32)
    if off % 32 = 0 then q.base else if off % 32 = 8 then q.cfg else if off % 32 = 16 then q.head else q.tail
  else if 0x8000 ≤ off && off < 0x9000 then Map.get s.msix 0 ((off - 0x8000) / 8)
  else if 0x9000 ≤ off && off < 0xA000 then pendingBits s ((off - 0x9000) / 8)
  else if 0x100000 ≤ off && off < 0x1C0000 then dieRead s ((off - 0x100000) / 0x8000) ((off - 0x100000) % 0x8000)
  else if 0x200000 ≤ off && off < 0x201800 then
    let p := s.link ((off - 0x200000) / 64)
    if off % 64 = 0 then p.lctl else if off % 64 = 8 then p.lstat else if off % 64 = 0x10 then p.lrtry
    else if off % 64 = 0x18 then p.lrsnd else if off % 64 = 0x20 then 0x10 else 0
  else 0

end Sys2Proof.Machine
end

