-- ==== Sys2Proof/Machine/Dispatch.lean ====
section
/-! DEFINITION. One arm per instruction and step: each calls its own meaning. -/

namespace Sys2Proof.Machine

def exec (i : Instr) (s : State) : Host.Outcome State Fault Refusal :=
  match i with
  | .add f => Sys2Proof.Machine.execAdd f s
  | .sub f => Sys2Proof.Machine.execSub f s
  | .mul f => Sys2Proof.Machine.execMul f s
  | .mulh f => Sys2Proof.Machine.execMulh f s
  | .mulhu f => Sys2Proof.Machine.execMulhu f s
  | .div f => Sys2Proof.Machine.execDiv f s
  | .divu f => Sys2Proof.Machine.execDivu f s
  | .rem f => Sys2Proof.Machine.execRem f s
  | .remu f => Sys2Proof.Machine.execRemu f s
  | .and f => Sys2Proof.Machine.execAnd f s
  | .or f => Sys2Proof.Machine.execOr f s
  | .xor f => Sys2Proof.Machine.execXor f s
  | .andn f => Sys2Proof.Machine.execAndn f s
  | .not f => Sys2Proof.Machine.execNot f s
  | .shl f => Sys2Proof.Machine.execShl f s
  | .shr f => Sys2Proof.Machine.execShr f s
  | .sra f => Sys2Proof.Machine.execSra f s
  | .rotl f => Sys2Proof.Machine.execRotl f s
  | .min f => Sys2Proof.Machine.execMin f s
  | .max f => Sys2Proof.Machine.execMax f s
  | .minu f => Sys2Proof.Machine.execMinu f s
  | .maxu f => Sys2Proof.Machine.execMaxu f s
  | .abs f => Sys2Proof.Machine.execAbs f s
  | .neg f => Sys2Proof.Machine.execNeg f s
  | .clz f => Sys2Proof.Machine.execClz f s
  | .ctz f => Sys2Proof.Machine.execCtz f s
  | .popc f => Sys2Proof.Machine.execPopc f s
  | .bswap f => Sys2Proof.Machine.execBswap f s
  | .addsat f => Sys2Proof.Machine.execAddsat f s
  | .subsat f => Sys2Proof.Machine.execSubsat f s
  | .lea f => Sys2Proof.Machine.execLea f s
  | .mad f => Sys2Proof.Machine.execMad f s
  | .dot8 f => Sys2Proof.Machine.execDot8 f s
  | .cmpEq f => Sys2Proof.Machine.execCmpEq f s
  | .cmpNe f => Sys2Proof.Machine.execCmpNe f s
  | .cmpLt f => Sys2Proof.Machine.execCmpLt f s
  | .cmpLe f => Sys2Proof.Machine.execCmpLe f s
  | .cmpLtu f => Sys2Proof.Machine.execCmpLtu f s
  | .cmpLeu f => Sys2Proof.Machine.execCmpLeu f s
  | .sext f => Sys2Proof.Machine.execSext f s
  | .zext f => Sys2Proof.Machine.execZext f s
  | .bext f => Sys2Proof.Machine.execBext f s
  | .bins f => Sys2Proof.Machine.execBins f s
  | .fadd f => Sys2Proof.Machine.execFadd f s
  | .fsub f => Sys2Proof.Machine.execFsub f s
  | .fmul f => Sys2Proof.Machine.execFmul f s
  | .ffma f => Sys2Proof.Machine.execFfma f s
  | .ffms f => Sys2Proof.Machine.execFfms f s
  | .ffnma f => Sys2Proof.Machine.execFfnma f s
  | .fmin f => Sys2Proof.Machine.execFmin f s
  | .fmax f => Sys2Proof.Machine.execFmax f s
  | .fminn f => Sys2Proof.Machine.execFminn f s
  | .fmaxn f => Sys2Proof.Machine.execFmaxn f s
  | .fabs f => Sys2Proof.Machine.execFabs f s
  | .fneg f => Sys2Proof.Machine.execFneg f s
  | .fsgn f => Sys2Proof.Machine.execFsgn f s
  | .fcmpEq f => Sys2Proof.Machine.execFcmpEq f s
  | .fcmpLt f => Sys2Proof.Machine.execFcmpLt f s
  | .fcmpLe f => Sys2Proof.Machine.execFcmpLe f s
  | .fcmpUn f => Sys2Proof.Machine.execFcmpUn f s
  | .frcp f => Sys2Proof.Machine.execFrcp f s
  | .frsq f => Sys2Proof.Machine.execFrsq f s
  | .fsqrt f => Sys2Proof.Machine.execFsqrt f s
  | .fdiv f => Sys2Proof.Machine.execFdiv f s
  | .fexp2 f => Sys2Proof.Machine.execFexp2 f s
  | .flog2 f => Sys2Proof.Machine.execFlog2 f s
  | .fscale f => Sys2Proof.Machine.execFscale f s
  | .fround f => Sys2Proof.Machine.execFround f s
  | .ffloor f => Sys2Proof.Machine.execFfloor f s
  | .fceil f => Sys2Proof.Machine.execFceil f s
  | .ftrunc f => Sys2Proof.Machine.execFtrunc f s
  | .fclass f => Sys2Proof.Machine.execFclass f s
  | .cvt f => Sys2Proof.Machine.execCvt f s
  | .cvtI f => Sys2Proof.Machine.execCvtI f s
  | .cvtF f => Sys2Proof.Machine.execCvtF f s
  | .retag f => Sys2Proof.Machine.execRetag f s
  | .pack f => Sys2Proof.Machine.execPack f s
  | .unpackLo f => Sys2Proof.Machine.execUnpackLo f s
  | .unpackHi f => Sys2Proof.Machine.execUnpackHi f s
  | .shuf f => Sys2Proof.Machine.execShuf f s
  | .bcast f => Sys2Proof.Machine.execBcast f s
  | .lext f => Sys2Proof.Machine.execLext f s
  | .lins f => Sys2Proof.Machine.execLins f s
  | .hsum f => Sys2Proof.Machine.execHsum f s
  | .hmax f => Sys2Proof.Machine.execHmax f s
  | .hmin f => Sys2Proof.Machine.execHmin f s
  | .fdot f => Sys2Proof.Machine.execFdot f s
  | .steer f => Sys2Proof.Machine.execSteer f s
  | .merge f => Sys2Proof.Machine.execMerge f s
  | .mux f => Sys2Proof.Machine.execMux f s
  | .fan f => Sys2Proof.Machine.execFan f s
  | .sink f => Sys2Proof.Machine.execSink f s
  | .const f => Sys2Proof.Machine.execConst f s
  | .invar f => Sys2Proof.Machine.execInvar f s
  | .wave f => Sys2Proof.Machine.execWave f s
  | .tagSet f => Sys2Proof.Machine.execTagSet f s
  | .tagInc f => Sys2Proof.Machine.execTagInc f s
  | .tagSplit f => Sys2Proof.Machine.execTagSplit f s
  | .tagJoin f => Sys2Proof.Machine.execTagJoin f s
  | .squash f => Sys2Proof.Machine.execSquash f s
  | .call f => Sys2Proof.Machine.execCall f s
  | .ret f => Sys2Proof.Machine.execRet f s
  | .frameNew f => Sys2Proof.Machine.execFrameNew f s
  | .frameFree f => Sys2Proof.Machine.execFrameFree f s
  | .acc f => Sys2Proof.Machine.execAcc f s
  | .accmax f => Sys2Proof.Machine.execAccmax f s
  | .count f => Sys2Proof.Machine.execCount f s
  | .nwr f => Sys2Proof.Machine.execNwr f s
  | .nrd f => Sys2Proof.Machine.execNrd f s
  | .npeek f => Sys2Proof.Machine.execNpeek f s
  | .nrel f => Sys2Proof.Machine.execNrel f s
  | .foldSet f => Sys2Proof.Machine.execFoldSet f s
  | .foldResize f => Sys2Proof.Machine.execFoldResize f s
  | .foldQ f => Sys2Proof.Machine.execFoldQ f s
  | .reqLd f => Sys2Proof.Machine.execReqLd f s
  | .reqSt f => Sys2Proof.Machine.execReqSt f s
  | .reqLdo f => Sys2Proof.Machine.execReqLdo f s
  | .reqSto f => Sys2Proof.Machine.execReqSto f s
  | .atomAdd f => Sys2Proof.Machine.execAtomAdd f s
  | .atomFadd f => Sys2Proof.Machine.execAtomFadd f s
  | .atomMin f => Sys2Proof.Machine.execAtomMin f s
  | .atomMax f => Sys2Proof.Machine.execAtomMax f s
  | .atomAnd f => Sys2Proof.Machine.execAtomAnd f s
  | .atomOr f => Sys2Proof.Machine.execAtomOr f s
  | .atomXchg f => Sys2Proof.Machine.execAtomXchg f s
  | .atomCas f => Sys2Proof.Machine.execAtomCas f s
  | .qPush f => Sys2Proof.Machine.execQPush f s
  | .qPop f => Sys2Proof.Machine.execQPop f s
  | .qPeek f => Sys2Proof.Machine.execQPeek f s
  | .fence f => Sys2Proof.Machine.execFence f s
  | .trigger f => Sys2Proof.Machine.execTrigger f s
  | .barArrive f => Sys2Proof.Machine.execBarArrive f s
  | .barWait f => Sys2Proof.Machine.execBarWait f s
  | .trap f => Sys2Proof.Machine.execTrap f s
  | .report f => Sys2Proof.Machine.execReport f s
  | .reinject f => Sys2Proof.Machine.execReinject f s
  | .ptest f => Sys2Proof.Machine.execPtest f s
  | .pclear f => Sys2Proof.Machine.execPclear f s
  | .couple f => Sys2Proof.Machine.execCouple f s
  | .siteid f => Sys2Proof.Machine.execSiteid f s
  | .clk f => Sys2Proof.Machine.execClk f s
  | .halt f => Sys2Proof.Machine.execHalt f s
  | .brk f => Sys2Proof.Machine.execBrk f s
  | .nop f => Sys2Proof.Machine.execNop f s
  | .mmMode f => Sys2Proof.Machine.execMmMode f s
  | .mmWload f => Sys2Proof.Machine.execMmWload f s
  | .mmWswap f => Sys2Proof.Machine.execMmWswap f s
  | .mmRun f => Sys2Proof.Machine.execMmRun f s
  | .mmOrun f => Sys2Proof.Machine.execMmOrun f s
  | .mmClr f => Sys2Proof.Machine.execMmClr f s
  | .mmDrain f => Sys2Proof.Machine.execMmDrain f s
  | .mmMask f => Sys2Proof.Machine.execMmMask f s
  | .mmRowstat f => Sys2Proof.Machine.execMmRowstat f s
  | .mmScale f => Sys2Proof.Machine.execMmScale f s
  | .mmBias f => Sys2Proof.Machine.execMmBias f s
  | .mmAct f => Sys2Proof.Machine.execMmAct f s
  | .conversionStationFire f => Sys2Proof.Machine.execConversionStationFire f s
  | .tokenArrival n => Sys2Proof.Machine.execTokenArrival n s
  | .matchingEntryGranted x n => Sys2Proof.Machine.execMatchingEntryGranted x n s
  | .readyQueueEntry x => Sys2Proof.Machine.execReadyQueueEntry x s
  | .resultInjection x n => Sys2Proof.Machine.execResultInjection x n s
  | .gangedLaneTimeout r n => Sys2Proof.Machine.execGangedLaneTimeout r n s
  | .couplingTokenArrival n => Sys2Proof.Machine.execCouplingTokenArrival n s
  | .joinForward x c st => Sys2Proof.Machine.execJoinForward x c st s
  | .operatorCouplingForward x => Sys2Proof.Machine.execOperatorCouplingForward x s
  | .squashTokenArrival n => Sys2Proof.Machine.execSquashTokenArrival n s
  | .tagAdmission r => Sys2Proof.Machine.execTagAdmission r s
  | .cabooseRelease r n => Sys2Proof.Machine.execCabooseRelease r n s
  | .stall r => Sys2Proof.Machine.execStall r s
  | .faultEntryFreed r => Sys2Proof.Machine.execFaultEntryFreed r s
  | .feedWord n => Sys2Proof.Machine.execFeedWord n s
  | .systolicStep x => Sys2Proof.Machine.execSystolicStep x s
  | .nameWordWrite n => Sys2Proof.Machine.execNameWordWrite n s
  | .stalledWordRetry x => Sys2Proof.Machine.execStalledWordRetry x s
  | .nameReadRequest n => Sys2Proof.Machine.execNameReadRequest n s
  | .requestForward n => Sys2Proof.Machine.execRequestForward n s
  | .foldSetApply n => Sys2Proof.Machine.execFoldSetApply n s
  | .foldResizeStart n => Sys2Proof.Machine.execFoldResizeStart n s
  | .foldResizeComplete x => Sys2Proof.Machine.execFoldResizeComplete x s
  | .foldQueryServe n => Sys2Proof.Machine.execFoldQueryServe n s
  | .scrubGranule x fixed bad => Sys2Proof.Machine.execScrubGranule x fixed bad s
  | .scrubWriteback x => Sys2Proof.Machine.execScrubWriteback x s
  | .tileScrubComplete x => Sys2Proof.Machine.execTileScrubComplete x s
  | .t2Patrol stack fixed bad => Sys2Proof.Machine.execT2Patrol stack fixed bad s
  | .arm n => Sys2Proof.Machine.execArm n s
  | .rewind n => Sys2Proof.Machine.execRewind n s
  | .flush n => Sys2Proof.Machine.execFlush n s
  | .status n => Sys2Proof.Machine.execStatus n s
  | .gateOpen n => Sys2Proof.Machine.execGateOpen n s
  | .gateClose n => Sys2Proof.Machine.execGateClose n s
  | .copy n => Sys2Proof.Machine.execCopy n s
  | .hostRead n => Sys2Proof.Machine.execHostRead n s
  | .hostWrite n => Sys2Proof.Machine.execHostWrite n s
  | .nvmeRead n => Sys2Proof.Machine.execNvmeRead n s
  | .nvmeWrite n => Sys2Proof.Machine.execNvmeWrite n s
  | .migrate n => Sys2Proof.Machine.execMigrate n s
  | .boundToken n => Sys2Proof.Machine.execBoundToken n s
  | .loadBaseToken n => Sys2Proof.Machine.execLoadBaseToken n s
  | .elementDataReturn n => Sys2Proof.Machine.execElementDataReturn n s
  | .passCompletion x => Sys2Proof.Machine.execPassCompletion x s
  | .storeDataToken n => Sys2Proof.Machine.execStoreDataToken n s
  | .gatherItem n => Sys2Proof.Machine.execGatherItem n s
  | .gatherMask n => Sys2Proof.Machine.execGatherMask n s
  | .scatterFiring n => Sys2Proof.Machine.execScatterFiring n s
  | .loopIteration x => Sys2Proof.Machine.execLoopIteration x s
  | .gateData n => Sys2Proof.Machine.execGateData n s
  | .gateCompletion n => Sys2Proof.Machine.execGateCompletion n s
  | .lookupPosition n => Sys2Proof.Machine.execLookupPosition n s
  | .lookupEntryReturn n => Sys2Proof.Machine.execLookupEntryReturn n s
  | .reorderToken n => Sys2Proof.Machine.execReorderToken n s
  | .decodeInput n => Sys2Proof.Machine.execDecodeInput n s
  | .sieveScore n => Sys2Proof.Machine.execSieveScore n s
  | .compareToken n => Sys2Proof.Machine.execCompareToken n s
  | .compareTimeout x => Sys2Proof.Machine.execCompareTimeout x s
  | .portRequest n => Sys2Proof.Machine.execPortRequest n s
  | .fenceComplete r n => Sys2Proof.Machine.execFenceComplete r n s
  | .drawbarForward n => Sys2Proof.Machine.execDrawbarForward n s
  | .drawbarReceive module slot => Sys2Proof.Machine.execDrawbarReceive module slot s
  | .tenderAccess n => Sys2Proof.Machine.execTenderAccess n s
  | .filterWaitEnd n => Sys2Proof.Machine.execFilterWaitEnd n s
  | .translationWalkEnd n => Sys2Proof.Machine.execTranslationWalkEnd n s
  | .engineSlotFreed u => Sys2Proof.Machine.execEngineSlotFreed u s
  | .pinGranted n => Sys2Proof.Machine.execPinGranted n s
  | .pageRetireRecord n => Sys2Proof.Machine.execPageRetireRecord n s
  | .nvmeCompletion n status => Sys2Proof.Machine.execNvmeCompletion n status s
  | .cxlWriteTimeout n => Sys2Proof.Machine.execCxlWriteTimeout n s
  | .imageRegister => Sys2Proof.Machine.execImageRegister s
  | .imageUnregister => Sys2Proof.Machine.execImageUnregister s
  | .launchArbitration => Sys2Proof.Machine.execLaunchArbitration s
  | .instanceStart num => Sys2Proof.Machine.execInstanceStart num s
  | .initialDataWrite num => Sys2Proof.Machine.execInitialDataWrite num s
  | .initialTokenInjection num => Sys2Proof.Machine.execInitialTokenInjection num s
  | .instanceEnd num => Sys2Proof.Machine.execInstanceEnd num s
  | .configWordDelivery r => Sys2Proof.Machine.execConfigWordDelivery r s
  | .contextResident r => Sys2Proof.Machine.execContextResident r s
  | .regionDrained r => Sys2Proof.Machine.execRegionDrained r s
  | .gracefulReconfiguration r v => Sys2Proof.Machine.execGracefulReconfiguration r v s
  | .regionFlush r => Sys2Proof.Machine.execRegionFlush r s
  | .regionHalt r => Sys2Proof.Machine.execRegionHalt r s
  | .regionResume r => Sys2Proof.Machine.execRegionResume r s
  | .clearPoisonLog r => Sys2Proof.Machine.execClearPoisonLog r s
  | .clearStall r => Sys2Proof.Machine.execClearStall r s
  | .debugStep die v => Sys2Proof.Machine.execDebugStep die v s
  | .debugRead die => Sys2Proof.Machine.execDebugRead die s
  | .preemptDrainToWave num => Sys2Proof.Machine.execPreemptDrainToWave num s
  | .preemptForcedSave num => Sys2Proof.Machine.execPreemptForcedSave num s
  | .preemptResume num => Sys2Proof.Machine.execPreemptResume num s
  | .park r => Sys2Proof.Machine.execPark r s
  | .drainBudgetExpiry num => Sys2Proof.Machine.execDrainBudgetExpiry num s
  | .instanceResume num => Sys2Proof.Machine.execInstanceResume num s
  | .waveMark r => Sys2Proof.Machine.execWaveMark r s
  | .strikeReport die tile sensor => Sys2Proof.Machine.execStrikeReport die tile sensor s
  | .rollbackComplete r => Sys2Proof.Machine.execRollbackComplete r s
  | .uncorrectableError e => Sys2Proof.Machine.execUncorrectableError e s
  | .injectStrike die => Sys2Proof.Machine.execInjectStrike die s
  | .sensorSelfTest die sensor ok => Sys2Proof.Machine.execSensorSelfTest die sensor ok s
  | .fatalStop cls place => Sys2Proof.Machine.execFatalStop cls place s
  | .dumpWritten => Sys2Proof.Machine.execDumpWritten s
  | .dieReset v => Sys2Proof.Machine.execDieReset v s
  | .moduleReset failed sensorsOk => Sys2Proof.Machine.execModuleReset failed sensorsOk s
  | .powerThrottle draw => Sys2Proof.Machine.execPowerThrottle draw s
  | .hifHandshake v => Sys2Proof.Machine.execHifHandshake v s
  | .functionLevelReset => Sys2Proof.Machine.execFunctionLevelReset s
  | .tinvPage v => Sys2Proof.Machine.execTinvPage v s
  | .tinvContext v => Sys2Proof.Machine.execTinvContext v s
  | .tinvAll v => Sys2Proof.Machine.execTinvAll v s
  | .invalidationComplete => Sys2Proof.Machine.execInvalidationComplete s
  | .tresRetry v => Sys2Proof.Machine.execTresRetry v s
  | .tresFail v => Sys2Proof.Machine.execTresFail v s
  | .fqheadWrite v => Sys2Proof.Machine.execFqheadWrite v s
  | .rqheadWrite v => Sys2Proof.Machine.execRqheadWrite v s
  | .queueHeadWrite q v => Sys2Proof.Machine.execQueueHeadWrite q v s
  | .queueTailWrite q v => Sys2Proof.Machine.execQueueTailWrite q v s
  | .tokenWindowWrite off len v => Sys2Proof.Machine.execTokenWindowWrite off len v s
  | .apertureAccess write off data => Sys2Proof.Machine.execApertureAccess write off data s
  | .beatReceive p bytes => Sys2Proof.Machine.execBeatReceive p bytes s
  | .retryRequest p => Sys2Proof.Machine.execRetryRequest p s
  | .linkSilenceTimeout p => Sys2Proof.Machine.execLinkSilenceTimeout p s
  | .linkLoss p => Sys2Proof.Machine.execLinkLoss p s
  | .streamAcknowledgement x seq => Sys2Proof.Machine.execStreamAcknowledgement x seq s
  | .streamAckSend x => Sys2Proof.Machine.execStreamAckSend x s
  | .linkTraining p major minor module port flight => Sys2Proof.Machine.execLinkTraining p major minor module port flight s
  | .linkRetrain p => Sys2Proof.Machine.execLinkRetrain p s
  | .linkEnable p on => Sys2Proof.Machine.execLinkEnable p on s
  | .registerWrite off v => Sys2Proof.Machine.execRegisterWrite off v s
  | .driveDataAccess q write addr data => Sys2Proof.Machine.execDriveDataAccess q write addr data s
  | .hostLinkCompletion n data => Sys2Proof.Machine.execHostLinkCompletion n data s

end Sys2Proof.Machine
end

