-- ==== Sys2Proof/Machine/Fetch.lean ====
section
/-! DEFINITION. Where an instruction is fetched: the station store of a PE, for a ready entry of a resident context (log
entry 7). -/

namespace Sys2Proof.Machine

/-- The region record that runs a placed word: die 0, PE rows 0 to 7, PE columns 0 to 7, context 0, running, with one frame in
each pool. -/
def placedRegion : Region :=
  { Region.empty with
    head := 0x880000, head2 := 0x8000000180000000, head3 := 0x8000000380000002, status := 2 }

/-- The operands that a firing of a word takes, as tokens of zeros. -/
def zeroOperands (w : StationWord) : List Token :=
  match opInfo (wordOp w) with
  | none => []
  | some o => (awaited o (decodeFields w)).map (fun q => { Token.zero with row := 1, col := 1, port := q })

/-- The PE that holds a placed word: station 0 of context 0, with its operands matched. -/
def placedPe (w : StationWord) (q : Pe) : Pe :=
  { q with
    store := Map.put q.store 0 w, ctxs := Map.put q.ctxs 0 0x40080000, pendingOut := [], results := [], nextIssue := 0
    ready := [⟨0, 0, 0, 0, zeroOperands w, 0, 0⟩], lastCtx := 7 }

/-- A station word placed at PE (0, 1, 1) so that its firing is the next issue. -/
def State.place (s : State) (w : StationWord) : State :=
  let k := Site.key ⟨0, 1, 1⟩
  { s with
    agenda := [.issue ⟨0, 1, 1⟩ []], fatal := false, regions := Map.put s.regions 0 placedRegion
    pes := Map.alter s.pes .idle k (placedPe w) }

end Sys2Proof.Machine
end

