-- ==== Sys2Proof/Machine/Schedule.lean ====
section
/-! DEFINITION. The order of steps where the agenda names none (log entry 1): issues first, then the steps that the
machine's own units can take, in a fixed order; with none left in this cycle, the clocks go on. What the outside world
does, and errors of the hardware, come only from the agenda. -/

namespace Sys2Proof.Machine

/-- The site of the first PE with an entry to issue. -/
def firstIssue (s : State) : Option Site :=
  (s.pes.find? (fun kp => isPe (Site.ofKey kp.1) && (s.pick kp.1 []).isSome)).map (fun kp => Site.ofKey kp.1)

/-- Steps of PE sites. -/
def peSteps (s : State) : List Instr :=
  (s.pes.map (fun (kp : Nat × Pe) =>
    let x := Site.ofKey kp.1
    Instr.readyQueueEntry x :: (List.range kp.2.results.length).map (fun n => Instr.resultInjection x n) ++
      (kp.2.coupling.map (fun (kv : Nat × Nat) => Instr.joinForward x (kv.1 % 8) (kv.1 / 8))))).flatten ++
  s.matrices.map (fun km => Instr.systolicStep (Site.ofKey km.1))

/-- Arrivals at PEs and tiles of flight `n`. -/
def arrivalSteps (n : Nat) : List Instr :=
  [.tokenArrival n, .couplingTokenArrival n, .squashTokenArrival n, .feedWord n, .nameWordWrite n, .nameReadRequest n,
   .requestForward n, .foldSetApply n, .foldResizeStart n, .foldQueryServe n, .portRequest n, .drawbarForward n]

/-- Arrivals at operators of flight `n`: commands, then bounds, bases and data. -/
def operatorSteps (n : Nat) : List Instr :=
  [.arm n, .rewind n, .flush n, .status n, .gateOpen n, .gateClose n, .copy n, .hostRead n, .hostWrite n, .nvmeRead n,
   .nvmeWrite n, .migrate n, .boundToken n, .loadBaseToken n, .storeDataToken n, .gatherItem n, .gatherMask n] ++
  [.scatterFiring n, .gateData n, .gateCompletion n, .lookupPosition n, .reorderToken n, .decodeInput n, .sieveScore n,
   .compareToken n]

/-- Steps of flights. -/
def netSteps (s : State) : List Instr :=
  ((List.range s.net.length).map (fun n => arrivalSteps n ++ operatorSteps n)).flatten

/-- Steps of accesses. -/
def accessSteps (s : State) : List Instr :=
  (s.accesses.map (fun (a : Access) =>
    [Instr.translationWalkEnd a.id, .pinGranted a.id, .tenderAccess a.id, .filterWaitEnd a.id, .elementDataReturn a.id,
     .lookupEntryReturn a.id])).flatten

/-- Steps of operator sites. -/
def operSteps (s : State) : List Instr :=
  (s.opers.map (fun (ko : Nat × Oper) =>
    let x := Site.ofKey ko.1
    [Instr.operatorCouplingForward x, .passCompletion x, .loopIteration x, .compareTimeout x, .streamAckSend x] ++
      (List.range ko.2.fences.length).map (fun n => Instr.fenceComplete ko.1 n))).flatten ++
  ((List.range 48) ++ [63]).map (fun u => Instr.engineSlotFreed u)

/-- Steps of memory tiles. -/
def tileSteps (s : State) : List Instr :=
  (s.tiles.map (fun (kt : Nat × Tile) =>
    let x := Site.ofKey kt.1
    [Instr.stalledWordRetry x, .foldResizeComplete x, .scrubWriteback x, .tileScrubComplete x])).flatten

/-- Steps of regions. -/
def regionSteps (s : State) : List Instr :=
  (s.regions.map (fun (kr : Nat × Region) =>
    let k := kr.1
    [Instr.rollbackComplete k, .tagAdmission k] ++ (List.range kr.2.caboose.length).map (fun n => Instr.cabooseRelease k n) ++
    [.faultEntryFreed k, .configWordDelivery k, .contextResident k, .regionDrained k, .park k, .waveMark k, .stall k])).flatten

/-- Steps of the arbiter, the loader and the translation units. -/
def moduleSteps (s : State) : List Instr :=
  (s.insts.map (fun (x : Inst) =>
    [Instr.instanceResume x.num, .instanceStart x.num, .initialDataWrite x.num, .initialTokenInjection x.num,
     .instanceEnd x.num, .drainBudgetExpiry x.num])).flatten ++
  (List.range s.retire.length).map (fun n => Instr.pageRetireRecord n) ++
  [.invalidationComplete, .imageRegister, .imageUnregister, .launchArbitration, .dumpWritten]

/-- Steps of drawbar ports. -/
def linkSteps (s : State) : List Instr :=
  (s.links.map (fun (kp : Nat × LinkPort) =>
    (kp.2.inQ.take 1).map (fun (x : Nat × LinkSlot) => Instr.drawbarReceive x.1 x.2) ++
    (kp.2.acksIn.map (fun (a : BitVec 32 × Nat) => Instr.streamAcknowledgement (Target.site (targetOf a.1.toNat)) a.2)) ++
    [Instr.retryRequest kp.1, .linkLoss kp.1, .linkSilenceTimeout kp.1])).flatten

/-- The steps that may take place. After a fatal error only the dump is left (R422). -/
def candidates (s : State) : List Instr :=
  if s.fatal then [.dumpWritten] else
  peSteps s ++ netSteps s ++ accessSteps s ++ operSteps s ++ tileSteps s ++ regionSteps s ++ moduleSteps s ++ linkSteps s

/-- A step that takes place now: it changes the machine. -/
def takesPlace (s : State) (i : Instr) : Bool :=
  match exec i s with
  | .next s' => s' != s
  | _ => false

/-- The turn that the fixed order picks; none when the cycle has nothing left. -/
def State.nextTurn (s : State) : Option Turn :=
  match firstIssue s with
  | some x => some (.issue x [])
  | none => ((candidates s).find? (takesPlace s)).map Turn.event

end Sys2Proof.Machine
end

