-- ==== Sys2Proof/Machine/Step.lean ====
section
/-! DEFINITION. One step of the machine: the head of the agenda, or the turn that the fixed order picks (log entry 1). -/

namespace Sys2Proof.Machine

/-- The firing's station word is decoded and executed. -/
def runFiring (s : State) : Host.Outcome State Fault Refusal :=
  match decodeWord s.firingWord with
  | .ok i => exec i s
  | .error _ => .refused .undecodable

/-- An issue at a PE: the selected entry's station word runs; with none to issue, nothing happens (R223). -/
def runIssue (x : Site) (full : List Nat) (s : State) : Host.Outcome State Fault Refusal :=
  if isPe x then
    match s.pick (Site.key x) full with
    | some e => runFiring (s.issue (Site.key x) e)
    | none => .next s
  else .fault .noPe

/-- One turn. After a fatal error only what R422 leaves takes place. -/
def runTurn (t : Turn) (s : State) : Host.Outcome State Fault Refusal :=
  match t with
  | .tick die cycles => .next (s.tick die cycles)
  | .issue x full => runIssue x full s
  | .event i => if s.fatal && !afterFatal i then .next s else exec i s

/-- One step. -/
def step (s : State) : Host.Outcome State Fault Refusal :=
  match s.agenda with
  | t :: ts => runTurn t { s with agenda := ts }
  | [] => match s.nextTurn with
    | some t => runTurn t s
    | none => .next s.tickAll

/-- The state with an instruction of `nbits` bits, of value `w`, placed where the next step fetches (log entry 7). -/
def State.withFetchWord (s : State) (nbits w : Nat) : State := s.place (BitVec.ofNat 128 (w % 2 ^ min nbits 128))

end Sys2Proof.Machine
end

