-- ==== Sys2Proof/Safety.lean ====
section
/-! DEFINITION. What the claims say of states and steps: the canonical form of memory, what a firing leaves behind, and
the value that a group 0, 1 or 2 form delivers. -/

namespace Sys2Proof.Machine

/-- Both memories are in their canonical form. -/
def State.memOk (s : State) : Prop := Memory.wf s.mem = true ∧ Memory.wf s.hostMem = true

/-! ### What a firing leaves -/

/-- From `s` to `t` the results of PE `k` gain `r` at their end, and nothing else changes: no other field of that PE, no
other PE, and no other part of the state (memory, registers, clocks, regions, tiles, operators, the network). -/
def Gains (s t : State) (k : Nat) (r : Result) : Prop :=
  (t.pe k).results = (s.pe k).results ++ [r] ∧
  { t.pe k with results := (s.pe k).results } = s.pe k ∧
  (∀ j, j ≠ k → t.pe j = s.pe j) ∧
  { t with pes := s.pes } = s

/-- The firing of `s` leaves one result in its PE, and changes nothing else (R101, R104, R105): under the firing's own
context, station and tag, ready after the latency of the form and 2 cy more where an operand was converted, with the
cause code `cause` of R58 (0: none), and with `emits` to send. -/
def Leaves (op : Nat) (f : Fields) (conv : Bool) (cause : Nat) (emits : List Emit) (s t : State) : Prop :=
  ∃ r : Result, Gains s t s.firing.site r ∧
    r.ctx = s.firing.ctx ∧ r.station = s.firing.station ∧ r.tag = s.firing.tag ∧
    r.ready = s.now s.fireSite.die + latency op f + (if conv then 2 else 0) ∧
    r.cause = cause ∧ r.wave = s.fireWave ∧ r.emits = emits

/-- The firing delivers a value: its token goes to every valid target in the order A, B, C, with poison where an operand
has it or the result is exceptional (R17, R55, R88). -/
def Delivers (op : Nat) (f : Fields) (v : Value) (s t : State) : Prop :=
  Leaves op f v.converted (causeNum v.cause)
    (emitAll f (emitted op f s v.payload v.fmt (anyPoison (operands f s) || v.cause.isSome))) s t

/-- The firing passes token `u` on with its own payload, format, poison and end bits (R76, R141). -/
def Passes (op : Nat) (f : Fields) (u : Token) (s t : State) : Prop :=
  Leaves op f false 0 (emitAll f { emitted op f s u.payload u.fmt u.poison with ends := u.ends }) s t

/-- The firing makes a poison-report and nothing else (R57). -/
def Reports (op : Nat) (f : Fields) (s t : State) : Prop :=
  Leaves op f false 0 [.error (s.fireRec 0x03) none false] s t

/-- The firing raises a fault-kind error with its L operand saved, and does nothing else (R140). -/
def FaultsWith (op : Nat) (f : Fields) (code : Nat) (s t : State) : Prop :=
  Leaves op f false 0 [.error (s.fireRec code) (some (s.firing.toks.getD 0 .zero)) true] s t

/-- The operator at the flight's destination takes token `t`, which comes from inside its region: nothing of its lane is
before it, it is of a port and kind that the operator takes (R193, R194), and the region runs. -/
def Takes (s : State) (n : Nat) (fl : Flight) (t : Token) : Prop :=
  s.fatal = false ∧ headOfLane s.net n = some fl ∧ fl.msg = .token t ∧ isOper (Token.site t) = true ∧
  operBad (s.oper fl.dst) t = none ∧ fl.input = false ∧ operState s fl.dst t = .open

/-- The state in which flight `n` has been accepted: it has left the network, and where it is the last token of a response, the
place of its request is free (R158). -/
abbrev Without (s : State) (n : Nat) : State := dropFlight s n

/-! ### Group 0 values -/

/-- L prepared in fmt_out (R102). -/
def leftOf (f : Fields) (s : State) : Prepared := prepare f.fmtOut f (opL f s)

/-- R prepared in fmt_out (R102). -/
def rightOf (op : Nat) (f : Fields) (s : State) : Prepared := prepareR op f.fmtOut f s

/-- P prepared in fmt_out (R102). -/
def thirdOf (f : Fields) (s : State) : Prepared := prepare f.fmtOut f (opP f s)

/-- Lane `i` of a prepared operand as a w-bit pattern (R108). -/
def wLane (w : Nat) (p : Prepared) (i : Nat) : BitVec w := BitVec.ofNat w (p.lanes.getD i 0)

/-- fit_s (R108): the exact integer wrapped, or clamped to the signed range where sat is 1. -/
def fitSigned (f : Fields) (x : Int) : BitVec (Fields.width f) :=
  let w := Fields.width f
  BitVec.ofInt w (if f.sat then max (-(2 ^ (w - 1))) (min x (2 ^ (w - 1) - 1)) else x)

/-- fit_u (R108): the exact integer clamped to the unsigned range. -/
def fitUnsigned (f : Fields) (x : Int) : BitVec (Fields.width f) :=
  BitVec.ofInt (Fields.width f) (max 0 (min x (2 ^ Fields.width f - 1)))

/-- The payload of a group 0 result (R108): eight lanes of 8 bits for I8, else one lane sign-extended to 64 bits. -/
def intWord (f : Fields) (x : Nat → BitVec (Fields.width f)) : Word :=
  if f.fmtOut = .i8 then packLanes .i8 ((List.range 8).map (fun i => (x i).toNat)) else (x 0).signExtend 64

/-- A lane function of two w-bit patterns. -/
abbrev IntFn2 := (f : Fields) → BitVec (Fields.width f) → BitVec (Fields.width f) → BitVec (Fields.width f)

/-- A form of two operands that delivers `g` of each pair of lanes. -/
def TwoInts (op : Nat) (i : Fields → Instr) (g : IntFn2) : Prop :=
  ∀ (f : Fields) (s : State), ∃ t, exec (i f) s = .next t ∧ Delivers op f
    ⟨intWord f (fun k => g f (wLane _ (leftOf f s) k) (wLane _ (rightOf op f s) k)), f.fmtOut,
      minCause (leftOf f s).cause (rightOf op f s).cause, (leftOf f s).converted || (rightOf op f s).converted⟩ s t

/-- A form of one operand that delivers `g` of each lane. -/
def OneInt (op : Nat) (i : Fields → Instr) (g : (f : Fields) → BitVec (Fields.width f) → BitVec (Fields.width f)) : Prop :=
  ∀ (f : Fields) (s : State), ∃ t, exec (i f) s = .next t ∧ Delivers op f
    ⟨intWord f (fun k => g f (wLane _ (leftOf f s) k)), f.fmtOut, (leftOf f s).cause, (leftOf f s).converted⟩ s t

/-- A division form (R110): `g` of each pair of lanes, exceptional with class invalid where a divisor lane is 0. -/
def Divides (op : Nat) (i : Fields → Instr) (g : IntFn2) : Prop :=
  ∀ (f : Fields) (s : State), ∃ t, exec (i f) s = .next t ∧ Delivers op f
    ⟨intWord f (fun k => g f (wLane _ (leftOf f s) k) (wLane _ (rightOf op f s) k)), f.fmtOut,
      minCause (minCause (leftOf f s).cause (rightOf op f s).cause)
        (if (List.range (Fmt.lanes f.fmtOut)).any (fun k => wLane (Fields.width f) (rightOf op f s) k == 0)
         then some .invalid else none),
      (leftOf f s).converted || (rightOf op f s).converted⟩ s t

/-! ### Group 1 values -/

/-- The value of a form that delivers one result per lane of fmt_out (R117). -/
def floatValue (f : Fields) (ps : List Prepared) (x : Nat → LaneRes) : Value :=
  let xs := (List.range (Fmt.lanes f.fmtOut)).map x
  ⟨packLanes f.fmtOut (xs.map LaneRes.bits), f.fmtOut, minCause (ps.foldl (fun c p => minCause c p.cause) none) (causeOf xs),
    ps.any Prepared.converted⟩

/-- A form of one operand that delivers `g` of each lane. -/
def OneFloat (op : Nat) (i : Fields → Instr) (g : Fields → Nat → LaneRes) : Prop :=
  ∀ (f : Fields) (s : State), ∃ t, exec (i f) s = .next t ∧ Delivers op f
    (floatValue f [leftOf f s] (fun k => g f ((leftOf f s).lanes.getD k 0))) s t

/-- A form of two operands that delivers `g` of each pair of lanes. -/
def TwoFloats (op : Nat) (i : Fields → Instr) (g : Fields → Nat → Nat → LaneRes) : Prop :=
  ∀ (f : Fields) (s : State), ∃ t, exec (i f) s = .next t ∧ Delivers op f
    (floatValue f [leftOf f s, rightOf op f s]
      (fun k => g f ((leftOf f s).lanes.getD k 0) ((rightOf op f s).lanes.getD k 0))) s t

/-- A form of three operands that delivers `g` of each triple of lanes. -/
def ThreeFloats (op : Nat) (i : Fields → Instr) (g : Fields → Nat → Nat → Nat → LaneRes) : Prop :=
  ∀ (f : Fields) (s : State), ∃ t, exec (i f) s = .next t ∧ Delivers op f
    (floatValue f [leftOf f s, rightOf op f s, thirdOf f s]
      (fun k => g f ((leftOf f s).lanes.getD k 0) ((rightOf op f s).lanes.getD k 0) ((thirdOf f s).lanes.getD k 0))) s t

/-- The real number that a finite value stands for. -/
def FVal.rat : FVal → ℚ
  | .fin neg m e => (if neg then -1 else 1) * m * (2 : ℚ) ^ e
  | _ => 0

/-- A value is finite. -/
def FVal.finite : FVal → Bool
  | .fin _ _ _ => true
  | _ => false

/-! ### Rounding -/

/-- `k` is the integer that the rounding mode picks for `y` (R46). -/
def IsRounding (mode : Round) (y : ℝ) (k : ℤ) : Prop :=
  match mode with
  | .rne => |y - k| ≤ 1 / 2 ∧ (|y - k| = 1 / 2 → Even k)
  | .rtz => |(k : ℝ)| ≤ |y| ∧ |y| < |(k : ℝ)| + 1 ∧ 0 ≤ (k : ℝ) * y
  | .rup => (k : ℝ) - 1 < y ∧ y ≤ k
  | .rdn => (k : ℝ) ≤ y ∧ y < k + 1

/-- The greatest finite value of a format (R42). -/
def Fmt.top (f : Fmt) : ℚ := FVal.rat (decodeF f (Fmt.maxFinite f))

/-- What an overflow delivers, by mode, saturation and sign (the table of R47). -/
def OverflowRow (f : Fmt) (mode : Round) (sat neg : Bool) (r : LaneRes) : Prop :=
  let toInf : Bool := match mode with
    | .rne => true
    | .rtz => false
    | .rup => !neg
    | .rdn => neg
  if sat || !toInf then r = ⟨withSign f neg (Fmt.maxFinite f), none⟩
  else if f = .e4m3 then r = ⟨Fmt.nan f, some .overflow⟩
  else r.cause = some .overflow ∧ decodeF f r.bits = .inf neg

/-- The nonzero exact result `x` is rounded once to the format in the mode (R47): to a multiple of the unit in its last
place, as if the exponent range had no upper bound; past the greatest finite value it overflows. -/
def Rounded (f : Fmt) (mode : Round) (sat : Bool) (x : ℝ) (r : LaneRes) : Prop :=
  let q : ℤ := max (1 - Fmt.bias f - Fmt.frac f) (Int.log 2 |x| - Fmt.frac f)
  ∃ k : ℤ, IsRounding mode (x / (2 : ℝ) ^ q) k ∧
    (|(k : ℝ) * (2 : ℝ) ^ q| ≤ (Fmt.top f : ℝ) →
      r.cause = none ∧ r.bits < 2 ^ Fmt.width f ∧ FVal.finite (decodeF f r.bits) = true ∧
      ((FVal.rat (decodeF f r.bits) : ℚ) : ℝ) = (k : ℝ) * (2 : ℝ) ^ q ∧ (signBit f ≤ r.bits ↔ x < 0)) ∧
    ((Fmt.top f : ℝ) < |(k : ℝ) * (2 : ℝ) ^ q| → OverflowRow f mode sat (decide (x < 0)) r)

end Sys2Proof.Machine
end

