-- ==== Sys2Proof/Certificates/Slice0/Obligations.lean ====
section
/-! DEFINITION. The statements. -/

open Sys2Proof Sys2Proof.Machine

/-! ### Group 0: integer and address forms -/

/-- R109: the two-operand arithmetic and logic forms deliver the table's lane result, wrapped or clamped where it says
fit_s or fit_u, in all three shapes (64-bit, 32-bit and eight lanes of I8), with a token or an immediate on R. -/
def Obligations.IntegerArithmetic : Prop :=
  TwoInts 0x000 .add (fun f a b => fitSigned f (a.toInt + b.toInt)) ∧
  TwoInts 0x001 .sub (fun f a b => fitSigned f (a.toInt - b.toInt)) ∧
  TwoInts 0x002 .mul (fun f a b => fitSigned f (a.toInt * b.toInt)) ∧
  TwoInts 0x003 .mulh (fun f a b => BitVec.ofInt _ ((a.toInt * b.toInt) / 2 ^ Fields.width f)) ∧
  TwoInts 0x004 .mulhu (fun f a b => BitVec.ofNat _ (a.toNat * b.toNat / 2 ^ Fields.width f)) ∧
  TwoInts 0x009 .and (fun _ a b => a &&& b) ∧
  TwoInts 0x00A .or (fun _ a b => a ||| b) ∧
  TwoInts 0x00B .xor (fun _ a b => a ^^^ b) ∧
  TwoInts 0x00C .andn (fun _ a b => a &&& ~~~b) ∧
  TwoInts 0x012 .min (fun _ a b => if a.toInt < b.toInt then a else b) ∧
  TwoInts 0x013 .max (fun _ a b => if a.toInt < b.toInt then b else a) ∧
  TwoInts 0x014 .minu (fun _ a b => if a.toNat < b.toNat then a else b) ∧
  TwoInts 0x015 .maxu (fun _ a b => if a.toNat < b.toNat then b else a) ∧
  TwoInts 0x01C .addsat (fun f a b => fitUnsigned f (a.toNat + b.toNat)) ∧
  TwoInts 0x01D .subsat (fun f a b => fitUnsigned f (a.toNat - b.toNat))

/-- R110: division and remainder with their two borderline cases; a zero divisor in any lane makes the result exceptional
with class invalid, and the other lanes still deliver their own quotients. -/
def Obligations.IntegerDivision : Prop :=
  Divides 0x005 .div (fun f a b => if b = 0 then BitVec.allOnes _ else fitSigned f (a.toInt.tdiv b.toInt)) ∧
  Divides 0x006 .divu (fun _ a b => if b = 0 then BitVec.allOnes _ else a / b) ∧
  Divides 0x007 .rem (fun _ a b => if b = 0 then a else BitVec.ofInt _ (a.toInt - b.toInt * a.toInt.tdiv b.toInt)) ∧
  Divides 0x008 .remu (fun _ a b => if b = 0 then a else a - b * (a / b))

/-- R111: shifts and the rotate take the count as the unsigned reading of the R lane, however large. R112: the one-
operand forms. The counts are taken over the bits of the lane, from its top for clz and from its bottom for ctz; bswap
puts the bytes of the lane in reverse order. R115: the bit-field and address forms, with their aux16 operands b, pos,
len and sh. -/
def Obligations.IntegerBits : Prop :=
  (TwoInts 0x00E .shl (fun f a n => fitSigned f (a.toInt * 2 ^ n.toNat)) ∧
  TwoInts 0x00F .shr (fun _ a n => a >>> n.toNat) ∧
  TwoInts 0x010 .sra (fun _ a n => a.sshiftRight n.toNat) ∧
  TwoInts 0x011 .rotl (fun f a n => a.rotateLeft (n.toNat % Fields.width f))) ∧
  (OneInt 0x00D .not (fun _ a => ~~~a) ∧
  OneInt 0x016 .abs (fun f a => fitSigned f |a.toInt|) ∧
  OneInt 0x017 .neg (fun f a => fitSigned f (-a.toInt)) ∧
  OneInt 0x018 .clz (fun f a => BitVec.ofNat _ ((List.range (Fields.width f)).takeWhile (fun i => !a.getMsbD i)).length) ∧
  OneInt 0x019 .ctz (fun f a => BitVec.ofNat _ ((List.range (Fields.width f)).takeWhile (fun i => !a.getLsbD i)).length) ∧
  OneInt 0x01A .popc (fun f a => BitVec.ofNat _ ((List.range (Fields.width f)).filter (fun i => a.getLsbD i)).length) ∧
  OneInt 0x01B .bswap (fun f a => BitVec.ofNat _ (leNat ((List.range (Fields.width f / 8)).map (fun k =>
    a.extractLsb' (Fields.width f - 8 - 8 * k) 8))))) ∧
  (OneInt 0x027 .sext (fun f a => (a.setWidth (f.aux16.toNat % 64 + 1)).signExtend _) ∧
  OneInt 0x028 .zext (fun f a => (a.setWidth (f.aux16.toNat % 64 + 1)).setWidth _) ∧
  OneInt 0x029 .bext (fun f a => ((a >>> (f.aux16.toNat % 64)).setWidth (f.aux16.toNat / 64 + 1)).setWidth _) ∧
  TwoInts 0x02A .bins (fun f a b =>
    let m : BitVec (Fields.width f) := BitVec.ofNat _ (2 ^ (f.aux16.toNat / 64 + 1) - 1)
    let pos := f.aux16.toNat % 64
    (a &&& ~~~(m <<< pos)) ||| ((b &&& m) <<< pos)) ∧
  TwoInts 0x01E .lea (fun f a b => a + b <<< (f.aux16.toNat % 8)))

/-- R113: mad and dot8 form their exact value from products and one addend, and fit it once. dot8 reads L and R as eight
signed bytes, and its word has fmt_out 6. -/
def Obligations.IntegerMultiplyAdd : Prop :=
  (∀ (f : Fields) (s : State), ∃ t, exec (.mad f) s = .next t ∧ Delivers 0x01F f
    ⟨intWord f (fun k => fitSigned f ((wLane (Fields.width f) (leftOf f s) k).toInt * (wLane (Fields.width f) (rightOf 0x01F f s) k).toInt +
        (wLane (Fields.width f) (thirdOf f s) k).toInt)), f.fmtOut,
      minCause (minCause (leftOf f s).cause (rightOf 0x01F f s).cause) (thirdOf f s).cause,
      (leftOf f s).converted || (rightOf 0x01F f s).converted || (thirdOf f s).converted⟩ s t) ∧
  (∀ (f : Fields) (s : State), ∃ t, exec (.dot8 f) s = .next t ∧
    let l := prepare .i8 f (opL f s)
    let r := prepareR 0x020 .i8 f s
    let c := thirdOf f s
    Delivers 0x020 f
      ⟨intWord f (fun k => if k = 0 then fitSigned f ((wLane (Fields.width f) c 0).toInt +
          ((List.range 8).map (fun i => (wLane 8 l i).toInt * (wLane 8 r i).toInt)).sum) else 0), f.fmtOut,
        minCause (minCause l.cause r.cause) c.cause, l.converted || r.converted || c.converted⟩ s t) ∧
  (∀ f : Fields, wordReject 0x020 f = none → f.fmtOut = .i64)

/-- R114: the comparison forms deliver 1 in a lane where the relation holds and 0 where it does not. -/
def Obligations.IntegerComparison : Prop :=
  TwoInts 0x021 .cmpEq (fun _ a b => if a = b then 1 else 0) ∧
  TwoInts 0x022 .cmpNe (fun _ a b => if a = b then 0 else 1) ∧
  TwoInts 0x023 .cmpLt (fun _ a b => if a.slt b then 1 else 0) ∧
  TwoInts 0x024 .cmpLe (fun _ a b => if a.sle b then 1 else 0) ∧
  TwoInts 0x025 .cmpLtu (fun _ a b => if a.ult b then 1 else 0) ∧
  TwoInts 0x026 .cmpLeu (fun _ a b => if a.ule b then 1 else 0)

/-! ### Group 1: floating point -/

/-- R46, R47: a nonzero exact value is rounded once to the format in the mode, and overflows by the table. -/
def Obligations.RoundingIsExact : Prop :=
  ∀ (f : Fmt) (mode : Round) (sat neg : Bool) (m : Nat) (e : Int), Fmt.isFloat f = true → 0 < m →
    Rounded f mode sat (((FVal.rat (.fin neg m e) : ℚ) : ℝ)) (roundF f mode sat neg m e)

/-- The sum of finite addends, the product of two finite values and their order are those of the numbers they stand for:
nothing is rounded before R47 is applied. -/
def Obligations.SumsAndProductsAreExact : Prop :=
  (∀ (mode : Round) (xs : List FVal), xs.all FVal.finite = true →
    FVal.finite (sumF mode false xs).1 = true ∧ (sumF mode false xs).2 = false ∧
    FVal.rat (sumF mode false xs).1 = (xs.map FVal.rat).sum) ∧
  (∀ (a b : FVal), FVal.finite a = true → FVal.finite b = true →
    FVal.finite (FVal.mul a b).1 = true ∧ (FVal.mul a b).2 = false ∧
    FVal.rat (FVal.mul a b).1 = FVal.rat a * FVal.rat b) ∧
  (∀ (a b : FVal), FVal.finite a = true → FVal.finite b = true → cmpF a b = compare (FVal.rat a) (FVal.rat b))

/-- R118: the arithmetic forms deliver, in every lane, the exact result of the table rounded once; 0 × ∞ and the sum of
infinities of both signs are invalid. -/
def Obligations.FloatArithmetic : Prop :=
  TwoFloats 0x080 .fadd (fun f a b => sumTo f.fmtOut f.round f.sat false [decodeF f.fmtOut a, decodeF f.fmtOut b]) ∧
  TwoFloats 0x081 .fsub (fun f a b => sumTo f.fmtOut f.round f.sat false [decodeF f.fmtOut a, FVal.neg (decodeF f.fmtOut b)]) ∧
  TwoFloats 0x082 .fmul (fun f a b =>
    let p := FVal.mul (decodeF f.fmtOut a) (decodeF f.fmtOut b)
    if p.2 then invalidF f.fmtOut else deliverF f.fmtOut f.round f.sat p.1) ∧
  ThreeFloats 0x083 .ffma (fun f a b c =>
    let p := FVal.mul (decodeF f.fmtOut a) (decodeF f.fmtOut b)
    sumTo f.fmtOut f.round f.sat p.2 [p.1, decodeF f.fmtOut c]) ∧
  ThreeFloats 0x084 .ffms (fun f a b c =>
    let p := FVal.mul (decodeF f.fmtOut a) (decodeF f.fmtOut b)
    sumTo f.fmtOut f.round f.sat p.2 [p.1, FVal.neg (decodeF f.fmtOut c)]) ∧
  ThreeFloats 0x085 .ffnma (fun f a b c =>
    let p := FVal.mul (decodeF f.fmtOut a) (decodeF f.fmtOut b)
    sumTo f.fmtOut f.round f.sat p.2 [FVal.neg p.1, FVal.neg (decodeF f.fmtOut c)])

/-- R119: the minimum and maximum forms deliver one of their operands unchanged, with −0 below +0, and set no poison.
R120: fabs clears each lane's sign bit, fneg inverts it, fsgn takes it from R; every other bit is copied. R121: the
comparison forms deliver 1.0 of fmt_out where the relation holds and +0.0 where it does not; every relation but
fcmp.un fails on NaN. The six patterns of 1.0 are those of the rule. -/
def Obligations.FloatOrderAndSigns : Prop :=
  (let below := fun (g : Fmt) (a b : Nat) =>
    cmpF (decodeF g a) (decodeF g b) == .lt || (cmpF (decodeF g a) (decodeF g b) == .eq && a / signBit g % 2 == 1)
  TwoFloats 0x086 .fmin (fun f a b => ⟨if isNaN f.fmtOut a || isNaN f.fmtOut b then Fmt.nan f.fmtOut
    else if below f.fmtOut a b then a else b, none⟩) ∧
  TwoFloats 0x087 .fmax (fun f a b => ⟨if isNaN f.fmtOut a || isNaN f.fmtOut b then Fmt.nan f.fmtOut
    else if below f.fmtOut a b then b else a, none⟩) ∧
  TwoFloats 0x088 .fminn (fun f a b => ⟨if isNaN f.fmtOut a then (if isNaN f.fmtOut b then Fmt.nan f.fmtOut else b)
    else if isNaN f.fmtOut b then a else if below f.fmtOut a b then a else b, none⟩) ∧
  TwoFloats 0x089 .fmaxn (fun f a b => ⟨if isNaN f.fmtOut a then (if isNaN f.fmtOut b then Fmt.nan f.fmtOut else b)
    else if isNaN f.fmtOut b then a else if below f.fmtOut a b then b else a, none⟩)) ∧
  (OneFloat 0x08A .fabs (fun f a => ⟨a % 2 ^ (Fmt.width f.fmtOut - 1), none⟩) ∧
  OneFloat 0x08B .fneg (fun f a => ⟨a ^^^ 2 ^ (Fmt.width f.fmtOut - 1), none⟩) ∧
  TwoFloats 0x08C .fsgn (fun f a b =>
    ⟨a % 2 ^ (Fmt.width f.fmtOut - 1) + b / 2 ^ (Fmt.width f.fmtOut - 1) * 2 ^ (Fmt.width f.fmtOut - 1), none⟩)) ∧
  (TwoFloats 0x08D .fcmpEq (fun f a b => ⟨if isNaN f.fmtOut a = false ∧ isNaN f.fmtOut b = false ∧
    cmpF (decodeF f.fmtOut a) (decodeF f.fmtOut b) = .eq then oneOf f.fmtOut else 0, none⟩) ∧
  TwoFloats 0x08E .fcmpLt (fun f a b => ⟨if isNaN f.fmtOut a = false ∧ isNaN f.fmtOut b = false ∧
    cmpF (decodeF f.fmtOut a) (decodeF f.fmtOut b) = .lt then oneOf f.fmtOut else 0, none⟩) ∧
  TwoFloats 0x08F .fcmpLe (fun f a b => ⟨if isNaN f.fmtOut a = false ∧ isNaN f.fmtOut b = false ∧
    cmpF (decodeF f.fmtOut a) (decodeF f.fmtOut b) ≠ .gt then oneOf f.fmtOut else 0, none⟩) ∧
  TwoFloats 0x090 .fcmpUn (fun f a b => ⟨if isNaN f.fmtOut a = true ∨ isNaN f.fmtOut b = true then oneOf f.fmtOut else 0, none⟩) ∧
  (oneOf .f64 = 0x3FF0000000000000 ∧ oneOf .f32 = 0x3F800000 ∧ oneOf .bf16 = 0x3F80 ∧ oneOf .f16 = 0x3C00 ∧
    oneOf .e4m3 = 0x38 ∧ oneOf .e5m2 = 0x3C))

/-- R122: the quotient and root forms: what every lane delivers, and the special operands of the table. -/
def Obligations.FloatQuotientsAndRoots : Prop :=
  OneFloat 0x091 .frcp (fun f a => divF f.fmtOut f.round f.sat (.fin false 1 0) (decodeF f.fmtOut a)) ∧
  OneFloat 0x092 .frsq (fun f a => rsqrtF f.fmtOut f.round f.sat (decodeF f.fmtOut a)) ∧
  OneFloat 0x093 .fsqrt (fun f a => sqrtF f.fmtOut f.round f.sat (decodeF f.fmtOut a)) ∧
  TwoFloats 0x094 .fdiv (fun f a b => divF f.fmtOut f.round f.sat (decodeF f.fmtOut a) (decodeF f.fmtOut b)) ∧
  (∀ (g : Fmt) (mode : Round) (sat x y : Bool) (m n : Nat) (e k : Int), 0 < m → 0 < n →
    divF g mode sat (.fin x 0 e) (.fin y 0 k) = invalidF g ∧
    divF g mode sat (.inf x) (.inf y) = invalidF g ∧
    divF g mode sat (.fin x m e) (.fin y 0 k) = infFromFinite g sat (x != y) ∧
    divF g mode sat (.inf x) (.fin y n k) = infF g (x != y) ∧
    divF g mode sat (.fin x m e) (.inf y) = ⟨withSign g (x != y) 0, none⟩ ∧
    rsqrtF g mode sat (.fin x 0 e) = infFromFinite g sat x ∧
    rsqrtF g mode sat (.fin true m e) = invalidF g ∧
    rsqrtF g mode sat (.inf false) = ⟨0, none⟩ ∧
    sqrtF g mode sat (.fin x 0 e) = ⟨withSign g x 0, none⟩ ∧
    sqrtF g mode sat (.inf false) = infF g false ∧
    sqrtF g mode sat (.fin true m e) = invalidF g)

/-- R122: the quotient of nonzero finite operands is the exact quotient rounded once, in every format and mode. -/
def Obligations.QuotientsAreRoundedOnce : Prop :=
  ∀ (g : Fmt) (mode : Round) (sat : Bool) (a b : FVal), Fmt.isFloat g = true → FVal.finite a = true → FVal.finite b = true →
    FVal.rat a ≠ 0 → FVal.rat b ≠ 0 → Rounded g mode sat (((FVal.rat a / FVal.rat b : ℚ) : ℝ)) (divF g mode sat a b)

/-- R122: the root of a positive pattern of a format is the exact root rounded once, in every mode. -/
def Obligations.RootsAreRoundedOnce : Prop :=
  ∀ (g : Fmt) (mode : Round) (sat : Bool) (a : Nat), Fmt.isFloat g = true → a < 2 ^ Fmt.width g →
    FVal.finite (decodeF g a) = true → 0 < FVal.rat (decodeF g a) →
    Rounded g mode sat (Real.sqrt ((FVal.rat (decodeF g a) : ℚ) : ℝ)) (sqrtF g mode sat (decodeF g a))

/-- R123 to R126: what fexp2, flog2, fscale, the four rounding forms and fclass deliver in every lane; the special
operands of R123, with the exact powers of two; the integral values of R125; and the class codes of R126. R125, R124,
R126 in numbers: a rounding form delivers the integer that its mode picks, with the sign of the operand and no poison;
scaling by 2^n is the exact product rounded once; the nine class codes. -/
def Obligations.FloatSpecialForms : Prop :=
  (OneFloat 0x095 .fexp2 (fun f a => exp2F f.fmtOut f.round f.sat a (decodeF f.fmtOut a)) ∧
  OneFloat 0x096 .flog2 (fun f a => log2F f.fmtOut f.round f.sat a (decodeF f.fmtOut a)) ∧
  (∀ (f : Fields) (s : State), ∃ t, exec (.fscale f) s = .next t ∧
    let r := prepareR 0x097 .i64 f s
    Delivers 0x097 f (floatValue f [leftOf f s, r]
      (fun k => scaleLane f (wLane 64 r 0).toInt ((leftOf f s).lanes.getD k 0))) s t) ∧
  OneFloat 0x098 .fround (fun f a => integralLane f.fmtOut f.round a) ∧
  OneFloat 0x099 .ffloor (fun f a => integralLane f.fmtOut .rdn a) ∧
  OneFloat 0x09A .fceil (fun f a => integralLane f.fmtOut .rup a) ∧
  OneFloat 0x09B .ftrunc (fun f a => integralLane f.fmtOut .rtz a) ∧
  (∀ (f : Fields) (s : State), ∃ t, exec (.fclass f) s = .next t ∧ Delivers 0x09C f
    ⟨packLanes .i8 ((List.range (Fmt.lanes f.fmtOut)).map (fun k => classLane f.fmtOut ((leftOf f s).lanes.getD k 0))), .i8,
      (leftOf f s).cause, (leftOf f s).converted⟩ s t) ∧
  (∀ (g : Fmt) (mode : Round) (sat neg : Bool) (bits n : Nat) (e : Int), 0 < n → n < 4096 →
    exp2F g mode sat bits (.inf true) = ⟨0, none⟩ ∧ exp2F g mode sat bits (.inf false) = infF g false ∧
    exp2F g mode sat bits (.fin neg 0 e) = roundF g mode sat false 1 0 ∧
    (∀ (m : Nat) (k : Int), -400 ≤ k → (n : ℚ) = m * (2 : ℚ) ^ k →
      exp2F g mode sat bits (.fin neg m k) = roundF g mode sat false 1 (if neg then -n else n)) ∧
    log2F g mode sat bits (.inf true) = invalidF g ∧ log2F g mode sat bits (.inf false) = infF g false ∧
    log2F g mode sat bits (.fin neg 0 e) = infFromFinite g sat true ∧
    log2F g mode sat bits (.fin true n e) = invalidF g ∧
    (∀ (b : Nat), log2F g mode sat bits (.fin false (2 ^ b) e) = roundF g mode sat (decide (e + b < 0)) (e + b).natAbs 0))) ∧
  ((∀ (g : Fmt) (mode : Round) (a : Nat), Fmt.isFloat g = true → a < 2 ^ Fmt.width g → FVal.finite (decodeF g a) = true →
    (integralLane g mode a).cause = none ∧
    (signBit g ≤ (integralLane g mode a).bits ↔ signBit g ≤ a) ∧
    ∃ k : ℤ, IsRounding mode ((FVal.rat (decodeF g a) : ℚ) : ℝ) k ∧
      FVal.rat (decodeF g (integralLane g mode a).bits) = k) ∧
  (∀ (f : Fields) (a : Nat) (n : Int), Fmt.isFloat f.fmtOut = true → a < 2 ^ Fmt.width f.fmtOut →
    FVal.finite (decodeF f.fmtOut a) = true → FVal.rat (decodeF f.fmtOut a) ≠ 0 →
    Rounded f.fmtOut f.round f.sat (((FVal.rat (decodeF f.fmtOut a) * (2 : ℚ) ^ n : ℚ) : ℝ)) (scaleLane f n a)) ∧
  (∀ (g : Fmt) (a : Nat), Fmt.isFloat g = true → a < 2 ^ Fmt.width g →
    let neg := decide (signBit g ≤ a)
    let mag := a % signBit g
    (mag = 0 → classLane g a = if neg then 3 else 4) ∧
    (0 < mag → mag < 2 ^ Fmt.frac g → classLane g a = if neg then 2 else 5) ∧
    (2 ^ Fmt.frac g ≤ mag → mag ≤ Fmt.maxFinite g → classLane g a = if neg then 1 else 6) ∧
    (g ≠ .e4m3 → mag = Fmt.maxFinite g + 1 → classLane g a = if neg then 0 else 7) ∧
    (isNaN g a = true → classLane g a = 8)))

/-! ### Group 2: conversion and lanes -/

/-- R49 to R52: conversion of one value, by the kinds of the table: identity; float to float and integer to float rounded
once; the rows of R50; the table of R51 with its clamping and its poison; and the two integer kinds of R52. -/
def Obligations.ConversionsFollowTheTable : Prop :=
  (∀ (g : Fmt) (mode : Round) (sat : Bool) (x : Nat), convert g g mode sat x = ⟨x, none⟩) ∧
  (∀ (g h : Fmt) (mode : Round) (sat : Bool) (x : Nat), Fmt.isFloat g = true → Fmt.isFloat h = true → g ≠ h →
    x < 2 ^ Fmt.width g →
    (FVal.finite (decodeF g x) = true → FVal.rat (decodeF g x) ≠ 0 →
      Rounded h mode sat ((FVal.rat (decodeF g x) : ℚ) : ℝ) (convert g h mode sat x)) ∧
    (∀ neg e, decodeF g x = .fin neg 0 e → convert g h mode sat x = ⟨withSign h neg 0, none⟩) ∧
    (isNaN g x = true → convert g h mode sat x = ⟨Fmt.nan h, none⟩) ∧
    (∀ neg, decodeF g x = .inf neg →
      convert g h mode sat x = if h = .e4m3 then ⟨Fmt.nan h, some .invalid⟩ else ⟨withSign h neg (Fmt.maxFinite h + 1), none⟩)) ∧
  (∀ (g h : Fmt) (mode : Round) (sat : Bool) (x : Nat), Fmt.isFloat g = false → Fmt.isFloat h = true →
    signed (Fmt.width g) x ≠ 0 → Rounded h mode sat ((signed (Fmt.width g) x : ℤ) : ℝ) (convert g h mode sat x)) ∧
  (∀ (g h : Fmt) (mode : Round) (sat : Bool) (x : Nat), Fmt.isFloat g = true → Fmt.isFloat h = false →
    (isNaN g x = true → convert g h mode sat x = ⟨0, some .conversion⟩) ∧
    (∀ neg, decodeF g x = .inf neg → (convert g h mode sat x).cause = some .conversion ∧
      signed (Fmt.width h) (convert g h mode sat x).bits = if neg then loS (Fmt.width h) else hiS (Fmt.width h)) ∧
    (FVal.finite (decodeF g x) = true → ∃ k : ℤ, IsRounding mode ((FVal.rat (decodeF g x) : ℚ) : ℝ) k ∧
      signed (Fmt.width h) (convert g h mode sat x).bits = max (loS (Fmt.width h)) (min k (hiS (Fmt.width h))) ∧
      (convert g h mode sat x).cause =
        if sat = true ∨ (loS (Fmt.width h) ≤ k ∧ k ≤ hiS (Fmt.width h)) then none else some .conversion)) ∧
  (∀ (mode : Round) (sat : Bool) (x : Nat),
    signed 64 (convert .i8 .i64 mode sat x).bits = signed 8 x ∧ (convert .i8 .i64 mode sat x).cause = none ∧
    (convert .i64 .i8 mode sat x).cause = none ∧
    (convert .i64 .i8 mode false x).bits = x % 2 ^ 8 ∧
    signed 8 (convert .i64 .i8 mode true x).bits = max (-128) (min (signed 64 x) 127))

/-- R127, R128, R129: the conversion forms, retag, pack and unpack: which source lane each result lane comes from, 0 where
the source has none, and the conversion that each lane takes. -/
def Obligations.ConversionForms : Prop :=
  let from' := fun (u : Token) (c : Fmt → Nat → LaneRes) (i : Nat) =>
    if i < Fmt.lanes u.fmt then c u.fmt (lane u.fmt u.payload i) else (⟨0, none⟩ : LaneRes)
  let cv := fun (f : Fields) (g : Fmt) (x : Nat) => convert g f.fmtOut f.round f.sat x
  (∀ (f : Fields) (s : State), ∃ t, exec (.cvt f) s = .next t ∧
    Delivers 0x100 f (floatValue f [] (from' (opL f s) (cv f))) s t) ∧
  (∀ (f : Fields) (s : State), ∃ t, exec (.cvtI f) s = .next t ∧
    Delivers 0x101 f (floatValue f [] (from' (opL f s) (fun g x =>
      if Fmt.isFloat g then floatToInt (Fmt.width f.fmtOut) 0 (2 ^ Fmt.width f.fmtOut - 1) f.round f.sat (decodeF g x)
      else ⟨if f.sat then (max 0 (min (signed (Fmt.width g) x) (2 ^ Fmt.width f.fmtOut - 1))).toNat
        else x % 2 ^ Fmt.width f.fmtOut, none⟩))) s t) ∧
  (∀ (f : Fields) (s : State), ∃ t, exec (.cvtF f) s = .next t ∧
    Delivers 0x102 f (floatValue f [] (from' (opL f s) (fun g x =>
      if Fmt.isFloat g then cv f g x else roundF f.fmtOut f.round f.sat false x 0))) s t) ∧
  (∀ (f : Fields) (s : State), ∃ t, exec (.retag f) s = .next t ∧
    Delivers 0x103 f ⟨(opL f s).payload, f.fmtOut, none, false⟩ s t) ∧
  (∀ (f : Fields) (s : State), ∃ t, exec (.pack f) s = .next t ∧
    let h := Fmt.lanes f.fmtOut / 2
    let v := floatValue f [] (fun i =>
      if i < h then from' (opL f s) (cv f) i else from' (opR 0x104 f s) (cv f) (i - h))
    Delivers 0x104 f { v with cause := minCause (immCause 0x104 f) v.cause } s t) ∧
  (∀ (f : Fields) (s : State), ∃ t, exec (.unpackLo f) s = .next t ∧
    Delivers 0x105 f (floatValue f [] (from' (opL f s) (cv f))) s t) ∧
  (∀ (f : Fields) (s : State), ∃ t, exec (.unpackHi f) s = .next t ∧
    Delivers 0x106 f (floatValue f [] (fun i => from' (opL f s) (cv f) (Fmt.lanes f.fmtOut + i))) s t)

/-- R130, R131: shuf picks lanes of L by the selector bytes of R; bcast, lext and lins act on one lane. -/
def Obligations.LaneForms : Prop :=
  let got := fun (f : Fields) (s : State) (x : Nat → Nat) => (⟨packLanes f.fmtOut ((List.range (Fmt.lanes f.fmtOut)).map x),
    f.fmtOut, (leftOf f s).cause, (leftOf f s).converted⟩ : Value)
  let l := fun (f : Fields) (s : State) (i : Nat) => (leftOf f s).lanes.getD i 0
  (∀ (f : Fields) (s : State), ∃ t, exec (.shuf f) s = .next t ∧
    let sel := fun i => field (opR 0x107 f s).payload (8 * i + 7) (8 * i)
    Delivers 0x107 f (got f s (fun i =>
      if 128 ≤ sel i ∨ Fmt.lanes f.fmtOut ≤ sel i % 128 then 0 else l f s (sel i % 8))) s t) ∧
  (∀ (f : Fields) (s : State), ∃ t, exec (.bcast f) s = .next t ∧
    Delivers 0x108 f (got f s (fun _ => l f s (f.aux16.toNat % 8))) s t) ∧
  (∀ (f : Fields) (s : State), ∃ t, exec (.lext f) s = .next t ∧
    Delivers 0x109 f (got f s (fun i => if i = 0 then l f s (f.aux16.toNat % 8) else 0)) s t) ∧
  (∀ (f : Fields) (s : State), ∃ t, exec (.lins f) s = .next t ∧
    Delivers 0x10A f ⟨packLanes f.fmtOut ((List.range (Fmt.lanes f.fmtOut)).map (fun i =>
        if i = f.aux16.toNat % 8 then (rightOf 0x10A f s).lanes.getD 0 0 else l f s i)), f.fmtOut,
      minCause (leftOf f s).cause (rightOf 0x10A f s).cause, (leftOf f s).converted || (rightOf 0x10A f s).converted⟩ s t)

/-- R132, R133: the reductions and fdot act on the lanes that the mask enables, and deliver in lane 0: the exact sum rounded
or fitted once, the largest, the smallest, the exact sum of products rounded once. -/
def Obligations.ReductionForms : Prop :=
  let on := fun (f : Fields) (xs : List Nat) =>
    ((List.range (Fmt.lanes f.fmtOut)).filter (fun i => bit f.aux16 i)).map (fun i => xs.getD i 0)
  (∀ (f : Fields) (s : State), ∃ t, exec (.hsum f) s = .next t ∧
    let xs := on f (leftOf f s).lanes
    let r : LaneRes := if Fmt.isFloat f.fmtOut then sumTo f.fmtOut f.round f.sat false (xs.map (decodeF f.fmtOut))
      else ⟨fitS (Fmt.width f.fmtOut) f.sat ((xs.map (signed (Fmt.width f.fmtOut))).sum), none⟩
    Delivers 0x10B f ⟨packLanes f.fmtOut [r.bits], f.fmtOut, minCause (leftOf f s).cause r.cause, (leftOf f s).converted⟩ s t) ∧
  (∀ (f : Fields) (s : State), ∃ t, exec (.hmax f) s = .next t ∧
    Delivers 0x10C f ⟨packLanes f.fmtOut [foldLanes (pickLane f.fmtOut true) (on f (leftOf f s).lanes)], f.fmtOut,
      (leftOf f s).cause, (leftOf f s).converted⟩ s t) ∧
  (∀ (f : Fields) (s : State), ∃ t, exec (.hmin f) s = .next t ∧
    Delivers 0x10D f ⟨packLanes f.fmtOut [foldLanes (pickLane f.fmtOut false) (on f (leftOf f s).lanes)], f.fmtOut,
      (leftOf f s).cause, (leftOf f s).converted⟩ s t) ∧
  (∀ (f : Fields) (s : State), ∃ t, exec (.fdot f) s = .next t ∧
    let p := products ((on f (leftOf f s).lanes).map (decodeF f.fmtOut)) ((on f (rightOf 0x10E f s).lanes).map (decodeF f.fmtOut))
    let r := sumTo f.fmtOut f.round f.sat p.2 p.1
    Delivers 0x10E f ⟨packLanes f.fmtOut [r.bits], f.fmtOut,
      minCause (minCause (leftOf f s).cause (rightOf 0x10E f s).cause) r.cause,
      (leftOf f s).converted || (rightOf 0x10E f s).converted⟩ s t) ∧
  (∀ (g : Nat → Nat → Nat) (x : Nat) (xs : List Nat), xs ≠ [] → foldLanes g (x :: xs) = g x (foldLanes g xs)) ∧
  (∀ (g : Fmt) (a b : Nat), Fmt.isFloat g = false →
    pickLane g true a b = (if signed (Fmt.width g) a ≤ signed (Fmt.width g) b then b else a) ∧
    pickLane g false a b = (if signed (Fmt.width g) a ≤ signed (Fmt.width g) b then a else b)) ∧
  (∀ (g : Fmt) (a b : Nat) (m : Bool), Fmt.isFloat g = true → pickLane g m a b = (minMaxLane g false m a b).bits)

/-- R92: the conversion station converts the token of a diversion request with the carried format, rounding and saturation,
and returns it in the response class to the carried address, with its own context, tag, seq, end bits and port. -/
def Obligations.ConversionStation : Prop :=
  ∀ (f : Fields) (s : State) (u v : Token), s.firing.toks = [u, v] →
    let g := Fmt.ofCode (BitVec.ofNat 3 (field v.payload 34 32))
    let rs := convertLanes u.fmt g (Round.ofCode (BitVec.ofNat 2 (field v.payload 36 35))) (bit v.payload 37) u.payload
    let back := targetOf (field v.payload 31 0)
    ∃ t, exec (.conversionStationFire f) s = .next t ∧
      Leaves 0x100 f false (causeNum (causeOf rs))
        [.token { u with payload := packLanes g (rs.map LaneRes.bits), fmt := g, poison := u.poison || (causeOf rs).isSome,
                         die := back.die, row := back.row, col := back.col, station := back.station } .response] s t

/-! ### Group 3: dataflow control and tags -/

/-- R141: steer sends L to target A when P is nonzero and to target B otherwise; mux passes L or R on; merge and fan
pass the arriving token on; a poisoned P of steer or mux makes a poison-report and nothing else. R141, R60: sink emits
nothing; the first poisoned token of a (ctx, tag) that it receives makes one poison-report, which names the lowest log
entry of the region with that ctx and tag, or the sink; a later one makes none. -/
def Obligations.SteeringAndSinks : Prop :=
  ((∀ (f : Fields) (s : State), ∃ t, exec (.steer f) s = .next t ∧
    if (tokR f s).poison then Reports 0x180 f s t
    else Leaves 0x180 f false 0 (emitTo (if (tokR f s).payload = 0 then f.b else f.a)
      { emitted 0x180 f s (opL f s).payload (opL f s).fmt (opL f s).poison with ends := (opL f s).ends }) s t) ∧
  (∀ (f : Fields) (s : State), ∃ t, exec (.mux f) s = .next t ∧
    if (opP f s).poison then Reports 0x182 f s t
    else Passes 0x182 f (if (opP f s).payload = 0 then opR 0x182 f s else opL f s) s t) ∧
  (∀ (f : Fields) (s : State), ∃ t, exec (.merge f) s = .next t ∧ Passes 0x181 f (opL f s) s t) ∧
  (∀ (f : Fields) (s : State), ∃ t, exec (.fan f) s = .next t ∧ Passes 0x183 f (opL f s) s t)) ∧
  (∀ (f : Fields) (s : State), ∃ t, exec (.sink f) s = .next t ∧
    let k := s.fireRegion.getD 0
    let key := (member s.firing.site s.firing.station, s.firing.ctx, s.firing.tag)
    if (opL f s).poison = false ∨ key ∈ (s.region k).reported then Leaves 0x184 f false 0 [] s t
    else Leaves 0x184 f false 0 [.error (sinkRecord (s.region k) (s.fireRec 0x03)) none false]
      (s.onRegion k (fun r => { r with reported := r.reported ++ [key] })) t)

/-- R142, R143: const emits its immediate formed in fmt_out; a token on R of an invar replaces the held value, lets
the L tokens that waited become matched sets, and emits nothing; a token on L emits the held value. The immediate of
an invar is the model's reading (log entry 36). -/
def Obligations.ConstantsAndHeldValues : Prop :=
  (∀ (f : Fields) (s : State), ∃ t, exec (.const f) s = .next t ∧
    Delivers 0x185 f ⟨packLanes f.fmtOut (List.replicate (Fmt.lanes f.fmtOut) (immLane f.fmtOut f.imm16).bits), f.fmtOut,
      (if f.imm then (immLane f.fmtOut f.imm16).cause else none), false⟩ s t) ∧
  (∀ (f : Fields) (s : State), (opL f s).port = .r → ∃ t, exec (.invar f) s = .next t ∧
    let c := s.firing.ctx
    let st := s.firing.station
    Leaves 0x186 f false 0 [] (s.onPe s.firing.site (fun p => { p with
      invar := Map.put p.invar (stKey c st) ⟨(opL f s).payload, (opL f s).fmt, (opL f s).poison⟩
      entries := p.entries.filter (fun e => !(e.ctx == c && e.station == st))
      marked := p.marked ++ (p.entries.filter (fun e => e.ctx == c && e.station == st)).map
        (fun e => ⟨c, st, e.tag, s.now s.fireSite.die, [e.tok], 1, if e.shared then 1 else 0⟩) })) t) ∧
  (∀ (f : Fields) (s : State), (opL f s).port ≠ .r → f.imm = false → ∃ t, exec (.invar f) s = .next t ∧
    let h := Map.get (s.pe s.firing.site).invar ⟨0, .i64, false⟩ (stKey s.firing.ctx s.firing.station)
    Leaves 0x186 f false 0 (emitAll f (emitted 0x186 f s h.payload h.fmt ((opL f s).poison || h.poison))) s t) ∧
  (∀ (f : Fields) (s : State), (opL f s).port ≠ .r → f.imm = true → ∃ t, exec (.invar f) s = .next t ∧
    Leaves 0x186 f false 0 (emitAll f (emitted 0x186 f s (immToken 0x186 f).payload (immToken 0x186 f).fmt (opL f s).poison)) s t)

/-- R144: the tag forms emit L under the tag of their table; a poisoned tag value or predicate makes a poison-report.
R145, R146: wave emits L under the next tag, and the progress monitor notes it as the region's last wave firing;
squash emits a squash control token whose argument is the firing's tag. The end bits and the poison of a squash token
are the model's reading (log entry 36). -/
def Obligations.TagWaveAndSquash : Prop :=
  (let under := fun (op : Nat) (f : Fields) (s : State) (tag : Nat) =>
    emitAll f { emitted op f s (opL f s).payload (opL f s).fmt (anyPoison (operands f s)) with tag := BitVec.ofNat 16 tag }
  (∀ (f : Fields) (s : State), ∃ t, exec (.tagSet f) s = .next t ∧
    if (opR 0x188 f s).poison then Reports 0x188 f s t
    else Leaves 0x188 f false 0 (under 0x188 f s ((opR 0x188 f s).payload.toNat % 2 ^ 16)) s t) ∧
  (∀ (f : Fields) (s : State), ∃ t, exec (.tagInc f) s = .next t ∧
    Leaves 0x189 f false 0 (under 0x189 f s (s.firing.tag + f.aux16.toNat)) s t) ∧
  (∀ (f : Fields) (s : State), ∃ t, exec (.tagSplit f) s = .next t ∧
    Leaves 0x18A f false 0 (under 0x18A f s (s.firing.tag * 2 ^ (f.aux16.toNat % 16) + f.aux16.toNat / 16)) s t) ∧
  (∀ (f : Fields) (s : State), ∃ t, exec (.tagJoin f) s = .next t ∧
    if (opR 0x18B f s).poison then Reports 0x18B f s t
    else if (opR 0x18B f s).payload = 0 then Leaves 0x18B f false 0 [] s t
    else Leaves 0x18B f false 0 (under 0x18B f s (s.firing.tag / 2 ^ (f.aux16.toNat % 16))) s t)) ∧
  ((∀ (f : Fields) (s : State) (k : Nat), s.fireRegion = some k → ∃ t, exec (.wave f) s = .next t ∧
    Leaves 0x187 f false 0 (emitAll f { emitted 0x187 f s (opL f s).payload (opL f s).fmt (anyPoison (operands f s)) with
        tag := BitVec.ofNat 16 (s.firing.tag + 1) })
      (s.onRegion k (fun r => { r with lastWave := some (s.firing.site, s.firing.station, s.firing.tag) })) t) ∧
  (∀ (f : Fields) (s : State), ∃ t, exec (.squash f) s = .next t ∧
    Leaves 0x18C f false 0 (emitAll f { emitted 0x18C f s (BitVec.ofNat 64 (0x02 * 2 ^ 56 + s.firing.tag)) .i64 (opL f s).poison with
      seq := 0 }) s t))

/-- R148: call and frame.new take the lowest-numbered free frame of their pool, record tag, seq, return target and the station
that took it, and emit L to target A under the frame's tag, through the station's tagop (R79), or wait where none is free; ret
and frame.free give L the recorded tag, through the tagop, and the recorded seq, and free the frame, and fault with frame-illegal where the tag names none in use; R137: of a poisoned L they make a poison-report and do nothing else. -/
def Obligations.Frames : Prop :=
  let enter := fun (op p : Nat) (ret : BitVec 32) (f : Fields) (s t : State) =>
    match s.fireReg.frameFree p with
    | none => t = s.onPe s.firing.site (fun q => { q with
        ready := ⟨s.firing.ctx, s.firing.station, s.firing.tag, s.firing.matched, s.firing.toks, s.firing.entries, s.firing.shared⟩ :: q.ready })
    | some g => Leaves op f false 0 (emitTo f.a { emitted op f s (opL f s).payload (opL f s).fmt (anyPoison (operands f s)) with
        tag := BitVec.ofNat 16 (emitTag f g) })
      (s.onRegion (s.fireRegion.getD 0) (fun r => { r with
        frames := Map.put r.frames g ⟨s.firing.tag, (opL f s).seq.toNat, ret, member s.firing.site s.firing.station⟩ })) t
  let leave := fun (op : Nat) (dest : Frame → Target) (f : Fields) (s t : State) =>
    if (opL f s).poison = true then Reports op f s t
    else match Map.find s.fireReg.frames s.firing.tag with
    | none => FaultsWith op f 0x13 s t
    | some fr => Leaves op f false 0 (emitTo (dest fr) { emitted op f s (opL f s).payload (opL f s).fmt (anyPoison (operands f s)) with
        tag := BitVec.ofNat 16 (emitTag f fr.tag), seq := BitVec.ofNat 6 fr.seq })
      (s.onRegion (s.fireRegion.getD 0) (fun r => { r with frames := Map.del r.frames s.firing.tag })) t
  (∀ (f : Fields) (s : State), ∃ t, exec (.call f) s = .next t ∧
    enter 0x18D (f.aux16.toNat % 4) (BitVec.ofNat 32 (Target.bits f.b)) f s t) ∧
  (∀ (f : Fields) (s : State), ∃ t, exec (.frameNew f) s = .next t ∧ enter 0x18F 0 0 f s t) ∧
  (∀ (f : Fields) (s : State), ∃ t, exec (.ret f) s = .next t ∧ leave 0x18E (fun fr => targetOf fr.ret.toNat) f s t) ∧
  (∀ (f : Fields) (s : State), ∃ t, exec (.frameFree f) s = .next t ∧ leave 0x190 (fun _ => f.a) f s t) ∧
  (∀ (r : Region) (p n base g : Nat), r.pool p = some (n, base) → r.frameFree p = some g →
    base ≤ g ∧ g < base + n ∧ Map.find r.frames g = none ∧
    ∀ i, base ≤ i → i < g → (Map.find r.frames i).isSome = true)

/-- R149: a contribution whose seq equals that of a waiting one faults with seq-clash; any other joins the waiting
ones, and those whose turn has come are added in seq order; where that reaches the one that carries E0, the sum is
emitted with seq 0 and the end bits and poison of all of them, and its entry is cleared; else the running value is
kept and nothing is emitted. R150: each contribution to a count adds one, by fit_s; the one that carries E0 ends the
count, which is emitted and cleared. That a count takes the poison of what it counts is the model's reading (log entry
36). -/
def Obligations.AccumulationAndCounting : Prop :=
  (let acc := fun (op : Nat) (m : Bool) (i : Fields → Instr) => ∀ (f : Fields) (s : State), ∃ t, exec (i f) s = .next t ∧
    let u := opL f s
    let k := accKey s.firing.ctx s.firing.station s.firing.tag
    let a := Map.get (s.pe s.firing.site).accum Accum.zero k
    let r := addWaiting f m (a.waiting.length + 1) (joinWaiting s u (Map.find (s.pe s.firing.site).accum k)) none
    if a.waiting.any (fun w => w.seq == u.seq) then FaultsWith op f 0x16 s t
    else if r.2.2 then
      Leaves op f (prepare f.fmtOut f u).converted (causeNum r.2.1)
        (emitAll f { emitted op f s r.1.value f.fmtOut r.1.poison with seq := 0, ends := r.1.ends })
        (s.onPe s.firing.site (fun p => { p with accum := Map.del p.accum k })) t
    else Leaves op f (prepare f.fmtOut f u).converted (causeNum r.2.1) [] (s.onPe s.firing.site (fun p => { p with accum := Map.put p.accum k r.1 })) t
  acc 0x191 false .acc ∧ acc 0x192 true .accmax ∧
  (∀ (f : Fields) (m : Bool) (n : Nat) (a : Accum) (c : Option Cause),
    (a.waiting.find? (fun w => w.seq.toNat == a.next % 64) = none → addWaiting f m (n + 1) a c = (a, c, false)) ∧
    (∀ w, a.waiting.find? (fun w => w.seq.toNat == a.next % 64) = some w →
      let r := addContribution f m { a with waiting := a.waiting.erase w, pooled := a.pooled.erase w.seq.toNat } w
      addWaiting f m (n + 1) a c =
        if w.ends.getLsbD 0 then (r.1, minCause c r.2, true) else addWaiting f m n r.1 (minCause c r.2))) ∧
  (∀ (s : State) (u : Token) (a : Option Accum),
    let z := a.getD Accum.zero
    let j := joinWaiting s u a
    { j with shared := z.shared, pooled := z.pooled } = { z with waiting := z.waiting ++ [u] } ∧
    (a.isSome = true → j.shared = z.shared ∧
      j.pooled = if 0 < s.firing.entries ∧ 0 < s.firing.shared then z.pooled ++ [u.seq.toNat] else z.pooled) ∧
    (a = none → (j.shared = true ↔ 0 < s.firing.shared ∧ s.firing.shared = s.firing.entries) ∧
      j.pooled = if 1 < s.firing.entries ∧ 0 < s.firing.shared then [u.seq.toNat] else []))) ∧
  (∀ (f : Fields) (s : State), ∃ t, exec (.count f) s = .next t ∧
    let u := opL f s
    let k := accKey s.firing.ctx s.firing.station s.firing.tag
    let a := Map.get (s.pe s.firing.site).accum Accum.zero k
    let w := Fields.width f
    let v : Word := BitVec.ofInt 64 (signed w (fitS w f.sat (signed w a.value.toNat + 1)))
    if u.ends.getLsbD 0 then
      Leaves 0x193 f false 0 (emitAll f (emitted 0x193 f s v .i64 (a.poison || u.poison)))
        (s.onPe s.firing.site (fun p => { p with accum := Map.del p.accum k })) t
    else Leaves 0x193 f false 0 []
      (s.onPe s.firing.site (fun p => { p with accum := Map.put p.accum k ⟨v, a.next + 1, true, a.poison || u.poison, 0, [], a.shared, []⟩ })) t)

/-! ### Group 4: names, requests, queues -/

/-- R152 to R154, R252, R265: a name form whose name has a place sends one message to the tile that the name's slot
lies in, as the statement's descriptor places it: nwr the word, converted to fmt_out, with the poison of L or of the
conversion in it and in the reply; nrd, npeek and nrel their request. A name outside the extents faults with out-of-
range. R252: the slot and the generation of a name: index v of dimension k counts v mod m in the slot and v div m in
the generation, dimensions in order, and an index outside its extent has no place. -/
def Obligations.NameForms : Prop :=
  (let desc := fun (f : Fields) (s : State) =>
    Map.get (s.pe s.firing.site).descs Desc.zero (descKey s.firing.ctx (f.aux16.toNat % 4096))
  let tile := fun (f : Fields) (s : State) (slot : Nat) (m : Msg) =>
    [Emit.msg m s.fireSite.die (2 * ((desc f s).first + slot % (desc f s).tiles) + 1) (desc f s).gridCol]
  let asks := fun (op : Nat) (k : ReadKind) (f : Fields) (s : State) => Msg.read {
    kind := k, stmt := f.aux16.toNat, ctx := s.firing.ctx, tag := s.firing.tag,
    port := s.fireSite.col % 2, targets := [f.a, f.b, Fields.targetC f].filter Target.valid,
    token := { emitted op f s 0 f.fmtOut false with ends := 0, seq := 0 }, region := s.fireRegion.getD 0, counted := false,
    site := s.firing.site, station := s.firing.station, since := 0 }
  (∀ (f : Fields) (s : State) (p : Nat × Nat), (desc f s).place s.firing.tag = some p →
    (∃ t, exec (.nwr f) s = .next t ∧
      let bad := (opL f s).poison || (leftOf f s).cause.isSome
      Leaves 0x200 f (leftOf f s).converted (causeNum (leftOf f s).cause) (tile f s p.1 (.word {
        stmt := f.aux16.toNat, ctx := s.firing.ctx,
        tag := s.firing.tag, payload := packLanes f.fmtOut (leftOf f s).lanes, poison := bad,
        reply := if f.a.valid then some (Token.toTarget (emitted 0x200 f s 0 .i64 bad) f.a) else none,
        site := s.firing.site, station := s.firing.station, inside := false, counted := false,
        l := s.firing.toks.getD 0 .zero })) s t) ∧
    (∃ t, exec (.nrd f) s = .next t ∧ Leaves 0x201 f false 0 (tile f s p.1 (asks 0x201 .nrd f s)) s t) ∧
    (∃ t, exec (.npeek f) s = .next t ∧ Leaves 0x202 f false 0 (tile f s p.1 (asks 0x202 .npeek f s)) s t) ∧
    (∃ t, exec (.nrel f) s = .next t ∧ Leaves 0x203 f false 0 (tile f s p.1 (asks 0x203 .nrel f s)) s t)) ∧
  (∀ (f : Fields) (s : State), (desc f s).place s.firing.tag = none →
    (∃ t, exec (.nwr f) s = .next t ∧ FaultsWith 0x200 f 0x07 s t) ∧
    (∃ t, exec (.nrd f) s = .next t ∧ FaultsWith 0x201 f 0x07 s t) ∧
    (∃ t, exec (.npeek f) s = .next t ∧ FaultsWith 0x202 f 0x07 s t) ∧
    (∃ t, exec (.nrel f) s = .next t ∧ FaultsWith 0x203 f 0x07 s t))) ∧
  (∀ (d : Desc) (tag n k sl g : Nat),
    Desc.walk d tag 0 k (sl, g) = some (sl, g) ∧
    Desc.walk d tag (n + 1) k (sl, g) =
      (let v := tag / 2 ^ field d.w3 (8 * k + 3) (8 * k) % 2 ^ (field d.w3 (8 * k + 7) (8 * k + 4) + 1)
       let m := max 1 (field d.w2 (16 * k + 15) (16 * k))
       let e := field d.w1 (16 * k + 15) (16 * k) + 1
       if e ≤ v then none else Desc.walk d tag n (k + 1) (sl * m + v % m, g * ((e + m - 1) / m) + v / m)))

/-- R155, R57: a fold form sends L's moduli to the first tile of the segment; a poisoned moduli set of fold.set or fold.resize is
not used and makes a poison-report, but fold.q reads no moduli and is sent all the same. -/
def Obligations.FoldForms : Prop :=
  let asks := fun (op : Nat) (k : FoldKind) (f : Fields) (s : State) =>
    let d := Map.get (s.pe s.firing.site).descs Desc.zero (descKey s.firing.ctx (f.aux16.toNat % 4096))
    [Emit.msg (.fold {
        kind := k, stmt := f.aux16.toNat, ctx := s.firing.ctx, moduli := (opL f s).payload,
        reply := if f.a.valid then [Token.toTarget (emitted op f s 0 .i64 (opL f s).poison) f.a] else [],
        token := s.firing.toks.getD 0 .zero, region := s.fireRegion.getD 0 })
      s.fireSite.die (2 * (d.first + 0 % d.tiles) + 1) d.gridCol]
  (∀ (f : Fields) (s : State), (opL f s).poison = false →
    (∃ t, exec (.foldSet f) s = .next t ∧ Leaves 0x204 f false 0 (asks 0x204 .set f s) s t) ∧
    (∃ t, exec (.foldResize f) s = .next t ∧ Leaves 0x205 f false 0 (asks 0x205 .resize f s) s t)) ∧
  (∀ (f : Fields) (s : State), (opL f s).poison = true →
    (∃ t, exec (.foldSet f) s = .next t ∧ Reports 0x204 f s t) ∧
    (∃ t, exec (.foldResize f) s = .next t ∧ Reports 0x205 f s t)) ∧
  (∀ (f : Fields) (s : State), ∃ t, exec (.foldQ f) s = .next t ∧ Leaves 0x206 f false 0 (asks 0x206 .query f s) s t)

/-- R158 to R162, R137: a request form whose address is not poisoned sends one request to the PORT at target A, with
the raw address of L, its data from R and its comparand from P, and its station has one more request outstanding.
atom.fadd's operand is converted to fmt_out. R57: a poisoned address makes a poison-report and nothing else. R163,
R17: a queue form sends its operation to the I/O die, which holds the descriptor of queue aux16[7:0], with the poison
of its operands in the token that answers; a push of a poisoned operand stores the payload and makes a poison-report.
An immediate operand that is read raw is formed as the model reads it (log entry 8). -/
def Obligations.RequestAndQueueForms : Prop :=
  (let asks := fun (op : Nat) (f : Fields) (data cmp : Word) (poison : Bool) (s : State) => [Emit.msg (.port {
        op := op, aux := f.aux16.toNat, fmt := f.fmtOut, w32 := f.w32,
        round := f.round, sat := f.sat, addr := (opL f s).payload, data := data, cmp := cmp,
        token := emitted op f s 0 f.fmtOut poison, targetA := f.a, targetB := f.b, site := s.firing.site,
        station := s.firing.station, region := s.fireRegion.getD 0, fired := s.firing.tag,
        l := s.firing.toks.getD 0 .zero }) f.a.die.toNat f.a.row.toNat f.a.col.toNat]
  let counted := fun (s : State) => s.onPe s.firing.site (fun p => { p with
        pendingOut := Map.alter p.pendingOut 0 (stKey s.firing.ctx s.firing.station) (fun n => n + 1) })
  let reads := fun (op : Nat) (f : Fields) (s t : State) => Leaves op f false 0 (asks op f 0 0 false s) (counted s) t
  let writes := fun (op : Nat) (f : Fields) (s t : State) =>
    Leaves op f false 0 (asks op f (opR op f s).payload 0 (opR op f s).poison s) (counted s) t
  (∀ (f : Fields) (s : State), (opL f s).poison = false →
    (∃ t, exec (.reqLd f) s = .next t ∧ reads 0x207 f s t) ∧
    (∃ t, exec (.reqSt f) s = .next t ∧ writes 0x208 f s t) ∧
    (∃ t, exec (.reqLdo f) s = .next t ∧ reads 0x209 f s t) ∧
    (∃ t, exec (.reqSto f) s = .next t ∧ writes 0x20A f s t) ∧
    (∃ t, exec (.atomAdd f) s = .next t ∧ writes 0x20B f s t) ∧
    (∃ t, exec (.atomFadd f) s = .next t ∧
      let r := rightOf 0x20C f s
      Leaves 0x20C f r.converted (causeNum r.cause)
        (asks 0x20C f (packLanes f.fmtOut r.lanes) 0 ((opR 0x20C f s).poison || r.cause.isSome) s) (counted s) t) ∧
    (∃ t, exec (.atomMin f) s = .next t ∧ writes 0x20D f s t) ∧
    (∃ t, exec (.atomMax f) s = .next t ∧ writes 0x20E f s t) ∧
    (∃ t, exec (.atomAnd f) s = .next t ∧ writes 0x20F f s t) ∧
    (∃ t, exec (.atomOr f) s = .next t ∧ writes 0x210 f s t) ∧
    (∃ t, exec (.atomXchg f) s = .next t ∧ writes 0x211 f s t) ∧
    (∃ t, exec (.atomCas f) s = .next t ∧ Leaves 0x212 f false 0 (asks 0x212 f (opR 0x212 f s).payload (opP f s).payload
      ((opR 0x212 f s).poison || (opP f s).poison) s) (counted s) t)) ∧
  (∀ (f : Fields) (s : State), (opL f s).poison = true →
    (∃ t, exec (.reqLd f) s = .next t ∧ Reports 0x207 f s t) ∧ (∃ t, exec (.reqSt f) s = .next t ∧ Reports 0x208 f s t) ∧
    (∃ t, exec (.reqLdo f) s = .next t ∧ Reports 0x209 f s t) ∧ (∃ t, exec (.reqSto f) s = .next t ∧ Reports 0x20A f s t) ∧
    (∃ t, exec (.atomAdd f) s = .next t ∧ Reports 0x20B f s t) ∧ (∃ t, exec (.atomFadd f) s = .next t ∧ Reports 0x20C f s t) ∧
    (∃ t, exec (.atomMin f) s = .next t ∧ Reports 0x20D f s t) ∧ (∃ t, exec (.atomMax f) s = .next t ∧ Reports 0x20E f s t) ∧
    (∃ t, exec (.atomAnd f) s = .next t ∧ Reports 0x20F f s t) ∧ (∃ t, exec (.atomOr f) s = .next t ∧ Reports 0x210 f s t) ∧
    (∃ t, exec (.atomXchg f) s = .next t ∧ Reports 0x211 f s t) ∧ (∃ t, exec (.atomCas f) s = .next t ∧ Reports 0x212 f s t))) ∧
  (let msg := fun (op : Nat) (f : Fields) (s : State) (data : Word) (poison : Bool) => Emit.msg (.port {
    op := op, aux := f.aux16.toNat,
    fmt := f.fmtOut, w32 := f.w32, round := f.round, sat := f.sat, addr := (opL f s).payload, data := data, cmp := 0,
    token := emitted op f s 0 f.fmtOut poison, targetA := f.a, targetB := f.b, site := s.firing.site,
    station := s.firing.station, region := s.fireRegion.getD 0, fired := s.firing.tag,
    l := s.firing.toks.getD 0 .zero }) 24 0 0
  (∀ (f : Fields) (s : State), (opL f s).poison = false → (opR 0x213 f s).poison = false → ∃ t, exec (.qPush f) s = .next t ∧
    Leaves 0x213 f false 0 [msg 0x213 f s (opR 0x213 f s).payload false] s t) ∧
  (∀ (f : Fields) (s : State), (opL f s).poison = true ∨ (opR 0x213 f s).poison = true → ∃ t, exec (.qPush f) s = .next t ∧
    Leaves 0x213 f false 0 [msg 0x213 f s (opR 0x213 f s).payload true, .error (s.fireRec 0x03) none false] s t) ∧
  (∀ (f : Fields) (s : State), ∃ t, exec (.qPop f) s = .next t ∧ Leaves 0x214 f false 0 [msg 0x214 f s 0 (opL f s).poison] s t) ∧
  (∀ (f : Fields) (s : State), ∃ t, exec (.qPeek f) s = .next t ∧ Leaves 0x215 f false 0 [msg 0x215 f s 0 (opL f s).poison] s t))

/-! ### Group 5: synchronisation and system -/

/-- R164, R165, R170: fence sends its marker down the stream of its PORT; the first trigger firing of a region counts
one trigger and later ones do nothing; halt asks for a debug halt of its region. R169, R170: ptest, pclear, couple,
siteid, clk, brk and nop: what each emits. The fence's payload is unconverted, as the model reads it (log entry 12). -/
def Obligations.SystemAndFences : Prop :=
  ((∀ (f : Fields) (s : State), ∃ t, exec (.fence f) s = .next t ∧
    Leaves 0x280 f false 0 [.msg (.port {
      op := 0x280, aux := f.aux16.toNat, fmt := f.fmtOut, w32 := f.w32, round := f.round,
      sat := f.sat, addr := (opL f s).payload, data := 0, cmp := 0,
      token := emitted 0x280 f s (opL f s).payload f.fmtOut (opL f s).poison, targetA := f.a, targetB := f.b,
      site := s.firing.site, station := s.firing.station, region := s.fireRegion.getD 0, fired := s.firing.tag,
      l := s.firing.toks.getD 0 .zero }) f.a.die.toNat f.a.row.toNat f.a.col.toNat] s t) ∧
  (∀ (f : Fields) (s : State), s.fireReg.triggered = false → ∃ t, exec (.trigger f) s = .next t ∧
    Leaves 0x281 f false 0 [.effect .trigger]
      (s.onRegion (s.fireRegion.getD 0) (fun r => { r with triggered := true })) t) ∧
  (∀ (f : Fields) (s : State), s.fireReg.triggered = true → ∃ t, exec (.trigger f) s = .next t ∧
    Leaves 0x281 f false 0 [] s t) ∧
  (∀ (f : Fields) (s : State), ∃ t, exec (.halt f) s = .next t ∧ Leaves 0x28C f false 0 [.effect .halt] s t)) ∧
  ((∀ (f : Fields) (s : State), ∃ t, exec (.ptest f) s = .next t ∧
    Leaves 0x287 f false 0 (emitAll f (emitted 0x287 f s (if (opL f s).poison then 1 else 0) .i64 false)) s t) ∧
  (∀ (f : Fields) (s : State), ∃ t, exec (.pclear f) s = .next t ∧ Passes 0x288 f { opL f s with poison := false } s t) ∧
  (∀ (f : Fields) (s : State), (opL f s).poison = true → ∃ t, exec (.couple f) s = .next t ∧ Reports 0x289 f s t) ∧
  (∀ (f : Fields) (s : State), (opL f s).poison = false → ∃ t, exec (.couple f) s = .next t ∧
    Leaves 0x289 f false 0 (emitAll f { emitted 0x289 f s (BitVec.ofNat 64 (2 ^ 56 + (opL f s).payload.toNat % 2 ^ 32)) .i64 false
      with seq := 0 }) s t) ∧
  (∀ (f : Fields) (s : State), ∃ t, exec (.siteid f) s = .next t ∧
    Delivers 0x28A f ⟨BitVec.ofNat 64 (2 ^ 31 + s.fireSite.die * 2 ^ 26 + s.fireSite.row * 2 ^ 19 + s.fireSite.col * 2 ^ 11 +
      s.firing.station * 4 + s.firing.ctx * 2 ^ 32), .i64, none, false⟩ s t) ∧
  (∀ (f : Fields) (s : State) (k : Nat), s.fireRegion = some k →
    s.fireReg.clkReplay.find? (fun x => x.1 == member s.firing.site s.firing.station && x.2.1 == s.firing.tag) = none →
    ∃ t, exec (.clk f) s = .next t ∧
      let v : Word := BitVec.ofNat 64 (s.now s.fireSite.die)
      ∃ u, Delivers 0x28B f ⟨v, .i64, none, false⟩ u t ∧ u.firing = s.firing ∧ u.mem = s.mem ∧ u.pes = s.pes ∧
        (u.region k).clkKept = (s.region k).clkKept ++ [(member s.firing.site s.firing.station, s.firing.tag, v)] ∧
        ∀ j, j ≠ k → u.region j = s.region j) ∧
  (∀ (f : Fields) (s : State), ∃ t, exec (.brk f) s = .next t ∧ Passes 0x28D f (opL f s) s t) ∧
  (∀ (f : Fields) (s : State), ∃ t, exec (.nop f) s = .next t ∧ Passes 0x28E f (opL f s) s t))

/-- What R166 gives these steps. An arrival or wait of an undeclared barrier faults with barrier-illegal. An arrival
at a declared one leaves as an effect, which its release counts in the generation of the firing's tag. A wait at a
declared one is given to the barrier as it issues. The barrier: a wait of a generation remembered as closed is
released at once, and an arrival of one is ignored; a generation not known opens while fewer than four are open, and
else the arrival or wait is queued; an arrival that completes its generation closes it, remembers it among the last
256 and releases its waits in their order; any other arrival is counted and any other wait held; and what is queued is
tried again in order. A released wait is a result of its station. The payload that a wait emits is unconverted, as the
model reads it (log entry 12). -/
def Obligations.Barriers : Prop :=
  let bar := fun (f : Fields) (s : State) => Map.get (s.region s.fireReg.loadBase).barriers Barrier.none (f.aux16.toNat % 64)
  let wait := fun (f : Fields) (s : State) => (emitAll f (emitted 0x283 f s (opL f s).payload f.fmtOut (opL f s).poison),
    s.firing.site, (8 * s.firing.tag + s.firing.ctx) * 512 + s.firing.station)
  (∀ (f : Fields) (s : State), (bar f s).n ≠ 0 → ∃ t, exec (.barArrive f) s = .next t ∧
    Leaves 0x282 f false 0 [.effect (.arrive (f.aux16.toNat % 64) s.firing.tag)] s t) ∧
  (∀ (f : Fields) (s : State), (bar f s).n = 0 → (∃ t, exec (.barArrive f) s = .next t ∧ FaultsWith 0x282 f 0x17 s t) ∧
    ∃ t, exec (.barWait f) s = .next t ∧ FaultsWith 0x283 f 0x17 s t) ∧
  (∀ (f : Fields) (s : State) (k : Nat), s.fireRegion = some k → (bar f s).n ≠ 0 → (bar f s).queue = [] →
    (bar f s).closed.contains s.firing.tag = true → s.firing.ctx < 8 → s.firing.station < 512 → ∃ t, exec (.barWait f) s = .next t ∧
      Gains (s.onRegion s.fireReg.loadBase (fun x => { x with
          barriers := Map.put x.barriers (f.aux16.toNat % 64) (bar f s) })) t s.firing.site
        ⟨s.firing.ctx, s.firing.station, s.firing.tag, s.now s.fireSite.die, 0, (s.region k).wave, (wait f s).1⟩) ∧
  (∀ (f : Fields) (s : State), (bar f s).n ≠ 0 → (bar f s).queue = [] → (bar f s).closed.contains s.firing.tag = false →
    let known := (bar f s).opened.any (fun x => x.gen == s.firing.tag)
    let becomes := fun (b : Barrier) (t : State) =>
      t = s.onRegion s.fireReg.loadBase (fun x => { x with barriers := Map.put x.barriers (f.aux16.toNat % 64) b })
    (known = true ∨ (bar f s).opened.length < 4 → (∀ x ∈ (bar f s).opened, x.gen = s.firing.tag → x.arrivals < (bar f s).n) →
      ∃ t, exec (.barWait f) s = .next t ∧ becomes { bar f s with
        opened := ((bar f s).opened ++ (if known then [] else [(⟨s.firing.tag, 0, []⟩ : BarGen)])).map (fun (x : BarGen) =>
          if x.gen = s.firing.tag then { x with waits := x.waits ++ [wait f s] } else x) } t) ∧
    (known = false → 4 ≤ (bar f s).opened.length →
      ∃ t, exec (.barWait f) s = .next t ∧ becomes { bar f s with queue := [(some (wait f s), s.firing.tag)] } t)) ∧
  (∀ (f : Fields) (s : State), (bar f s).n ≠ 0 → ∃ t, exec (.barWait f) s = .next t ∧
    t = barrierTake s.fireReg.loadBase (f.aux16.toNat % 64) (some (wait f s)) s.firing.tag s) ∧
  (∀ (b : Barrier) (w : Option (List Emit × Nat × Nat)) (g : Nat),
    (b.closed.contains g = true → b.take w g = (b, w.toList)) ∧
    (b.closed.contains g = false → b.opened.any (fun x => x.gen == g) = false → 4 ≤ b.opened.length →
      b.take w g = ({ b with queue := b.queue ++ [(w, g)] }, [])) ∧
    (b.closed.contains g = false → b.opened.any (fun x => x.gen == g) = true ∨ b.opened.length < 4 →
      let opened := if b.opened.any (fun x => x.gen == g) then b.opened else b.opened ++ [(⟨g, 0, []⟩ : BarGen)]
      let counted := opened.map (fun (x : BarGen) => if x.gen = g then { x with arrivals := x.arrivals + 1 } else x)
      ((∀ x ∈ counted, x.gen = g → x.arrivals < b.n) → b.take none g = ({ b with opened := counted }, [])) ∧
      (∀ x, counted.find? (fun x => x.gen == g) = some x → b.n ≤ x.arrivals → b.take none g =
        ({ b with opened := counted.filter (fun y => y.gen != g), closed := (g :: b.closed).take 256 }, x.waits)) ∧
      (∀ v, (∀ x ∈ opened, x.gen = g → x.arrivals < b.n) → b.take (some v) g =
        ({ b with opened := opened.map (fun (x : BarGen) => if x.gen = g then { x with waits := x.waits ++ [v] } else x) }, [])))) ∧
  (∀ (b : Barrier) (n : Nat) (out : List (List Emit × Nat × Nat)),
    (b.queue = [] → Barrier.retry n b out = (b, out)) ∧
    (∀ w g qs, b.queue = (w, g) :: qs →
      (b.opened.length < 4 ∨ b.closed.contains g = true ∨ b.opened.any (fun x => x.gen == g) = true →
        Barrier.retry (n + 1) b out = let r := ({ b with queue := qs } : Barrier).take w g
          Barrier.retry n r.1 (out ++ r.2)) ∧
      (4 ≤ b.opened.length → b.closed.contains g = false → b.opened.any (fun x => x.gen == g) = false →
        Barrier.retry (n + 1) b out = (b, out)))) ∧
  (∀ (base i g : Nat) (w : Option (List Emit × Nat × Nat)) (s : State),
    let r := (Map.get (s.region base).barriers Barrier.none i).take w g
    let q := Barrier.retry r.1.queue.length r.1 r.2
    performAct base (.arrive i g) s = barrierTake (s.region base).loadBase i none g s ∧
    barrierTake base i w g s = releaseWaits q.2 (s.onRegion base (fun x => { x with barriers := Map.put x.barriers i q.1 }))) ∧
  (∀ (w : List Emit × Nat × Nat) (ws : List (List Emit × Nat × Nat)) (s : State),
    releaseWaits [] s = s ∧ releaseWaits (w :: ws) s = releaseWaits ws (releaseWait w s) ∧
    ∃ r : Result, Gains s (releaseWait w s) w.2.1 r ∧ r.ctx = w.2.2 / 512 % 8 ∧ r.station = w.2.2 % 512 ∧ r.tag = w.2.2 / 4096 ∧
      r.ready = s.now (Site.ofKey w.2.1).die ∧ r.cause = 0 ∧ r.emits = w.1)

/-- R167, R140: trap raises a fault with code 0x80 + k whose record names the firing, with the operand saved for
target A; report appends a record of kind aux16[7:0] with L's payload, and emits L. The payload is unconverted, as the
model reads it (log entry 12). -/
def Obligations.TrapAndReport : Prop :=
  (∀ (f : Fields) (s : State), ∃ t, exec (.trap f) s = .next t ∧
    Leaves 0x284 f false 0 [.error ⟨0x80 + f.aux16.toNat % 128, s.fireSite, s.firing.station, s.firing.ctx, s.firing.tag⟩
      (some (Token.toTarget (s.firing.toks.getD 0 .zero) f.a)) f.a.valid] s t) ∧
  (∀ (f : Fields) (s : State), ∃ t, exec (.report f) s = .next t ∧
    Leaves 0x285 f false 0 (.effect (.report (f.aux16.toNat % 256)
        ⟨0, s.fireSite, s.firing.station, s.firing.ctx, s.firing.tag⟩ (opL f s).payload) ::
      emitAll f (emitted 0x285 f s (opL f s).payload f.fmtOut (opL f s).poison)) s t)

/-- R168: reinject sends the saved token of the entry its tag names, with L's payload, format and poison and the saved header
otherwise unchanged, and frees the entry; the control form frees it and sends nothing; a saved token without destination is
dropped; a tag that names no entry is counted. The state is one in which no replay holds a token of that entry (log entry 26). -/
def Obligations.Reinject : Prop :=
  let freed := fun (s : State) (e : Saved) => s.onRegion (s.fireRegion.getD 0) (fun g => { g with
    faults := Map.del g.faults s.firing.tag
    freed := g.freed ++ [(s.firing.tag, e)]
    refree := g.refree.erase (s.firing.tag, e) })
  let fresh := fun (s : State) => s.fireReg.refree.find? (fun x => x.1 == s.firing.tag) = none
  (∀ (f : Fields) (s : State) (e : Saved), fresh s → Map.find s.fireReg.faults s.firing.tag = some e → f.arity ≠ 0 →
    e.hasDst = true → ∃ t, exec (.reinject f) s = .next t ∧
      let w := { e.token with payload := (opL f s).payload, fmt := (opL f s).fmt, poison := (opL f s).poison }
      Leaves 0x286 f false 0 [.token w (Token.cls w)] (freed s e) t) ∧
  (∀ (f : Fields) (s : State) (e : Saved), fresh s → Map.find s.fireReg.faults s.firing.tag = some e →
    f.arity = 0 ∨ e.hasDst = false → ∃ t, exec (.reinject f) s = .next t ∧ Leaves 0x286 f false 0 [] (freed s e) t) ∧
  (∀ (f : Fields) (s : State), fresh s → Map.find s.fireReg.faults s.firing.tag = none →
    ∃ t, exec (.reinject f) s = .next t ∧ Leaves 0x286 f false 0 []
      (s.onRegion (s.fireRegion.getD 0) (fun g => { g with reinjects := g.reinjects + 1 })) t)

/-! ### Group 6: the matrix array -/

/-- R189: a controller form takes effect at once when the controller's line of forms is empty, and else joins its end with
its operands; so does a run. R433: a change to mode 0 by a context that will not own the array changes nothing and is not held
back. -/
def Obligations.ControllerFormsTakeTurns : Prop :=
  let joins := fun (op : Nat) (f : Fields) (s t : State) =>
    t = s.onMatrix s.firing.site (fun m => { m with queue := m.queue ++ [{
      op := op, fields := f,
      station := s.firing.station, ctx := s.firing.ctx, tag := s.firing.tag, emitTag := emitTag f s.firing.tag,
      l := s.firing.toks.getD 0 .zero, r := opR op f s, p := opP f s, mask := (opP f s).payload,
      pass := 0, step := 0, passes := 0, started := false, last := 0 }] })
  (∀ (f : Fields) (s : State), (s.matrix s.firing.site).queue = [] →
    (∃ t, exec (.mmMode f) s = .next t ∧ t = ctlEffect 0x300 f s) ∧ (∃ t, exec (.mmWswap f) s = .next t ∧ t = ctlEffect 0x302 f s) ∧
    (∃ t, exec (.mmClr f) s = .next t ∧ t = ctlEffect 0x305 f s) ∧ (∃ t, exec (.mmDrain f) s = .next t ∧ t = ctlEffect 0x306 f s) ∧
    (∃ t, exec (.mmMask f) s = .next t ∧ t = ctlEffect 0x307 f s) ∧ (∃ t, exec (.mmRowstat f) s = .next t ∧ t = ctlEffect 0x308 f s) ∧
    (∃ t, exec (.mmScale f) s = .next t ∧ t = ctlEffect 0x309 f s) ∧ (∃ t, exec (.mmBias f) s = .next t ∧ t = ctlEffect 0x30A f s)) ∧
  (∀ (f : Fields) (s : State), (s.matrix s.firing.site).queue ≠ [] →
    (∃ t, exec (.mmWswap f) s = .next t ∧ joins 0x302 f s t) ∧ (∃ t, exec (.mmRun f) s = .next t ∧ joins 0x303 f s t) ∧
    (∃ t, exec (.mmOrun f) s = .next t ∧ joins 0x304 f s t) ∧ (∃ t, exec (.mmClr f) s = .next t ∧ joins 0x305 f s t) ∧
    (∃ t, exec (.mmDrain f) s = .next t ∧ joins 0x306 f s t) ∧ (∃ t, exec (.mmMask f) s = .next t ∧ joins 0x307 f s t) ∧
    (∃ t, exec (.mmRowstat f) s = .next t ∧ joins 0x308 f s t) ∧ (∃ t, exec (.mmScale f) s = .next t ∧ joins 0x309 f s t) ∧
    (∃ t, exec (.mmBias f) s = .next t ∧ joins 0x30A f s t)) ∧
  (∀ (f : Fields) (s : State), (s.matrix s.firing.site).queue ≠ [] →
    f.aux16.toNat % 4 ≠ 0 ∨ (s.matrix s.firing.site).ownerAfter = some s.firing.ctx →
    ∃ t, exec (.mmMode f) s = .next t ∧ joins 0x300 f s t) ∧
  (∀ (f : Fields) (s : State), f.aux16.toNat % 4 = 0 → (s.matrix s.firing.site).ownerAfter ≠ some s.firing.ctx →
    ∃ t, exec (.mmMode f) s = .next t ∧
      Leaves 0x300 f false 0 (emitAll f (emitted 0x300 f s (opL f s).payload f.fmtOut (opL f s).poison)) s t)

/-- R433, R179, R180, R181: what mm.mode, mm.wswap, mm.clr, mm.mask and mm.bias do to the controller's matrix state and to every
PE of the region where the controller's line is empty, and the L that each emits; a bad payload of mask or clr faults with
out-of-range. -/
def Obligations.MatrixControlEffects : Prop :=
  let idle := fun (s : State) => (s.matrix s.firing.site).queue = []
  let emitsL := fun (op : Nat) (f : Fields) (s u t : State) =>
    Leaves op f false 0 (emitAll f (emitted op f s (opL f s).payload f.fmtOut (opL f s).poison)) u t
  (∀ (f : Fields) (s : State), idle s →
    let m := s.matrix s.firing.site
    let mode := f.aux16.toNat % 4
    let c := s.firing.ctx
    (mode = 0 → m.owner ≠ some c → ∃ t, exec (.mmMode f) s = .next t ∧ emitsL 0x300 f s s t) ∧
    (mode = 0 → m.owner = some c → ∃ t, exec (.mmMode f) s = .next t ∧
      emitsL 0x300 f s (s.onMatrix s.firing.site (fun m => { m with mode := 0 })) t) ∧
    (mode ≠ 0 → m.owner = some c → ∃ t, exec (.mmMode f) s = .next t ∧ emitsL 0x300 f s (s.onMatrix s.firing.site (fun m => { m with
      mode := mode, feed := f.aux16.toNat / 4, owner := some c, height := s.fireReg.height, width := s.fireReg.width })) t) ∧
    (mode ≠ 0 → m.owner ≠ some c → ∃ t, exec (.mmMode f) s = .next t ∧ ∃ u, emitsL 0x300 f s u t ∧
      u.matrix s.firing.site = { m with
        mode := mode, feed := f.aux16.toNat / 4, owner := some c, mask := 0, biases := [],
        height := s.fireReg.height, width := s.fireReg.width } ∧
      (∀ j, j ≠ s.firing.site → u.matrix j = s.matrix j) ∧
      (∀ x ∈ s.fireReg.peSites, u.pe (Site.key x) = { s.pe (Site.key x) with active := [], shadow := [], cells := [] }) ∧
      (∀ k, (∀ x ∈ s.fireReg.peSites, Site.key x ≠ k) → u.pe k = s.pe k) ∧
      { u with pes := s.pes, matrices := s.matrices } = s)) ∧
  (∀ (f : Fields) (s : State), idle s → ∃ t, exec (.mmWswap f) s = .next t ∧
    emitsL 0x302 f s (onPes s.fireReg.peSites (fun p => { p with
      active := p.shadow, shadow := p.active.map (fun kw => (kw.1, { kw.2 with present := false })) }) s) t) ∧
  (∀ (f : Fields) (s : State), idle s → (opL f s).payload.toNat / 2 ^ 50 = 0 → ∃ t, exec (.mmMask f) s = .next t ∧
    emitsL 0x307 f s (s.onMatrix s.firing.site (fun m => { m with mask := (opL f s).payload })) t) ∧
  (∀ (f : Fields) (s : State), idle s → (opL f s).payload.toNat / 2 ^ 50 ≠ 0 → ∃ t, exec (.mmMask f) s = .next t ∧
    FaultsWith 0x307 f 0x07 s t) ∧
  (∀ (f : Fields) (s : State), idle s → (opL f s).payload.toNat / 2 ^ 6 = 0 → ∃ t, exec (.mmClr f) s = .next t ∧
    let p := (opL f s).payload
    ∃ u v, u = onPes s.fireReg.peSites (fun q => { q with
        cells := if bit p 4 then [] else Map.del q.cells (p.toNat % 16) }) s ∧
      v = (if bit p 5 then u.onMatrix s.firing.site (fun m => { m with biases := [] }) else u) ∧
      emitsL 0x305 f s v t) ∧
  (∀ (f : Fields) (s : State), idle s → (opL f s).payload.toNat / 2 ^ 6 ≠ 0 → ∃ t, exec (.mmClr f) s = .next t ∧
    FaultsWith 0x305 f 0x07 s t) ∧
  (∀ (f : Fields) (s : State), idle s → ∃ t, exec (.mmBias f) s = .next t ∧
    let p := leftOf f s
    let bad := (opL f s).poison || p.cause.isSome
    let q := (opL f s).seq.toNat
    let w := s.fireReg.width
    let b := fun k => (⟨BitVec.ofNat 64 (p.lanes.getD k 0), f.fmtOut, bad⟩ : Bias)
    ∃ u, Leaves 0x30A f p.converted (causeNum p.cause)
        (emitAll f (emitted 0x30A f s (packLanes f.fmtOut p.lanes) f.fmtOut bad)) u t ∧
      { u with matrices := s.matrices } = s ∧ (∀ j, j ≠ s.firing.site → u.matrix j = s.matrix j) ∧
      { u.matrix s.firing.site with biases := (s.matrix s.firing.site).biases } = s.matrix s.firing.site ∧
      ∀ col, Map.find (u.matrix s.firing.site).biases col =
        if f.fmtOut = .f32 ∧ col < w ∧ (col = 2 * q ∨ col = 2 * q + 1) then some (b (col - 2 * q))
        else if f.fmtOut ≠ .f32 ∧ col < w ∧ col = q then some (b 0)
        else Map.find (s.matrix s.firing.site).biases col)

/-- R178: mm.wload writes one word of the shadow bank and emits the row number, under the station's tagop (log entry 83), when it
completes the row; a tag of 64 or more or a seq of 8 or more faults. R182: mm.run and mm.orun, where the controller's line is
empty, begin: at the head of the line within their limits, fault with out-of-range outside them, and make a poison-report for a
poisoned operand. R185 to R187: mm.drain emits the masked rows of its entry, mm.rowstat one maximum a row, mm.scale scales the
cells of one row; a bad payload faults. R188: mm.act delivers its function of every lane. -/
def Obligations.WeightsRunsActivation : Prop :=
  let idle := fun (s : State) => (s.matrix s.firing.site).queue = []
  (let row := fun (s : State) (u : State) =>
      (List.range 8).all (fun k => (Map.get (u.pe s.firing.site).shadow WeightWord.zero (s.firing.tag * 8 + k)).present)
   let written := fun (f : Fields) (s : State) => s.onPe s.firing.site (fun p => { p with
      shadow := Map.put p.shadow (s.firing.tag * 8 + (opL f s).seq.toNat) ⟨(opL f s).payload, (opL f s).poison, true⟩ })
   (∀ (f : Fields) (s : State), s.firing.tag < 64 → (opL f s).seq.toNat < 8 → ∃ t, exec (.mmWload f) s = .next t ∧
      Leaves 0x301 f false 0 (if row s s = false ∧ row s (written f s) = true then
        emitAll f (emitted 0x301 f s (BitVec.ofNat 64 s.firing.tag) .i64 (opL f s).poison) else []) (written f s) t) ∧
   (∀ (f : Fields) (s : State), 64 ≤ s.firing.tag ∨ 8 ≤ (opL f s).seq.toNat → ∃ t, exec (.mmWload f) s = .next t ∧
      FaultsWith 0x301 f 0x07 s t)) ∧
  (let ok := fun (op : Nat) (f : Fields) (s : State) =>
      let l := (opL f s).payload.toNat
      let p := (opR op f s).payload.toNat
      let m := s.matrix s.firing.site
      let steps := p % 2 ^ 16
      let g := p / 2 ^ 16 % 2 ^ 8
      l < 2 ^ 7 ∧ p < 2 ^ 30 ∧ 1 ≤ g ∧ g ≤ 64 ∧ m.owner = some s.firing.ctx ∧ 1 ≤ l ∧ 1 ≤ steps ∧
        (if op = 0x303 then m.mode = 1 ∧ l ≤ 64 ∧ steps ≤ s.fireReg.height ∧ f.aux16.toNat / 2 ^ 9 % 2 ^ 6 + g ≤ 64
         else m.mode = 2 ∧ l ≤ min s.fireReg.height 64 ∧ steps ≤ 64)
   let begun := fun (op : Nat) (f : Fields) (s : State) => s.onMatrix s.firing.site (fun m => { m with queue := [{
        op := op, fields := f,
        station := s.firing.station, ctx := s.firing.ctx, tag := s.firing.tag, emitTag := emitTag f s.firing.tag,
        l := s.firing.toks.getD 0 .zero, r := opR op f s, p := opP f s, mask := (opP f s).payload,
        pass := 0, step := 0, passes := 0, started := true, last := 0 }] })
   (∀ (f : Fields) (s : State), idle s → anyPoison (operands f s) = false →
      (ok 0x303 f s → ∃ t, exec (.mmRun f) s = .next t ∧ t = begun 0x303 f s) ∧
      (¬ok 0x303 f s → ∃ t, exec (.mmRun f) s = .next t ∧ FaultsWith 0x303 f 0x07 s t) ∧
      (ok 0x304 f s → ∃ t, exec (.mmOrun f) s = .next t ∧ t = begun 0x304 f s) ∧
      (¬ok 0x304 f s → ∃ t, exec (.mmOrun f) s = .next t ∧ FaultsWith 0x304 f 0x07 s t)) ∧
   (∀ (f : Fields) (s : State), idle s → anyPoison (operands f s) = true →
      (∃ t, exec (.mmRun f) s = .next t ∧ Reports 0x303 f s t) ∧ (∃ t, exec (.mmOrun f) s = .next t ∧ Reports 0x304 f s t))) ∧
  (let values := fun (f : Fields) (s : State) (i : Nat) =>
      rowValues s f s.fireReg (s.matrix s.firing.site).mask ((opL f s).payload.toNat % 16) i
   let rows := fun (f : Fields) (s : State) => activeRows s ((opL f s).payload.toNat % 16)
   let width := fun (g : Fmt) => if g = .f32 then 2 else 1
   (∀ (f : Fields) (s : State), idle s → (opL f s).payload.toNat / 2 ^ 5 = 0 → ∃ t, exec (.mmDrain f) s = .next t ∧
      let n := rows f s
      Leaves 0x306 f false (causeNum (causeOf ((List.range n).map (fun i => ⟨0, (values f s i).2.2.2⟩))))
        ((List.range n).flatMap (fun i => (drainRow f s (values f s i) i (i + 1 == n)).flatMap (emitAll f)))
        (if bit (opL f s).payload 4 then onPes s.fireReg.peSites (fun q => { q with
          cells := Map.del q.cells ((opL f s).payload.toNat % 16) }) s else s) t) ∧
   (∀ (f : Fields) (s : State), idle s → (opL f s).payload.toNat / 2 ^ 5 ≠ 0 → ∃ t, exec (.mmDrain f) s = .next t ∧
      FaultsWith 0x306 f 0x07 s t) ∧
   (∀ (f : Fields) (s : State) (rv : Fmt × List Nat × List Bool × Option Cause) (i k : Nat) (last : Bool),
      let per := width rv.1
      let n := (rv.2.1.length + per - 1) / per
      (drainRow f s rv i last).length = n ∧ (k < n → ∃ w, (drainRow f s rv i last)[k]? = some w ∧
        w.payload = packLanes rv.1 ((List.range per).map (fun j => rv.2.1.getD (per * k + j) 0)) ∧ w.fmt = rv.1 ∧
        w.tag = BitVec.ofNat 16 (emitTag f s.firing.tag + i) ∧ w.seq = BitVec.ofNat 6 k ∧
        w.ends = (if k + 1 = n then (if last then 3 else 1) else 0) ∧
        (w.poison = true ↔ (opL f s).poison = true ∨ ∃ j < per, rv.2.2.1.getD (per * k + j) false = true))) ∧
   (∀ (f : Fields) (s : State), idle s → (opL f s).payload.toNat / 2 ^ 4 = 0 →
      (∀ i < rows f s, (values f s i).1 ≠ .i64) → ∃ t, exec (.mmRowstat f) s = .next t ∧
      let most := fun (i : Nat) => let rv := values f s i
        convert rv.1 .f32 f.round f.sat (foldLanes (pickLane rv.1 true) rv.2.1)
      let stat := fun (i : Nat) =>
        let rv := values f s i
        ({ Token.zero with
          payload := packLanes .f32 [(most i).bits, if rv.2.1.all (fun v => decodeF rv.1 v == .inf true) then 0x3F800000 else 0]
          fmt := .f32, poison := rv.2.2.1.any id || (most i).cause.isSome || (opL f s).poison
          ctx := BitVec.ofNat 3 (emitCtx 0x308 f s.firing.ctx), tag := BitVec.ofNat 16 (emitTag f s.firing.tag)
          seq := BitVec.ofNat 6 i, ends := if i + 1 = rows f s then 1 else 0 } : Token)
      Leaves 0x308 f false (causeNum (causeOf ((List.range (rows f s)).map (fun i => ⟨0, (values f s i).2.2.2⟩) ++
          (List.range (rows f s)).map most)))
        ((List.range (rows f s)).flatMap (fun i => emitAll f (stat i))) s t) ∧
   (∀ (f : Fields) (s : State), idle s →
      (opL f s).payload.toNat / 2 ^ 4 ≠ 0 ∨ (∃ i < rows f s, (values f s i).1 = .i64) → ∃ t, exec (.mmRowstat f) s = .next t ∧
      FaultsWith 0x308 f 0x07 s t)) ∧
  (let entry := fun (f : Fields) (s : State) => (prepareR 0x309 .i64 f s).lanes.getD 0 0
   (∀ (f : Fields) (s : State), idle s → entry f s < 16 → (opL f s).seq.toNat < s.fireReg.height →
      ∃ t, exec (.mmScale f) s = .next t ∧
        let p := leftOf f s
        let q := prepareR 0x309 .i64 f s
        let bad := anyPoison (operands f s) || p.cause.isSome || q.cause.isSome
        let cell := fun (j : Nat) => Map.get (s.pe (Site.key (s.fireReg.peAt (opL f s).seq.toNat j))).cells Cell.clear (entry f s)
        let causes := (List.range s.fireReg.width).map (fun j => (⟨0, (scaleCell f (p.lanes.getD 0 0) bad (cell j)).2⟩ : LaneRes))
        ∃ u, Leaves 0x309 f (p.converted || q.converted) (causeNum (minCause (minCause p.cause q.cause) (causeOf causes)))
            (emitAll f (emitted 0x309 f s (packLanes f.fmtOut p.lanes) f.fmtOut bad)) u t ∧
          { u with pes := s.pes } = s ∧
          (∀ x, (∀ j < s.fireReg.width, Site.key (s.fireReg.peAt (opL f s).seq.toNat j) ≠ x) → u.pe x = s.pe x) ∧
          (∀ j < s.fireReg.width, ∀ e, Map.find (s.pe (Site.key (s.fireReg.peAt (opL f s).seq.toNat j))).cells (entry f s) = some e →
            Map.find (u.pe (Site.key (s.fireReg.peAt (opL f s).seq.toNat j))).cells (entry f s) =
              some (scaleCell f (p.lanes.getD 0 0) bad e).1)) ∧
   (∀ (f : Fields) (s : State), idle s → 16 ≤ entry f s ∨ s.fireReg.height ≤ (opL f s).seq.toNat →
      ∃ t, exec (.mmScale f) s = .next t ∧ FaultsWith 0x309 f 0x07 s t)) ∧
  OneFloat 0x30B .mmAct actLane ∧
  (∀ (f : Fields) (x : Nat), isNaN f.fmtOut x = true → actLane f x = ⟨Fmt.nan f.fmtOut, none⟩) ∧
  (∀ (f : Fields) (x : Nat), f.aux16.toNat % 16 = 0 → isNaN f.fmtOut x = false → x < 2 ^ Fmt.width f.fmtOut →
    actLane f x = ⟨if signBit f.fmtOut ≤ x then 0 else x, none⟩)

/-- R62, R63: one systolic step adds the exact products of a row to the partial and rounds once; in I8 it is fitted to 32
bits; the partial of a WS column is carried south through the PE rows one step at a time. -/
def Obligations.SystolicSteps : Prop :=
  (∀ (g : Fmt) (mode : Round) (sat : Bool) (c : Nat) (a b : List Word), g ≠ .i8 →
    sysStep g mode sat c a b =
      (let p := products ((rowLanes g a).map (decodeF g)) ((rowLanes g b).map (decodeF g))
       sumTo (accFmt g) mode sat p.2 (decodeF (accFmt g) c :: p.1))) ∧
  (∀ (mode : Round) (sat : Bool) (c : Nat) (a b : List Word),
    signed 64 (sysStep .i8 mode sat c a b).bits =
      signed 32 (fitS 32 sat (signed 32 (fitS 32 sat (signed 64 c)) +
        (List.zipWith (fun x y => signed 8 x * signed 8 y) (rowLanes .i8 a) (rowLanes .i8 b)).sum))) ∧
  (∀ (xs ys : List FVal), xs.length = ys.length → xs.all FVal.finite = true → ys.all FVal.finite = true →
    (products xs ys).2 = false ∧ ((products xs ys).1.map FVal.rat).sum = (List.zipWith (fun x y => FVal.rat x * FVal.rat y) xs ys).sum)

/-! ### Encoding -/

/-- R71, R96: words that the spec writes out decode to the instructions they stand for, field by field. -/
def Obligations.WordsOfTheSpec : Prop :=
  decodeWord 0x08EC0011000000008048480A00000000#128 = .ok (.cmpLt
    ⟨2, .i64, false, .rne, false, 0, 0, true, false, false, false, true, 0, 0, ⟨true, 0, 9, 9, 2, .p⟩, ⟨false, 0, 0, 0, 0, .l⟩⟩) ∧
  decodeWord 0x60D00008804850008048480480484805#128 = .ok (.fan
    ⟨1, .f64, false, .rne, false, 0, 0, false, true, false, false, false, 0x8048, 0x5000, ⟨true, 0, 9, 9, 1, .l⟩,
      ⟨true, 0, 9, 9, 1, .r⟩⟩) ∧
  decodeWord 0x61E00610000400008048480000000000#128 = .ok (.wave
    ⟨2, .f64, false, .rne, false, 3, 0, true, false, false, false, false, 4, 0, ⟨true, 0, 9, 9, 0, .l⟩, ⟨false, 0, 0, 0, 0, .l⟩⟩) ∧
  decodeWord 0x801C0000000000000000000000000000#128 = .ok (.nwr
    ⟨1, .i64, false, .rne, false, 0, 0, false, false, false, false, false, 0, 0, ⟨false, 0, 0, 0, 0, .l⟩, ⟨false, 0, 0, 0, 0, .l⟩⟩) ∧
  decodeWord 0xC0F40020000000028048480400000000#128 = .ok (.mmRun
    ⟨3, .bf16, false, .rne, false, 0, 1, false, false, false, false, false, 0, 2, ⟨true, 0, 9, 9, 1, .l⟩, ⟨false, 0, 0, 0, 0, .l⟩⟩)

/-- R71, R95, R96: decoding gives back every encoded instruction, with every operand at every value; the steps of the
machine's own units have no word. -/
def Obligations.DecodeOfEncode : Prop :=
  (∀ (i : Instr) (w : StationWord), i.svcMatches = true → encode i = some w → decodeWord w = .ok i) ∧
  (∀ (i : Instr), encode i = none ↔ codeOf i = none) ∧
  (∀ (i : Instr) (w : StationWord), i.svcMatches = true → encode i = some w →
    decode (leBytes 16 w.toNat) = .ok (i, []))

/-- R95, R97: an opcode of group 7 is reserved, an opcode that the map does not list is unassigned, and neither word decodes to
an instruction; every other word decodes to the instruction of its opcode with the fields of R71. -/
def Obligations.UnassignedOpcodes : Prop :=
  ∀ (w : StationWord),
    (0x380 ≤ decodeOpcode w → decodeWord w = .error .opcodeReserved) ∧
    (decodeOpcode w < 0x380 →
      (0x02B ≤ decodeOpcode w ∧ decodeOpcode w ≤ 0x07F ∨ 0x09D ≤ decodeOpcode w ∧ decodeOpcode w ≤ 0x0FF ∨
       0x10F ≤ decodeOpcode w ∧ decodeOpcode w ≤ 0x17F ∨ 0x194 ≤ decodeOpcode w ∧ decodeOpcode w ≤ 0x1FF ∨
       0x216 ≤ decodeOpcode w ∧ decodeOpcode w ≤ 0x27F ∨ 0x28F ≤ decodeOpcode w ∧ decodeOpcode w ≤ 0x2FF ∨
       0x30C ≤ decodeOpcode w ∧ decodeOpcode w ≤ 0x37F) →
      decodeWord w = .error .opcodeUnassigned) ∧
    (∀ i, decodeWord w = .ok i → ∃ op f, codeOf i = some (op, f) ∧ op = decodeOpcode w ∧ f = decodeFields w ∧
      (0x380 ≤ op → False))

/-- What every word that passes the loader's checks of the word alone keeps: the arity (R72) and the immediate (R73) of its
opcode's port list; the formats of R75, R76, R113, R115 and R116; W32 on the forms of R77; the tagops of R80; the reservation of
R81; one use of imm16 (R82); absent targets of zeros (R85), valid ones that exist and differ (R86), and a third target where R87
allows one; the limits of R115. -/
def Obligations.AcceptedWords : Prop :=
  ∀ (op : Nat) (f : Fields), wordReject op f = none →
    let t := f.tagop.toNat
    let n := f.arity.toNat - (if f.imm then 1 else 0)
    let a := f.aux16.toNat
    let w := if f.fmtOut = .i8 then 8 else if f.w32 then 32 else 64
    (∃ o, opInfo op = some o ∧ (f.arity.toNat = o.ports.count ∨ (f.arity = 0 ∧ (o.ports = .l ∨ o.ports = .lrImm))) ∧
      (o.ports = .lrImm → f.imm = true) ∧ (o.ports = .l ∨ o.ports = .lp → f.imm = false)) ∧
    (op < 0x80 → f.fmtOut = .i64 ∨ f.fmtOut = .i8) ∧ (0x80 ≤ op → op < 0x100 → Fmt.isFloat f.fmtOut = true) ∧
    (0x180 ≤ op → op ≤ 0x18E → op ≠ 0x185 → op ≠ 0x18C →
      f.fmtOut = .f64 ∧ f.round = .rne ∧ f.sat = false ∧ f.lock = false) ∧
    (f.w32 = true → f.fmtOut = .i64 ∧ ((op < 0x80 ∧ op ≠ 0x1E) ∨ (0x191 ≤ op ∧ op ≤ 0x193) ∨
      (0x20B ≤ op ∧ op ≤ 0x212 ∧ op ≠ 0x20C))) ∧
    (t = 3 ↔ op = 0x187) ∧ t ≤ 8 ∧ (0x188 ≤ op → op ≤ 0x18E → t = 0) ∧ (5 ≤ t → f.tri = false ∧ 1 ≤ a % 16) ∧
    (max 1 (n - 1) ≤ f.reserve.toNat + 1 ∧ (f.lock = true → n ≤ f.reserve.toNat + 1)) ∧
    (f.imm16 ≠ 0 → f.imm = true ∨ t = 4 ∨ f.tri = true) ∧ ¬(f.imm = true ∧ f.tri = true) ∧
    (t = 4 → f.imm = false ∧ f.tri = false) ∧ (f.tri = true → t ≤ 2 ∧ (Fields.targetC f).valid = true) ∧
    (∀ g ∈ [f.a, f.b], g.valid = false → g.die = 0 ∧ g.row = 0 ∧ g.col = 0 ∧ g.station = 0 ∧ g.port = .l) ∧
    (∀ g ∈ Fields.targets f, g.valid = true → placeExists (Target.site g) g.station.toNat = true) ∧
    (f.a.valid = true → f.a ≠ f.b ∧ f.a ≠ Fields.targetC f) ∧ (f.b.valid = true → f.b ≠ Fields.targetC f) ∧
    (op ∈ [0x1B, 0x1E, 0x20, 0x27, 0x28, 0x29, 0x2A] → f.fmtOut = .i64) ∧
    (op = 0x27 ∨ op = 0x28 → a < w) ∧ (op = 0x29 ∨ op = 0x2A → a < 4096 ∧ a % 64 + (a / 64 + 1) ≤ w) ∧ (op = 0x1E → a < 8)

/-! ### The step -/

/-- A step runs the head of the agenda: an issue runs the decoded station word of the entry that the selector picks, given
the stations whose lane has no credit, at the state after the issue (R223), a word of no assigned opcode is refused by name, and a step of a unit runs as itself; with
no entry to issue nothing happens. Without an agenda the fixed order of log entry 1 picks the turn. -/
def Obligations.StepRunsDecoded : Prop :=
  (∀ (s : State) (x : Site) (full : List Nat) (ts : List Turn) (e : Ready) (i : Instr), s.agenda = .issue x full :: ts → isPe x = true →
    ({ s with agenda := ts } : State).pick (Site.key x) full = some e →
    decodeWord ((s.pe (Site.key x)).word e.ctx e.station) = .ok i →
    step s = exec i (({ s with agenda := ts } : State).issue (Site.key x) e)) ∧
  (∀ (s : State) (x : Site) (full : List Nat) (ts : List Turn) (e : Ready) (d : DecodeError), s.agenda = .issue x full :: ts → isPe x = true →
    ({ s with agenda := ts } : State).pick (Site.key x) full = some e →
    decodeWord ((s.pe (Site.key x)).word e.ctx e.station) = .error d → step s = .refused .undecodable) ∧
  (∀ (s : State) (x : Site) (full : List Nat) (ts : List Turn), s.agenda = .issue x full :: ts → isPe x = true →
    ({ s with agenda := ts } : State).pick (Site.key x) full = none → step s = .next { s with agenda := ts }) ∧
  (∀ (s : State) (i : Instr) (ts : List Turn), s.agenda = .event i :: ts →
    (s.fatal = false ∨ afterFatal i = true → step s = exec i { s with agenda := ts }) ∧
    (s.fatal = true → afterFatal i = false → step s = .next { s with agenda := ts })) ∧
  (∀ (s : State) (d n : Nat) (ts : List Turn), s.agenda = .tick d n :: ts →
    step s = .next (({ s with agenda := ts } : State).tick d n)) ∧
  (∀ (s : State), s.agenda = [] → step s = match s.nextTurn with
    | some t => runTurn t s
    | none => .next s.tickAll)

/-- R223: the entry that issues is ready, eligible (its station's lane has credit and no earlier result of its station is still
to leave: log entry 82) and in the first context after the one last served that has an eligible
entry; no eligible entry of that context was matched earlier; and a PE issues at most once in a cycle. -/
def Obligations.SelectorOrder : Prop :=
  (∀ (s : State) (x : Nat) (full : List Nat) (e : Ready), s.pick x full = some e →
    e ∈ (s.pe x).ready ∧ eligible s x full (s.pe x) e = true ∧ (s.pe x).nextIssue ≤ s.now (Site.ofKey x).die ∧ s.fatal = false ∧
    (∀ e' ∈ (s.pe x).ready, e'.ctx = e.ctx → eligible s x full (s.pe x) e' = true → e.matched ≤ e'.matched) ∧
    (∃ n, 1 ≤ n ∧ n ≤ 8 ∧ e.ctx = ((s.pe x).lastCtx + n) % 8 ∧
      ∀ m, 1 ≤ m → m < n → ∀ e' ∈ (s.pe x).ready, e'.ctx = ((s.pe x).lastCtx + m) % 8 → eligible s x full (s.pe x) e' = false)) ∧
  (∀ (s : State) (x : Nat) (full : List Nat) (e : Ready),
    ((s.issue x e).pe x).nextIssue = s.now (Site.ofKey x).die + 1 ∧ ((s.issue x e).pe x).lastCtx = e.ctx ∧
    ((s.issue x e).pe x).ready = (s.pe x).ready.erase e ∧
    (s.issue x e).firing = ⟨x, e.ctx, e.station, e.tag, e.matched, e.toks, e.entries, e.shared⟩ ∧ (s.issue x e).mem = s.mem ∧
    (∀ k, k ≠ x → (s.issue x e).pe k = s.pe k) ∧ (s.issue x e).pick x full = none)

/-- R139, R140, R320: a load without a handler reports its error; a fault-kind error of one that has a handler takes the
lowest free entry of the fault buffer, with the token saved, and its error token goes to the handler's entry station under
that entry's number; with all 64 in use it waits; a report-kind error goes under tag 0xFFFF and takes no entry. -/
def Obligations.TakingAnError : Prop :=
  ∀ (s : State) (region : Nat) (r : ErrRec) (saved : Option Token) (hasDst : Bool),
    (s.handlerOf region = none → s.raiseError region r saved hasDst = s.report 0 r r.payload) ∧
    (∀ h, s.handlerOf region = some h →
      let go := fun (tag : Nat) => errorFlight (s.region h) (s.handlerSite (s.region h)) r tag
      let u := s.raiseError region r saved hasDst
      (faultKind r.code = false → u = { s with net := s.net ++ [go 0xFFFF] }) ∧
      (∀ e, faultKind r.code = true → e < 64 → Map.find (s.region h).faults e = none →
        (∀ e' < e, (Map.find (s.region h).faults e').isSome) →
        Map.find (u.region h).faults e = some ⟨saved.getD Token.zero, hasDst⟩ ∧ u.net = s.net ++ [go e] ∧
        (∀ e' ≠ e, Map.find (u.region h).faults e' = Map.find (s.region h).faults e') ∧
        u.mem = s.mem ∧ u.hostMem = s.hostMem ∧ u.pes = s.pes ∧ (∀ k ≠ h, u.region k = s.region k)) ∧
      (faultKind r.code = true → (∀ e < 64, (Map.find (s.region h).faults e).isSome) →
        (u.region h).faultWait = (s.region h).faultWait ++ [⟨r, ⟨saved.getD Token.zero, hasDst⟩⟩] ∧ u.net = s.net))

/-! ### State, reset and memory -/

/-- What the spec says of the machine after reset: nothing is configured, resident, in flight or recorded; the registers of
R348, R369, R378, R381 to R384, R391, R419, R420 and R425 hold their reset values; both memories are in canonical form. What memory
reads as, and the fuses in REPMAP, are the model's choices (log entries 2 and 4). -/
def Obligations.ResetState : Prop :=
  State.reset.memOk ∧
  (∀ a, Memory.read State.reset.mem a = Config.unwritten) ∧
  (∀ k, State.reset.pe k = Pe.idle ∧ State.reset.tile k = Tile.clear ∧ State.reset.oper k = Oper.idle ∧
    State.reset.region k = Region.empty ∧ (State.reset.region k).valid = false ∧ (State.reset.region k).limit = 20 ∧
    (State.reset.region k).hold = 48 ∧ State.reset.matrix k = Matrix.clear ∧ (State.reset.link k).state = 0) ∧
  (∀ d, (State.reset.die d).scrub = 0x40 ∧ (State.reset.die d).strcnt = 0 ∧ (State.reset.die d).strlog = 0 ∧
    (State.reset.die d).suspe = [] ∧ (State.reset.die d).senstat = 0 ∧ State.reset.now d = 0) ∧
  State.reset.net = [] ∧ State.reset.insts = [] ∧ State.reset.images = [] ∧ State.reset.reports = [] ∧ State.reset.tlb = [] ∧
  State.reset.fatal = false ∧ State.reset.hostOpen = false ∧ State.reset.modRegs.pwrcap = 0x41A ∧
  State.reset.modRegs.hifact = 0 ∧ State.reset.modRegs.fstat = 0 ∧ State.reset.modRegs.rqcfg = 0 ∧ State.reset.modRegs.fqcfg = 0 ∧
  (∀ q, (Map.get State.reset.queues QueueReg.zero q).cfg = 0)

/-- Both memories stay in their canonical form: for every state in that form, whatever the step, so is the next state. -/
def Obligations.MemoryKeepsItsForm : Prop :=
  ∀ s t : State, s.memOk → step s = .next t → t.memOk

/-- R6: bytes written lie at rising addresses, the lowest byte of a word first, and a write leaves every other byte; memories
in canonical form that read alike are equal. -/
def Obligations.MemoryReadsWhatWasWritten : Prop :=
  (∀ (m : Memory) (a : Nat) (bs : List Byte), Memory.wf m = true →
    Memory.wf (Memory.writeBytes m a bs) = true ∧
    Memory.readBytes (Memory.writeBytes m a bs) a bs.length = bs ∧
    (∀ q, q < a ∨ a + bs.length ≤ q → Memory.read (Memory.writeBytes m a bs) q = Memory.read m q)) ∧
  (∀ (m : Memory) (a : Nat) (w : Word), Memory.wf m = true →
    Memory.readWord (Memory.writeBytes m a (leBytes 8 w.toNat)) a = w ∧
    ∀ i, i < 8 → Memory.read (Memory.writeBytes m a (leBytes 8 w.toNat)) (a + i) = w.extractLsb' (8 * i) 8) ∧
  (∀ (m n : Memory), Memory.wf m = true → Memory.wf n = true → (∀ a, Memory.read m a = Memory.read n a) → m = n)

/-! ### Steps of PEs and their network -/

/-- R219, R220, R222, R227, R36: a token at its resident station forms a matched set alone, or takes a matching entry of its
station's reservation or of the shared pool, or completes the set that waits for it, and leaves the network; a token granted an
entry and a token of a ganged lane arrive in the same way. A matched set enters the ready queue while that has room and no set
waits before it, and the first waiting one follows, one in a cycle, when there is room. R149: a contribution to a sum whose turn
has not come takes an entry of its own. That a set of one token, which holds no entry (R31), waits in the router while the ready
queue has no room is the model's reading (log entry 98); it stays marked where the issue of its context is stopped. -/
def Obligations.ArrivalAndMatching : Prop :=
  (∀ (s : State) (n k : Nat) (fl : Flight) (t : Token) (o : OpInfo),
    let x := Token.site t
    let p := s.pe (Site.key x)
    let c := t.ctx.toNat
    let st := t.station.toNat
    let tag := t.tag.toNat
    let w := p.word c st
    let f := decodeFields w
    let u : State := { s with net := s.net.eraseIdx n }
    let mine := p.entries.filter (fun e => e.ctx == c && e.station == st && e.tag == tag)
    let have' := mine.map (fun e => (e.port, e.tok)) ++ [(t.port, t)]
    let single := alone p f (wordOp w) c st o t.port
    let goes := fun (g : Pe → Pe) => ∀ i ∈ [Instr.tokenArrival n, .matchingEntryGranted x n, .gangedLaneTimeout k n],
      exec i s = .next (u.onPe (Site.key x) g)
    s.fatal = false → headOfLane s.net n = some fl → fl.msg = .token t → fl.dst = Site.key x → isPe x = true → isPe (Site.ofKey (Site.key x)) = true →
    p.ctxState c = 1 → stationBad p t = none → opInfo (wordOp w) = some o → t.port ≠ .c → feedSide s t = none →
    s.regionAt x c = some k → (s.region k).holdsPe (Site.ofKey (Site.key x)) = true → fl.input = false → fl.isAnswer = false →
    isDead (s.region k) (Site.key x) st tag = false → (f.lock = true → t.fmt = f.fmtOut) →
    (∀ m, single = true → (p.ready.length < 16 ∧ p.marked = [] ∨ s.stopped (Site.key x) c = true) →
      grantMany (Site.key x) c st tag (entriesNeeded p c st t) u = some m →
      goes (fun p => p.matchedSet ⟨c, st, tag, s.now t.die.toNat, [t], entriesNeeded p c st t, m⟩)) ∧
    (single = true → (16 ≤ p.ready.length ∨ p.marked ≠ []) → s.stopped (Site.key x) c = false →
      ∀ i ∈ [Instr.tokenArrival n, .matchingEntryGranted x n, .gangedLaneTimeout k n], exec i s = .next s) ∧
    (single = false → (∀ e ∈ mine, e.port ≠ t.port ∧ e.pending = false) → wordOp w ≠ 0x186 →
      (∀ e ∈ p.marked, ¬(e.ctx = c ∧ e.station = st ∧ e.tag = tag)) → (∀ q ∈ awaited o f, ∃ y ∈ have', y.1 = q) →
      goes (fun p => ({ p with entries := p.entries.filter (fun e => !(e.ctx == c && e.station == st && e.tag == tag)) } : Pe).matchedSet
        ⟨c, st, tag, s.now t.die.toNat, orderToks (awaited o f) have', mine.length, (mine.filter Entry.shared).length⟩)) ∧
    (∀ pool, single = false → (∀ e ∈ mine, e.port ≠ t.port) → (∀ e ∈ p.marked, ¬(e.ctx = c ∧ e.station = st ∧ e.tag = tag)) →
      (∃ q ∈ awaited o f, ∀ y ∈ have', y.1 ≠ q) → grant u (Site.key x) c st tag = some pool →
      goes (fun p => { p with entries := p.entries ++ [⟨c, st, tag, t.port, t, false, pool⟩] }))) ∧
  (∀ (p : Pe) (r : Ready),
    (p.ready.length < 16 → p.marked = [] → p.matchedSet r = { p with ready := p.ready ++ [r] }) ∧
    ((16 ≤ p.ready.length ∨ p.marked ≠ []) → p.matchedSet r = { p with marked := p.marked ++ [r] })) ∧
  (∀ (p : Pe) (c st : Nat) (t : Token), p.isAcc c st = true → p.ready = [] → p.marked = [] →
    entriesNeeded p c st t = match Map.find p.accum (accKey c st t.tag.toNat) with
      | some a => if t.seq.toNat = a.next % 64 then 0 else 1
      | none => if t.seq = 0 then 1 else 2) ∧
  (∀ (s : State) (x : Site) (r : Ready) (rs : List Ready), (s.pe (Site.key x)).marked = r :: rs →
    (s.pe (Site.key x)).ready.length < 16 → (s.pe (Site.key x)).nextEnter ≤ s.now x.die → ∃ t, exec (.readyQueueEntry x) s = .next t ∧
      t.pe (Site.key x) = { s.pe (Site.key x) with
        ready := (s.pe (Site.key x)).ready ++ [r], marked := rs, nextEnter := s.now x.die + 1 } ∧
      (∀ k, k ≠ Site.key x → t.pe k = s.pe k) ∧ { t with pes := s.pes } = s)

/-- R105, R156, R88, R58: a result that is ready leaves its PE: what goes inside the region is sent, in order, what goes beyond it
enters the caboose, and an exceptional one is logged; a response keeps its class, and another token has that of its destination
(R32, log entry 84). R401, R407: a caboose effect that may be released leaves it and takes effect, and its key is released; one
whose key was released before sends nothing. R228: a held token whose tag is live, or can be admitted and is next, enters the
region and is kept as an input; where the undo log is full (a free value, log entry 32), the region becomes unprotected. -/
def Obligations.ResultsAndReleases : Prop :=
  (∀ (s : State) (x : Site) (n k : Nat) (q : Result) (t : Token) (c : Cls),
    let site := Site.key x
    let p := s.pe site
    let u := s.onPe site (fun p => { p with results := p.results.erase q })
    s.fatal = false → p.results[n]? = some q → q.ready ≤ s.now x.die →
    (∀ a ∈ p.results.take n, ¬(a.ctx = q.ctx ∧ a.station = q.station)) → s.regionAt x q.ctx = some k →
    cabooseRoom s (some k) 1 = true → admitWants s k site q = [] → wordOp (p.word q.ctx q.station) ≠ 0x28D →
    (q.cause ≠ 0 → q.emits = [] → exec (.resultInjection x n) s = .next
      (u.onRegion k (fun g => g.logPoison (s.now x.die) (logEntry q.cause x q.station q.ctx q.tag)))) ∧
    (q.cause = 0 → q.emits = [.token t c] → placeExists (Token.site t) t.station.toNat = true →
      let inside := s.regionAt (Token.site t) t.ctx.toNat == some k
      let fl : Flight := ⟨site, q.station, if c = .response then .response else s.clsOf t, Site.key (Token.site t), Token.lane t,
        .token t, k + 1, !inside, p.colour⟩
      exec (.resultInjection x n) s = .next (if inside then { u with net := s.net ++ [fl] }
        else enterCaboose k site q.station q.tag q.wave t.seq.toNat (.send fl) u))) ∧
  (∀ (s : State) (k n : Nat) (e : Effect) (f : Flight),
    let s0 := retireTags s k
    (s0.region k).caboose[n]? = some e → releasable s0 k n e = true → e.act = .send f →
    ((s0.region k).keyOut e.key = false → ∃ t, exec (.cabooseRelease k n) s = .next t ∧ t.net = s.net ++ [f] ∧
      (t.region k).caboose = (s0.region k).caboose.eraseIdx n ∧ ((∀ q, f.msg ≠ .port q) → (t.region k).progress = 0) ∧
      (t.region k).keysOut = (if (s0.region k).unprot then (s0.region k).keysOut else (s0.region k).keysOut ++ [(e.key, e.wave)])) ∧
    ((s0.region k).keyOut e.key = true → (∀ q, f.msg ≠ .port q) → (s0.region k).inputs = [] →
      ∃ t, exec (.cabooseRelease k n) s = .next t ∧ t.net = s.net ∧
        (t.region k).caboose = (s0.region k).caboose.eraseIdx n)) ∧
  (∀ (s : State) (k i : Nat) (fl : Flight) (rest : List Flight) (t : Token),
    let s0 := tagRetire s k
    let r := s0.region k
    let m := member fl.dst (if isPe (Site.ofKey fl.dst) then t.station.toNat else 0)
    r.admits = true → r.launchQ = fl :: rest → fl.msg.token? = some t → fl.input = true → fl.isAnswer = false → r.unprot = false →
    (r.inputs.filter (fun x => x.2.2.lane == fl.lane)).length < r.replayCap → r.domainOf m = some i →
    ((r.domains.getD i Domain.none).isLive t.tag.toNat = true → ∃ u, exec (.tagAdmission k) s = .next u ∧
      (u.region k).launchQ = rest ∧
      (if Config.undoFull k (s0.now r.die) then (u.region k).unprot = true ∧ (u.region k).inputs = []
       else u.net = s0.net ++ [{ fl with input := false }] ∧ (u.region k).inputs = r.inputs ++ [(r.wave, s0.now r.die, fl)])) ∧
    ((r.domains.getD i Domain.none).isLive t.tag.toNat = false → canAdmit s0 k i (some m) t.tag.toNat = true →
      isNext s0 k i t.tag.toNat m = true → ∃ u, exec (.tagAdmission k) s = .next u ∧ (u.region k).launchQ = rest ∧
      ((u.region k).domains.getD i Domain.none).isLive t.tag.toNat = true))

/-- R242, R349: the monitor records a stall and raises it; R140: an error that waited takes the freed entry; R177: a
word joins the row of its key, the eighth with E0 completes it, and the row is held; R189: a controller form takes
effect in its turn, a run begins in its turn, one with no pass left ends, and a WS step sends its column results into
the last row's PEs. That one systolic step makes a whole row is the model's choice (log entry 35). -/
def Obligations.MonitorBufferAndArray : Prop :=
  (∀ (s : State) (k : Nat), stallDue s k = true → ∃ t, exec (.stall k) s = .next t ∧
    t = (s.onRegion k (fun r => { r with
      stalled := true
      warned := true
      stallRec := BitVec.ofNat 64 (2 ^ 63 + (stallRecord s k).payload.toNat % 2 ^ 56) })).raiseError k (stallRecord s k) none false) ∧
  (∀ (s : State) (h e : Nat) (w : FaultWait) (ws : List FaultWait), (s.region h).faultWait = w :: ws →
    freeFault 64 (s.region h).faults 0 = some e → ∃ t, exec (.faultEntryFreed h) s = .next t ∧
      (t.region h).faultWait = ws ∧ Map.find (t.region h).faults e = some w.saved ∧
      t.net = s.net ++ [errorFlight (s.region h) (s.handlerSite (s.region h)) w.origin e]) ∧
  (∀ (s : State) (n k side : Nat) (fl : Flight) (t : Token) (rows : List Row), headOfLane s.net n = some fl → fl.msg = .token t →
    fl.input = false → fl.cls ≠ .response → (s.pe (Site.key (Token.site t))).ctxState t.ctx.toNat = 1 → feedSide s t = some (k, side) →
    isDead (s.region k) (Site.key (Token.site t)) t.station.toNat t.tag.toNat = false →
    feedRow (if side = 1 then (s.pe (Site.key (Token.site t))).west else (s.pe (Site.key (Token.site t))).north) t = .taken rows →
    exec (.feedWord n) s = .next (({ s with net := s.net.eraseIdx n } : State).onPe (Site.key (Token.site t)) (fun p =>
      if side = 1 then { p with west := rows } else { p with north := rows }))) ∧
  (∀ (rows : List Row) (t : Token) (r : Row), rows.find? (fun r => !r.done && r.tag == t.tag.toNat && r.seq == t.seq.toNat) = some r →
    rows.any (fun r => r.done && r.tag == t.tag.toNat && r.seq == t.seq.toNat) = false → r.words.length = 7 →
    t.ends.getLsbD 0 = true → (rows.filter Row.done).length < 4 →
    feedRow rows t = .taken (rows.filter (fun q => q.done || q.tag != t.tag.toNat || q.seq != t.seq.toNat) ++
      [⟨r.tag, r.seq, r.words ++ [t.payload], r.poison || t.poison, true⟩])) ∧
  (∀ (s : State) (x : Site) (k : Nat) (q : MatOp) (qs : List MatOp), (s.matrix (Site.key x)).queue = q :: qs →
    s.regionAt x q.ctx = some k →
    let u : State := { s.onMatrix (Site.key x) (fun m => { m with queue := m.queue.drop 1 }) with
      firing := ⟨Site.key x, q.ctx, q.station, q.tag, 0, if q.fields.imm then [q.l, q.p] else [q.l, q.r, q.p], 0, 0⟩ }
    let next := nextPass q.mask (field q.r.payload 29 24) (field q.r.payload 23 16) 65 q.pass
    (q.op ≠ 0x303 → q.op ≠ 0x304 → ∃ t, exec (.systolicStep x) s = .next t ∧ t = ctlEffect q.op q.fields u) ∧
    ((q.op = 0x303 ∨ q.op = 0x304) → q.started = false → ∃ t, exec (.systolicStep x) s = .next t ∧ t = beginRun q.op q.fields u) ∧
    ((q.op = 0x303 ∨ q.op = 0x304) → q.started = true → next = none → ∃ t, exec (.systolicStep x) s = .next t ∧
      t = endRun (Site.key x) q (s.region k) s) ∧
    (∀ g, q.op = 0x303 → q.started = true → next = some g →
      let pt := (q.emitTag + g) % 65536
      let cnt := field q.l.payload 6 0
      let steps := field q.r.payload 15 0
      let outs := wsRow s (s.region k) (s.matrix (Site.key x)) { q with pass := g } pt q.step steps cnt
      let fin := max (s.now (s.region k).die) q.last + 1
      (loopAdmits k q.ctx (outs.map Prod.fst) s).isSome = true →
      (∀ i < steps, (findRow (s.pe (Site.key ((s.region k).peAt i 0))).west pt q.step).isSome) →
      ∃ t, exec (.systolicStep x) s = .next t ∧
        t.net = s.net ++ outs.map (fun o =>
          ⟨Site.key (Token.site o.1), q.station, .data, Site.key (Token.site o.1), Token.lane o.1, .token o.1, k + 1, false, false⟩) ∧
        (t.matrix (Site.key x)).queue = (if q.step + 1 < cnt then { q with pass := g, step := q.step + 1, last := fin }
          else { q with pass := g + 1, step := 0, passes := q.passes + 1, last := fin }) :: qs))

/-- R333 to R337, R334: a coupling token under the serial in force is counted, one under another serial is discarded, and the
first sets the serial; a station or operator whose join holds forwards one coupling token to each valid target inside its
region, once; a region starts to drain with one coupling token for each origin, and shows drained when it is. R146: a squash of
a tag that is not live is counted, and one of a live tag acts, purging later tags' operands. -/
def Obligations.CouplingAndSquash : Prop :=
  (∀ (s : State) (n k : Nat) (fl : Flight) (t : Token),
    let x := Site.key (Token.site t)
    let v := t.payload.toNat % 2 ^ 32
    headOfLane s.net n = some fl → fl.msg = .token t → fl.input = false → fl.cls ≠ .response → t.port = .c → ctlKind t = 1 → ctlBad t = none →
    couplesFirst s k t = false → operState s x t = .open ∨ operState s x t = .drained → (isPe (Token.site t) = true → (s.pe x).ctxState t.ctx.toNat = 1) → s.regionAt (Token.site t) t.ctx.toNat = some k →
    ∃ u, exec (.couplingTokenArrival n) s = .next u ∧ u.net = s.net.eraseIdx n ∧ u.mem = s.mem ∧ (u.region k).serialSet = true ∧
      ((s.region k).serialSet = true → u.region k = s.region k) ∧
      ((s.region k).serialSet = false → (u.region k).serial = BitVec.ofNat 64 v ∧
        (u.region k).status = if (s.region k).status = 2 then 3 else (s.region k).status) ∧
      ((s.region k).serialSet = true → (s.region k).serial.toNat ≠ v → u.pe x = s.pe x ∧ u.oper x = s.oper x) ∧
      ((s.region k).serialSet = false ∨ (s.region k).serial.toNat = v →
        (if isPe (Token.site t) then (u.pe x).joins = Map.alter (s.pe x).joins 0 (stKey t.ctx.toNat t.station.toNat) (fun n => n + 1)
         else (u.oper x).joins = (s.oper x).joins + 1))) ∧
  (∀ (s : State) (x : Site) (c st k : Nat),
    let p := s.pe (Site.key x)
    let f := decodeFields (p.word c st)
    s.regionAt x c = some k → (s.region k).halted = false → joinReady s k (Site.key x) c st = true → wordOp (p.word c st) ≠ 0x187 → wordOp (p.word c st) ≠ 0x303 →
    cabooseRoom s (some k) (validTargets f).length = true →
    (∀ g ∈ validTargets f, isTile (Target.site g) = false ∧ s.regionAt (Target.site g) c = some k) →
    ∃ t, exec (.joinForward x c st) s = .next t ∧ (t.pe (Site.key x)).forwarded = stKey c st :: p.forwarded ∧
      (t.region k).drainedTo = member (Site.key x) st :: (s.region k).drainedTo ∧
      t.net = s.net ++ (validTargets f).map (fun g => (coupleFlight (Site.key x) st c k (s.region k).serial g).2) ∧
      (wordOp (p.word c st) = 0x186 → p.invar.Pairwise (fun a b => a.1 < b.1) →
        Map.find (t.pe (Site.key x)).invar (stKey c st) = none)) ∧
  (∀ (s : State) (x : Site) (k : Nat),
    let o := s.oper (Site.key x)
    o.region = k + 1 → (s.region k).halted = false → operJoinReady s (Site.key x) = true → o.kind ≠ 5 → o.kind ≠ 7 →
    cabooseRoom s (some k) 4 = true →
    (∀ g ∈ (operTargets o).filter Target.valid, isTile (Target.site g) = false ∧ s.regionAt (Target.site g) (operCtx o) = some k) →
    ∃ t, exec (.operatorCouplingForward x) s = .next t ∧ (t.oper (Site.key x)).forwarded = true ∧ (t.oper (Site.key x)).state = 0 ∧
      (t.region k).drainedTo = member (Site.key x) 0 :: (s.region k).drainedTo ∧
      t.net = s.net ++ ((operTargets o).filter Target.valid).map (fun g =>
        (coupleFlight (Site.key x) 0 (operCtx o) k (s.region k).serial g).2)) ∧
  (∀ (s : State) (x : Nat), let o := s.oper x
    operJoinReady s x = true → (s.region (o.region - 1)).serialSet = true ∧ o.forwarded = false ∧ max 1 o.fanin ≤ o.joins ∧
      (o.state = 0 ∨ o.state = 4) ∧ o.moves = [] ∧ o.out = [] ∧ o.fences = [] ∧ (∀ d ∈ o.doms, d.2.waiting = []) ∧
      ∀ a ∈ s.accesses, ¬(a.oper = x ∧ a.phase < 5)) ∧
  (∀ (s : State) (k : Nat) (v : Word), s.hostOpen = true → (s.region k).status = 2 → (s.region k).serialSet = false →
    (s.region k).launchQ = [] → ∃ t, exec (.gracefulReconfiguration k v) s = .next t ∧ (t.region k).status = 3 ∧
      (t.region k).serialSet = true ∧ (t.region k).serial = BitVec.ofNat 64 (field v 63 32) ∧
      t.net = s.net ++ (couplingDests s k).map (fun g => { (coupleFlight (Site.key ⟨24, 0, 0⟩) 0 (s.region k).ctx k
        (BitVec.ofNat 64 (field v 63 32)) g).2 with cls := .control, region := 0, input := true })) ∧
  (∀ (s : State) (k : Nat), s.fatal = false → drainedNow s k = true →
    exec (.regionDrained k) s = .next (s.onRegion k (fun g => { g with status := 4 }))) ∧
  (∀ (s : State) (n k di : Nat) (fl : Flight) (t : Token),
    let x := Site.key (Token.site t)
    let i := t.payload.toNat % 2 ^ 16
    let u : State := { s with net := s.net.eraseIdx n }
    headOfLane s.net n = some fl → fl.msg = .token t → fl.input = false → fl.cls ≠ .response → t.port = .c → ctlKind t = 2 → ctlBad t = none →
    isPe (Token.site t) = true → isOper (Token.site t) = false → (s.pe x).ctxState t.ctx.toNat = 1 →
    wordOp ((s.pe x).word t.ctx.toNat t.station.toNat) = 0x187 →
    s.regionAt (Token.site t) t.ctx.toNat = some k → (s.region k).domainOf (member x t.station.toNat) = some di →
    exec (.squashTokenArrival n) s = .next (if ((s.region k).domains.getD di Domain.none).isLive i then squashAct k di i u
      else u.onRegion k (fun r => { r with squashes := r.squashes + 1 }))) ∧
  (∀ (d : Domain) (c site : Nat) (dead : Nat → Bool) (p : Pe) (e : Entry), e ∈ (purgePe d c site dead p).entries ↔
    e ∈ p.entries ∧ ¬(e.ctx = c ∧ member site e.station ∈ d.members ∧ dead e.tag = true))

/-! ### Steps of memory tiles -/

/-- R256: what a name word does at its slot, by the slot's state and generation, and R258: what a read does. A word that
arrives is written, stalls behind an older live occupant, or joins the words that stall; R153: a read of a name whose words
are all there sends every word, in order, to every target, and one of a name not yet written is deferred. R265: a request
whose slot lies in another tile goes there, to port 3, in its turn, where that port's queue has room. A word from another region
is an input of the tile's region and kept for a replay, where that is protected and its buffer and its undo log (a free value, log
entry 32) have room (R404). Where a step may fault, the fault buffers have room (R140: it would wait). -/
def Obligations.TileWords : Prop :=
  (∀ (d : Desc) (pos gen : Nat) (w : NameWord) (b : Bool) (t : Tile),
    let q := Map.get t.slots Slot.empty pos
    (q.state = 0 → writeWord d pos gen w b t = .wrote (putWord d pos w b (occupy d pos gen t))) ∧
    (d.newer gen q.gen = true → q.state = 1 ∨ q.state = 2 → writeWord d pos gen w b t = .stall) ∧
    (d.newer gen q.gen = true → 3 ≤ q.state → writeWord d pos gen w b t = .wrote (putWord d pos w b (occupy d pos gen t))) ∧
    (d.newer gen q.gen = false → gen = q.gen → q.state = 1 → writeWord d pos gen w b t = .wrote (putWord d pos w b t)) ∧
    (d.newer gen q.gen = false → gen = q.gen → q.state = 2 ∨ q.state = 3 → writeWord d pos gen w b t = .fault 0x06) ∧
    (d.newer gen q.gen = false → gen = q.gen → q.state = 4 → writeWord d pos gen w b t = .wrote (putWord d pos w b (occupy d pos gen t))) ∧
    (d.newer gen q.gen = false → gen ≠ q.gen → q.state ≠ 0 → writeWord d pos gen w b t = .fault 0x04)) ∧
  (∀ (d : Desc) (pos : Nat) (w : NameWord) (b : Bool) (t : Tile),
    let q := Map.get t.slots Slot.empty pos
    let u := putWord d pos w b t
    Map.find u.data (pos * d.words + q.cursor) = some w.payload ∧
    (∀ i, i ≠ pos * d.words + q.cursor → Map.find u.data i = Map.find t.data i) ∧
    (Map.get u.slots Slot.empty pos).cursor = q.cursor + 1 ∧ (∀ i, i ≠ pos → Map.find u.slots i = Map.find t.slots i) ∧
    (q.cursor + 1 = d.words → (Map.get u.slots Slot.empty pos).state = if q.readers = 0 ∧ q.held = 0 then 3 else 2)) ∧
  (∀ (d : Desc) (pos gen : Nat) (k : ReadKind) (t : Tile),
    let q := Map.get t.slots Slot.empty pos
    (q.state = 0 ∨ d.newer gen q.gen = true → readSlot d pos gen k t = .defer) ∧
    (d.newer gen q.gen = false → q.state = 4 → readSlot d pos gen k t = .fault 0x05) ∧
    (d.newer gen q.gen = false → q.state ≠ 0 → q.state ≠ 4 → gen ≠ q.gen → readSlot d pos gen k t = .fault 0x04) ∧
    (d.newer gen q.gen = false → q.state = 1 ∨ q.state = 2 → gen = q.gen → readSlot d pos gen k t = match k with
      | .npeek => .serve false
      | .nrd => if q.held < q.readers then .serve true else .fault 0x04
      | .nrel => if q.held < q.readers then .only else .fault 0x04) ∧
    (d.newer gen q.gen = false → q.state = 3 → gen = q.gen →
      readSlot d pos gen k t = if k = .npeek ∧ inPlace t pos = true then .serve false else .fault 0x04)) ∧
  (∀ (s : State) (n pos gen : Nat) (fl : Flight) (w : NameWord) (u : Tile),
    let t := s.tile fl.dst
    let d := t.desc w.ctx w.stmt
    let home := s.tileRegion (Site.ofKey fl.dst) w.ctx
    let w' : NameWord := { w with site := fl.site, station := fl.station, inside := home == some (fl.region - 1) && fl.region != 0 }
    s.fatal = false → (∀ k, handlerFull s k 0x01 = false) → headOfLane s.net n = some fl → fl.msg = .word w → fl.cls = .request →
    wordAhead s n fl = false → locate s fl.dst w.ctx w.stmt w.tag = some (fl.dst, pos, gen) →
    resizing s d (Site.ofKey fl.dst).die w.ctx w.stmt = false → (s.region (home.getD 0)).keysOut = [] → cabooseRoom s home 1 = true →
    (t.stalled = [] → t.serving = [] → t.peeks = [] → (Map.get u.slots Slot.empty pos).cursor ≠ 1 → w.reply = none →
      writeWord d pos gen w (!w'.inside) t = .wrote u → ∃ v, exec (.nameWordWrite n) s = .next v ∧
        v.tile fl.dst = u ∧ (∀ k, k ≠ fl.dst → v.tile k = s.tile k) ∧ v.mem = s.mem ∧
        (w'.inside = false → (∀ k, home = some k → (s.region k).unprot = true) →
          v.regions = s.regions ∧ v.pes = s.pes ∧ v.net = s.net.eraseIdx n) ∧
        (∀ k, w'.inside = false → home = some k → (s.region k).unprot = false →
          let fl' : Flight := ⟨fl.site, fl.station, .request, fl.dst, fl.dst * 2048 + 8, .word w, 0, true, false⟩
          ((s.region k).inputs.filter (fun x => x.2.2.lane == fl'.lane)).length < (s.region k).replayCap →
          if Config.undoFull k (s.now (s.region k).die) then (v.region k).unprot = true
          else (v.region k).inputs = (s.region k).inputs ++ [((s.region k).wave, s.now (s.region k).die, fl')] ∧
            v.net = s.net.eraseIdx n) ∧
        (w'.inside = true → v.net = s.net.eraseIdx n) ∧
        (w'.inside = true → ∃ e : Effect, (v.region (fl.region - 1)).caboose = (s.region (fl.region - 1)).caboose ++ [e] ∧
          e.act = .wordShown w.stmt fl.dst pos gen ((Map.get u.slots Slot.empty pos).cursor - 1))) ∧
    (t.stalled = [] → writeWord d pos gen w (!w'.inside) t = .stall → ∃ v, exec (.nameWordWrite n) s = .next v ∧
      (v.tile fl.dst).stalled = [{ w' with counted := true }] ∧ (v.tile fl.dst).data = t.data ∧ (v.tile fl.dst).slots = t.slots ∧ v.net = s.net.eraseIdx n) ∧
    (t.stalled ≠ [] → t.stalled.length < 8 → ∃ v, exec (.nameWordWrite n) s = .next v ∧
      v.tile fl.dst = { t with stalled := t.stalled ++ [w'] } ∧ v.net = s.net.eraseIdx n)) ∧
  (∀ (s : State) (x : Site) (pos gen : Nat) (w : NameWord) (ws : List NameWord) (u : Tile),
    let site := Site.key x
    let t := s.tile site
    let d := t.desc w.ctx w.stmt
    s.fatal = false → (∀ k, handlerFull s k 0x01 = false) → t.stalled = w :: ws → locate s site w.ctx w.stmt w.tag = some (site, pos, gen) → resizing s d x.die w.ctx w.stmt = false →
    w.inside = false → w.reply = none → t.serving = [] → t.peeks = [] → (Map.get u.slots Slot.empty pos).cursor ≠ 1 →
    writeWord d pos gen w true { t with stalled := ws } = .wrote u →
    ∃ v, exec (.stalledWordRetry x) s = .next v ∧ v.tile site = u ∧ (∀ k, k ≠ site → v.tile k = s.tile k) ∧
      v.mem = s.mem ∧ ((∀ k, s.tileRegion x w.ctx = some k → (s.region k).unprot = true) → { v with tiles := s.tiles } = s)) ∧
  (∀ (s : State) (n pos gen : Nat) (fl : Flight) (r : NameRead),
    let t := s.tile fl.dst
    let d := t.desc r.ctx r.stmt
    let home := s.tileRegion (Site.ofKey fl.dst) r.ctx
    let r' : NameRead := { r with
      site := fl.site, station := fl.station, since := if r.since = 0 then s.now (Site.ofKey fl.dst).die else r.since }
    let inside := home == some r.region
    s.fatal = false → (∀ k, handlerFull s k 0x01 = false) → headOfLane s.net n = some fl → fl.msg = .read r → fl.cls = .request →
    locate s fl.dst r.ctx r.stmt r.tag = some (fl.dst, pos, gen) →
    resizing s d (Site.ofKey fl.dst).die r.ctx r.stmt = false → (s.region r.region).keysOut = [] →
    r.kind = .npeek ∨ cabooseRoom s (some r.region) 1 = true →
    (t.serving = [] → readSlot d pos gen r.kind t = .serve false → (∀ i < d.words, visible t pos i inside = true) →
      ∃ v, exec (.nameReadRequest n) s = .next v ∧ { v.tile fl.dst with peeks := t.peeks } = t ∧ v.mem = s.mem ∧ v.net = s.net.eraseIdx n ++
        ((List.range d.words).map (fun i => wordFlights fl.dst (home.getD 0 + 1) ⟨r', pos, gen, 0, false⟩
          (wordToken d t ⟨r', pos, gen, 0, false⟩ i))).flatten) ∧
    (readSlot d pos gen r.kind t = .only → ∃ v, exec (.nameReadRequest n) s = .next v ∧
      (Map.get (v.tile fl.dst).slots Slot.empty pos).held = (Map.get t.slots Slot.empty pos).held + 1 ∧
      v.net = s.net.eraseIdx n ∧ ∃ e : Effect, (v.region r.region).caboose = (s.region r.region).caboose ++ [e] ∧
        e.act = .release r' fl.dst pos gen) ∧
    (readSlot d pos gen r.kind t = .defer → t.deferred.length < 256 → ∃ v, exec (.nameReadRequest n) s = .next v ∧
      (v.tile fl.dst).deferred = t.deferred ++ [{ r' with counted := true }] ∧ v.net = s.net.eraseIdx n)) ∧
  (∀ (s : State) (n at' pos gen : Nat) (fl : Flight), s.fatal = false → headOfLane s.net n = some fl → fl.cls = .request →
    at' ≠ fl.dst →
    let free := fun (ctx stmt : Nat) => resizing s ((s.tile fl.dst).desc ctx stmt) (Site.ofKey fl.dst).die ctx stmt = false
    ((∃ r, fl.msg = .read r ∧ free r.ctx r.stmt ∧ locate s fl.dst r.ctx r.stmt r.tag = some (at', pos, gen)) ∨
     (∃ w, fl.msg = .word w ∧ free w.ctx w.stmt ∧ (s.tile fl.dst).stalled = [] ∧ wordAhead s n fl = false ∧
       locate s fl.dst w.ctx w.stmt w.tag = some (at', pos, gen))) →
    queueLength s at' (at' * 2048 + 12) < 8 → exec (.requestForward n) s = .next { s with
      net := s.net.eraseIdx n ++ [{ fl with dst := at', lane := at' * 2048 + 12 }] })

/-- R263, R264, R266, R267: `fold.set` of the moduli in force answers with the last count, of moduli that are not
allowed or over a live occupant faults and changes nothing, and else puts the new moduli into every copy of the
descriptor at the tiles of its segment and the PEs of its load, and every deferred request is handled anew; a resize
waits 8 cycles and one for each granule of a live occupant, then moves the occupants and the effects that name them; a
query answers with the counters and clears them. A `fold.resize` is a request and its answer a response; the tokens of
the others are data (R32). The fault buffers have room (R140). R415, R416: the scrubber goes on by one granule, writes
back a corrected one unless the slot has changed, and the scrub of a tile ends. R273: the patrol reads on through T2.
That a bad sector keeps its bytes and reads as poison is the model's reading (log entry 48). -/
def Obligations.FoldsAndScrub : Prop :=
  (∀ (site k : Nat) (q : FoldReq) (v : Nat) (s : State), foldReply site k q v s = { s with net := s.net ++ q.reply.map (fun t =>
    ⟨site, 3, if q.kind = .resize then .response else .data, Site.key (Token.site t), Token.lane t, .token { t with payload := BitVec.ofNat 64 v }, k + 1, true, false⟩) }) ∧
  (∀ (s : State) (n : Nat) (fl : Flight) (q : FoldReq),
    let d := (s.tile fl.dst).desc q.ctx q.stmt
    let die := (Site.ofKey fl.dst).die
    let key := descKey q.ctx q.stmt
    let c := Map.get (s.tile fl.dst).counts ⟨0, 0, 0, 0⟩ key
    let u : State := { s with net := s.net.eraseIdx n }
    let d' : Desc := { d with w2 := q.moduli }
    let inLoad := fun (k : Nat) => ∃ a b, s.tileRegion (Site.ofKey (d.firstTile die)) q.ctx = some a ∧
      s.regionAt (Site.ofKey k) q.ctx = some b ∧ sameLoad s a b = true
    s.fatal = false → (∀ k, handlerFull s k 0x01 = false) → headOfLane s.net n = some fl → fl.msg = .fold q → fl.cls ≠ .response →
    (s.tile fl.dst).resizing = none →
    (q.kind = .set → q.moduli = d.w2 → exec (.foldSetApply n) s = .next (foldReply fl.dst q.region q c.resized u)) ∧
    (q.kind = .set → q.moduli ≠ d.w2 → moduliOk d q.moduli = false ∨ (∃ o ∈ occupied s d die, Slot.live o.2.2.2 = true) →
      exec (.foldSetApply n) s = .next (u.raiseError q.region ⟨0x12, Site.ofKey fl.site, fl.station, q.ctx, q.token.tag.toNat⟩
        (some q.token) true)) ∧
    (q.kind = .set → q.moduli ≠ d.w2 → moduliOk d q.moduli = true → (∀ o ∈ occupied s d die, Slot.live o.2.2.2 = false) →
      ∃ v, exec (.foldSetApply n) s = .next (foldReply fl.dst q.region q 0 v) ∧ u.net <+: v.net ∧ v.mem = s.mem ∧
        (∀ k ∈ d.segment die, (v.tile k).deferred = [] ∧ ∀ r ∈ (s.tile k).deferred,
          ⟨r.site, r.station, .request, k, k * 2048 + r.port * 4, .read r, r.region + 1, false, false⟩ ∈ v.net) ∧
        (∀ k ∈ d.segment die, (Map.find (s.tile k).descs key).isSome = true → Map.find (v.tile k).descs key = some d') ∧
        (∀ k, inLoad k → (Map.find (s.pe k).descs key).isSome = true → Map.find (v.pe k).descs key = some d') ∧
        (∀ k, ¬inLoad k → v.pe k = s.pe k)) ∧
    (q.kind = .resize → q.moduli ≠ d.w2 → moduliOk d q.moduli = true → moveClash d' (moves s d d' die) = false →
      ∃ v, exec (.foldResizeStart n) s = .next v ∧ v.net = u.net ∧ (v.tile fl.dst).resizing = some q ∧
        (v.tile fl.dst).resizeAt = s.now die + 8 + ((moves s d d' die).filter (fun m => Slot.live m.2.2.2)).length * ((d.words + 7) / 8) ∧
        (∀ k, (v.tile k).data = (s.tile k).data ∧ (v.tile k).slots = (s.tile k).slots)) ∧
    (q.kind = .resize → q.moduli ≠ d.w2 → moduliOk d q.moduli = false ∨ moveClash d' (moves s d d' die) = true →
      exec (.foldResizeStart n) s = .next (u.raiseError q.region ⟨0x12, Site.ofKey fl.site, fl.station, q.ctx, q.token.tag.toNat⟩
        (some q.token) true)) ∧
    (q.kind = .query →
      let live := ((occupied s d die).filter (fun o => Slot.live o.2.2.2)).length
      exec (.foldQueryServe n) s = .next (foldReply fl.dst q.region q
        (min 0xFFFF live + c.stalls * 2 ^ 16 + c.deferred * 2 ^ 32 + c.expired * 2 ^ 48)
        (u.onTile fl.dst (fun t => { t with counts := Map.put t.counts key { c with stalls := 0, deferred := 0, expired := 0 } }))))) ∧
  (∀ (s : State) (x : Site) (q : FoldReq), s.fatal = false → (s.tile (Site.key x)).resizing = some q → (s.tile (Site.key x)).resizeAt ≤ s.now x.die →
    let d := (s.tile (Site.key x)).desc q.ctx q.stmt
    let d' : Desc := { d with w2 := q.moduli }
    let live := ((moves s d d' x.die).filter (fun m => Slot.live m.2.2.2)).length
    ∃ v, exec (.foldResizeComplete x) s = .next (foldReply (Site.key x) q.region q live v) ∧
      (v.tile (Site.key x)).resizing = none ∧ v.mem = s.mem ∧ s.net <+: v.net ∧
      (∀ k, (v.region k).caboose = (s.region k).caboose.map (moveEffect d' x.die)) ∧
      (Map.get (v.tile (Site.key x)).counts ⟨0, 0, 0, 0⟩ (descKey q.ctx q.stmt)).resized = live) ∧
  (∀ (d : Desc) (die : Nat) (m : (Nat × Nat) × Nat × Nat × Slot) (data : SlotData) (s : State),
    Map.find (((placeMoved d die m data s).tile (Site.key (d.tileOf die m.1.1))).slots) (d.posOf m.1.1) =
      some { m.2.2.2 with gen := m.1.2 }) ∧
  (∀ (s : State) (x : Site) (fixed : Bool),
    let t := s.tile (Site.key x)
    s.fatal = false → isTile x = true → tileResizing s x = false → field (s.die x.die).scrub 15 0 ≠ 0 →
    (∃ v, exec (.scrubGranule x fixed false) s = .next v ∧ (v.tile (Site.key x)).scrubPos = (t.scrubPos + 1) % 12288 ∧
      (v.tile (Site.key x)).data = t.data ∧ (v.tile (Site.key x)).poisoned = t.poisoned ∧ { v with tiles := s.tiles } = s) ∧
    (∃ v, exec (.scrubGranule x fixed true) s = .next v ∧ (v.tile (Site.key x)).data = t.data ∧
      (let w := max 1 (((t.descs.map Prod.snd).getD 0 Desc.zero).words)
       let ctx := (t.descs.map Prod.fst).getD 0 0 / 4096
       (∀ i < 8, Map.find (v.tile (Site.key x)).poisoned ((t.scrubPos * 8 + i) / w * 512 + (t.scrubPos * 8 + i) % w / 8) = some true) ∧
       ∀ k, s.tileRegion (Site.ofKey (Site.key x)) ctx = some k →
         v.region k = (s.region k).logPoison (s.now (Site.ofKey (Site.key x)).die) (logEntry 4 (Site.ofKey (Site.key x)) 3 ctx 0)))) ∧
  (∀ (s : State) (x : Site) (g stamp : Nat) (words : List Word),
    let t := s.tile (Site.key x)
    let pos := g * 8 / max 1 (((t.descs.map Prod.snd).getD 0 Desc.zero).words)
    s.fatal = false → t.scrubWrite = some (g, stamp, words) →
    ((Map.get t.slots Slot.empty pos).stamp ≠ stamp →
      exec (.scrubWriteback x) s = .next (s.onTile (Site.key x) (fun t => { t with scrubWrite := none }))) ∧
    ((Map.get t.slots Slot.empty pos).stamp = stamp → t.data.Pairwise (fun a b => a.1 < b.1) → ∃ v, exec (.scrubWriteback x) s = .next v ∧
      (∀ k < 8, Map.get (v.tile (Site.key x)).data 0 (g * 8 + k) = words.getD k 0) ∧
      (∀ i, (i < g * 8 ∨ g * 8 + 8 ≤ i) → Map.get (v.tile (Site.key x)).data 0 i = Map.get t.data 0 i) ∧
      { v with tiles := s.tiles } = s)) ∧
  (∀ (s : State) (x : Site), (s.tile (Site.key x)).scrubDone ≠ 0 → (s.tile (Site.key x)).scrubDone ≤ s.now x.die →
    exec (.tileScrubComplete x) s = .next (s.onTile (Site.key x) (fun t => { t with scrubDone := 0 }))) ∧
  (∀ (s : State) (stack : Nat) (fixed bad : Bool), s.fatal = false → stack < 48 →
    let i := Map.get s.patrol 0 stack
    ∃ v, exec (.t2Patrol stack fixed bad) s = .next v ∧ Map.find v.patrol stack = some ((i + 1) % 2 ^ 30) ∧ v.mem = s.mem ∧
      (bad = false ∨ fixed = true → v.poisonMem = s.poisonMem) ∧
      (bad = true → fixed = false → stack * 2 ^ 33 + 8 * i ∈ v.poisonMem) ∧
      { v with patrol := s.patrol, poisonMem := s.poisonMem } = s)

/-! ### Steps of operators -/

/-- R194, R195, R201, R206, R207: what the commands and control tokens of an operator do. An arm queues a pass, behind
a running one or, once every coupling token has come, not at all; a rewind starts the pass again; a flush ends it with
status 1; a status command is answered; a GATE opens, closes, and lets go what its mode says; a bound token sets a
count for the next pass; a base token arms a LOAD with its address. A token leaves an operator for a valid target at
once, or waits in it behind what waits (R226, R228, R401). Where a step may fault, the fault buffers have room (R140:
it would wait). The states that a status token shows are the model's reading (log entry 92). That a DECODE counts
eight elements a block, and that a bound stays, are the model's readings (log entries 43, 45). -/
def Obligations.OperatorCommands : Prop :=
  (∀ (s : State) (n : Nat) (fl : Flight) (t : Token), Takes s n fl t → t.port = .c →
    (∀ k, handlerFull s k 0x01 = false) →
    let site := fl.dst
    let o := s.oper site
    let u := Without s n
    let runs := o.state = 2 ∨ o.state = 3 ∨ o.state = 5
    let opens := gateRelease site (u.onOper site (fun o =>
      if gateMode o = 0 then { o with isOpen := true }
      else if gateMode o = 1 then { o with opened := (t.tag.toNat :: o.opened.filter (fun x => x != t.tag.toNat)).take 64 }
      else { o with grants := o.grants + field (Map.get o.pm 0 0) 63 32 }))
    (ctlKind t = 0x10 → o.kind ≤ 4 ∨ o.kind = 8 → exec (.arm n) s = .next (armPass site ⟨tagBase o, none⟩ u)) ∧
    (ctlKind t = 0x10 → 4 < o.kind → o.kind ≠ 8 → exec (.arm n) s = .next u) ∧
    (ctlKind t = 0x11 → o.kind = 7 → exec (.rewind n) s = .next (u.onOper site (fun o =>
      { o with held := [], expTag := field (Map.get o.pm 0 0) 31 16, expSeq := 0 }))) ∧
    (ctlKind t = 0x11 → o.kind = 9 → exec (.rewind n) s = .next (u.onOper site (fun o => { o with sieve := [] }))) ∧
    (ctlKind t = 0x11 → o.kind = 1 → runs → total o.counts ≠ 0 → ∃ v, exec (.rewind n) s = .next v ∧ v.net = u.net ∧ v.mem = s.mem ∧
      v.oper site = { u.oper site with
        epoch := o.epoch + 1, state := 2, done := 0, pos := 0, status := 0, arrivals := [], mask := groupMask o
        sent := total o.counts, held := [], held2 := [], expSeq := 0, discard := false } ∧
      (∀ a ∈ v.accesses, a.oper = site → a.req = none → a.phase < 7 → a.kind ≠ .read ∧ a.phase ≠ 1)) ∧
    (ctlKind t = 0x11 → o.kind ≠ 7 → o.kind ≠ 9 → ¬runs → exec (.rewind n) s = .next (u.onOper site (fun o => { o with discard := false }))) ∧
    (ctlKind t = 0x12 → o.kind ≠ 7 → o.kind ≠ 9 → o.kind ≠ 11 → o.state = 0 → exec (.flush n) s = .next u) ∧
    (ctlKind t = 0x12 → o.kind ≠ 7 → o.kind ≠ 9 → o.kind ≠ 11 → o.kind ≠ 4 → runs → exec (.flush n) s = .next
      (endPass site true ((abandon site u).onOper site (fun o => { o with status := 1, epoch := o.epoch + 1, held := [], held2 := [] })))) ∧
    (∀ (a : Arm) (rest : List Arm), ctlKind t = 0x12 → o.kind ≠ 7 → o.kind ≠ 9 → o.kind ≠ 11 → o.state = 4 → o.arms = a :: rest →
      exec (.flush n) s = .next (endPass site true (u.onOper site (fun o => { o with arms := rest, status := 1, done := 0, tag := a.tag })))) ∧
    (ctlKind t = 0x12 → o.kind = 11 → exec (.flush n) s = .next (o.moves.foldl (fun s m => transferDone site m 1 s) (dropHeld site (abandon site u)))) ∧
    (ctlKind t = 0x13 → exec (.status n) s = .next (putOut site ⟨targetOf (field t.payload 31 0), { Token.zero with
        payload := BitVec.ofNat 64 ((if o.kind = 8 then 8 * o.done else o.done) % 2 ^ 32 + o.passNo % 65536 * 2 ^ 32 +
          statusState s site * 2 ^ 48)
        fmt := .i64 }, false, o.kind == 2 || o.kind == 11⟩ u)) ∧
    (statusState s site = if o.state = 3 ∨ o.state = 4 then o.state else if o.state = 0 then (if o.arms = [] then 0 else 1)
      else if o.state = 2 ∧ o.pos = 0 ∧ o.done = 0 ∧ o.out = [] then 1 else if passWaits s site then 4 else 2) ∧
    (ctlKind t = 0x14 → exec (.gateOpen n) s = .next opens) ∧
    (ctlKind t = 0x15 → exec (.gateClose n) s = .next (u.onOper site (fun o => { o with isOpen := false, opened := [], grants := 0 }))) ∧
    (ctlKind t = 0x03 → field t.payload 55 48 = 0 → exec (.gateCompletion n) s = .next opens) ∧
    (ctlKind t = 0x03 → field t.payload 55 48 ≠ 0 → exec (.gateCompletion n) s = .next (operTell site (toDone o) t u)) ∧
    (ctlKind t = 0x04 → o.kind ≠ 4 → exec (.boundToken n) s = .next
      (let counts := (nextCounts o).set (field t.payload 34 32) (field t.payload 31 0)
       if inExtent o counts then u.onOper site (fun o => { o with nextCounts := counts })
       else operError site 0x07 t.tag.toNat (some t) u)) ∧
    (ctlKind t = 0x04 → o.kind = 4 → exec (.boundToken n) s = .next
      (let v := u.onOper site (fun p => { p with nextCounts := (nextCounts o).set (field t.payload 34 32) (field t.payload 31 0) })
       if o.state = 0 ∧ o.arms = [] then armPass site ⟨t.tag.toNat, none⟩ v else v))) ∧
  (∀ (s : State) (n : Nat) (fl : Flight) (t : Token), Takes s n fl t → t.port = .l → (s.oper fl.dst).kind = 0 →
    (∀ k, handlerFull s k 0x01 = false) → exec (.loadBaseToken n) s = .next (if t.poison then operError fl.dst 0x03 t.tag.toNat none (Without s n)
      else armPass fl.dst ⟨t.tag.toNat, some t.payload⟩ (Without s n))) ∧
  (∀ (s : State) (n : Nat) (fl : Flight) (t : Token), Takes s n fl t → t.port = .l → (s.oper fl.dst).kind = 5 →
    let o := s.oper fl.dst
    ((gateMode o = 0 ∧ o.isOpen = true) ∨ (gateMode o = 1 ∧ t.tag.toNat ∈ o.opened) ∨ (gateMode o = 2 ∧ 0 < o.grants) ∨
      o.held.length < field (Map.get o.pm 0 1) 6 0) →
    exec (.gateData n) s = .next (gateRelease fl.dst ((Without s n).onOper fl.dst (fun o => { o with held := o.held ++ [t] })))) ∧
  (∀ (site : Nat) (s : State),
    let o := s.oper site
    let out := if gateMode o = 0 then (if o.isOpen then o.held else [])
      else if gateMode o = 1 then o.held.filter (fun t => t.tag.toNat ∈ o.opened) else o.held.take o.grants
    ∃ v, gateRelease site s = out.foldl (fun s t => operForce site (toA o) t s) v ∧ v.net = s.net ∧ v.mem = s.mem ∧
      (v.oper site).grants = o.grants - out.length ∧
      (gateMode o = 0 → o.isOpen = true → (v.oper site).held = []) ∧ (gateMode o = 2 → (v.oper site).held = o.held.drop o.grants) ∧
      (gateMode o = 1 → (v.oper site).held = o.held.filter (fun t => t.tag.toNat ∉ o.opened))) ∧
  (∀ (site : Nat) (arm : Arm) (s : State),
    let o := s.oper site
    (closed o = true → armPass site arm s = s) ∧
    (closed o = false → o.state = 2 ∨ o.state = 3 ∨ o.state = 5 →
      armPass site arm s = s.onOper site (fun o => { o with arms := o.arms ++ [arm], discard := false })) ∧
    (closed o = false → o.state = 0 → o.arms = [] → o.kind = 1 → arm.base = none → (Map.get o.pm 0 0).toNat < 2 ^ 57 →
      total (nextCounts o) ≠ 0 → slotFree s (servingUnit s site) = true →
      ((armPass site arm s).oper site).state = 2 ∧ ((armPass site arm s).oper site).passNo = o.passNo + 1 ∧
      ((armPass site arm s).oper site).sent = total (nextCounts o) ∧ ((armPass site arm s).oper site).tag = arm.tag ∧
      ((armPass site arm s).oper site).done = 0 ∧ Map.find (armPass site arm s).slots site = some 0)) ∧
  (∀ (site : Nat) (s : State),
    let o := s.oper site
    let cnt := if o.kind = 4 then o.sent else if o.kind = 8 then 8 * o.done else o.done
    ∃ v, endPass site true s = startNext site (operTell site (toDone o) (completion cnt (streamId o) o.status o.tag) v) ∧
      (v.oper site).state = 0 ∧ v.net = s.net ∧ v.mem = s.mem ∧ v.slots = Map.del s.slots site ∧
      (∀ q ∈ v.pins, q.stream ≠ 2 * site)) ∧
  (∀ (site k : Nat) (g : Target) (t : Token) (s : State),
    let o := s.oper site
    let u := operToken o g t
    let v := operForce site g t s
    g.valid = true → o.region = k + 1 → isDead (s.region k) site 0 u.tag.toNat = false → placeExists (Token.site u) u.station.toNat = true →
    (operDomain s k u = none ∨ ∃ i, operDomain s k u = some i ∧ ((s.region k).domains.getD i Domain.none).isLive u.tag.toNat = true) →
    o.out = [] →
    let fl : Flight := ⟨site, 0, s.clsOf u, Site.key (Token.site u), Token.lane u, .token u, k + 1,
      !(s.regionAt (Token.site u) u.ctx.toNat == some k), (s.pe site).colour⟩
    (cabooseRoom s (some k) 1 = true → (v.oper site).out = [] ∧ v.mem = s.mem ∧
      (s.regionAt (Token.site u) u.ctx.toNat = some k → v.net = s.net ++ [fl] ∧ (v.region k).caboose = (s.region k).caboose) ∧
      (s.regionAt (Token.site u) u.ctx.toNat ≠ some k → v.net = s.net ∧
        ∃ e : Effect, (v.region k).caboose = (s.region k).caboose ++ [e] ∧ e.act = .send fl)) ∧
    (cabooseRoom s (some k) 1 = false → (v.oper site).out = [⟨g, t, true, false⟩] ∧ v.net = s.net ∧ v.regions = s.regions)) ∧
  (∀ (site : Nat) (g : Target) (t : Token) (s : State),
    (operForce site g t s = drainOut site ((s.oper site).out.length + 1) (s.onOper site (fun o => { o with
      out := o.out ++ [⟨g, t, true, false⟩] }))) ∧
    (g.valid = false → (s.oper site).out = [] → (operForce site g t s).net = s.net))

/-- R193, R196 to R212, R230: what the data tokens and returns of each operator kind do, and the pairing of a COMPARE.
The elements of a pattern are numbered with level 0 fastest. An element outside its pattern, or a token at a site that
reports it, goes on as the clause says; a full fault buffer holds the token back (R140). The element of a STORE with
several tokens of one key, and when a mask is taken, are the model's readings (log entries 29, 44). -/
def Obligations.OperatorData : Prop :=
  (∀ (counts : List Nat) (j : Nat), j < total counts → mixed (indices counts j) counts = j ∧
    (indices counts j).length = counts.length ∧ ∀ i < counts.length, (indices counts j).getD i 0 < counts.getD i 0) ∧
  (∀ (s : State) (n : Nat) (a : Access),
    let site := a.oper
    let o := s.oper site
    let ps := elementParts s a
    let bad := ps.any Access.poison
    let keep := fun (s : State) => ps.foldl (fun s p => keepAccess p s) (if bad then logMemory site a.tag s else s)
    s.fatal = false → (∀ k, handlerFull s k 0x01 = false) → s.access n = some a → a.req = none → a.kind = .read → ps ≠ [] →
    (∀ p ∈ ps, p.phase = 5) → operAwake s site = true →
    (o.kind = 0 → a.elem = o.done → o.state = 2 ∨ o.state = 3 →
      let t : Token := { Token.zero with
        payload := BitVec.ofNat 64 (leNat (ps.map Access.bytes).flatten)
        fmt := Fmt.ofCode (BitVec.ofNat 3 (field (Map.get o.pm 0 1) 4 2))
        poison := bad
        ends := BitVec.ofNat 4 (patternEnds (indices o.counts a.elem) o.counts)
        tag := BitVec.ofNat 16 a.tag
        seq := BitVec.ofNat 6 a.seq }
      operCan site (toA o) t s = true →
      exec (.elementDataReturn n) s = .next (issueNext site (elementDone site (keep (outGo site ⟨toA o, t, true, false⟩ s))))) ∧
    (o.kind = 2 → a.op ≠ 1 → (∀ t ∈ blockTokens o a ps, operCan site (toA o) t s = true) →
      exec (.elementDataReturn n) s = .next (issueNext site (itemDone site (elementDone site
        (keep ((blockTokens o a ps).foldl (fun s t => operForce site (toA o) t s) s)))))) ∧
    (o.kind = 6 → a.elem = o.done → ∀ (t : Token) (rest : List Token), o.held = t :: rest →
      let e := leNat (ps.map Access.bytes).flatten
      let v := if a.op = 3 then 0
        else if e < 2 ^ 63 then e + t.payload.toNat % 2 ^ field (Map.get o.pm 0 1) 37 32 * field (Map.get o.pm 0 2) 31 0
        else e % 2 ^ 63
      let g := if a.op = 3 ∨ e < 2 ^ 63 then toA o else toB o
      let u : Token := { t with payload := BitVec.ofNat 64 v, fmt := .i64, poison := bad || a.op == 3 }
      operCan site g u s = true → exec (.lookupEntryReturn n) s = .next
        (let w := (keep (outGo site ⟨g, u, true, false⟩ s)).onOper site (fun o => { o with held := rest, done := o.done + 1 })
         if rest = [] then unpin (2 * site) { w with slots := Map.del w.slots site } else w))) ∧
  (∀ (s : State) (x : Site), s.fatal = false → (∀ k, handlerFull s k 0x01 = false) → operAwake s (Site.key x) = true →
    let o := s.oper (Site.key x)
    (o.state = 5 → exec (.passCompletion x) s = .next (endPass (Site.key x) true s)) ∧
    (o.kind = 1 ∨ o.kind = 3 → o.state = 2 → closed o = true → (∀ a ∈ s.accesses, a.oper = Site.key x → a.req = none → 8 ≤ a.phase) →
      exec (.passCompletion x) s = .next (endPass (Site.key x) true (s.onOper (Site.key x) (fun o => { o with status := 1 }))))) ∧
  (∀ (s : State) (n : Nat) (fl : Flight) (t : Token), Takes s n fl t → (∀ k, handlerFull s k 0x01 = false) →
    let site := fl.dst
    let o := s.oper site
    let u := Without s n
    let w := Without (numberSlot site s) n
    let room := fun (size : Nat) => accessRoom s site size = true
    let x := t.payload.toNat / 2 ^ field (Map.get o.pm 0 1) 37 32
    let a := (Map.get o.pm 0 0).toNat + 8 * x
    let same := fun (y : Token) => y.tag == t.tag && y.seq == t.seq
    (o.kind = 1 → t.port = .l → o.state = 2 → o.pos < o.sent → operMay s site = true → room (elemSize o) → 0 ∉ o.counts →
      let key := t.tag.toNat * 64 + t.seq.toNat
      match storeElement o t (Map.get o.arrivals 0 key) with
      | none => exec (.storeDataToken n) s = .next (operError site 0x07 t.tag.toNat (some t) w)
      | some ix => if inSpace (elementAddr o ix) (elemSize o) then exec (.storeDataToken n) s = .next
            (operAccess site .write 0 (mixed ix o.counts) t.tag.toNat t.seq.toNat (elementAddr o ix).toNat (elemSize o)
              (leBytes (elemSize o) t.payload.toNat) (leBytes 8 t.payload.toNat ++ leBytes 4 o.epoch) (some t)
              (sinkReport site t (w.onOper site (fun p => { p with
                arrivals := Map.put p.arrivals key (Map.get o.arrivals 0 key + 1)
                pos := p.pos + 1 }))))
          else exec (.storeDataToken n) s = .next (operError site 0x0B t.tag.toNat (some t) (w.onOper site (fun p => { p with
            status := 3, sent := p.pos, state := if p.done = p.pos then 5 else p.state })))) ∧
    (o.kind = 2 → t.port = .l → itemMode o = 2 → exec (.gatherItem n) s = .next
      (if t.poison then operError site 0x03 t.tag.toNat none u else armPass site ⟨t.tag.toNat, some t.payload⟩ u)) ∧
    (o.kind = 2 → t.port = .l → itemMode o ≠ 2 → o.state = 2 ∨ o.state = 3 → o.pos < field (Map.get o.pm 0 5) 31 0 →
      itemsOut s site < 64 → maskReady o = true → operMay s site = true → room (itemSize o) → exec (.gatherItem n) s = .next
        (dropMask site o.pos (takeItem site o.pos t (w.onOper site (fun p => { p with pos := p.pos + 1 }))))) ∧
    (o.kind = 2 → t.port = .p → o.mask = none → exec (.gatherMask n) s = .next
      (let v := u.onOper site (fun p => { p with mask := some t })
       issueNext site (if t.poison then operError site 0x03 t.tag.toNat none v else v))) ∧
    (o.kind = 3 → t.port ≠ .c → o.state = 2 → o.pos < field (Map.get o.pm 0 5) 31 0 → operMay s site = true → room (itemSize o) →
      (t.port = .l → ∀ r, o.held2.find? same = some r → exec (.scatterFiring n) s = .next (scatterPair site t r
        (u.onOper site (fun p => { p with held2 := p.held2.erase r })))) ∧
      (t.port ≠ .l → ∀ l, o.held.find? same = some l → exec (.scatterFiring n) s = .next (scatterPair site l t
        (u.onOper site (fun p => { p with held := p.held.erase l })))) ∧
      (t.port = .l → o.held2.find? same = none → o.held.any same = false →
        exec (.scatterFiring n) s = .next (u.onOper site (fun p => { p with held := p.held ++ [t] }))) ∧
      (t.port ≠ .l → o.held.find? same = none → o.held2.any same = false →
        exec (.scatterFiring n) s = .next (u.onOper site (fun p => { p with held2 := p.held2 ++ [t] })))) ∧
    (o.kind = 6 → t.port = .l → operMay s site = true → room 8 →
      (t.poison = true → exec (.lookupPosition n) s = .next (operError site 0x03 t.tag.toNat none u)) ∧
      (t.poison = false → x < field (Map.get o.pm 0 1) 31 0 → a + 8 ≤ 2 ^ 57 → slotRoom s site = true → exec (.lookupPosition n) s = .next
        (operAccess site .read 0 o.pos t.tag.toNat t.seq.toNat a 8 [] (leBytes 8 t.payload.toNat) (some t)
          ((Without (claimSlot site s) n).onOper site (fun p => { p with held := p.held ++ [t], pos := p.pos + 1 })))) ∧
      (t.poison = false → field (Map.get o.pm 0 1) 31 0 ≤ x ∨ 2 ^ 57 < a + 8 → o.held = [] → exec (.lookupPosition n) s = .next
        (operError site (if field (Map.get o.pm 0 1) 31 0 ≤ x then 0x07 else 0x0B) t.tag.toNat (some t)
          (operForce site (toA o) { t with
            payload := 0, poison := true, fmt := .i64, ends := if field (Map.get o.pm 0 1) 31 0 ≤ x then t.ends else 3 } u)))) ∧
    (o.kind = 7 → t.port = .l →
      let next := t.tag.toNat = o.expTag ∧ (bit (Map.get o.pm 0 0) 0 = false ∨ t.seq.toNat = o.expSeq)
      (next → operCan site (toA o) t s = true → exec (.reorderToken n) s = .next
        (reorderDrain site 64 (operForce site (toA o) t (u.onOper site (fun p => reorderStep p t))))) ∧
      (¬next → o.held.length < field (Map.get o.pm 0 1) 6 0 →
        exec (.reorderToken n) s = .next (u.onOper site (fun p => { p with held := p.held ++ [t] })))) ∧
    (o.kind = 8 → t.port = .l → (o.discard = true → exec (.decodeInput n) s = .next u) ∧
      (o.discard = false → o.state = 2 → operMay s site = true →
        exec (.decodeInput n) s = .next (decodeBlocks site 4 (u.onOper site (fun p => { p with held := p.held ++ [t] }))))) ∧
    (o.kind = 9 → t.port = .l →
      ((∀ y ∈ o.sieve, y.tag ≠ t.tag.toNat) → o.sieve.length < 16 → exec (.sieveScore n) s = .next
        (sieveRun site t.tag.toNat 65 (u.onOper site (fun p => { p with sieve := p.sieve ++ [⟨t.tag.toNat, 0xFF800000, 0, 0, 0, [t]⟩] })))) ∧
      ((∃ y ∈ o.sieve, y.tag = t.tag.toNat) → exec (.sieveScore n) s = .next
        (sieveRun site t.tag.toNat 65 (u.onOper site (fun p => { p with
          sieve := p.sieve.map (fun y => if y.tag == t.tag.toNat then { y with waiting := y.waiting ++ [t] } else y) }))))) ∧
    (o.kind = 10 → t.port ≠ .c →
      let left := t.port == .l
      let mine := if left then o.held else o.held2
      let other := if left then o.held2 else o.held
      mine.length < compareDepth o →
      (other = [] → exec (.compareToken n) s = .next (u.onOper site (fun p => { p with
        held := if left then p.held ++ [t] else p.held
        held2 := if left then p.held2 else p.held2 ++ [t]
        counts := p.counts ++ [s.now (Site.ofKey site).die] }))) ∧
      (∀ (y : Token) (ys : List Token), other = y :: ys → pairMatches t y = true → exec (.compareToken n) s = .next
        (compareSend site (if left then t else y) (u.onOper site (fun p => { p with
          held := if left then p.held else ys
          held2 := if left then ys else p.held2
          counts := p.counts.drop 1
          mismatch := false })))) ∧
      (∀ (y : Token) (ys : List Token), other = y :: ys → pairMatches t y = false → exec (.compareToken n) s = .next
        (mismatch site (if left then t else y).tag.toNat (u.onOper site (fun p => { p with
          held := if left then p.held ++ [t] else p.held
          held2 := if left then p.held2 else p.held2 ++ [t] })))))) ∧
  (∀ (site k : Nat) (t : Token) (s : State),
    let o := s.oper site
    let masked := bit (Map.get o.pm 0 1) 5
    let m := o.mask.getD .zero
    (masked = true ∧ m.poison = false ∧ bit m.payload (k % 64) = false → takeItem site k t s = itemDone site s) ∧
    (masked = false ∨ m.poison = true ∨ bit m.payload (k % 64) = true → takeItem site k t s =
      if t.poison then itemDone site (poisonItem site t.tag.toNat (operError site 0x03 t.tag.toNat none s))
      else match itemAddr o t.payload with
        | .error code => itemFault site code t.tag.toNat t.payload (some t) s
        | .ok a => operAccess site .read (if masked = true ∧ m.poison = true then 2 else 0) k t.tag.toNat t.seq.toNat a (itemSize o)
            [] (leBytes 8 t.payload.toNat) (some t) s)) ∧
  (∀ (site : Nat) (l r : Token) (s : State),
    let o := s.oper site
    let v := (numberSlot site s).onOper site (fun p => { p with pos := p.pos + 1 })
    (l.poison = true → scatterPair site l r s = itemDone site (operError site 0x03 l.tag.toNat none v)) ∧
    (l.poison = false → ∀ code, itemAddr o l.payload = .error code →
      scatterPair site l r s = itemFault site code l.tag.toNat l.payload (some l) v) ∧
    (l.poison = false → ∀ a, itemAddr o l.payload = .ok a → scatterPair site l r s =
      operAccess site .write 0 o.pos l.tag.toNat l.seq.toNat a (itemSize o) (leBytes (itemSize o) r.payload.toNat)
        (leBytes 8 l.payload.toNat ++ leBytes 4 o.epoch) (some l) (sinkReport site r v))) ∧
  (∀ (s : State) (x : Site) (since : Nat) (cs : List Nat),
    let o := s.oper (Site.key x)
    s.fatal = false → o.kind = 10 → o.counts = since :: cs → field (Map.get o.pm 0 0) 63 32 ≠ 0 →
    since + field (Map.get o.pm 0 0) 63 32 ≤ s.now x.die →
    exec (.compareTimeout x) s = .next (mismatch (Site.key x) ((o.held ++ o.held2).getD 0 .zero).tag.toNat s)) ∧
  (∀ (site tag : Nat) (s : State),
    let v := mismatch site tag s
    (v.oper site).held = [] ∧ (v.oper site).held2 = [] ∧ (v.oper site).mismatch = true) ∧
  (∀ (s : State) (x : Site) (k : Nat),
    let site := Site.key x
    let u := retireTags s k
    let o := u.oper site
    let tag := (o.expTag + o.pos) % 65536
    let ix := indices o.counts o.pos
    let t : Token := { Token.zero with
      payload := BitVec.ofNat 64 (ix.getD 0 0 % 2 ^ 16 + ix.getD 1 0 % 2 ^ 16 * 2 ^ 16 + ix.getD 2 0 % 2 ^ 16 * 2 ^ 32 + ix.getD 3 0 % 2 ^ 16 * 2 ^ 48)
      fmt := .i64
      tag := BitVec.ofNat 16 tag
      ends := BitVec.ofNat 4 (patternEnds ix o.counts) }
    let go := fun (s : State) => (operForce site (toA o) t s).onOper site (fun o => { o with
      pos := o.pos + 1, done := o.done + 1, state := if o.pos + 1 = o.sent then 5 else o.state })
    s.fatal = false → (s.oper site).region = k + 1 → o.region = k + 1 → o.kind = 4 → o.state = 2 → o.pos < o.sent → o.out = [] →
    operMay u site = true → (toA o).valid = true → cabooseRoom u (some k) 1 = true →
    ((u.region k).domainOf (member site 0) = none → exec (.loopIteration x) s = .next (go u)) ∧
    (∀ i, (u.region k).domainOf (member site 0) = some i →
      (((u.region k).domains.getD i Domain.none).isLive tag = true → exec (.loopIteration x) s = .next (go u)) ∧
      (((u.region k).domains.getD i Domain.none).isLive tag = false → canAdmit u k i (some (member site 0)) tag = true →
        isNext u k i tag (member site 0) = true →
        exec (.loopIteration x) s = .next (go (admitTag k i (some (member site 0)) tag u))))) ∧
  (∀ (site k elem tag seq va size : Nat) (kind : AccKind) (op : Nat) (data cmp : List Byte) (tok : Option Token) (s : State),
    (s.oper site).region = k + 1 → 0 < size → va % 64 + size ≤ 64 → data.length ≤ size →
    let v := operAccess site kind op elem tag seq va size data cmp tok s
    ∃ (a : Access) (e : Effect), v.accesses = s.accesses ++ [a] ∧ a.id = s.nextAcc ∧ a.kind = kind ∧ a.oper = site ∧ a.va = BitVec.ofNat 64 va ∧
      a.size = size ∧ a.data = data ∧ a.tok = tok ∧ a.phase = 6 ∧ a.req = none ∧ (v.region k).caboose = (s.region k).caboose ++ [e] ∧
      e.act = .access s.nextAcc ∧ e.tag = tag ∧ v.mem = s.mem ∧ v.net = s.net) ∧
  (∀ xs : List Byte, xs.length = 32 → readBlock (streamBits (0x02 :: 0x00 :: xs)) = .got (xs.map BitVec.toNat) []) ∧
  (∀ a b c : FVal, FVal.finite a = true → FVal.finite b = true → FVal.finite c = true →
    (geSum a b c = true ↔ FVal.rat c ≤ FVal.rat a + FVal.rat b))

/-! ### PORTs, transfers and translation -/

/-- R158 to R164, R213 to R215, R280, R366, R368: a request at a PORT is checked and makes its access, or takes its
place in its ordering domain; a fence stands until what it covers is performed, and then answers; a queue form pushes,
pops or peeks one entry; a transfer command reads its descriptor at the address it names; a host-link or NVMe
completion ends or continues its transfer; and a drive's access through the window is translated in its pair's
context. The drive window and the fate of a faulted link are the model's readings (log entries 15, 49). -/
def Obligations.PortsAndTransfers : Prop :=
  (∀ (s : State) (n : Nat) (fl : Flight) (q : PortReq),
    let u := Without s n
    let o := s.oper fl.dst
    let d := Map.get s.queues QueueReg.zero (q.aux % 256)
    let io := Site.key ⟨24, 0, 0⟩
    let q2 : Token := { q.token with payload := 0 }
    let taken := takeNoted (.port q) fl.dst []
    s.fatal = false → (∀ k, handlerFull s k 0x01 = false) → headOfLane s.net n = some fl → fl.msg = .port q →
    (0x207 ≤ q.op → q.op ≤ 0x212 → o.kind = 11 → portOut s fl.dst < field (Map.get o.pm 0 4) 8 0 →
      fenced o q.region = false → forwardBusy s o q = false → portAhead s n fl (fun p => p.op == 0x280) = false →
      exec (.portRequest n) s = .next (if q.op = 0x209 ∨ q.op = 0x20A then ordArrive fl.dst q u else serveRequest fl.dst q u)) ∧
    (0x207 ≤ q.op → q.op ≤ 0x212 ∨ q.op = 0x280 → o.kind ≠ 11 →
      exec (.portRequest n) s = .next (requestFault 0x02 q (taken u))) ∧
    (q.op = 0x280 → o.kind = 11 → q.site ≠ 0 → portAhead s n fl throughPort = false →
      ((∀ f ∈ o.fences, f.req = q → f.arrived = true) → exec (.portRequest n) s = .next
        (u.onOper fl.dst (fun o => { o with fences := o.fences ++ [{ fenceOf u fl.dst q with arrived := true }] }))) ∧
      ((∃ f ∈ o.fences, f.req = q ∧ f.arrived = false) → exec (.portRequest n) s = .next
        (u.onOper fl.dst (fun o => { o with
          fences := updFirst (fun f => f.req == q && !f.arrived) (fun f => { f with arrived := true }) o.fences })))) ∧
    (0x213 ≤ q.op → q.op ≤ 0x215 → queueHeld s q = false →
      let barred := bit d.cfg (if q.op = 0x213 then 9 else 10)
      let place := if q.op = 0x213 then queuePa s d (field d.tail 31 0) true else queuePa s d (field d.head 31 0) false
      let room := if q.op = 0x213 then QueueReg.used d < QueueReg.depth d else QueueReg.used d ≠ 0
      (bit d.cfg 8 = false ∨ barred = true → exec (.portRequest n) s = .next (taken (requestFault 0x14 q u))) ∧
      (bit d.cfg 8 = true → barred = false → room → place = .denied →
        exec (.portRequest n) s = .next (taken (requestFault 0x09 q u))) ∧
      (bit d.cfg 8 = true → barred = false → room → ∀ level cause, place = .fault level cause →
        exec (.portRequest n) s = .next
          (holdQueue q d (if q.op = 0x213 then field d.tail 31 0 else field d.head 31 0) level cause s)) ∧
      (q.op = 0x213 → bit d.cfg 8 = true → barred = false → room → ∀ pa, place = .at pa →
        exec (.portRequest n) s = .next (taken (respond io 0 q.targetA q2 (markPush (q.aux % 256) (field d.tail 31 0)
          { writeHome pa (leBytes 8 q.addr.toNat ++ leBytes 8 q.data.toNat) u with
            queues := Map.put s.queues (q.aux % 256) { d with tail := BitVec.ofNat 64 ((field d.tail 31 0 + 1) % 2 ^ 32) } })))) ∧
      (q.op = 0x214 → bit d.cfg 8 = true → barred = false → room → ∀ pa, place = .at pa → migrating s pa = none →
        let bad := rangePoisoned s pa 16
        let word := fun (bs : List Byte) => { q.token with payload := BitVec.ofNat 64 (leNat bs), poison := q.token.poison || bad }
        exec (.portRequest n) s = .next (taken (respond io 0 q.targetB (word ((Memory.readBytes s.mem pa 16).drop 8))
          (respond io 0 q.targetA (word ((Memory.readBytes s.mem pa 16).take 8)) (logQueue q bad
            { u with queues := Map.put s.queues (q.aux % 256) { d with head := BitVec.ofNat 64 ((field d.head 31 0 + 1) % 2 ^ 32) } }))))) ∧
      (q.op = 0x215 → bit d.cfg 8 = true → barred = false → QueueReg.used d = 0 → exec (.portRequest n) s = .next
        (taken (respond io 0 q.targetB q2 (respond io 0 q.targetA { q.token with payload := 0, fmt := .i64 } u)))) ∧
      (q.op = 0x215 → bit d.cfg 8 = true → barred = false → room → ∀ pa, place = .at pa → migrating s pa = none →
        let bad := rangePoisoned s pa 8
        exec (.portRequest n) s = .next (taken (respond io 0 q.targetB { q.token with
            payload := BitVec.ofNat 64 (leNat (Memory.readBytes s.mem pa 8)), poison := q.token.poison || bad }
          (respond io 0 q.targetA { q.token with payload := BitVec.ofNat 64 (QueueReg.used d), fmt := .i64 } (logQueue q bad u))))))) ∧
  (∀ (n index : Nat) (s : State), (n < 192 → markPush n index s = s) ∧
    (192 ≤ n → markPush n index s = { s with pushed := s.pushed ++ [⟨n - 192, index, s.taken⟩] })) ∧
  (∀ (site : Nat) (q : PortReq) (s : State), 0x207 ≤ q.op → q.op ≤ 0x212 →
    let size := if 0x20B ≤ q.op then atomicSize q else 2 ^ (q.aux % 4)
    (2 ^ 57 ≤ q.addr.toNat → serveRequest site q s = requestFault 0x0A q (takeNoted (.port q) site [] s)) ∧
    (q.addr.toNat < 2 ^ 57 → q.addr.toNat % size ≠ 0 → serveRequest site q s = requestFault 0x11 q (takeNoted (.port q) site [] s)) ∧
    (q.addr.toNat < 2 ^ 57 → q.addr.toNat % size = 0 →
      ∃ a : Access, (serveRequest site q s).accesses = s.accesses ++ [a] ∧ a.id = s.nextAcc ∧ a.req = some q ∧ a.va = BitVec.ofNat 64 (if sectorRead q then q.addr.toNat / 64 * 64 else q.addr.toNat) ∧
        a.size = (if sectorRead q then 64 else size) ∧
        a.phase = 0 ∧ a.ctx = q.token.ctx.toNat ∧ (serveRequest site q s).mem = s.mem ∧ (serveRequest site q s).net = s.net ∧
        (q.op = 0x207 ∨ q.op = 0x209 → a.kind = .read) ∧ (q.op = 0x208 ∨ q.op = 0x20A → a.kind = .write ∧ a.data = leBytes a.size q.data.toNat) ∧
        (0x20B ≤ q.op → a.kind = .atomic))) ∧
  (∀ (q : PortReq) (old : Nat),
    let w := 8 * atomicSize q
    let v := q.data.toNat % 2 ^ w
    (q.op = 0x20B → atomicNew q old = ((old + v) % 2 ^ w, none)) ∧
    (q.op = 0x20C → let r := sumTo q.fmt q.round q.sat false [decodeF q.fmt old, decodeF q.fmt v]
      atomicNew q old = (r.bits, r.cause)) ∧
    (q.op = 0x20D → atomicNew q old = (if signed w v < signed w old then v else old, none)) ∧
    (q.op = 0x20E → atomicNew q old = (if signed w old < signed w v then v else old, none)) ∧
    (q.op = 0x20F → atomicNew q old = (Nat.land old v, none)) ∧ (q.op = 0x210 → atomicNew q old = (Nat.lor old v, none)) ∧
    (q.op = 0x211 → atomicNew q old = (v, none)) ∧
    (q.op = 0x212 → atomicNew q old = (if old = q.cmp.toNat % 2 ^ w then v else old, none))) ∧
  (∀ (s : State) (site n : Nat) (f : FenceWait), s.fatal = false → (s.oper site).fences[n]? = some f →
    f.arrived = true → (∀ a ∈ s.accesses, a.id ∈ f.covered → 5 ≤ a.phase) → (∀ g ∈ f.ahead, aheadOpen s g = false) →
    exec (.fenceComplete site n) s = .next (respond site (s.oper site).region f.req.targetB f.req.token
      (s.onOper site (fun o => { o with fences := o.fences.eraseIdx n })))) ∧
  (∀ (site region : Nat) (g : Target) (t : Token) (s : State),
    let u := Token.toTarget t g
    (g.valid = true → respond site region g t s = { s with
      net := s.net ++ [⟨site, 0, .response, Site.key (Token.site u), Token.lane u, .token u, region, true, false⟩] }) ∧
    (g.valid = false → respond site region g t s = s)) ∧
  (∀ (s : State) (n k : Nat) (fl : Flight) (t : Token), Takes s n fl t → t.port = .c → (s.oper fl.dst).kind = 11 →
    (s.oper fl.dst).region = k + 1 → cabooseRoom s (some k) 1 = true → commandFenced s fl = false →
    (∀ k, handlerFull s k 0x01 = false) →
    ∀ x ∈ [(Instr.copy n, 0x18), (.hostRead n, 0x19), (.hostWrite n, 0x1A), (.nvmeRead n, 0x1B), (.nvmeWrite n, 0x1C), (.migrate n, 0x1D)],
      ctlKind t = x.2 → ∃ v m e r, exec x.1 s = .next v ∧ (v.oper fl.dst).moves = (s.oper fl.dst).moves ++ [m] ∧
        m.id = s.nextAcc ∧ m.kind = x.2 ∧ m.cmd = t.tag.toNat ∧ m.phase = 0 ∧ m.token = t ∧ m.unit = servingUnit s fl.dst ∧ v.accesses = s.accesses ++ [e, r] ∧ e.id = s.nextAcc ∧
        r.kind = .read ∧ r.elem = m.id ∧ r.va = BitVec.ofNat 64 (64 * field t.payload 50 0) ∧ r.size = 64 ∧ r.tok = some t ∧ r.phase = 6 ∧
        v.net = s.net.eraseIdx n ∧ v.mem = s.mem) ∧
  (∀ (s : State) (n : Nat) (e : Access) (m : Transfer), s.fatal = false → s.access n = some e → moveOf s e.oper n = some m → m.phase = 2 →
    (∀ data, m.kind = 0x1A → exec (.hostLinkCompletion n data) s = .next (endTransfer e.oper m 0 s)) ∧
    (m.kind = 0x19 → m.len = 0 → exec (.hostLinkCompletion n []) s = .next
      (endTransfer e.oper m 0 (onMove e.oper m { m with phase := 1 } s))) ∧
    (∀ data, m.kind = 0x19 → data.length = m.len.toNat → data ≠ [] → exec (.hostLinkCompletion n data) s = .next
      ((sectorParts (data.length / 64 + 2) m.dst.toNat data.length).foldl (fun s p =>
        moveAccess e.oper .write m p.1 p.2 ((data.drop (p.1 - m.dst.toNat)).take p.2) s) (onMove e.oper m { m with phase := 1 } s))) ∧
    (m.kind = 0x1B ∨ m.kind = 0x1C → (∀ a ∈ s.accesses, a.oper = e.oper → a.req = none → a.op = m.kind → a.elem = n → a.id = n) → ∀ status,
      let w2 := Map.get s.modRegs.nqp 0 (4 * m.qp + 2)
      let head := ((Map.get s.modRegs.nqp 0 (1088 + m.qp)).toNat + 1) % 2 ^ field w2 35 32
      let u : State := { s with
        hostMem := Memory.writeBytes s.hostMem ((Map.get s.modRegs.nqp 0 (4 * m.qp + 3)).toNat + 4 * 2 ^ field w2 46 43) (leBytes 4 head)
        modRegs := { s.modRegs with nqp := Map.put s.modRegs.nqp (1088 + m.qp) (BitVec.ofNat 64 head) } }
      exec (.nvmeCompletion n status) s = .next (if m.status = 3 then endTransfer e.oper m 3 u else if status = 0 then
          endTransfer e.oper { m with pos := Transfer.blocks m } 0 (onMove e.oper m { m with pos := Transfer.blocks m } u)
        else endTransfer e.oper m 4 u))) ∧
  (∀ (s : State) (q addr : Nat) (write : Bool) (data : List Byte) (site : Nat) (m : Transfer),
    let w2 := Map.get s.modRegs.nqp 0 (4 * q + 2)
    let va := addr - s.modRegs.nwin.toNat
    s.fatal = false → bit w2 63 = true → s.modRegs.nwin.toNat ≤ addr → driveMove s q write va data.length = some (site, m) →
    exec (.driveDataAccess q write addr data) s = .next ((sectorParts (data.length / 64 + 2) va data.length).foldl (fun s p =>
      addAccess { Access.none with
        kind := if write then .write else .read
        op := m.kind
        oper := site
        region := (s.oper site).region
        ctx := field w2 42 40
        unit := ioUnit
        stream := 2 * site
        va := BitVec.ofNat 64 p.1
        size := p.2
        data := if write then (data.drop (p.1 - va)).take p.2 else []
        tok := some m.token
        elem := m.id
        tag := m.tag
        part := p.1 - va } s)
      (if write then s else { s with hostBytes := List.replicate data.length 0 })))

/-- R351 to R367: a walk goes down three tables and ends at a leaf, whose page translates the access, or it faults and
the stream is held; a pin, an engine slot or a filter wait is granted when there is one; an access is performed at its
home, in its turn; a write to T3 that its expander does not complete is retried once and then fatal; an invalidation
drops what it matches and completes when the accesses it waits for are performed; TRES and FQHEAD act on the held
records; and a page that nothing pins is recorded as retired. The ring address of a record is the model's reading (log
entry 11). -/
def Obligations.Translation : Prop :=
  (∀ (s : State) (ctx va : Nat) (e0 e1 e2 : Word),
    let root := Map.get s.modRegs.troot 0 ctx
    let i0 := va / 2 ^ 42 % 2 ^ 15
    let i1 := va / 2 ^ 29 % 2 ^ 13
    let i2 := va / 2 ^ 16 % 2 ^ 13
    bit root 0 = true → s.poisonMem = [] →
    Memory.readWord s.mem (field root 51 18 * 2 ^ 18 + 8 * i0) = e0 → bit e0 0 = true → entryBad 0 i0 e0 = false →
    Memory.readWord s.mem (field e0 51 16 * 2 ^ 16 + 8 * i1) = e1 → bit e1 0 = true → entryBad 1 i1 e1 = false →
    (bit e1 1 = true → walk s ctx va = .page 29 (field e1 51 16 * 2 ^ 16) (bit e1 2) (bit e1 3) (decide (field e1 15 8 ≠ 0))) ∧
    (bit e1 1 = false → Memory.readWord s.mem (field e1 51 16 * 2 ^ 16 + 8 * i2) = e2 → bit e2 0 = true → entryBad 2 i2 e2 = false →
      walk s ctx va = if bit e2 4 then .page 21 (field e2 51 16 * 2 ^ 16 - 2 ^ 16 * (i2 % 32)) (bit e2 2) (bit e2 3) (decide (field e2 15 8 ≠ 0))
        else .page 16 (field e2 51 16 * 2 ^ 16) (bit e2 2) (bit e2 3) (decide (field e2 15 8 ≠ 0)))) ∧
  (∀ (s : State) (ctx va : Nat), bit (Map.get s.modRegs.troot 0 ctx) 0 = false → walk s ctx va = .fault 0 1) ∧
  (∀ (s : State) (n : Nat) (a : Access), s.fatal = false → (∀ k, handlerFull s k 0x01 = false) → s.access n = some a →
    (∀ (i : Instr) (u : State) (b : Access),
      (i = .translationWalkEnd n ∧ a.phase = 0 ∧ u = s ∧ b = a) ∨
      (i = .pinGranted n ∧ waitsPin s a = true ∧ pinnedPages s a.unit < 1024 ∧
        u = s.onAccess n (fun x => { x with phase := 0 }) ∧ b = { a with phase := 0 }) →
      inTurn s a = true →
      match translate s a.unit a.ctx a.va.toNat with
      | .fault level cause => exec i s = .next (holdAccess b level cause u)
      | .page sh fr r w refs =>
        let page := a.va.toNat / 2 ^ sh * 2 ^ sh
        let v := fillTlb a.unit a.ctx a.va.toNat (.page sh fr r w refs) u
        (permits a.kind r w = false → exec i s = .next (elementFails b 0x09 v)) ∧
        (permits a.kind r w = true → refs = false → holdsPin u b page = false → exec i s = .next (elementFails b 0x0C v)) ∧
        (permits a.kind r w = true → refs = true ∨ holdsPin u b page = true →
          exec i s = .next (takePin b page sh (fr + a.va.toNat % 2 ^ sh) v))) ∧
    (a.phase = 2 → sectorTurn s a = true →
      let h1 := filterAt s (homeOf a.pa) (filterSpots a.pa).1
      let h2 := filterAt s (homeOf a.pa) (filterSpots a.pa).2
      (h1 ≠ [] → h2 ≠ [] → exec (.tenderAccess n) s = .next (s.onAccess n (fun x => { x with phase := 3, before := (h1 ++ h2).eraseDups }))) ∧
      ((h1 = [] ∨ h2 = []) → inT3 a.pa = false ∨ a.kind = .read → exec (.tenderAccess n) s = .next (performAccess a s)) ∧
      ((h1 = [] ∨ h2 = []) → inT3 a.pa = true → a.kind ≠ .read →
        exec (.tenderAccess n) s = .next (s.onAccess a.id (fun x => { x with phase := 4 })))) ∧
    (a.phase = 5 → a.req = none → a.kind = .write ∨ (a.op = 1 ∧ operAwake s a.oper = true) →
      exec (.tenderAccess n) s = .next (afterPerform a s)) ∧
    (a.phase = 3 → (∀ b ∈ s.accesses, b.id ∈ a.before → 5 ≤ b.phase) → inT3 a.pa = false ∨ a.kind = .read →
      exec (.filterWaitEnd n) s = .next (performAccess a s)) ∧
    (a.phase = 3 → (∀ b ∈ s.accesses, b.id ∈ a.before → 5 ≤ b.phase) → inT3 a.pa = true → a.kind ≠ .read →
      exec (.filterWaitEnd n) s = .next (s.onAccess a.id (fun x => { x with phase := 4 }))) ∧
    (a.phase = 4 → inT3 a.pa = true →
      exec (.tenderAccess n) s = .next { performAccess a s with cxl := Map.del s.cxl n } ∧
      (Map.get s.cxl 0 n = 0 → exec (.cxlWriteTimeout n) s = .next { s with cxl := Map.put s.cxl n 1 }) ∧
      (Map.get s.cxl 0 n ≠ 0 → exec (.cxlWriteTimeout n) s = .next (s.fatalStop 1 24 0)))) ∧
  (∀ (s : State) (a : Access) (page sh pa : Nat), pinnedPages s a.unit < 1024 → s.access a.id = some a → (s.oper a.oper).kind = 1 →
    ∃ b, (takePin a page sh pa s).access a.id = some b ∧ b.phase = 2 ∧ b.pa = pa ∧ hasPin (takePin a page sh pa s) a page = true) ∧
  (∀ (s : State) (a : Access), migrating s a.pa = none → migratedTo s a.pa = none →
    let bad := rangePoisoned s a.pa a.size || (inT3 a.pa && Config.expanderPoison a.id)
    (a.kind = .read → a.cmp = [] → performMem a s = (Memory.readBytes s.mem a.pa a.size, bad,
      if bad = true ∧ a.req ≠ none then logMemory a.oper a.tag s else s)) ∧
    (a.kind = .write → (performMem a s).2.2.mem = Memory.writeBytes s.mem a.pa a.data ∧ (performMem a s).1 = [])) ∧
  (∀ (s : State) (a : Access) (q : PortReq), q.op = 0x207 → sectorRead q = false → a.poison = false → q.targetB.valid = true →
    ∃ t : Token, t = Token.toTarget { q.token with payload := BitVec.ofNat 64 (leNat a.bytes) } q.targetB ∧
      (requestDone a q s).net = s.net ++ [⟨a.oper, 0, .response, Site.key (Token.site t), Token.lane t, .token t, (s.oper a.oper).region, true, false⟩] ∧
      (q.site ≠ 0 → ((requestDone a q s).oper a.oper).owed =
        (s.oper a.oper).owed ++ [⟨Token.lane t, t, q.site, stKey q.token.ctx.toNat q.station⟩]) ∧
      (∀ b ∈ (requestDone a q s).accesses, b.id ≠ a.id) ∧ (requestDone a q s).mem = s.mem) ∧
  (∀ (s : State) (unit site : Nat) (o : Oper), s.fatal = false → (∀ k, handlerFull s k 0x01 = false) →
    s.opers.find? (fun ko => ko.2.state == 4 && !ko.2.arms.isEmpty && servingUnit s ko.1 == unit) = some (site, o) →
    slotFree s unit = true → exec (.engineSlotFreed unit) s = .next (startNext site s)) ∧
  (∀ (s : State) (v : Word), s.hostOpen = true →
    let scope := field v 61 60
    let page := field v 56 16 * 65536
    let ctx := field v 59 57
    let waits := (s.accesses.filter (tinvWaits scope ctx page (s.tlb.filter (tinvHits scope ctx page)))).map Access.id
    let u : State := { s with
      tlb := s.tlb.filter (fun t => !tinvHits scope ctx page t)
      inval := [⟨scope, ctx, page, waits⟩] }
    (s.inval = [] → s.tinvWait = [] →
      (scope = 0 → exec (.tinvPage v) s = .next (startRetire ctx page u)) ∧
      (scope = 1 → exec (.tinvContext v) s = .next u) ∧ (scope = 2 → exec (.tinvAll v) s = .next u)) ∧
    (s.inval ≠ [] → ∀ x ∈ [(Instr.tinvPage v, 0), (.tinvContext v, 1), (.tinvAll v, 2)], scope = x.2 →
      exec x.1 s = .next { s with tinvWait := s.tinvWait ++ [v] }) ∧
    (field v 17 16 = 1 → ∀ h a, heldBy? s v = some h → (unhold h s).access h.access = some a →
      (a.ofQueue = false → exec (.tresRetry v) s = .next ((unhold h s).onAccess h.access (fun x => { x with phase := 0 }))) ∧
      (a.ofQueue = true → exec (.tresRetry v) s = .next ((unhold h s).dropAccesses (fun x => x.id == h.access)))) ∧
    (field v 17 16 = 2 → ∀ h a, heldBy? s v = some h → s.access h.access = some a →
      exec (.tresFail v) s = .next (elementFails a 0x09 (unhold h s))) ∧
    (field v 17 16 = 1 → heldBy? s v = none → exec (.tresRetry v) s = .next (s.onRegs (fun g => { g with
      tstat := setField g.tstat 31 16 (field g.tstat 31 16 + 1) }))) ∧
    (s.faultQ = [] → s.holds = [] → ∃ u, exec (.fqheadWrite v) s = .next u ∧ u.modRegs.fqhead = BitVec.ofNat 64 (field v 15 0) ∧
      u.modRegs.fqFull = (s.modRegs.fqFull && field v 15 0 == field s.modRegs.fqhead 15 0) ∧
      { u with modRegs := s.modRegs } = s)) ∧
  (∀ (s : State) (i : Invalid) (rest : List Invalid), s.fatal = false → s.inval = i :: rest → (∀ a ∈ s.accesses, a.id ∈ i.waits → 5 ≤ a.phase) →
    i.scope ≠ 3 → s.tinvWait = [] → exec .invalidationComplete s = .next { s with inval := rest }) ∧
  (∀ (s : State) (n ctx page sh : Nat), s.fatal = false → s.retire[n]? = some (ctx, page, sh) → s.inval = [] →
    (∀ p ∈ s.pins, ¬(p.ctx = ctx ∧ p.page < page + 2 ^ sh ∧ page < p.page + 2 ^ p.shift)) → s.faultQ = [] → s.faultRoom = true →
    ∃ u, exec (.pageRetireRecord n) s = .next u ∧ u.retire = s.retire.eraseIdx n ∧ u.mem = s.mem ∧ u.faultQ = [] ∧
      u.hostMem = Memory.writeBytes s.hostMem
        (s.modRegs.fqbase.toNat + 32 * (field s.modRegs.fqtail 15 0 % 2 ^ field s.modRegs.fqcfg 4 0))
        (wordBytes [BitVec.ofNat 64 (page % 2 ^ 57 + ctx * 2 ^ 57), BitVec.ofNat 64 (8 * 2 ^ 32 + 63 * 2 ^ 36), 0, 0]) ∧
      u.modRegs.fqtail = BitVec.ofNat 64 ((field s.modRegs.fqtail 15 0 + 1) % 65536))

/-! ### Images, loads, launches -/

/-- R329 to R332, R341 to R347: an image is registered when it has no defect, and unregistered when it is not in use;
configuration words are delivered one by one, and all of them make their contexts resident; the arbiter removes a
malformed block and reports it, chooses a candidate whose footprint is free, and configures its regions; its data are
written, its tokens wait for admission, and when its regions are quiescent the instance ends with its done store. The
record that a region takes and what is evicted are the model's choices (log entries 52, 95). -/
def Obligations.LoaderAndArbiter : Prop :=
  (∀ s : State, s.fatal = false → bit s.modRegs.imgstat 0 = true → s.modRegs.imgcmd.toNat = 1 →
    let a := s.modRegs.imgaddr.toNat
    let len := s.modRegs.imglen.toNat
    (∀ x, imageReject s a len = some x → exec .imageRegister s = .next (s.onRegs (fun g => { g with
      imgcmd := 0, imgstat := BitVec.ofNat 64 (4 + x.code % 256 * 256), ldrep := x.ldrep }))) ∧
    (imageReject s a len = none → ∃ v, exec .imageRegister s = .next v ∧ v.modRegs.imgstat = 2 ∧ v.modRegs.imgcmd = 0 ∧
      v.images = s.images ++ [⟨BitVec.ofNat 64 (memNat s (a + 16) 8), a, len⟩] ∧
      { v with modRegs := s.modRegs, images := s.images } = s)) ∧
  (∀ s : State, s.fatal = false → bit s.modRegs.imgstat 0 = true → s.modRegs.imgcmd.toNat = 2 →
    let used := (s.regions.any (fun kr => kr.2.valid && kr.2.image == s.modRegs.imghdl)) || headNames s s.modRegs.imghdl
    (used = false → ∃ v, exec .imageUnregister s = .next v ∧ v.modRegs.imgstat = 8 ∧
      (∀ i, i ∈ v.images ↔ i ∈ s.images ∧ i.handle ≠ s.modRegs.imghdl) ∧ { v with modRegs := s.modRegs, images := s.images } = s) ∧
    (used = true → exec .imageUnregister s = .next ((s.onRegs (fun g => { g with imgcmd := 0, imgstat := 16 })).refuseWrite))) ∧
  (∀ (s : State) (q n r : Nat) (va : Word) (b : Launch), s.fatal = false → q < 64 → (∀ p < q, dropMalformed s p = none) →
    headBlock s q = some (va, n, b) → launchReason s va b = some r →
    exec .launchArbitration s = .next ((popLaunch q s).deviceReport 0xF0 (fun x => { x with tag := r }) (some va))) ∧
  (∀ (s : State) (q n : Nat) (va : Word) (b : Launch) (l : LoadSec) (gone : List Nat), s.fatal = false → q < 64 → b.prio < 8 →
    (∀ p, p ≠ q → headBlock s p = none) → headBlock s q = some (va, n, b) → launchReason s va b = none →
    (∀ i ∈ s.insts, i.phase ≠ 5 ∧ ¬(i.queue = q ∧ i.phase < 2)) → (∀ p ∈ b.preds, predMet s q p = true) →
    launchLoad s b = some l → evictions s (s.taken + 1) b.handle l false [] = some gone →
    exec .launchArbitration s = .next (chooseInst q n b s)) ∧
  (∀ (q n : Nat) (b : Launch) (s : State), ∃ x ∈ (chooseInst q n b s).insts, x.num = n ∧ x.image = b.handle ∧ x.load = b.load ∧
    x.prio = b.prio ∧ x.phase = 0 ∧ x.queue = q ∧ x.tokens = b.tokens ∧ x.entry = s.taken + 1 ∧ (chooseInst q n b s).taken = s.taken + 1 ∧
    { chooseInst q n b s with insts := s.insts, lastQ := s.lastQ, taken := s.taken, forgotten := s.forgotten } = s) ∧
  (∀ (s : State) (n : Nat) (x : Inst) (im : Image) (gone : List Nat), s.fatal = false → s.inst n = some x → x.phase = 0 →
    s.imageOf x.image = some im →
    let l := readLoad s im.addr x.load
    evictions s x.entry x.image l false [] = some gone → exec (.instanceStart n) s = .next (shareBarriers n
      (((List.range l.heads.length).foldl (fun s i => placeRegion x l i s) (gone.foldl (fun s k => evictRegion k s) s)).onInst n
        (fun x => { x with phase := 1 })))) ∧
  (∀ (s : State) (x : Inst) (l : LoadSec) (i k : Nat),
    (reusable s x.image l i = some k → ((placeRegion x l i s).region k).inst = x.num ∧ ((placeRegion x l i s).region k).running = true ∧
      ((placeRegion x l i s).region k).status = (s.region k).status) ∧
    (reusable s x.image l i = none → freeRecord s (Region.die (l.regions.getD i Region.empty)) = some k →
      ((placeRegion x l i s).region k).status = 1 ∧ ((placeRegion x l i s).region k).image = x.image ∧
      ((placeRegion x l i s).region k).index = i ∧ ((placeRegion x l i s).region k).inst = x.num)) ∧
  (∀ (s : State) (n : Nat) (x : Inst) (l : LoadSec), s.fatal = false → s.inst n = some x → x.phase = 1 → instLoad s x = some l →
    instResident s x = true →
    (∀ b, l.blocks[x.dataNext]? = some b → b.va.toNat + b.len ≤ 2 ^ 57 → ∀ v,
      writeVa l.ctx (vaParts b.va.toNat b.len) (Memory.readBytes s.mem b.start b.len) s = some v →
      exec (.initialDataWrite n) s = .next (v.onInst n (fun x => { x with dataNext := x.dataNext + 1 }))) ∧
    (∀ b, l.blocks[x.dataNext]? = some b → 2 ^ 57 < b.va.toNat + b.len ∨
        writeVa l.ctx (vaParts b.va.toNat b.len) (Memory.readBytes s.mem b.start b.len) s = none →
      exec (.initialDataWrite n) s = .next (abortInst n (some x.dataNext) (popLaunch x.queue s))) ∧
    (l.blocks.length ≤ x.dataNext → exec (.initialTokenInjection n) s = .next (popLaunch x.queue
      ((x.regions.foldl (fun s k => launchRegion l (x.tokens.map (fun t => Token.ofWords t.1 t.2)) k s) s).onInst n
        (fun x => { x with phase := 3 }))))) ∧
  (∀ (s : State) (n : Nat) (x : Inst), s.fatal = false → s.inst n = some x → x.phase = 3 →
    (∀ k ∈ x.regions, quiescent s k = true ∧ nothingDue s k = true ∧ (s.region k).rolling = false) →
    exec (.instanceEnd n) s = .next (instOver x (doneStore x x.num s))) ∧
  (∀ (s : State) (x : Inst), x.doneAt = 0 → doneStore x x.num s = s) ∧
  (∀ (s v : State) (x : Inst), x.doneAt ≠ 0 → x.doneAt.toNat + 8 ≤ 2 ^ 57 →
    writeVa (instCtx s x) (vaParts x.doneAt.toNat 8) (leBytes 8 x.num) s = some v → doneStore x x.num s = v) ∧
  (∀ (s : State) (k : Nat) (l : LoadSec) (w : CfgItem), s.fatal = false → regionLoad s k = some l → (s.region k).status = 1 → (s.region k).halted = false →
    (configWords s k l)[(s.region k).words]? = some w →
    exec (.configWordDelivery k) s = .next ((deliver k l.ctx w s).onRegion k (fun r => { r with words := r.words + 1 }))) ∧
  (∀ (k c x st n : Nat) (w : StationWord) (s : State),
    Map.find ((deliver k c (.word x st w n) s).pe x).store ((s.pe x).ctxBase c + st) = some w ∧
    (∀ j, j ≠ x → (deliver k c (.word x st w n) s).pe j = s.pe j)) ∧
  (∀ (s : State) (k : Nat) (l : LoadSec), s.fatal = false → regionLoad s k = some l → (s.region k).status = 1 → (s.region k).halted = false →
    (configWords s k l).length ≤ (s.region k).words → ∃ v, exec (.contextResident k) s = .next v ∧ (v.region k).status = 2 ∧
      v.mem = s.mem ∧ v.net = s.net ∧ (v.region k).caboose = [] ∧
      (∀ e ∈ l.entries, (s.region k).holdsPe e.1 = true → (v.pe (Site.key e.1)).ctxState l.ctx = 1))

/-- R339, R349, R370 to R379: the host flushes, halts and resumes a region, clears its logs, steps and reads it while
it is halted; it asks a running instance to leave its regions, which park when they may, and lets it go on; a drain
that lasts longer than its budget becomes a forced save or is given up. That a flushed region shows drained is the
model's reading (log entry 18). -/
def Obligations.RegionControl : Prop :=
  (∀ (s : State) (k : Nat), s.hostOpen = true →
    let r := s.region k
    (r.valid = true → r.status ≠ 1 → exec (.regionFlush k) s = .next ((flushRegion k s).onRegion k (fun g => { g with status := 4 }))) ∧
    (r.valid = true → exec (.regionHalt k) s = .next (s.onRegion k (fun r => { r with
      halted := true, progress := progressNow s k }))) ∧
    (r.halted = true → (∀ ko ∈ regionOpers s k, (s.oper ko.1).state ≠ 2) → exec (.regionResume k) s = .next (s.onRegion k (fun r => { r with
      halted := false, stepping := 0, progressAt := s.now r.die }))) ∧
    exec (.clearPoisonLog k) s = .next (s.onRegion k (fun g => { g with log := [], logCycles := [], overflow := 0 })) ∧
    exec (.clearStall k) s = .next (s.onRegion k (fun g => { g with stallRec := 0, stalled := false }))) ∧
  (∀ (s : State) (k : Nat),
    let v := flushRegion k s
    (v.region k).caboose = [] ∧ (v.region k).inputs = [] ∧ (v.region k).launchQ = [] ∧ (v.region k).frames = [] ∧
    v.mem = s.mem ∧ v.net = (s.net.filter (fun f => !(s.inside k f || answersTo s k f))).map (orphanFlight k) ∧
    (∀ x ∈ (s.region k).peSites, ∀ e ∈ (v.pe (Site.key x)).entries, e.ctx ≠ (s.region k).ctx) ∧
    (∀ a ∈ v.accesses, a.region = k + 1 → a.phase ≠ 6)) ∧
  (∀ (s : State) (die : Nat) (v : Word), s.hostOpen = true → die < 24 →
    let k := 64 * die + field v 5 0
    (field v 15 8 ≠ 0 → (s.region k).halted = true → exec (.debugStep die v) s = .next
      ((s.onRegion k (fun r => { r with stepping := field v 15 8 })).onDie die (fun d => { d with
        dsstat := BitVec.ofNat 64 (field v 5 0 * 2 ^ 16) }))) ∧
    (field v 15 8 = 0 ∨ (s.region k).halted = false → exec (.debugStep die v) s = .next s.refuseWrite)) ∧
  (∀ (s : State) (die : Nat), s.hostOpen = true → die < 24 →
    let v := (s.die die).daddr
    (∀ b, readable s (debugRegion s die v) = true → debugItem s (debugRegion s die v) die v = some b → ∃ u, exec (.debugRead die) s = .next u ∧
      u.hostRead = BitVec.ofNat 64 (b.toNat % 2 ^ 64) ∧ (u.die die).ddata1 = BitVec.ofNat 64 (b.toNat / 2 ^ 64) ∧
      { u with dies := s.dies, hostRead := s.hostRead } = s) ∧
    (readable s (debugRegion s die v) = false → ∃ u, exec (.debugRead die) s = .next u ∧ u.hostRead = 0)) ∧
  (∀ (s : State) (i : Nat) (x : Inst), s.hostOpen = true → s.inst i = some x →
    (x.phase = 3 → s.poolHolds x.regions = true → ∀ y ∈ [(Instr.preemptDrainToWave i, 1), (.preemptForcedSave i, 2)],
      exec y.1 s = .next ((x.regions.foldl (fun s k => askRegion y.2 x.budget x.policy true k s) s).onInst i (fun x => { x with byHost := true }))) ∧
    (x.phase ≠ 3 ∨ s.poolHolds x.regions = false → ∀ y ∈ [Instr.preemptDrainToWave i, .preemptForcedSave i], exec y s = .next s.refuseWrite) ∧
    (x.phase = 5 → x.byHost = true → exec (.preemptResume i) s = .next (s.onInst i (fun x => { x with byHost := false }))) ∧
    (x.phase ≠ 5 ∨ x.byHost = false → exec (.preemptResume i) s = .next s.refuseWrite)) ∧
  (∀ (s : State) (k mode budget policy : Nat) (b : Bool), (s.region k).preempt.mode = 0 → (s.region k).status ≠ 6 →
    ((askRegion mode budget policy b k s).region k).preempt =
      ⟨if (s.region k).status = 3 then mode + 2 else mode, s.now (s.region k).die, budget, policy, b⟩) ∧
  (∀ (s : State) (k : Nat), s.fatal = false → s.poolHolds [k] = true →
    let r := s.region k
    r.rolling = false → r.valid = true → r.status ≠ 1 → r.status ≠ 6 →
    (Region.saving r = 1 ∧ r.halted = false ∧ waveBoundary s k = true ∨ Region.saving r = 2 ∧ saveReady s k = true) →
    ∃ v, exec (.park k) s = .next v ∧ (v.region k).status = 6 ∧ v.mem = s.mem ∧
      v.net = s.net.filter (fun f => !(s.inside k f)) ∧
      (∃ q ∈ v.parked, q.region = k ∧ q.captured = s.net.filter (s.inside k)) ∧
      (∀ x ∈ r.peSites, ∀ e ∈ (v.pe (Site.key x)).entries, e.ctx ≠ r.ctx)) ∧
  (∀ (s : State) (i : Nat) (x : Inst) (gone : List Nat), s.fatal = false → s.inst i = some x → x.phase = 5 → x.byHost = false →
    resumePlan s x = some gone → exec (.instanceResume i) s = .next (resumeInst x gone s)) ∧
  (∀ (s : State) (i k : Nat) (x : Inst), s.fatal = false → s.inst i = some x → x.regions = [k] → budgetOver s k = true →
    (x.policy = 3 → (s.region k).preempt.mode = 1 → ∃ v, exec (.drainBudgetExpiry i) s = .next v ∧ (v.region k).preempt.mode = 2 ∧
      { v with regions := s.regions } = s) ∧
    (x.policy ≠ 3 → ∃ v, exec (.drainBudgetExpiry i) s = .next v ∧ (v.region k).preempt.mode = 0))

/-- What R399, R402, R405, R406, R410, R411 and R418 give these steps. A mark that is due begins the next wave, gives every PE of the
region its other colour, keeps what the mark sees of a protected region and moves the replay point no further than that mark; with
none due, the step does what the replay area needs. A strike report is counted, logged and reported, and strikes the regions it reaches,
in turn: a loading one is delivered again from its first word, an unprotected one ends its instance, one struck a second time
within a rollback is fatal, and any other goes back to its replay point and rolls back. A rollback completes by the entry of every kept
input in order, after which the region runs. An uncorrectable error acts by its place. A write that injects strikes is a report of
each enabled sensor, refused while a rollback is in progress on the die. After a fatal error none of these does anything. -/
def Obligations.MarksAndRollback : Prop :=
  (∀ (s : State) (k : Nat),
    let r := s.region k
    (s.fatal = false → r.rolling = false → 2 ≤ r.status → r.status ≤ 4 → r.markAt / 1024 < s.now r.die / 1024 →
      ∃ v, exec (.waveMark k) s = .next v ∧ (v.region k).wave = r.wave + 1 ∧ (v.region k).markAt = (r.markAt / 1024 + 1) * 1024 ∧
        v.mem = s.mem ∧ v.net = s.net ∧ (v.region k).caboose = r.caboose ∧
        (r.unprot = false → r.oldest ≤ r.wave → r.oldest ≤ (v.region k).oldest ∧ (v.region k).oldest ≤ r.wave + 1 ∧
          ∃ m ∈ v.snaps, m.region = k ∧ m.wave = r.wave + 1)) ∧
    (s.fatal = true ∨ r.rolling = true ∨ r.status < 2 ∨ 4 < r.status ∨ s.now r.die / 1024 ≤ r.markAt / 1024 →
      exec (.waveMark k) s = .next (replayArea k s)) ∧
    (s.fatal = true ∨ r.rolling = true ∨ r.status < 2 ∨ 4 < r.status → replayArea k s = s)) ∧
  (∀ (s : State) (die sensor : Nat), s.fatal = false → die < 24 →
    (sensor < 192 → exec (.strikeReport die false sensor) s = .next (strike die false false sensor s)) ∧
    (sensor < 384 → exec (.strikeReport die true sensor) s = .next (strike die true false sensor s))) ∧
  (∀ (s : State) (die sensor : Nat) (tile inj : Bool),
    let log := strikeLog sensor tile inj (s.now die)
    let count := (s.die die).strcnt
    let u := (s.onDie die (fun d => { d with
      strlog := log
      strcnt := if inj then setField count 63 32 (field count 63 32 + 1) else setField count 31 0 (field count 31 0 + 1) })).deviceReport
        0xF4 (fun r => { r with site := ⟨die, r.site.row, r.site.col⟩ }) (some log)
    (tile = false → strike die tile inj sensor s = (struckRegions u die sensor).foldl (fun s k => strikeRegion k s) u) ∧
    (tile = true → strike die tile inj sensor s =
      (tileOwners u (sensorTile die sensor)).foldl (fun s k => strikeRegion k s) (scrubTile (sensorTile die sensor) u)) ∧
    (sensor < 512 → field log 8 0 = sensor ∧ bit log 9 = inj ∧ bit log 10 = tile ∧ field log 63 32 = s.now die % 2 ^ 32)) ∧
  (∀ (s : State) (k : Nat), s.fatal = false →
    let r := s.region k
    (r.status = 0 ∨ r.status = 6 → strikeRegion k s = s) ∧
    (r.status = 1 → strikeRegion k s = s.onRegion k (fun r => { r with words := 0 })) ∧
    (2 ≤ r.status → r.status ≤ 5 → r.unprot = true → strikeRegion k s = abortInst r.inst none s) ∧
    (2 ≤ r.status → r.status ≤ 5 → r.unprot = false → r.rolling = true → 1 ≤ r.restarts →
      strikeRegion k s = s.fatalStop 3 r.die 0) ∧
    (2 ≤ r.status → r.status ≤ 5 → r.unprot = false → r.rolling = false ∨ r.restarts = 0 → ∀ snap, replaySnap s k = some snap →
      strikeRegion k s = (goBack k snap s).onRegion k (fun q => { q with
        restarts := if r.rolling = true then r.restarts + 1 else 0 }))) ∧
  (∀ (s : State) (k : Nat) (snap : Snap), ((goBack k snap s).region k).rolling = true ∧ ((goBack k snap s).region k).caboose = [] ∧
    ((goBack k snap s).region k).wave = snap.wave ∧ ((goBack k snap s).region k).oldest = snap.wave) ∧
  (∀ (s : State) (k : Nat),
    (s.fatal = false → (s.region k).rolling = true → exec (.rollbackComplete k) s = .next
      (wakeOpers k (((s.region k).replayQ.foldl (replayOne k) s).onRegion k (fun r => { r with
        rolling := false, restarts := 0, replayQ := []
        progressAt := ((s.region k).replayQ.foldl (replayOne k) s).now r.die })))) ∧
    (s.fatal = true ∨ (s.region k).rolling = false → exec (.rollbackComplete k) s = .next s)) ∧
  (∀ (s : State), s.fatal = false →
    (∀ k, exec (.uncorrectableError (.live k)) s = .next (strikeRegion k s)) ∧
    (∀ x, exec (.uncorrectableError (.flit x)) s = .next (s.fatalStop 4 x.die (siteBits x 0))) ∧
    (∀ i p, p ∈ s.parked → (s.region p.region).inst = i → exec (.uncorrectableError (.parked i)) s = .next (abortInst i none s)) ∧
    (∀ x g p, isTile x = true → p < 4 → exec (.uncorrectableError (.tileData x g p)) s = .next (poisonGranule (Site.key x) g p s)) ∧
    (∀ x pos, isTile x = true → ∃ v, exec (.uncorrectableError (.slotRecord x pos)) s = .next v ∧
      (Map.get (v.tile (Site.key x)).slots Slot.empty pos).state = 3)) ∧
  (∀ (s : State) (k die sensor : Nat) (tile : Bool) (e : ErrorPlace), s.fatal = true →
    ∀ i ∈ [Instr.waveMark k, .strikeReport die tile sensor, .rollbackComplete k, .uncorrectableError e, .injectStrike die],
      exec i s = .next s) ∧
  (∀ (s : State) (die : Nat), s.hostOpen = true → die < 24 →
    ((∀ kr ∈ s.regions, kr.2.rolling = true → kr.2.die ≠ die) → exec (.injectStrike die) s = .next
      (((List.range 384).filter (fun i => bit (Map.get (s.die die).injmt 0 (i / 64)) (i % 64))).foldl (fun s n => strike die true true n s)
        (((List.range 192).filter (fun i => bit (Map.get (s.die die).injpe 0 (i / 64)) (i % 64))).foldl
          (fun s n => strike die false true n s) s))) ∧
    ((∃ kr ∈ s.regions, kr.2.rolling = true ∧ kr.2.die = die) → exec (.injectStrike die) s = .next s.refuseWrite))

/-! ### Faults of the module, the host and the links -/

/-- What R381, R420 to R423 and R425 to R427 give these steps. A fatal class stops the module once: FSTAT has its
class and die, every link goes down, and the detecting site is kept for the dump; of the events that come later only
the dump, reads and a module reset do anything. A sensor's self-test is recorded, and a failed one is fatal. The dump
is written once, with its header first, FSTAT says so, and the fatal vector is sent. A die whose regions no instance
holds is reset: its counter starts at 0, its registers at their reset values but for REPMAP, and what is not parked
leaves its PEs, tiles and operators; while one holds it the write is refused. A module reset leaves nothing but
memory, the agenda and the counter of free values (the model's readings), and its sensors may fail. The power monitor
shows the draw kept at its limit. The handshake takes a version once, until a function-level reset opens it again;
without it no write of a host has an effect, and a read returns zero. That a module reset keeps memory is the model's
reading (log entry 63). -/
def Obligations.FatalAndReset : Prop :=
  (∀ (s : State) (cls die site : Nat), s.fatal = false → 1 ≤ cls → cls ≤ 4 → die ≤ 24 →
    ∃ v, exec (.fatalStop cls ⟨die, site⟩) s = .next v ∧
      v.fatal = true ∧ field v.modRegs.fstat 3 0 = cls ∧ field v.modRegs.fstat 10 6 = die ∧ bit v.modRegs.fstat 4 = false ∧
      v.fatalSite = BitVec.ofNat 64 (site % 2 ^ 32) ∧ (∀ kp ∈ v.links, LinkPort.state kp.2 = 0) ∧
      { v with fatal := s.fatal, fatalSite := s.fatalSite, modRegs := s.modRegs, links := s.links } = s) ∧
  (∀ (s : State) (cls die site : Nat), s.fatal = true → exec (.fatalStop cls ⟨die, site⟩) s = .next s) ∧
  (∀ (s : State) (i : Instr) (ts : List Turn), s.agenda = .event i :: ts → s.fatal = true → afterFatal i = false →
    step s = .next { s with agenda := ts }) ∧
  (∀ i : Instr, afterFatal i = true ↔ i = .dumpWritten ∨ (∃ d, i = .debugRead d) ∨ (∃ f ok, i = .moduleReset f ok) ∨
    (∃ off data, i = .apertureAccess false off data)) ∧
  (∀ (s : State) (die sensor : Nat), s.fatal = false → die < 24 → sensor < 576 →
    (∃ v, exec (.sensorSelfTest die sensor true) s = .next v ∧ bit (v.die die).senstat 0 = true ∧
      field (v.die die).senstat 63 32 = (field (s.die die).senstat 63 32 + 1) % 2 ^ 32 ∧ { v with dies := s.dies } = s) ∧
    (∃ v, exec (.sensorSelfTest die sensor false) s = .next v ∧ v.fatal = true ∧ field v.modRegs.fstat 3 0 = 2 ∧
      field v.modRegs.fstat 10 6 = die ∧ bit (v.die die).senstat 0 = false ∧ field (v.die die).senstat 9 1 = sensor % 512 ∧
      field (v.die die).senstat 63 32 = (field (s.die die).senstat 63 32 + 1) % 2 ^ 32)) ∧
  (∀ s : State, s.memOk → s.fatal = true → bit s.modRegs.fstat 4 = false → field s.modRegs.dmpsize 31 0 ≠ 0 → ∃ v, exec .dumpWritten s = .next v ∧
    bit v.modRegs.fstat 4 = true ∧ v.mem = s.mem ∧ v.msixPending = s.msixPending ++ [field s.modRegs.mvec 7 0] ∧
    v.regions = s.regions ∧ v.pes = s.pes ∧
    Memory.readBytes v.hostMem s.modRegs.dmpbase.toNat 4 = [0x44, 0x55, 0x4D, 0x50] ∧
    Memory.readBytes v.hostMem (s.modRegs.dmpbase.toNat + 8) 1 = leBytes 1 (field s.modRegs.fstat 3 0) ∧
    Memory.readBytes v.hostMem (s.modRegs.dmpbase.toNat + 10) 2 = leBytes 2 (field s.modRegs.fstat 10 6) ∧
    Memory.readBytes v.hostMem (s.modRegs.dmpbase.toNat + 12) 4 = leBytes 4 s.fatalSite.toNat) ∧
  (∀ s : State, s.fatal = true → bit s.modRegs.fstat 4 = true → exec .dumpWritten s = .next s) ∧
  (∀ s : State, s.fatal = false → exec .dumpWritten s = .next s) ∧
  (∀ (s : State) (v : Word), s.hostOpen = true → dieHeld s (field v 4 0) = false → bit v 8 = true → field v 4 0 < 24 →
    ∃ u, exec (.dieReset v) s = .next u ∧ u.now (field v 4 0) = 0 ∧ u.mem = s.mem ∧
      u.die (field v 4 0) = { DieRegs.reset with
        repmap := (s.die (field v 4 0)).repmap
        mapped := (s.die (field v 4 0)).repmap } ∧
      (∀ k, (Site.ofKey k).die = field v 4 0 → u.tile k = Tile.clear ∧ u.oper k = Oper.idle ∧
        ((∀ kr ∈ s.regions, kr.2.status = 6 → Region.die kr.2 ≠ field v 4 0) → u.pe k = Pe.idle))) ∧
  (∀ (s : State) (v : Word), s.hostOpen = true → dieHeld s (field v 4 0) = true → exec (.dieReset v) s = .next s.refuseWrite) ∧
  (∀ (s : State) (failed : BitVec 24), ∃ v, exec (.moduleReset failed true) s = .next v ∧ v.fatal = false ∧ v.booted = true ∧
    v.mem = s.mem ∧ v.hostMem = s.hostMem ∧ v.regions = [] ∧ v.net = [] ∧ v.pes = [] ∧ v.tiles = [] ∧ v.opers = [] ∧ v.insts = [] ∧
    v.images = [] ∧ v.queues = [] ∧ v.links = [] ∧ v.modRegs.hifact = 0 ∧ v.modRegs.fstat = 0 ∧
    v.modRegs.bootstat = BitVec.ofNat 64 (0x7F + failed.toNat * 256)) ∧
  (∀ (s : State) (failed : BitVec 24), ∃ v, exec (.moduleReset failed false) s = .next v ∧ v.fatal = true ∧ v.booted = false ∧
    field v.modRegs.fstat 3 0 = 2 ∧ v.mem = s.mem) ∧
  (∀ (s : State) (draw : Nat), s.fatal = false →
    let cap := min 1050 (field s.modRegs.pwrcap 15 0)
    ∃ v, exec (.powerThrottle draw) s = .next v ∧ field v.modRegs.pwrstat 15 0 = min draw cap ∧
      (bit v.modRegs.pwrstat 16 = true ↔ cap < draw) ∧ { v with modRegs := s.modRegs } = s) ∧
  (∀ (s : State) (v : Word), s.fatal = false → s.booted = true → field s.modRegs.hifact 17 16 = 0 →
    ∃ u, exec (.hifHandshake v) s = .next u ∧ u.modRegs.hifneg = BitVec.ofNat 64 (field v 16 0) ∧
      (bit v 16 = false → u.modRegs.hifact = s.modRegs.hifact) ∧
      (bit v 16 = true → field v 15 8 = 1 → u.modRegs.hifact = 0x10100) ∧
      (bit v 16 = true → field v 15 8 ≠ 1 → u.modRegs.hifact = 0x20000) ∧ { u with modRegs := s.modRegs } = s) ∧
  (∀ (s : State) (v : Word), s.fatal = true ∨ field s.modRegs.hifact 17 16 ≠ 0 → exec (.hifHandshake v) s = .next s) ∧
  (∀ s : State, s.fatal = false → exec .functionLevelReset s = .next (s.onRegs (fun g => { g with hifneg := 0, hifact := 0 }))) ∧
  (∀ (s : State) (k off len : Nat) (v : Word) (w : BitVec 128) (data : List Byte), s.hostOpen = false →
    (∀ i ∈ [Instr.regionFlush k, .regionHalt k, .regionResume k, .clearPoisonLog k, .clearStall k, .rqheadWrite v, .fqheadWrite v,
      .dieReset v, .preemptResume k, .linkRetrain k, .queueHeadWrite k v, .queueTailWrite k v, .tinvPage v, .tresRetry v, .injectStrike k,
      .tokenWindowWrite off len w, .apertureAccess true off data], exec i s = .next s) ∧
    (off ≠ 0x10 → exec (.registerWrite off v) s = .next s)) ∧
  (∀ (s : State) (k off : Nat) (data : List Byte), bit s.modRegs.hifact 16 = false →
    exec (.debugRead k) s = .next { s with hostRead := 0 } ∧
    exec (.apertureAccess false off data) s = .next { s with hostBytes := List.replicate data.length 0 })

/-- R7, R286, R329, R348, R369, R382 to R387, R419: what a host's write to each kind of register, to the token window
and to the memory aperture does. Unaligned offsets, the raw MSI-X table and how a window token waits are the model's
readings (log entries 69, 71, 72). -/
def Obligations.HostInterface : Prop :=
  (∀ (s : State) (v : Word), s.hostOpen = true →
    (s.reports = [] → exec (.rqheadWrite v) s = .next (s.onRegs (fun g => { g with
      rqhead := BitVec.ofNat 64 (field v 15 0)
      rqFull := g.rqFull && field v 15 0 == field g.rqhead 15 0 }))) ∧
    (∀ q < 256,
      let r := Map.get s.queues QueueReg.zero q
      let nh := (field v 31 0 + 2 ^ 32 - field r.head 31 0) % 2 ^ 32
      let nt := (field v 31 0 + 2 ^ 32 - field r.tail 31 0) % 2 ^ 32
      (bit r.cfg 8 = false ∨ (bit r.cfg 10 = true ∧ 1 ≤ nh ∧ nh ≤ QueueReg.used r) → exec (.queueHeadWrite q v) s = .next
        { s with queues := Map.put s.queues q { r with head := BitVec.ofNat 64 (field v 31 0) } }) ∧
      (bit r.cfg 8 = true → ¬(bit r.cfg 10 = true ∧ 1 ≤ nh ∧ nh ≤ QueueReg.used r) → exec (.queueHeadWrite q v) s = .next s.refuseWrite) ∧
      (bit r.cfg 8 = false ∨ (bit r.cfg 9 = true ∧ 1 ≤ nt ∧ nt + QueueReg.used r ≤ QueueReg.depth r) → exec (.queueTailWrite q v) s = .next
        { s with
          queues := Map.put s.queues q { r with tail := BitVec.ofNat 64 (field v 31 0) }
          pushed := if bit r.cfg 8 = true ∧ 192 ≤ q then s.pushed ++ [⟨q - 192, field r.tail 31 0, s.taken⟩] else s.pushed }) ∧
      (bit r.cfg 8 = true → ¬(bit r.cfg 9 = true ∧ 1 ≤ nt ∧ nt + QueueReg.used r ≤ QueueReg.depth r) →
        exec (.queueTailWrite q v) s = .next s.refuseWrite))) ∧
  (∀ (s : State) (off len : Nat) (v : BitVec 128), s.hostOpen = true →
    let h : Word := BitVec.ofNat 64 (v.toNat % 2 ^ 64)
    let t := Token.ofWords h (BitVec.ofNat 64 (v.toNat / 2 ^ 64))
    (len ≠ 16 ∨ off % 16 ≠ 0 → exec (.tokenWindowWrite off len v) s = .next (s.deviceReport 0xF2 id (some h))) ∧
    (len = 16 → off % 16 = 0 → off < 65536 → windowBad s t = true →
      exec (.tokenWindowWrite off len v) s = .next (s.deviceReport 0xF2 id (some h))) ∧
    (len = 16 → off % 16 = 0 → off < 65536 → windowBad s t = false → ∀ k, s.regionAt (Token.site t) t.ctx.toNat = some k →
      (s.region k).status ≠ 6 → exec (.tokenWindowWrite off len v) s = .next (s.onRegion k (fun r => { r with launchQ := r.launchQ ++ [launchFlight s t] }))) ∧
    (len = 16 → off % 16 = 0 → off < 65536 → windowBad s t = false → ∀ k, s.regionAt (Token.site t) t.ctx.toNat = some k →
      (s.region k).status = 6 → exec (.tokenWindowWrite off len v) s = .next (s.post (launchFlight s t)))) ∧
  (∀ (s : State) (off : Nat) (data : List Byte), s.memOk → s.hostOpen = true → data ≠ [] → off + data.length ≤ 2 ^ 27 →
    let pa := field s.modRegs.apbase 51 27 * 2 ^ 27 + off
    (mapped pa = true → mapped (pa + data.length - 1) = true → s.migrations = [] →
      (∃ u, exec (.apertureAccess false off data) s = .next u ∧ u.hostBytes = Memory.readBytes s.mem pa data.length ∧
        { u with hostBytes := s.hostBytes } = s) ∧
      (∃ u, exec (.apertureAccess true off data) s = .next u ∧ (∀ i < data.length, Memory.read u.mem (pa + i) = data.getD i 0) ∧
        (∀ a, a < pa ∨ pa + data.length ≤ a → Memory.read u.mem a = Memory.read s.mem a) ∧ u.regions = s.regions)) ∧
    (mapped pa = false → exec (.apertureAccess true off data) s = .next s.refuseWrite ∧
      exec (.apertureAccess false off data) s = .next { s.refuseWrite with hostBytes := List.replicate data.length 0xFF })) ∧
  (∀ (s : State) (off : Nat) (v : Word),
    (off = 0x10 → exec (.registerWrite off v) s = exec (.hifHandshake v) s) ∧
    (s.hostOpen = true →
      let g := fun (h : ModRegs → ModRegs) => exec (.registerWrite off v) s = .next (s.onRegs h)
      (off % 8 ≠ 0 → exec (.registerWrite off v) s = .next s) ∧
      (off = 0x1000 → g (fun g => { g with modid := BitVec.ofNat 64 (field v 7 0) })) ∧
      (off = 0x1008 → g (fun g => { g with rqbase := v })) ∧
      (off = 0x1030 → g (fun g => { g with apbase := BitVec.ofNat 64 (field v 51 27 * 2 ^ 27) })) ∧
      (off = 0x1038 → g (fun g => { g with psbase := v })) ∧
      (off = 0x1058 → g (fun g => { g with dmpbase := v })) ∧
      (off = 0x1090 → g (fun g => { g with imgaddr := v })) ∧
      (off = 0x10A8 → bit s.modRegs.imgstat 0 = false → field v 1 0 = 1 ∨ field v 1 0 = 2 →
        g (fun g => { g with imgcmd := BitVec.ofNat 64 (field v 1 0), imgstat := setField g.imgstat 0 0 1 })) ∧
      (off = 0x10A8 → field v 1 0 = 0 ∨ field v 1 0 = 3 → exec (.registerWrite off v) s = .next s.refuseWrite) ∧
      (∀ c < 8, off = 0x2000 + 8 * c →
        g (fun g => { g with troot := Map.put g.troot c (BitVec.ofNat 64 (field v 0 0 + field v 51 18 * 2 ^ 18)) })) ∧
      (∀ q < 256, off = 0x4000 + 32 * q + 16 → exec (.registerWrite off v) s = exec (.queueHeadWrite q v) s) ∧
      (∀ q < 256, off = 0x4000 + 32 * q + 24 → exec (.registerWrite off v) s = exec (.queueTailWrite q v) s) ∧
      (∀ i < 512, off = 0x8000 + 8 * i → exec (.registerWrite off v) s = .next { s with
        msix := Map.put s.msix i v
        msixHeld := s.msixHeld.filter (fun n => State.masked { s with msix := Map.put s.msix i v } n) }) ∧
      (∀ d < 24, ∀ j < 64, off = 0x100000 + 0x8000 * d + 256 * j + 8 → field v 31 3 = 0 →
        (field v 2 0 = 1 → exec (.registerWrite off v) s = exec (.gracefulReconfiguration (64 * d + j) v) s) ∧
        (field v 2 0 = 2 → exec (.registerWrite off v) s = exec (.regionFlush (64 * d + j)) s) ∧
        (field v 2 0 = 3 → exec (.registerWrite off v) s = exec (.regionHalt (64 * d + j)) s) ∧
        (field v 2 0 = 4 → exec (.registerWrite off v) s = exec (.regionResume (64 * d + j)) s) ∧
        (field v 2 0 = 5 → exec (.registerWrite off v) s = exec (.clearPoisonLog (64 * d + j)) s) ∧
        (field v 2 0 = 6 → exec (.registerWrite off v) s = exec (.clearStall (64 * d + j)) s)) ∧
      (∀ d < 24, off = 0x100000 + 0x8000 * d + 0x6080 → repmapOk v = false → exec (.registerWrite off v) s = .next s.refuseWrite)))

/-- What R285, R388 to R391 give these steps. A beat is 128 bytes; one that passes its checks is accepted in its turn,
acknowledges others, and is answered; one that fails asks for a retry, and the eighth failure of one sequence loses
the link. A retry request sends every unacknowledged beat again; silence loses a link or ends its training; a loss is
acted on once; training brings a link up, with sequences from 0, or not. A drawbar PORT numbers a token and sends it,
through its region's caboose; a received slot is emitted in its turn or dropped, and acknowledged. The numbers on the
wire are the model's choices (log entries 64 to 68). -/
def Obligations.DrawbarLinks : Prop :=
  (∀ (s : State) (p : Nat) (bytes : List Byte),
    let q := s.link p
    let b := Beat.read bytes
    s.fatal = false → p < 96 → LinkPort.state q = 2 →
    (b.good = true → b.seq = q.recvSeq → ∃ u ys, exec (.beatReceive p bytes) s = .next u ∧
      (u.link p).recvSeq = (q.recvSeq + 1) % 2 ^ 32 ∧ (u.link p).fails = Map.del q.fails b.seq ∧ (u.link p).silence = s.now 24 ∧
      (b.kind = .data → (u.link p).inQ = q.inQ ++ b.slots.map (fun x => (b.module, x))) ∧
      (b.kind = .streamAck → (u.link p).acksIn = q.acksIn ++ [(b.ackSite, b.ackSeq)]) ∧
      (b.kind = .retry → (u.link p).resend = true) ∧
      (u.link p).unacked = q.unacked.filter (fun y => !acked b.ack y.seq) ++ ys ∧ (u.link p).wire = q.wire ++ ys.map Beat.bytes ∧
      (ys = [] → 512 ≤ (q.unacked.filter (fun y => !acked b.ack y.seq)).length) ∧ { u with links := s.links } = s) ∧
    (b.good = false ∨ b.seq ≠ q.recvSeq → ∃ u, exec (.beatReceive p bytes) s = .next u ∧
      (u.link p).recvSeq = q.recvSeq ∧ Map.get (u.link p).fails 0 b.seq = Map.get q.fails 0 b.seq + 1 ∧ (u.link p).inQ = q.inQ ∧
      (u.link p).acksIn = q.acksIn ∧ { u with links := s.links } = s ∧
      (Map.get q.fails 0 b.seq < 7 → LinkPort.state (u.link p) = 2 ∧
        (q.unacked.length < 512 → ∃ y ys, y.kind = .retry ∧ (u.link p).wire = q.wire ++ Beat.bytes y :: ys) ∧
        (512 ≤ q.unacked.length → (u.link p).ask = true ∧ (u.link p).wire = q.wire)) ∧
      (7 ≤ Map.get q.fails 0 b.seq → LinkPort.state (u.link p) = 3 ∧ field (u.link p).lstat 7 4 = 3))) ∧
  (∀ b : Beat, (Beat.bytes b).length = 128 ∧ (Beat.read (Beat.bytes b)).good = true) ∧
  (∀ (s : State) (p : Nat),
    let q := s.link p
    s.fatal = false →
    (LinkPort.state q = 2 → q.resend = true → exec (.retryRequest p) s = .next (s.onLink p (fun q => { q with
      resend := false, wire := q.wire ++ q.unacked.map Beat.bytes, lrtry := BitVec.ofNat 64 ((field q.lrtry 31 0 + 1) % 2 ^ 32) }))) ∧
    (LinkPort.state q = 2 → q.silence + 4096 ≤ s.now 24 → ∃ u, exec (.linkSilenceTimeout p) s = .next u ∧
      LinkPort.state (u.link p) = 3 ∧ field (u.link p).lstat 7 4 = 4 ∧ { u with links := s.links } = s) ∧
    (LinkPort.state q = 1 → q.silence + 4096 ≤ s.now 24 → ∃ u, exec (.linkSilenceTimeout p) s = .next u ∧
      LinkPort.state (u.link p) = (if q.again = true then 3 else 0) ∧ field (u.link p).lstat 7 4 = 2 ∧ { u with links := s.links } = s) ∧
    (LinkPort.state q = 3 → q.told = false →
      (∀ ko ∈ s.opers, ko.2.kind = 11 → Oper.portClass ko.2 = 3 → streamLink ko.2 ≠ p) → ∃ u, exec (.linkLoss p) s = .next u ∧
      (u.link p).told = true ∧ (u.link p).unacked = [] ∧ u.opers = s.opers ∧
      (s.reportRoom = true → s.reports = [] → ringUsed s.modRegs.rqFull s.modRegs.rqtail s.modRegs.rqhead = 0 →
        field s.modRegs.mvec 15 8 ∈ u.msixPending)) ∧
    (∀ minor module port flight, p < 96 → LinkPort.state q = 1 → module < 256 → port < 128 →
      ∃ u ys, exec (.linkTraining p 1 minor module port flight) s = .next u ∧ LinkPort.state (u.link p) = 2 ∧
        field (u.link p).lstat 15 8 = module ∧ field (u.link p).lstat 22 16 = port ∧
        field (u.link p).lstat 47 32 = flight % 65536 ∧ (u.link p).recvSeq = 0 ∧
        (u.link p).unacked = renumber 0 q.unacked ++ ys ∧ (u.link p).wire = q.wire ++ (u.link p).unacked.map Beat.bytes ∧
        { u with links := s.links } = s) ∧
    (∀ major minor module port flight, p < 96 → LinkPort.state q = 1 → major ≠ 1 →
      ∃ u, exec (.linkTraining p major minor module port flight) s = .next u ∧
        LinkPort.state (u.link p) = (if q.again = true then 3 else 0) ∧ field (u.link p).lstat 7 4 = 1 ∧
        { u with links := s.links } = s)) ∧
  (∀ (s : State) (p : Nat), s.hostOpen = true → p < 96 →
    let beat : Training := ⟨1, 0, field s.modRegs.modid 7 0, p, s.now 24⟩
    (bit (s.link p).lctl 0 = true → ∃ u, exec (.linkRetrain p) s = .next u ∧ LinkPort.state (u.link p) = 1 ∧
      (u.link p).trained = (s.link p).trained ++ [beat] ∧ { u with links := s.links } = s) ∧
    (bit (s.link p).lctl 0 = false → ∃ u, exec (.linkEnable p true) s = .next u ∧ LinkPort.state (u.link p) = 1 ∧ (u.link p).lctl = 1 ∧
      (u.link p).trained = (s.link p).trained ++ [beat] ∧ { u with links := s.links } = s) ∧
    (bit (s.link p).lctl 0 = true → ∃ u, exec (.linkEnable p false) s = .next u ∧ LinkPort.state (u.link p) = 0 ∧ (u.link p).lctl = 0 ∧
      { u with links := s.links } = s)) ∧
  (∀ (s : State) (n : Nat) (fl : Flight) (t : Token), Takes s n fl t → t.port = .r → (s.oper fl.dst).kind = 11 →
    Oper.portClass (s.oper fl.dst) = 3 → (s.oper fl.dst).unacked.length + forwardsHeld s fl.dst < 1024 →
    let u := sinkReport fl.dst t (takeFlight n fl s)
    ((s.oper fl.dst).region = 0 → exec (.drawbarForward n) s = .next (sendNumbered fl.dst t u)) ∧
    (∀ k, (s.oper fl.dst).region = k + 1 → cabooseRoom s (some k) 1 = true → exec (.drawbarForward n) s = .next
      (enterCaboose k fl.dst 0 t.tag.toNat (u.region k).wave t.seq.toNat (.forward fl.dst t) u))) ∧
  (∀ (s : State) (k site : Nat) (t : Token), performAct k (.forward site t) s = sendNumbered site t s) ∧
  (∀ (s : State) (site : Nat) (t : Token),
    let o := s.oper site
    let x := linkSlot site o (o.streamSeq, t)
    let u := sendNumbered site t s
    (u.oper site).streamSeq = (o.streamSeq + 1) % 2 ^ 32 ∧ (u.oper site).unacked = o.unacked ++ [x] ∧ u.net = s.net ∧ u.mem = s.mem ∧
    x.seq = o.streamSeq ∧ x.token = Token.bits t ∧ x.dst = BitVec.ofNat 32 (field (Map.get o.pm 0 3) 31 0) ∧
    (LinkPort.maySend (s.link (streamLink o)) = false →
      (u.link (streamLink o)).outQ = (s.link (streamLink o)).outQ ++ [x])) ∧
  (∀ (s : State) (module p : Nat) (slot : LinkSlot),
    let site := Site.key (Target.site (targetOf slot.dst.toNat))
    let t := Token.ofWords (BitVec.ofNat 64 (slot.token.toNat % 2 ^ 64)) (BitVec.ofNat 64 (slot.token.toNat / 2 ^ 64))
    let e := (s.streamsIn.find? (fun x => x.module == module && x.src == slot.src)).getD ⟨module, slot.src, 0, p, site, 0⟩
    s.fatal = false → slotPort s module slot = some p → (s.oper site).kind = 11 →
    (e.due < 64 ∨ LinkPort.state (s.link e.link) ≠ 2 →
      (slot.seq = e.next → operCan site (toA (s.oper site)) t s = true → ∃ u v, exec (.drawbarReceive module slot) s = .next u ∧
        outGo site ⟨toA (s.oper site), t, true, false⟩ s = v ∧ u.net = v.net ∧ (u.link p).inQ = (v.link p).inQ.drop 1 ∧
        ∃ y ∈ u.streamsIn, y.module = module ∧ y.src = slot.src ∧ y.next = (e.next + 1) % 2 ^ 32 ∧ y.due = e.due + 1) ∧
      (slot.seq ≠ e.next → ∃ u, exec (.drawbarReceive module slot) s = .next u ∧ u.net = s.net ∧
        (u.link p).inQ = (s.link p).inQ.drop 1 ∧
        ∃ y ∈ u.streamsIn, y.module = e.module ∧ y.src = e.src ∧ y.next = e.next ∧ y.due = e.due + 1)) ∧
    (64 ≤ e.due → LinkPort.state (s.link e.link) = 2 → exec (.drawbarReceive module slot) s = .next s)) ∧
  (∀ (s : State) (x : Site) (seq p : Nat) (q : LinkPort), s.fatal = false →
    s.links.find? (fun kp => kp.2.acksIn.contains (BitVec.ofNat 32 (siteBits x 0), seq)) = some (p, q) →
    ∃ u, exec (.streamAcknowledgement x seq) s = .next u ∧ (u.oper (Site.key x)).unacked =
      (s.oper (Site.key x)).unacked.filter (fun y => !acked seq y.seq) ∧ u.net = s.net) ∧
  (∀ (s : State) (x : Site) (e : StreamIn), s.fatal = false →
    s.streamsIn.find? (fun e => e.site == Site.key x && decide (0 < e.due) && LinkPort.maySend (s.link e.link)) = some e →
    ∃ u y, exec (.streamAckSend x) s = .next u ∧ (u.link e.link).wire = (s.link e.link).wire ++ [Beat.bytes y] ∧
      (u.link e.link).unacked = (s.link e.link).unacked ++ [y] ∧ y.kind = .streamAck ∧
      y.ackSite = e.src ∧ y.ackSeq = (e.next + (2 ^ 32 - 1)) % 2 ^ 32 ∧ u.net = s.net)
end

