-- ==== Sys2Proof/Laws/Maps.lean ====
section
/-! SUPPORT. Finite maps: what a read finds after a write, and the rising order of keys that every write keeps. -/

namespace Sys2Proof.Machine

variable {α : Type}

/-- Keys strictly rising, none below `lo`. -/
def Map.Rises : Nat → Map α → Prop
  | _, [] => True
  | lo, (k, _) :: m => lo ≤ k ∧ Map.Rises (k + 1) m

@[simp] theorem Map.find_nil (q : Nat) : Map.find ([] : Map α) q = none := rfl

theorem Map.find_cons (k : Nat) (v : α) (m : Map α) (q : Nat) :
    Map.find ((k, v) :: m) q = if q = k then some v else Map.find m q := rfl

/-- A key that was set reads as what was set. -/
@[simp] theorem Map.find_put_self (m : Map α) (q : Nat) (x : α) : Map.find (Map.put m q x) q = some x := by
  induction m with
  | nil => simp [Map.put, Map.find]
  | cons kv m ih =>
    obtain ⟨k, v⟩ := kv
    by_cases h1 : q < k
    · simp [Map.put, h1, Map.find]
    · by_cases h2 : q = k
      · simp [Map.put, h2, Map.find]
      · simp [Map.put, h1, h2, Map.find, ih]

/-- Every other key reads as before. -/
theorem Map.find_put_ne (m : Map α) {q r : Nat} (x : α) (h : r ≠ q) : Map.find (Map.put m q x) r = Map.find m r := by
  induction m with
  | nil => simp [Map.put, Map.find, h]
  | cons kv m ih =>
    obtain ⟨k, v⟩ := kv
    by_cases h1 : q < k
    · simp [Map.put, h1, Map.find, h]
    · by_cases h2 : q = k
      · subst h2; simp [Map.put, Map.find, h]
      · simp [Map.put, h1, h2, Map.find, ih]

theorem Map.find_put (m : Map α) (q r : Nat) (x : α) :
    Map.find (Map.put m q x) r = if r = q then some x else Map.find m r := by
  by_cases h : r = q
  · subst h; simp
  · simp [h, Map.find_put_ne m x h]

@[simp] theorem Map.get_nil (d : α) (q : Nat) : Map.get [] d q = d := rfl

@[simp] theorem Map.get_put_self (m : Map α) (d : α) (q : Nat) (x : α) : Map.get (Map.put m q x) d q = x := by
  simp [Map.get]

theorem Map.get_put_ne (m : Map α) (d : α) {q r : Nat} (x : α) (h : r ≠ q) :
    Map.get (Map.put m q x) d r = Map.get m d r := by
  simp [Map.get, Map.find_put_ne m x h]

theorem Map.get_put (m : Map α) (d : α) (q r : Nat) (x : α) :
    Map.get (Map.put m q x) d r = if r = q then x else Map.get m d r := by
  by_cases h : r = q
  · subst h; simp
  · simp [h, Map.get_put_ne m d x h]

/-- A changed key reads as its change. -/
@[simp] theorem Map.get_alter_self (m : Map α) (d : α) (q : Nat) (f : α → α) :
    Map.get (Map.alter m d q f) d q = f (Map.get m d q) := by
  simp [Map.alter]

theorem Map.get_alter_ne (m : Map α) (d : α) {q r : Nat} (f : α → α) (h : r ≠ q) :
    Map.get (Map.alter m d q f) d r = Map.get m d r := by
  simp [Map.alter, Map.get_put_ne m d _ h]

theorem Map.get_alter (m : Map α) (d : α) (q r : Nat) (f : α → α) :
    Map.get (Map.alter m d q f) d r = if r = q then f (Map.get m d q) else Map.get m d r := by
  simp [Map.alter, Map.get_put]

/-- A rising map lists no key below its bound. -/
theorem Map.find_below {m : Map α} {lo q : Nat} (h : Map.Rises lo m) (hq : q < lo) : Map.find m q = none := by
  induction m generalizing lo with
  | nil => rfl
  | cons kv m ih =>
    obtain ⟨k, v⟩ := kv
    obtain ⟨h1, h2⟩ := h
    have : q ≠ k := by omega
    simp only [Map.find, this, if_false]
    exact ih h2 (by omega)

theorem Map.Rises.mono {m : Map α} {lo lo' : Nat} (h : Map.Rises lo m) (hl : lo' ≤ lo) : Map.Rises lo' m := by
  cases m with
  | nil => trivial
  | cons kv m => exact ⟨by have := h.1; omega, h.2⟩

/-- Setting a key keeps the order. -/
theorem Map.Rises.put {m : Map α} {lo q : Nat} {x : α} (h : Map.Rises lo m) (hq : lo ≤ q) :
    Map.Rises lo (Map.put m q x) := by
  induction m generalizing lo with
  | nil => exact ⟨hq, trivial⟩
  | cons kv m ih =>
    obtain ⟨k, v⟩ := kv
    obtain ⟨h1, h2⟩ := h
    by_cases c1 : q < k
    · simp only [Map.put, c1, if_true]; exact ⟨hq, by omega, h2⟩
    · by_cases c2 : q = k
      · simp only [Map.put, c2, if_true, if_false, Nat.lt_irrefl]; exact ⟨h1, h2⟩
      · simp only [Map.put, c1, c2, if_false]; exact ⟨h1, ih h2 (by omega)⟩

/-- Taking a key out keeps the order. -/
theorem Map.Rises.del {m : Map α} {lo : Nat} (q : Nat) (h : Map.Rises lo m) : Map.Rises lo (Map.del m q) := by
  induction m generalizing lo with
  | nil => trivial
  | cons kv m ih =>
    obtain ⟨k, v⟩ := kv
    obtain ⟨h1, h2⟩ := h
    by_cases c : q = k
    · simp only [Map.del, c, if_true]; exact h2.mono (by omega)
    · simp only [Map.del, c, if_false]; exact ⟨h1, ih h2⟩

/-- A key that was taken out is not listed; every other key reads as before. -/
theorem Map.find_del {m : Map α} {lo : Nat} (h : Map.Rises lo m) (q r : Nat) :
    Map.find (Map.del m q) r = if r = q then none else Map.find m r := by
  induction m generalizing lo with
  | nil => simp [Map.del]
  | cons kv m ih =>
    obtain ⟨k, v⟩ := kv
    obtain ⟨h1, h2⟩ := h
    by_cases c : q = k
    · subst c
      by_cases c2 : r = q
      · subst c2; simp [Map.del, Map.find_below h2]
      · simp [Map.del, Map.find, c2]
    · by_cases c2 : r = k
      · subst c2
        have : ¬ r = q := fun e => c e.symm
        simp [Map.del, c, Map.find, this]
      · simp [Map.del, c, Map.find, c2, ih h2]

end Sys2Proof.Machine
end

