-- ==== Sys2Proof/Laws/State.lean ====
section
/-! SUPPORT. What each update of the state changes: one lemma per field. -/

namespace Sys2Proof.Machine

/-! ### `State.onPe` -/

@[simp] theorem State.onPe_agenda (s : State) (k : Nat) (g : Pe → Pe) : (s.onPe k g).agenda = s.agenda := rfl
@[simp] theorem State.onPe_firing (s : State) (k : Nat) (g : Pe → Pe) : (s.onPe k g).firing = s.firing := rfl
@[simp] theorem State.onPe_fresh (s : State) (k : Nat) (g : Pe → Pe) : (s.onPe k g).fresh = s.fresh := rfl
@[simp] theorem State.onPe_hostRead (s : State) (k : Nat) (g : Pe → Pe) : (s.onPe k g).hostRead = s.hostRead := rfl
@[simp] theorem State.onPe_hostBytes (s : State) (k : Nat) (g : Pe → Pe) : (s.onPe k g).hostBytes = s.hostBytes := rfl
@[simp] theorem State.onPe_clocks (s : State) (k : Nat) (g : Pe → Pe) : (s.onPe k g).clocks = s.clocks := rfl
@[simp] theorem State.onPe_pes (s : State) (k : Nat) (g : Pe → Pe) : (s.onPe k g).pes = Map.alter s.pes .idle k g := rfl
@[simp] theorem State.onPe_tiles (s : State) (k : Nat) (g : Pe → Pe) : (s.onPe k g).tiles = s.tiles := rfl
@[simp] theorem State.onPe_opers (s : State) (k : Nat) (g : Pe → Pe) : (s.onPe k g).opers = s.opers := rfl
@[simp] theorem State.onPe_regions (s : State) (k : Nat) (g : Pe → Pe) : (s.onPe k g).regions = s.regions := rfl
@[simp] theorem State.onPe_matrices (s : State) (k : Nat) (g : Pe → Pe) : (s.onPe k g).matrices = s.matrices := rfl
@[simp] theorem State.onPe_snaps (s : State) (k : Nat) (g : Pe → Pe) : (s.onPe k g).snaps = s.snaps := rfl
@[simp] theorem State.onPe_parked (s : State) (k : Nat) (g : Pe → Pe) : (s.onPe k g).parked = s.parked := rfl
@[simp] theorem State.onPe_net (s : State) (k : Nat) (g : Pe → Pe) : (s.onPe k g).net = s.net := rfl
@[simp] theorem State.onPe_accesses (s : State) (k : Nat) (g : Pe → Pe) : (s.onPe k g).accesses = s.accesses := rfl
@[simp] theorem State.onPe_nextAcc (s : State) (k : Nat) (g : Pe → Pe) : (s.onPe k g).nextAcc = s.nextAcc := rfl
@[simp] theorem State.onPe_mem (s : State) (k : Nat) (g : Pe → Pe) : (s.onPe k g).mem = s.mem := rfl
@[simp] theorem State.onPe_hostMem (s : State) (k : Nat) (g : Pe → Pe) : (s.onPe k g).hostMem = s.hostMem := rfl
@[simp] theorem State.onPe_poisonMem (s : State) (k : Nat) (g : Pe → Pe) : (s.onPe k g).poisonMem = s.poisonMem := rfl
@[simp] theorem State.onPe_tlb (s : State) (k : Nat) (g : Pe → Pe) : (s.onPe k g).tlb = s.tlb := rfl
@[simp] theorem State.onPe_holds (s : State) (k : Nat) (g : Pe → Pe) : (s.onPe k g).holds = s.holds := rfl
@[simp] theorem State.onPe_holdIds (s : State) (k : Nat) (g : Pe → Pe) : (s.onPe k g).holdIds = s.holdIds := rfl
@[simp] theorem State.onPe_slots (s : State) (k : Nat) (g : Pe → Pe) : (s.onPe k g).slots = s.slots := rfl
@[simp] theorem State.onPe_pins (s : State) (k : Nat) (g : Pe → Pe) : (s.onPe k g).pins = s.pins := rfl
@[simp] theorem State.onPe_migrations (s : State) (k : Nat) (g : Pe → Pe) : (s.onPe k g).migrations = s.migrations := rfl
@[simp] theorem State.onPe_inval (s : State) (k : Nat) (g : Pe → Pe) : (s.onPe k g).inval = s.inval := rfl
@[simp] theorem State.onPe_tinvWait (s : State) (k : Nat) (g : Pe → Pe) : (s.onPe k g).tinvWait = s.tinvWait := rfl
@[simp] theorem State.onPe_retire (s : State) (k : Nat) (g : Pe → Pe) : (s.onPe k g).retire = s.retire := rfl
@[simp] theorem State.onPe_faultQ (s : State) (k : Nat) (g : Pe → Pe) : (s.onPe k g).faultQ = s.faultQ := rfl
@[simp] theorem State.onPe_patrol (s : State) (k : Nat) (g : Pe → Pe) : (s.onPe k g).patrol = s.patrol := rfl
@[simp] theorem State.onPe_images (s : State) (k : Nat) (g : Pe → Pe) : (s.onPe k g).images = s.images := rfl
@[simp] theorem State.onPe_insts (s : State) (k : Nat) (g : Pe → Pe) : (s.onPe k g).insts = s.insts := rfl
@[simp] theorem State.onPe_forgotten (s : State) (k : Nat) (g : Pe → Pe) : (s.onPe k g).forgotten = s.forgotten := rfl
@[simp] theorem State.onPe_pushed (s : State) (k : Nat) (g : Pe → Pe) : (s.onPe k g).pushed = s.pushed := rfl
@[simp] theorem State.onPe_taken (s : State) (k : Nat) (g : Pe → Pe) : (s.onPe k g).taken = s.taken := rfl
@[simp] theorem State.onPe_lastQ (s : State) (k : Nat) (g : Pe → Pe) : (s.onPe k g).lastQ = s.lastQ := rfl
@[simp] theorem State.onPe_modRegs (s : State) (k : Nat) (g : Pe → Pe) : (s.onPe k g).modRegs = s.modRegs := rfl
@[simp] theorem State.onPe_dies (s : State) (k : Nat) (g : Pe → Pe) : (s.onPe k g).dies = s.dies := rfl
@[simp] theorem State.onPe_queues (s : State) (k : Nat) (g : Pe → Pe) : (s.onPe k g).queues = s.queues := rfl
@[simp] theorem State.onPe_links (s : State) (k : Nat) (g : Pe → Pe) : (s.onPe k g).links = s.links := rfl
@[simp] theorem State.onPe_streamsIn (s : State) (k : Nat) (g : Pe → Pe) : (s.onPe k g).streamsIn = s.streamsIn := rfl
@[simp] theorem State.onPe_reports (s : State) (k : Nat) (g : Pe → Pe) : (s.onPe k g).reports = s.reports := rfl
@[simp] theorem State.onPe_msix (s : State) (k : Nat) (g : Pe → Pe) : (s.onPe k g).msix = s.msix := rfl
@[simp] theorem State.onPe_msixPending (s : State) (k : Nat) (g : Pe → Pe) : (s.onPe k g).msixPending = s.msixPending := rfl
@[simp] theorem State.onPe_msixHeld (s : State) (k : Nat) (g : Pe → Pe) : (s.onPe k g).msixHeld = s.msixHeld := rfl
@[simp] theorem State.onPe_fatal (s : State) (k : Nat) (g : Pe → Pe) : (s.onPe k g).fatal = s.fatal := rfl
@[simp] theorem State.onPe_fatalSite (s : State) (k : Nat) (g : Pe → Pe) : (s.onPe k g).fatalSite = s.fatalSite := rfl
@[simp] theorem State.onPe_booted (s : State) (k : Nat) (g : Pe → Pe) : (s.onPe k g).booted = s.booted := rfl
@[simp] theorem State.onPe_cxl (s : State) (k : Nat) (g : Pe → Pe) : (s.onPe k g).cxl = s.cxl := rfl

/-! ### `State.onTile` -/

@[simp] theorem State.onTile_agenda (s : State) (k : Nat) (g : Tile → Tile) : (s.onTile k g).agenda = s.agenda := rfl
@[simp] theorem State.onTile_firing (s : State) (k : Nat) (g : Tile → Tile) : (s.onTile k g).firing = s.firing := rfl
@[simp] theorem State.onTile_fresh (s : State) (k : Nat) (g : Tile → Tile) : (s.onTile k g).fresh = s.fresh := rfl
@[simp] theorem State.onTile_hostRead (s : State) (k : Nat) (g : Tile → Tile) : (s.onTile k g).hostRead = s.hostRead := rfl
@[simp] theorem State.onTile_hostBytes (s : State) (k : Nat) (g : Tile → Tile) : (s.onTile k g).hostBytes = s.hostBytes := rfl
@[simp] theorem State.onTile_clocks (s : State) (k : Nat) (g : Tile → Tile) : (s.onTile k g).clocks = s.clocks := rfl
@[simp] theorem State.onTile_pes (s : State) (k : Nat) (g : Tile → Tile) : (s.onTile k g).pes = s.pes := rfl
@[simp] theorem State.onTile_tiles (s : State) (k : Nat) (g : Tile → Tile) : (s.onTile k g).tiles = Map.alter s.tiles .clear k g := rfl
@[simp] theorem State.onTile_opers (s : State) (k : Nat) (g : Tile → Tile) : (s.onTile k g).opers = s.opers := rfl
@[simp] theorem State.onTile_regions (s : State) (k : Nat) (g : Tile → Tile) : (s.onTile k g).regions = s.regions := rfl
@[simp] theorem State.onTile_matrices (s : State) (k : Nat) (g : Tile → Tile) : (s.onTile k g).matrices = s.matrices := rfl
@[simp] theorem State.onTile_snaps (s : State) (k : Nat) (g : Tile → Tile) : (s.onTile k g).snaps = s.snaps := rfl
@[simp] theorem State.onTile_parked (s : State) (k : Nat) (g : Tile → Tile) : (s.onTile k g).parked = s.parked := rfl
@[simp] theorem State.onTile_net (s : State) (k : Nat) (g : Tile → Tile) : (s.onTile k g).net = s.net := rfl
@[simp] theorem State.onTile_accesses (s : State) (k : Nat) (g : Tile → Tile) : (s.onTile k g).accesses = s.accesses := rfl
@[simp] theorem State.onTile_nextAcc (s : State) (k : Nat) (g : Tile → Tile) : (s.onTile k g).nextAcc = s.nextAcc := rfl
@[simp] theorem State.onTile_mem (s : State) (k : Nat) (g : Tile → Tile) : (s.onTile k g).mem = s.mem := rfl
@[simp] theorem State.onTile_hostMem (s : State) (k : Nat) (g : Tile → Tile) : (s.onTile k g).hostMem = s.hostMem := rfl
@[simp] theorem State.onTile_poisonMem (s : State) (k : Nat) (g : Tile → Tile) : (s.onTile k g).poisonMem = s.poisonMem := rfl
@[simp] theorem State.onTile_tlb (s : State) (k : Nat) (g : Tile → Tile) : (s.onTile k g).tlb = s.tlb := rfl
@[simp] theorem State.onTile_holds (s : State) (k : Nat) (g : Tile → Tile) : (s.onTile k g).holds = s.holds := rfl
@[simp] theorem State.onTile_holdIds (s : State) (k : Nat) (g : Tile → Tile) : (s.onTile k g).holdIds = s.holdIds := rfl
@[simp] theorem State.onTile_slots (s : State) (k : Nat) (g : Tile → Tile) : (s.onTile k g).slots = s.slots := rfl
@[simp] theorem State.onTile_pins (s : State) (k : Nat) (g : Tile → Tile) : (s.onTile k g).pins = s.pins := rfl
@[simp] theorem State.onTile_migrations (s : State) (k : Nat) (g : Tile → Tile) : (s.onTile k g).migrations = s.migrations := rfl
@[simp] theorem State.onTile_inval (s : State) (k : Nat) (g : Tile → Tile) : (s.onTile k g).inval = s.inval := rfl
@[simp] theorem State.onTile_tinvWait (s : State) (k : Nat) (g : Tile → Tile) : (s.onTile k g).tinvWait = s.tinvWait := rfl
@[simp] theorem State.onTile_retire (s : State) (k : Nat) (g : Tile → Tile) : (s.onTile k g).retire = s.retire := rfl
@[simp] theorem State.onTile_faultQ (s : State) (k : Nat) (g : Tile → Tile) : (s.onTile k g).faultQ = s.faultQ := rfl
@[simp] theorem State.onTile_patrol (s : State) (k : Nat) (g : Tile → Tile) : (s.onTile k g).patrol = s.patrol := rfl
@[simp] theorem State.onTile_images (s : State) (k : Nat) (g : Tile → Tile) : (s.onTile k g).images = s.images := rfl
@[simp] theorem State.onTile_insts (s : State) (k : Nat) (g : Tile → Tile) : (s.onTile k g).insts = s.insts := rfl
@[simp] theorem State.onTile_forgotten (s : State) (k : Nat) (g : Tile → Tile) : (s.onTile k g).forgotten = s.forgotten := rfl
@[simp] theorem State.onTile_pushed (s : State) (k : Nat) (g : Tile → Tile) : (s.onTile k g).pushed = s.pushed := rfl
@[simp] theorem State.onTile_taken (s : State) (k : Nat) (g : Tile → Tile) : (s.onTile k g).taken = s.taken := rfl
@[simp] theorem State.onTile_lastQ (s : State) (k : Nat) (g : Tile → Tile) : (s.onTile k g).lastQ = s.lastQ := rfl
@[simp] theorem State.onTile_modRegs (s : State) (k : Nat) (g : Tile → Tile) : (s.onTile k g).modRegs = s.modRegs := rfl
@[simp] theorem State.onTile_dies (s : State) (k : Nat) (g : Tile → Tile) : (s.onTile k g).dies = s.dies := rfl
@[simp] theorem State.onTile_queues (s : State) (k : Nat) (g : Tile → Tile) : (s.onTile k g).queues = s.queues := rfl
@[simp] theorem State.onTile_links (s : State) (k : Nat) (g : Tile → Tile) : (s.onTile k g).links = s.links := rfl
@[simp] theorem State.onTile_streamsIn (s : State) (k : Nat) (g : Tile → Tile) : (s.onTile k g).streamsIn = s.streamsIn := rfl
@[simp] theorem State.onTile_reports (s : State) (k : Nat) (g : Tile → Tile) : (s.onTile k g).reports = s.reports := rfl
@[simp] theorem State.onTile_msix (s : State) (k : Nat) (g : Tile → Tile) : (s.onTile k g).msix = s.msix := rfl
@[simp] theorem State.onTile_msixPending (s : State) (k : Nat) (g : Tile → Tile) : (s.onTile k g).msixPending = s.msixPending := rfl
@[simp] theorem State.onTile_msixHeld (s : State) (k : Nat) (g : Tile → Tile) : (s.onTile k g).msixHeld = s.msixHeld := rfl
@[simp] theorem State.onTile_fatal (s : State) (k : Nat) (g : Tile → Tile) : (s.onTile k g).fatal = s.fatal := rfl
@[simp] theorem State.onTile_fatalSite (s : State) (k : Nat) (g : Tile → Tile) : (s.onTile k g).fatalSite = s.fatalSite := rfl
@[simp] theorem State.onTile_booted (s : State) (k : Nat) (g : Tile → Tile) : (s.onTile k g).booted = s.booted := rfl
@[simp] theorem State.onTile_cxl (s : State) (k : Nat) (g : Tile → Tile) : (s.onTile k g).cxl = s.cxl := rfl

/-! ### `State.onOper` -/

@[simp] theorem State.onOper_agenda (s : State) (k : Nat) (g : Oper → Oper) : (s.onOper k g).agenda = s.agenda := rfl
@[simp] theorem State.onOper_firing (s : State) (k : Nat) (g : Oper → Oper) : (s.onOper k g).firing = s.firing := rfl
@[simp] theorem State.onOper_fresh (s : State) (k : Nat) (g : Oper → Oper) : (s.onOper k g).fresh = s.fresh := rfl
@[simp] theorem State.onOper_hostRead (s : State) (k : Nat) (g : Oper → Oper) : (s.onOper k g).hostRead = s.hostRead := rfl
@[simp] theorem State.onOper_hostBytes (s : State) (k : Nat) (g : Oper → Oper) : (s.onOper k g).hostBytes = s.hostBytes := rfl
@[simp] theorem State.onOper_clocks (s : State) (k : Nat) (g : Oper → Oper) : (s.onOper k g).clocks = s.clocks := rfl
@[simp] theorem State.onOper_pes (s : State) (k : Nat) (g : Oper → Oper) : (s.onOper k g).pes = s.pes := rfl
@[simp] theorem State.onOper_tiles (s : State) (k : Nat) (g : Oper → Oper) : (s.onOper k g).tiles = s.tiles := rfl
@[simp] theorem State.onOper_opers (s : State) (k : Nat) (g : Oper → Oper) : (s.onOper k g).opers = Map.alter s.opers .idle k g := rfl
@[simp] theorem State.onOper_regions (s : State) (k : Nat) (g : Oper → Oper) : (s.onOper k g).regions = s.regions := rfl
@[simp] theorem State.onOper_matrices (s : State) (k : Nat) (g : Oper → Oper) : (s.onOper k g).matrices = s.matrices := rfl
@[simp] theorem State.onOper_snaps (s : State) (k : Nat) (g : Oper → Oper) : (s.onOper k g).snaps = s.snaps := rfl
@[simp] theorem State.onOper_parked (s : State) (k : Nat) (g : Oper → Oper) : (s.onOper k g).parked = s.parked := rfl
@[simp] theorem State.onOper_net (s : State) (k : Nat) (g : Oper → Oper) : (s.onOper k g).net = s.net := rfl
@[simp] theorem State.onOper_accesses (s : State) (k : Nat) (g : Oper → Oper) : (s.onOper k g).accesses = s.accesses := rfl
@[simp] theorem State.onOper_nextAcc (s : State) (k : Nat) (g : Oper → Oper) : (s.onOper k g).nextAcc = s.nextAcc := rfl
@[simp] theorem State.onOper_mem (s : State) (k : Nat) (g : Oper → Oper) : (s.onOper k g).mem = s.mem := rfl
@[simp] theorem State.onOper_hostMem (s : State) (k : Nat) (g : Oper → Oper) : (s.onOper k g).hostMem = s.hostMem := rfl
@[simp] theorem State.onOper_poisonMem (s : State) (k : Nat) (g : Oper → Oper) : (s.onOper k g).poisonMem = s.poisonMem := rfl
@[simp] theorem State.onOper_tlb (s : State) (k : Nat) (g : Oper → Oper) : (s.onOper k g).tlb = s.tlb := rfl
@[simp] theorem State.onOper_holds (s : State) (k : Nat) (g : Oper → Oper) : (s.onOper k g).holds = s.holds := rfl
@[simp] theorem State.onOper_holdIds (s : State) (k : Nat) (g : Oper → Oper) : (s.onOper k g).holdIds = s.holdIds := rfl
@[simp] theorem State.onOper_slots (s : State) (k : Nat) (g : Oper → Oper) : (s.onOper k g).slots = s.slots := rfl
@[simp] theorem State.onOper_pins (s : State) (k : Nat) (g : Oper → Oper) : (s.onOper k g).pins = s.pins := rfl
@[simp] theorem State.onOper_migrations (s : State) (k : Nat) (g : Oper → Oper) : (s.onOper k g).migrations = s.migrations := rfl
@[simp] theorem State.onOper_inval (s : State) (k : Nat) (g : Oper → Oper) : (s.onOper k g).inval = s.inval := rfl
@[simp] theorem State.onOper_tinvWait (s : State) (k : Nat) (g : Oper → Oper) : (s.onOper k g).tinvWait = s.tinvWait := rfl
@[simp] theorem State.onOper_retire (s : State) (k : Nat) (g : Oper → Oper) : (s.onOper k g).retire = s.retire := rfl
@[simp] theorem State.onOper_faultQ (s : State) (k : Nat) (g : Oper → Oper) : (s.onOper k g).faultQ = s.faultQ := rfl
@[simp] theorem State.onOper_patrol (s : State) (k : Nat) (g : Oper → Oper) : (s.onOper k g).patrol = s.patrol := rfl
@[simp] theorem State.onOper_images (s : State) (k : Nat) (g : Oper → Oper) : (s.onOper k g).images = s.images := rfl
@[simp] theorem State.onOper_insts (s : State) (k : Nat) (g : Oper → Oper) : (s.onOper k g).insts = s.insts := rfl
@[simp] theorem State.onOper_forgotten (s : State) (k : Nat) (g : Oper → Oper) : (s.onOper k g).forgotten = s.forgotten := rfl
@[simp] theorem State.onOper_pushed (s : State) (k : Nat) (g : Oper → Oper) : (s.onOper k g).pushed = s.pushed := rfl
@[simp] theorem State.onOper_taken (s : State) (k : Nat) (g : Oper → Oper) : (s.onOper k g).taken = s.taken := rfl
@[simp] theorem State.onOper_lastQ (s : State) (k : Nat) (g : Oper → Oper) : (s.onOper k g).lastQ = s.lastQ := rfl
@[simp] theorem State.onOper_modRegs (s : State) (k : Nat) (g : Oper → Oper) : (s.onOper k g).modRegs = s.modRegs := rfl
@[simp] theorem State.onOper_dies (s : State) (k : Nat) (g : Oper → Oper) : (s.onOper k g).dies = s.dies := rfl
@[simp] theorem State.onOper_queues (s : State) (k : Nat) (g : Oper → Oper) : (s.onOper k g).queues = s.queues := rfl
@[simp] theorem State.onOper_links (s : State) (k : Nat) (g : Oper → Oper) : (s.onOper k g).links = s.links := rfl
@[simp] theorem State.onOper_streamsIn (s : State) (k : Nat) (g : Oper → Oper) : (s.onOper k g).streamsIn = s.streamsIn := rfl
@[simp] theorem State.onOper_reports (s : State) (k : Nat) (g : Oper → Oper) : (s.onOper k g).reports = s.reports := rfl
@[simp] theorem State.onOper_msix (s : State) (k : Nat) (g : Oper → Oper) : (s.onOper k g).msix = s.msix := rfl
@[simp] theorem State.onOper_msixPending (s : State) (k : Nat) (g : Oper → Oper) : (s.onOper k g).msixPending = s.msixPending := rfl
@[simp] theorem State.onOper_msixHeld (s : State) (k : Nat) (g : Oper → Oper) : (s.onOper k g).msixHeld = s.msixHeld := rfl
@[simp] theorem State.onOper_fatal (s : State) (k : Nat) (g : Oper → Oper) : (s.onOper k g).fatal = s.fatal := rfl
@[simp] theorem State.onOper_fatalSite (s : State) (k : Nat) (g : Oper → Oper) : (s.onOper k g).fatalSite = s.fatalSite := rfl
@[simp] theorem State.onOper_booted (s : State) (k : Nat) (g : Oper → Oper) : (s.onOper k g).booted = s.booted := rfl
@[simp] theorem State.onOper_cxl (s : State) (k : Nat) (g : Oper → Oper) : (s.onOper k g).cxl = s.cxl := rfl

/-! ### `State.onRegion` -/

@[simp] theorem State.onRegion_agenda (s : State) (k : Nat) (g : Region → Region) : (s.onRegion k g).agenda = s.agenda := rfl
@[simp] theorem State.onRegion_firing (s : State) (k : Nat) (g : Region → Region) : (s.onRegion k g).firing = s.firing := rfl
@[simp] theorem State.onRegion_fresh (s : State) (k : Nat) (g : Region → Region) : (s.onRegion k g).fresh = s.fresh := rfl
@[simp] theorem State.onRegion_hostRead (s : State) (k : Nat) (g : Region → Region) : (s.onRegion k g).hostRead = s.hostRead := rfl
@[simp] theorem State.onRegion_hostBytes (s : State) (k : Nat) (g : Region → Region) : (s.onRegion k g).hostBytes = s.hostBytes := rfl
@[simp] theorem State.onRegion_clocks (s : State) (k : Nat) (g : Region → Region) : (s.onRegion k g).clocks = s.clocks := rfl
@[simp] theorem State.onRegion_pes (s : State) (k : Nat) (g : Region → Region) : (s.onRegion k g).pes = s.pes := rfl
@[simp] theorem State.onRegion_tiles (s : State) (k : Nat) (g : Region → Region) : (s.onRegion k g).tiles = s.tiles := rfl
@[simp] theorem State.onRegion_opers (s : State) (k : Nat) (g : Region → Region) : (s.onRegion k g).opers = s.opers := rfl
@[simp] theorem State.onRegion_regions (s : State) (k : Nat) (g : Region → Region) : (s.onRegion k g).regions = Map.alter s.regions .empty k g := rfl
@[simp] theorem State.onRegion_matrices (s : State) (k : Nat) (g : Region → Region) : (s.onRegion k g).matrices = s.matrices := rfl
@[simp] theorem State.onRegion_snaps (s : State) (k : Nat) (g : Region → Region) : (s.onRegion k g).snaps = s.snaps := rfl
@[simp] theorem State.onRegion_parked (s : State) (k : Nat) (g : Region → Region) : (s.onRegion k g).parked = s.parked := rfl
@[simp] theorem State.onRegion_net (s : State) (k : Nat) (g : Region → Region) : (s.onRegion k g).net = s.net := rfl
@[simp] theorem State.onRegion_accesses (s : State) (k : Nat) (g : Region → Region) : (s.onRegion k g).accesses = s.accesses := rfl
@[simp] theorem State.onRegion_nextAcc (s : State) (k : Nat) (g : Region → Region) : (s.onRegion k g).nextAcc = s.nextAcc := rfl
@[simp] theorem State.onRegion_mem (s : State) (k : Nat) (g : Region → Region) : (s.onRegion k g).mem = s.mem := rfl
@[simp] theorem State.onRegion_hostMem (s : State) (k : Nat) (g : Region → Region) : (s.onRegion k g).hostMem = s.hostMem := rfl
@[simp] theorem State.onRegion_poisonMem (s : State) (k : Nat) (g : Region → Region) : (s.onRegion k g).poisonMem = s.poisonMem := rfl
@[simp] theorem State.onRegion_tlb (s : State) (k : Nat) (g : Region → Region) : (s.onRegion k g).tlb = s.tlb := rfl
@[simp] theorem State.onRegion_holds (s : State) (k : Nat) (g : Region → Region) : (s.onRegion k g).holds = s.holds := rfl
@[simp] theorem State.onRegion_holdIds (s : State) (k : Nat) (g : Region → Region) : (s.onRegion k g).holdIds = s.holdIds := rfl
@[simp] theorem State.onRegion_slots (s : State) (k : Nat) (g : Region → Region) : (s.onRegion k g).slots = s.slots := rfl
@[simp] theorem State.onRegion_pins (s : State) (k : Nat) (g : Region → Region) : (s.onRegion k g).pins = s.pins := rfl
@[simp] theorem State.onRegion_migrations (s : State) (k : Nat) (g : Region → Region) : (s.onRegion k g).migrations = s.migrations := rfl
@[simp] theorem State.onRegion_inval (s : State) (k : Nat) (g : Region → Region) : (s.onRegion k g).inval = s.inval := rfl
@[simp] theorem State.onRegion_tinvWait (s : State) (k : Nat) (g : Region → Region) : (s.onRegion k g).tinvWait = s.tinvWait := rfl
@[simp] theorem State.onRegion_retire (s : State) (k : Nat) (g : Region → Region) : (s.onRegion k g).retire = s.retire := rfl
@[simp] theorem State.onRegion_faultQ (s : State) (k : Nat) (g : Region → Region) : (s.onRegion k g).faultQ = s.faultQ := rfl
@[simp] theorem State.onRegion_patrol (s : State) (k : Nat) (g : Region → Region) : (s.onRegion k g).patrol = s.patrol := rfl
@[simp] theorem State.onRegion_images (s : State) (k : Nat) (g : Region → Region) : (s.onRegion k g).images = s.images := rfl
@[simp] theorem State.onRegion_insts (s : State) (k : Nat) (g : Region → Region) : (s.onRegion k g).insts = s.insts := rfl
@[simp] theorem State.onRegion_forgotten (s : State) (k : Nat) (g : Region → Region) : (s.onRegion k g).forgotten = s.forgotten := rfl
@[simp] theorem State.onRegion_pushed (s : State) (k : Nat) (g : Region → Region) : (s.onRegion k g).pushed = s.pushed := rfl
@[simp] theorem State.onRegion_taken (s : State) (k : Nat) (g : Region → Region) : (s.onRegion k g).taken = s.taken := rfl
@[simp] theorem State.onRegion_lastQ (s : State) (k : Nat) (g : Region → Region) : (s.onRegion k g).lastQ = s.lastQ := rfl
@[simp] theorem State.onRegion_modRegs (s : State) (k : Nat) (g : Region → Region) : (s.onRegion k g).modRegs = s.modRegs := rfl
@[simp] theorem State.onRegion_dies (s : State) (k : Nat) (g : Region → Region) : (s.onRegion k g).dies = s.dies := rfl
@[simp] theorem State.onRegion_queues (s : State) (k : Nat) (g : Region → Region) : (s.onRegion k g).queues = s.queues := rfl
@[simp] theorem State.onRegion_links (s : State) (k : Nat) (g : Region → Region) : (s.onRegion k g).links = s.links := rfl
@[simp] theorem State.onRegion_streamsIn (s : State) (k : Nat) (g : Region → Region) : (s.onRegion k g).streamsIn = s.streamsIn := rfl
@[simp] theorem State.onRegion_reports (s : State) (k : Nat) (g : Region → Region) : (s.onRegion k g).reports = s.reports := rfl
@[simp] theorem State.onRegion_msix (s : State) (k : Nat) (g : Region → Region) : (s.onRegion k g).msix = s.msix := rfl
@[simp] theorem State.onRegion_msixPending (s : State) (k : Nat) (g : Region → Region) : (s.onRegion k g).msixPending = s.msixPending := rfl
@[simp] theorem State.onRegion_msixHeld (s : State) (k : Nat) (g : Region → Region) : (s.onRegion k g).msixHeld = s.msixHeld := rfl
@[simp] theorem State.onRegion_fatal (s : State) (k : Nat) (g : Region → Region) : (s.onRegion k g).fatal = s.fatal := rfl
@[simp] theorem State.onRegion_fatalSite (s : State) (k : Nat) (g : Region → Region) : (s.onRegion k g).fatalSite = s.fatalSite := rfl
@[simp] theorem State.onRegion_booted (s : State) (k : Nat) (g : Region → Region) : (s.onRegion k g).booted = s.booted := rfl
@[simp] theorem State.onRegion_cxl (s : State) (k : Nat) (g : Region → Region) : (s.onRegion k g).cxl = s.cxl := rfl

/-! ### `State.onMatrix` -/

@[simp] theorem State.onMatrix_agenda (s : State) (k : Nat) (g : Matrix → Matrix) : (s.onMatrix k g).agenda = s.agenda := rfl
@[simp] theorem State.onMatrix_firing (s : State) (k : Nat) (g : Matrix → Matrix) : (s.onMatrix k g).firing = s.firing := rfl
@[simp] theorem State.onMatrix_fresh (s : State) (k : Nat) (g : Matrix → Matrix) : (s.onMatrix k g).fresh = s.fresh := rfl
@[simp] theorem State.onMatrix_hostRead (s : State) (k : Nat) (g : Matrix → Matrix) : (s.onMatrix k g).hostRead = s.hostRead := rfl
@[simp] theorem State.onMatrix_hostBytes (s : State) (k : Nat) (g : Matrix → Matrix) : (s.onMatrix k g).hostBytes = s.hostBytes := rfl
@[simp] theorem State.onMatrix_clocks (s : State) (k : Nat) (g : Matrix → Matrix) : (s.onMatrix k g).clocks = s.clocks := rfl
@[simp] theorem State.onMatrix_pes (s : State) (k : Nat) (g : Matrix → Matrix) : (s.onMatrix k g).pes = s.pes := rfl
@[simp] theorem State.onMatrix_tiles (s : State) (k : Nat) (g : Matrix → Matrix) : (s.onMatrix k g).tiles = s.tiles := rfl
@[simp] theorem State.onMatrix_opers (s : State) (k : Nat) (g : Matrix → Matrix) : (s.onMatrix k g).opers = s.opers := rfl
@[simp] theorem State.onMatrix_regions (s : State) (k : Nat) (g : Matrix → Matrix) : (s.onMatrix k g).regions = s.regions := rfl
@[simp] theorem State.onMatrix_matrices (s : State) (k : Nat) (g : Matrix → Matrix) : (s.onMatrix k g).matrices = Map.alter s.matrices .clear k g := rfl
@[simp] theorem State.onMatrix_snaps (s : State) (k : Nat) (g : Matrix → Matrix) : (s.onMatrix k g).snaps = s.snaps := rfl
@[simp] theorem State.onMatrix_parked (s : State) (k : Nat) (g : Matrix → Matrix) : (s.onMatrix k g).parked = s.parked := rfl
@[simp] theorem State.onMatrix_net (s : State) (k : Nat) (g : Matrix → Matrix) : (s.onMatrix k g).net = s.net := rfl
@[simp] theorem State.onMatrix_accesses (s : State) (k : Nat) (g : Matrix → Matrix) : (s.onMatrix k g).accesses = s.accesses := rfl
@[simp] theorem State.onMatrix_nextAcc (s : State) (k : Nat) (g : Matrix → Matrix) : (s.onMatrix k g).nextAcc = s.nextAcc := rfl
@[simp] theorem State.onMatrix_mem (s : State) (k : Nat) (g : Matrix → Matrix) : (s.onMatrix k g).mem = s.mem := rfl
@[simp] theorem State.onMatrix_hostMem (s : State) (k : Nat) (g : Matrix → Matrix) : (s.onMatrix k g).hostMem = s.hostMem := rfl
@[simp] theorem State.onMatrix_poisonMem (s : State) (k : Nat) (g : Matrix → Matrix) : (s.onMatrix k g).poisonMem = s.poisonMem := rfl
@[simp] theorem State.onMatrix_tlb (s : State) (k : Nat) (g : Matrix → Matrix) : (s.onMatrix k g).tlb = s.tlb := rfl
@[simp] theorem State.onMatrix_holds (s : State) (k : Nat) (g : Matrix → Matrix) : (s.onMatrix k g).holds = s.holds := rfl
@[simp] theorem State.onMatrix_holdIds (s : State) (k : Nat) (g : Matrix → Matrix) : (s.onMatrix k g).holdIds = s.holdIds := rfl
@[simp] theorem State.onMatrix_slots (s : State) (k : Nat) (g : Matrix → Matrix) : (s.onMatrix k g).slots = s.slots := rfl
@[simp] theorem State.onMatrix_pins (s : State) (k : Nat) (g : Matrix → Matrix) : (s.onMatrix k g).pins = s.pins := rfl
@[simp] theorem State.onMatrix_migrations (s : State) (k : Nat) (g : Matrix → Matrix) : (s.onMatrix k g).migrations = s.migrations := rfl
@[simp] theorem State.onMatrix_inval (s : State) (k : Nat) (g : Matrix → Matrix) : (s.onMatrix k g).inval = s.inval := rfl
@[simp] theorem State.onMatrix_tinvWait (s : State) (k : Nat) (g : Matrix → Matrix) : (s.onMatrix k g).tinvWait = s.tinvWait := rfl
@[simp] theorem State.onMatrix_retire (s : State) (k : Nat) (g : Matrix → Matrix) : (s.onMatrix k g).retire = s.retire := rfl
@[simp] theorem State.onMatrix_faultQ (s : State) (k : Nat) (g : Matrix → Matrix) : (s.onMatrix k g).faultQ = s.faultQ := rfl
@[simp] theorem State.onMatrix_patrol (s : State) (k : Nat) (g : Matrix → Matrix) : (s.onMatrix k g).patrol = s.patrol := rfl
@[simp] theorem State.onMatrix_images (s : State) (k : Nat) (g : Matrix → Matrix) : (s.onMatrix k g).images = s.images := rfl
@[simp] theorem State.onMatrix_insts (s : State) (k : Nat) (g : Matrix → Matrix) : (s.onMatrix k g).insts = s.insts := rfl
@[simp] theorem State.onMatrix_forgotten (s : State) (k : Nat) (g : Matrix → Matrix) : (s.onMatrix k g).forgotten = s.forgotten := rfl
@[simp] theorem State.onMatrix_pushed (s : State) (k : Nat) (g : Matrix → Matrix) : (s.onMatrix k g).pushed = s.pushed := rfl
@[simp] theorem State.onMatrix_taken (s : State) (k : Nat) (g : Matrix → Matrix) : (s.onMatrix k g).taken = s.taken := rfl
@[simp] theorem State.onMatrix_lastQ (s : State) (k : Nat) (g : Matrix → Matrix) : (s.onMatrix k g).lastQ = s.lastQ := rfl
@[simp] theorem State.onMatrix_modRegs (s : State) (k : Nat) (g : Matrix → Matrix) : (s.onMatrix k g).modRegs = s.modRegs := rfl
@[simp] theorem State.onMatrix_dies (s : State) (k : Nat) (g : Matrix → Matrix) : (s.onMatrix k g).dies = s.dies := rfl
@[simp] theorem State.onMatrix_queues (s : State) (k : Nat) (g : Matrix → Matrix) : (s.onMatrix k g).queues = s.queues := rfl
@[simp] theorem State.onMatrix_links (s : State) (k : Nat) (g : Matrix → Matrix) : (s.onMatrix k g).links = s.links := rfl
@[simp] theorem State.onMatrix_streamsIn (s : State) (k : Nat) (g : Matrix → Matrix) : (s.onMatrix k g).streamsIn = s.streamsIn := rfl
@[simp] theorem State.onMatrix_reports (s : State) (k : Nat) (g : Matrix → Matrix) : (s.onMatrix k g).reports = s.reports := rfl
@[simp] theorem State.onMatrix_msix (s : State) (k : Nat) (g : Matrix → Matrix) : (s.onMatrix k g).msix = s.msix := rfl
@[simp] theorem State.onMatrix_msixPending (s : State) (k : Nat) (g : Matrix → Matrix) : (s.onMatrix k g).msixPending = s.msixPending := rfl
@[simp] theorem State.onMatrix_msixHeld (s : State) (k : Nat) (g : Matrix → Matrix) : (s.onMatrix k g).msixHeld = s.msixHeld := rfl
@[simp] theorem State.onMatrix_fatal (s : State) (k : Nat) (g : Matrix → Matrix) : (s.onMatrix k g).fatal = s.fatal := rfl
@[simp] theorem State.onMatrix_fatalSite (s : State) (k : Nat) (g : Matrix → Matrix) : (s.onMatrix k g).fatalSite = s.fatalSite := rfl
@[simp] theorem State.onMatrix_booted (s : State) (k : Nat) (g : Matrix → Matrix) : (s.onMatrix k g).booted = s.booted := rfl
@[simp] theorem State.onMatrix_cxl (s : State) (k : Nat) (g : Matrix → Matrix) : (s.onMatrix k g).cxl = s.cxl := rfl

/-! ### `State.onDie` -/

@[simp] theorem State.onDie_agenda (s : State) (d : Nat) (g : DieRegs → DieRegs) : (s.onDie d g).agenda = s.agenda := rfl
@[simp] theorem State.onDie_firing (s : State) (d : Nat) (g : DieRegs → DieRegs) : (s.onDie d g).firing = s.firing := rfl
@[simp] theorem State.onDie_fresh (s : State) (d : Nat) (g : DieRegs → DieRegs) : (s.onDie d g).fresh = s.fresh := rfl
@[simp] theorem State.onDie_hostRead (s : State) (d : Nat) (g : DieRegs → DieRegs) : (s.onDie d g).hostRead = s.hostRead := rfl
@[simp] theorem State.onDie_hostBytes (s : State) (d : Nat) (g : DieRegs → DieRegs) : (s.onDie d g).hostBytes = s.hostBytes := rfl
@[simp] theorem State.onDie_clocks (s : State) (d : Nat) (g : DieRegs → DieRegs) : (s.onDie d g).clocks = s.clocks := rfl
@[simp] theorem State.onDie_pes (s : State) (d : Nat) (g : DieRegs → DieRegs) : (s.onDie d g).pes = s.pes := rfl
@[simp] theorem State.onDie_tiles (s : State) (d : Nat) (g : DieRegs → DieRegs) : (s.onDie d g).tiles = s.tiles := rfl
@[simp] theorem State.onDie_opers (s : State) (d : Nat) (g : DieRegs → DieRegs) : (s.onDie d g).opers = s.opers := rfl
@[simp] theorem State.onDie_regions (s : State) (d : Nat) (g : DieRegs → DieRegs) : (s.onDie d g).regions = s.regions := rfl
@[simp] theorem State.onDie_matrices (s : State) (d : Nat) (g : DieRegs → DieRegs) : (s.onDie d g).matrices = s.matrices := rfl
@[simp] theorem State.onDie_snaps (s : State) (d : Nat) (g : DieRegs → DieRegs) : (s.onDie d g).snaps = s.snaps := rfl
@[simp] theorem State.onDie_parked (s : State) (d : Nat) (g : DieRegs → DieRegs) : (s.onDie d g).parked = s.parked := rfl
@[simp] theorem State.onDie_net (s : State) (d : Nat) (g : DieRegs → DieRegs) : (s.onDie d g).net = s.net := rfl
@[simp] theorem State.onDie_accesses (s : State) (d : Nat) (g : DieRegs → DieRegs) : (s.onDie d g).accesses = s.accesses := rfl
@[simp] theorem State.onDie_nextAcc (s : State) (d : Nat) (g : DieRegs → DieRegs) : (s.onDie d g).nextAcc = s.nextAcc := rfl
@[simp] theorem State.onDie_mem (s : State) (d : Nat) (g : DieRegs → DieRegs) : (s.onDie d g).mem = s.mem := rfl
@[simp] theorem State.onDie_hostMem (s : State) (d : Nat) (g : DieRegs → DieRegs) : (s.onDie d g).hostMem = s.hostMem := rfl
@[simp] theorem State.onDie_poisonMem (s : State) (d : Nat) (g : DieRegs → DieRegs) : (s.onDie d g).poisonMem = s.poisonMem := rfl
@[simp] theorem State.onDie_tlb (s : State) (d : Nat) (g : DieRegs → DieRegs) : (s.onDie d g).tlb = s.tlb := rfl
@[simp] theorem State.onDie_holds (s : State) (d : Nat) (g : DieRegs → DieRegs) : (s.onDie d g).holds = s.holds := rfl
@[simp] theorem State.onDie_holdIds (s : State) (d : Nat) (g : DieRegs → DieRegs) : (s.onDie d g).holdIds = s.holdIds := rfl
@[simp] theorem State.onDie_slots (s : State) (d : Nat) (g : DieRegs → DieRegs) : (s.onDie d g).slots = s.slots := rfl
@[simp] theorem State.onDie_pins (s : State) (d : Nat) (g : DieRegs → DieRegs) : (s.onDie d g).pins = s.pins := rfl
@[simp] theorem State.onDie_migrations (s : State) (d : Nat) (g : DieRegs → DieRegs) : (s.onDie d g).migrations = s.migrations := rfl
@[simp] theorem State.onDie_inval (s : State) (d : Nat) (g : DieRegs → DieRegs) : (s.onDie d g).inval = s.inval := rfl
@[simp] theorem State.onDie_tinvWait (s : State) (d : Nat) (g : DieRegs → DieRegs) : (s.onDie d g).tinvWait = s.tinvWait := rfl
@[simp] theorem State.onDie_retire (s : State) (d : Nat) (g : DieRegs → DieRegs) : (s.onDie d g).retire = s.retire := rfl
@[simp] theorem State.onDie_faultQ (s : State) (d : Nat) (g : DieRegs → DieRegs) : (s.onDie d g).faultQ = s.faultQ := rfl
@[simp] theorem State.onDie_patrol (s : State) (d : Nat) (g : DieRegs → DieRegs) : (s.onDie d g).patrol = s.patrol := rfl
@[simp] theorem State.onDie_images (s : State) (d : Nat) (g : DieRegs → DieRegs) : (s.onDie d g).images = s.images := rfl
@[simp] theorem State.onDie_insts (s : State) (d : Nat) (g : DieRegs → DieRegs) : (s.onDie d g).insts = s.insts := rfl
@[simp] theorem State.onDie_forgotten (s : State) (d : Nat) (g : DieRegs → DieRegs) : (s.onDie d g).forgotten = s.forgotten := rfl
@[simp] theorem State.onDie_pushed (s : State) (d : Nat) (g : DieRegs → DieRegs) : (s.onDie d g).pushed = s.pushed := rfl
@[simp] theorem State.onDie_taken (s : State) (d : Nat) (g : DieRegs → DieRegs) : (s.onDie d g).taken = s.taken := rfl
@[simp] theorem State.onDie_lastQ (s : State) (d : Nat) (g : DieRegs → DieRegs) : (s.onDie d g).lastQ = s.lastQ := rfl
@[simp] theorem State.onDie_modRegs (s : State) (d : Nat) (g : DieRegs → DieRegs) : (s.onDie d g).modRegs = s.modRegs := rfl
@[simp] theorem State.onDie_dies (s : State) (d : Nat) (g : DieRegs → DieRegs) : (s.onDie d g).dies = Map.alter s.dies .reset d g := rfl
@[simp] theorem State.onDie_queues (s : State) (d : Nat) (g : DieRegs → DieRegs) : (s.onDie d g).queues = s.queues := rfl
@[simp] theorem State.onDie_links (s : State) (d : Nat) (g : DieRegs → DieRegs) : (s.onDie d g).links = s.links := rfl
@[simp] theorem State.onDie_streamsIn (s : State) (d : Nat) (g : DieRegs → DieRegs) : (s.onDie d g).streamsIn = s.streamsIn := rfl
@[simp] theorem State.onDie_reports (s : State) (d : Nat) (g : DieRegs → DieRegs) : (s.onDie d g).reports = s.reports := rfl
@[simp] theorem State.onDie_msix (s : State) (d : Nat) (g : DieRegs → DieRegs) : (s.onDie d g).msix = s.msix := rfl
@[simp] theorem State.onDie_msixPending (s : State) (d : Nat) (g : DieRegs → DieRegs) : (s.onDie d g).msixPending = s.msixPending := rfl
@[simp] theorem State.onDie_msixHeld (s : State) (d : Nat) (g : DieRegs → DieRegs) : (s.onDie d g).msixHeld = s.msixHeld := rfl
@[simp] theorem State.onDie_fatal (s : State) (d : Nat) (g : DieRegs → DieRegs) : (s.onDie d g).fatal = s.fatal := rfl
@[simp] theorem State.onDie_fatalSite (s : State) (d : Nat) (g : DieRegs → DieRegs) : (s.onDie d g).fatalSite = s.fatalSite := rfl
@[simp] theorem State.onDie_booted (s : State) (d : Nat) (g : DieRegs → DieRegs) : (s.onDie d g).booted = s.booted := rfl
@[simp] theorem State.onDie_cxl (s : State) (d : Nat) (g : DieRegs → DieRegs) : (s.onDie d g).cxl = s.cxl := rfl

/-! ### `State.onRegs` -/

@[simp] theorem State.onRegs_agenda (s : State) (g : ModRegs → ModRegs) : (s.onRegs g).agenda = s.agenda := rfl
@[simp] theorem State.onRegs_firing (s : State) (g : ModRegs → ModRegs) : (s.onRegs g).firing = s.firing := rfl
@[simp] theorem State.onRegs_fresh (s : State) (g : ModRegs → ModRegs) : (s.onRegs g).fresh = s.fresh := rfl
@[simp] theorem State.onRegs_hostRead (s : State) (g : ModRegs → ModRegs) : (s.onRegs g).hostRead = s.hostRead := rfl
@[simp] theorem State.onRegs_hostBytes (s : State) (g : ModRegs → ModRegs) : (s.onRegs g).hostBytes = s.hostBytes := rfl
@[simp] theorem State.onRegs_clocks (s : State) (g : ModRegs → ModRegs) : (s.onRegs g).clocks = s.clocks := rfl
@[simp] theorem State.onRegs_pes (s : State) (g : ModRegs → ModRegs) : (s.onRegs g).pes = s.pes := rfl
@[simp] theorem State.onRegs_tiles (s : State) (g : ModRegs → ModRegs) : (s.onRegs g).tiles = s.tiles := rfl
@[simp] theorem State.onRegs_opers (s : State) (g : ModRegs → ModRegs) : (s.onRegs g).opers = s.opers := rfl
@[simp] theorem State.onRegs_regions (s : State) (g : ModRegs → ModRegs) : (s.onRegs g).regions = s.regions := rfl
@[simp] theorem State.onRegs_matrices (s : State) (g : ModRegs → ModRegs) : (s.onRegs g).matrices = s.matrices := rfl
@[simp] theorem State.onRegs_snaps (s : State) (g : ModRegs → ModRegs) : (s.onRegs g).snaps = s.snaps := rfl
@[simp] theorem State.onRegs_parked (s : State) (g : ModRegs → ModRegs) : (s.onRegs g).parked = s.parked := rfl
@[simp] theorem State.onRegs_net (s : State) (g : ModRegs → ModRegs) : (s.onRegs g).net = s.net := rfl
@[simp] theorem State.onRegs_accesses (s : State) (g : ModRegs → ModRegs) : (s.onRegs g).accesses = s.accesses := rfl
@[simp] theorem State.onRegs_nextAcc (s : State) (g : ModRegs → ModRegs) : (s.onRegs g).nextAcc = s.nextAcc := rfl
@[simp] theorem State.onRegs_mem (s : State) (g : ModRegs → ModRegs) : (s.onRegs g).mem = s.mem := rfl
@[simp] theorem State.onRegs_hostMem (s : State) (g : ModRegs → ModRegs) : (s.onRegs g).hostMem = s.hostMem := rfl
@[simp] theorem State.onRegs_poisonMem (s : State) (g : ModRegs → ModRegs) : (s.onRegs g).poisonMem = s.poisonMem := rfl
@[simp] theorem State.onRegs_tlb (s : State) (g : ModRegs → ModRegs) : (s.onRegs g).tlb = s.tlb := rfl
@[simp] theorem State.onRegs_holds (s : State) (g : ModRegs → ModRegs) : (s.onRegs g).holds = s.holds := rfl
@[simp] theorem State.onRegs_holdIds (s : State) (g : ModRegs → ModRegs) : (s.onRegs g).holdIds = s.holdIds := rfl
@[simp] theorem State.onRegs_slots (s : State) (g : ModRegs → ModRegs) : (s.onRegs g).slots = s.slots := rfl
@[simp] theorem State.onRegs_pins (s : State) (g : ModRegs → ModRegs) : (s.onRegs g).pins = s.pins := rfl
@[simp] theorem State.onRegs_migrations (s : State) (g : ModRegs → ModRegs) : (s.onRegs g).migrations = s.migrations := rfl
@[simp] theorem State.onRegs_inval (s : State) (g : ModRegs → ModRegs) : (s.onRegs g).inval = s.inval := rfl
@[simp] theorem State.onRegs_tinvWait (s : State) (g : ModRegs → ModRegs) : (s.onRegs g).tinvWait = s.tinvWait := rfl
@[simp] theorem State.onRegs_retire (s : State) (g : ModRegs → ModRegs) : (s.onRegs g).retire = s.retire := rfl
@[simp] theorem State.onRegs_faultQ (s : State) (g : ModRegs → ModRegs) : (s.onRegs g).faultQ = s.faultQ := rfl
@[simp] theorem State.onRegs_patrol (s : State) (g : ModRegs → ModRegs) : (s.onRegs g).patrol = s.patrol := rfl
@[simp] theorem State.onRegs_images (s : State) (g : ModRegs → ModRegs) : (s.onRegs g).images = s.images := rfl
@[simp] theorem State.onRegs_insts (s : State) (g : ModRegs → ModRegs) : (s.onRegs g).insts = s.insts := rfl
@[simp] theorem State.onRegs_forgotten (s : State) (g : ModRegs → ModRegs) : (s.onRegs g).forgotten = s.forgotten := rfl
@[simp] theorem State.onRegs_pushed (s : State) (g : ModRegs → ModRegs) : (s.onRegs g).pushed = s.pushed := rfl
@[simp] theorem State.onRegs_taken (s : State) (g : ModRegs → ModRegs) : (s.onRegs g).taken = s.taken := rfl
@[simp] theorem State.onRegs_lastQ (s : State) (g : ModRegs → ModRegs) : (s.onRegs g).lastQ = s.lastQ := rfl
@[simp] theorem State.onRegs_modRegs (s : State) (g : ModRegs → ModRegs) : (s.onRegs g).modRegs = g s.modRegs := rfl
@[simp] theorem State.onRegs_dies (s : State) (g : ModRegs → ModRegs) : (s.onRegs g).dies = s.dies := rfl
@[simp] theorem State.onRegs_queues (s : State) (g : ModRegs → ModRegs) : (s.onRegs g).queues = s.queues := rfl
@[simp] theorem State.onRegs_links (s : State) (g : ModRegs → ModRegs) : (s.onRegs g).links = s.links := rfl
@[simp] theorem State.onRegs_streamsIn (s : State) (g : ModRegs → ModRegs) : (s.onRegs g).streamsIn = s.streamsIn := rfl
@[simp] theorem State.onRegs_reports (s : State) (g : ModRegs → ModRegs) : (s.onRegs g).reports = s.reports := rfl
@[simp] theorem State.onRegs_msix (s : State) (g : ModRegs → ModRegs) : (s.onRegs g).msix = s.msix := rfl
@[simp] theorem State.onRegs_msixPending (s : State) (g : ModRegs → ModRegs) : (s.onRegs g).msixPending = s.msixPending := rfl
@[simp] theorem State.onRegs_msixHeld (s : State) (g : ModRegs → ModRegs) : (s.onRegs g).msixHeld = s.msixHeld := rfl
@[simp] theorem State.onRegs_fatal (s : State) (g : ModRegs → ModRegs) : (s.onRegs g).fatal = s.fatal := rfl
@[simp] theorem State.onRegs_fatalSite (s : State) (g : ModRegs → ModRegs) : (s.onRegs g).fatalSite = s.fatalSite := rfl
@[simp] theorem State.onRegs_booted (s : State) (g : ModRegs → ModRegs) : (s.onRegs g).booted = s.booted := rfl
@[simp] theorem State.onRegs_cxl (s : State) (g : ModRegs → ModRegs) : (s.onRegs g).cxl = s.cxl := rfl

/-! ### `State.onInst` -/

@[simp] theorem State.onInst_agenda (s : State) (i : Nat) (g : Inst → Inst) : (s.onInst i g).agenda = s.agenda := rfl
@[simp] theorem State.onInst_firing (s : State) (i : Nat) (g : Inst → Inst) : (s.onInst i g).firing = s.firing := rfl
@[simp] theorem State.onInst_fresh (s : State) (i : Nat) (g : Inst → Inst) : (s.onInst i g).fresh = s.fresh := rfl
@[simp] theorem State.onInst_hostRead (s : State) (i : Nat) (g : Inst → Inst) : (s.onInst i g).hostRead = s.hostRead := rfl
@[simp] theorem State.onInst_hostBytes (s : State) (i : Nat) (g : Inst → Inst) : (s.onInst i g).hostBytes = s.hostBytes := rfl
@[simp] theorem State.onInst_clocks (s : State) (i : Nat) (g : Inst → Inst) : (s.onInst i g).clocks = s.clocks := rfl
@[simp] theorem State.onInst_pes (s : State) (i : Nat) (g : Inst → Inst) : (s.onInst i g).pes = s.pes := rfl
@[simp] theorem State.onInst_tiles (s : State) (i : Nat) (g : Inst → Inst) : (s.onInst i g).tiles = s.tiles := rfl
@[simp] theorem State.onInst_opers (s : State) (i : Nat) (g : Inst → Inst) : (s.onInst i g).opers = s.opers := rfl
@[simp] theorem State.onInst_regions (s : State) (i : Nat) (g : Inst → Inst) : (s.onInst i g).regions = s.regions := rfl
@[simp] theorem State.onInst_matrices (s : State) (i : Nat) (g : Inst → Inst) : (s.onInst i g).matrices = s.matrices := rfl
@[simp] theorem State.onInst_snaps (s : State) (i : Nat) (g : Inst → Inst) : (s.onInst i g).snaps = s.snaps := rfl
@[simp] theorem State.onInst_parked (s : State) (i : Nat) (g : Inst → Inst) : (s.onInst i g).parked = s.parked := rfl
@[simp] theorem State.onInst_net (s : State) (i : Nat) (g : Inst → Inst) : (s.onInst i g).net = s.net := rfl
@[simp] theorem State.onInst_accesses (s : State) (i : Nat) (g : Inst → Inst) : (s.onInst i g).accesses = s.accesses := rfl
@[simp] theorem State.onInst_nextAcc (s : State) (i : Nat) (g : Inst → Inst) : (s.onInst i g).nextAcc = s.nextAcc := rfl
@[simp] theorem State.onInst_mem (s : State) (i : Nat) (g : Inst → Inst) : (s.onInst i g).mem = s.mem := rfl
@[simp] theorem State.onInst_hostMem (s : State) (i : Nat) (g : Inst → Inst) : (s.onInst i g).hostMem = s.hostMem := rfl
@[simp] theorem State.onInst_poisonMem (s : State) (i : Nat) (g : Inst → Inst) : (s.onInst i g).poisonMem = s.poisonMem := rfl
@[simp] theorem State.onInst_tlb (s : State) (i : Nat) (g : Inst → Inst) : (s.onInst i g).tlb = s.tlb := rfl
@[simp] theorem State.onInst_holds (s : State) (i : Nat) (g : Inst → Inst) : (s.onInst i g).holds = s.holds := rfl
@[simp] theorem State.onInst_holdIds (s : State) (i : Nat) (g : Inst → Inst) : (s.onInst i g).holdIds = s.holdIds := rfl
@[simp] theorem State.onInst_slots (s : State) (i : Nat) (g : Inst → Inst) : (s.onInst i g).slots = s.slots := rfl
@[simp] theorem State.onInst_pins (s : State) (i : Nat) (g : Inst → Inst) : (s.onInst i g).pins = s.pins := rfl
@[simp] theorem State.onInst_migrations (s : State) (i : Nat) (g : Inst → Inst) : (s.onInst i g).migrations = s.migrations := rfl
@[simp] theorem State.onInst_inval (s : State) (i : Nat) (g : Inst → Inst) : (s.onInst i g).inval = s.inval := rfl
@[simp] theorem State.onInst_tinvWait (s : State) (i : Nat) (g : Inst → Inst) : (s.onInst i g).tinvWait = s.tinvWait := rfl
@[simp] theorem State.onInst_retire (s : State) (i : Nat) (g : Inst → Inst) : (s.onInst i g).retire = s.retire := rfl
@[simp] theorem State.onInst_faultQ (s : State) (i : Nat) (g : Inst → Inst) : (s.onInst i g).faultQ = s.faultQ := rfl
@[simp] theorem State.onInst_patrol (s : State) (i : Nat) (g : Inst → Inst) : (s.onInst i g).patrol = s.patrol := rfl
@[simp] theorem State.onInst_images (s : State) (i : Nat) (g : Inst → Inst) : (s.onInst i g).images = s.images := rfl
@[simp] theorem State.onInst_forgotten (s : State) (i : Nat) (g : Inst → Inst) : (s.onInst i g).forgotten = s.forgotten := rfl
@[simp] theorem State.onInst_pushed (s : State) (i : Nat) (g : Inst → Inst) : (s.onInst i g).pushed = s.pushed := rfl
@[simp] theorem State.onInst_taken (s : State) (i : Nat) (g : Inst → Inst) : (s.onInst i g).taken = s.taken := rfl
@[simp] theorem State.onInst_lastQ (s : State) (i : Nat) (g : Inst → Inst) : (s.onInst i g).lastQ = s.lastQ := rfl
@[simp] theorem State.onInst_modRegs (s : State) (i : Nat) (g : Inst → Inst) : (s.onInst i g).modRegs = s.modRegs := rfl
@[simp] theorem State.onInst_dies (s : State) (i : Nat) (g : Inst → Inst) : (s.onInst i g).dies = s.dies := rfl
@[simp] theorem State.onInst_queues (s : State) (i : Nat) (g : Inst → Inst) : (s.onInst i g).queues = s.queues := rfl
@[simp] theorem State.onInst_links (s : State) (i : Nat) (g : Inst → Inst) : (s.onInst i g).links = s.links := rfl
@[simp] theorem State.onInst_streamsIn (s : State) (i : Nat) (g : Inst → Inst) : (s.onInst i g).streamsIn = s.streamsIn := rfl
@[simp] theorem State.onInst_reports (s : State) (i : Nat) (g : Inst → Inst) : (s.onInst i g).reports = s.reports := rfl
@[simp] theorem State.onInst_msix (s : State) (i : Nat) (g : Inst → Inst) : (s.onInst i g).msix = s.msix := rfl
@[simp] theorem State.onInst_msixPending (s : State) (i : Nat) (g : Inst → Inst) : (s.onInst i g).msixPending = s.msixPending := rfl
@[simp] theorem State.onInst_msixHeld (s : State) (i : Nat) (g : Inst → Inst) : (s.onInst i g).msixHeld = s.msixHeld := rfl
@[simp] theorem State.onInst_fatal (s : State) (i : Nat) (g : Inst → Inst) : (s.onInst i g).fatal = s.fatal := rfl
@[simp] theorem State.onInst_fatalSite (s : State) (i : Nat) (g : Inst → Inst) : (s.onInst i g).fatalSite = s.fatalSite := rfl
@[simp] theorem State.onInst_booted (s : State) (i : Nat) (g : Inst → Inst) : (s.onInst i g).booted = s.booted := rfl
@[simp] theorem State.onInst_cxl (s : State) (i : Nat) (g : Inst → Inst) : (s.onInst i g).cxl = s.cxl := rfl

/-! ### `State.onAccess` -/

@[simp] theorem State.onAccess_agenda (s : State) (n : Nat) (g : Access → Access) : (s.onAccess n g).agenda = s.agenda := rfl
@[simp] theorem State.onAccess_firing (s : State) (n : Nat) (g : Access → Access) : (s.onAccess n g).firing = s.firing := rfl
@[simp] theorem State.onAccess_fresh (s : State) (n : Nat) (g : Access → Access) : (s.onAccess n g).fresh = s.fresh := rfl
@[simp] theorem State.onAccess_hostRead (s : State) (n : Nat) (g : Access → Access) : (s.onAccess n g).hostRead = s.hostRead := rfl
@[simp] theorem State.onAccess_hostBytes (s : State) (n : Nat) (g : Access → Access) : (s.onAccess n g).hostBytes = s.hostBytes := rfl
@[simp] theorem State.onAccess_clocks (s : State) (n : Nat) (g : Access → Access) : (s.onAccess n g).clocks = s.clocks := rfl
@[simp] theorem State.onAccess_pes (s : State) (n : Nat) (g : Access → Access) : (s.onAccess n g).pes = s.pes := rfl
@[simp] theorem State.onAccess_tiles (s : State) (n : Nat) (g : Access → Access) : (s.onAccess n g).tiles = s.tiles := rfl
@[simp] theorem State.onAccess_opers (s : State) (n : Nat) (g : Access → Access) : (s.onAccess n g).opers = s.opers := rfl
@[simp] theorem State.onAccess_regions (s : State) (n : Nat) (g : Access → Access) : (s.onAccess n g).regions = s.regions := rfl
@[simp] theorem State.onAccess_matrices (s : State) (n : Nat) (g : Access → Access) : (s.onAccess n g).matrices = s.matrices := rfl
@[simp] theorem State.onAccess_snaps (s : State) (n : Nat) (g : Access → Access) : (s.onAccess n g).snaps = s.snaps := rfl
@[simp] theorem State.onAccess_parked (s : State) (n : Nat) (g : Access → Access) : (s.onAccess n g).parked = s.parked := rfl
@[simp] theorem State.onAccess_net (s : State) (n : Nat) (g : Access → Access) : (s.onAccess n g).net = s.net := rfl
@[simp] theorem State.onAccess_nextAcc (s : State) (n : Nat) (g : Access → Access) : (s.onAccess n g).nextAcc = s.nextAcc := rfl
@[simp] theorem State.onAccess_mem (s : State) (n : Nat) (g : Access → Access) : (s.onAccess n g).mem = s.mem := rfl
@[simp] theorem State.onAccess_hostMem (s : State) (n : Nat) (g : Access → Access) : (s.onAccess n g).hostMem = s.hostMem := rfl
@[simp] theorem State.onAccess_poisonMem (s : State) (n : Nat) (g : Access → Access) : (s.onAccess n g).poisonMem = s.poisonMem := rfl
@[simp] theorem State.onAccess_tlb (s : State) (n : Nat) (g : Access → Access) : (s.onAccess n g).tlb = s.tlb := rfl
@[simp] theorem State.onAccess_holds (s : State) (n : Nat) (g : Access → Access) : (s.onAccess n g).holds = s.holds := rfl
@[simp] theorem State.onAccess_holdIds (s : State) (n : Nat) (g : Access → Access) : (s.onAccess n g).holdIds = s.holdIds := rfl
@[simp] theorem State.onAccess_slots (s : State) (n : Nat) (g : Access → Access) : (s.onAccess n g).slots = s.slots := rfl
@[simp] theorem State.onAccess_pins (s : State) (n : Nat) (g : Access → Access) : (s.onAccess n g).pins = s.pins := rfl
@[simp] theorem State.onAccess_migrations (s : State) (n : Nat) (g : Access → Access) : (s.onAccess n g).migrations = s.migrations := rfl
@[simp] theorem State.onAccess_inval (s : State) (n : Nat) (g : Access → Access) : (s.onAccess n g).inval = s.inval := rfl
@[simp] theorem State.onAccess_tinvWait (s : State) (n : Nat) (g : Access → Access) : (s.onAccess n g).tinvWait = s.tinvWait := rfl
@[simp] theorem State.onAccess_retire (s : State) (n : Nat) (g : Access → Access) : (s.onAccess n g).retire = s.retire := rfl
@[simp] theorem State.onAccess_faultQ (s : State) (n : Nat) (g : Access → Access) : (s.onAccess n g).faultQ = s.faultQ := rfl
@[simp] theorem State.onAccess_patrol (s : State) (n : Nat) (g : Access → Access) : (s.onAccess n g).patrol = s.patrol := rfl
@[simp] theorem State.onAccess_images (s : State) (n : Nat) (g : Access → Access) : (s.onAccess n g).images = s.images := rfl
@[simp] theorem State.onAccess_insts (s : State) (n : Nat) (g : Access → Access) : (s.onAccess n g).insts = s.insts := rfl
@[simp] theorem State.onAccess_forgotten (s : State) (n : Nat) (g : Access → Access) : (s.onAccess n g).forgotten = s.forgotten := rfl
@[simp] theorem State.onAccess_pushed (s : State) (n : Nat) (g : Access → Access) : (s.onAccess n g).pushed = s.pushed := rfl
@[simp] theorem State.onAccess_taken (s : State) (n : Nat) (g : Access → Access) : (s.onAccess n g).taken = s.taken := rfl
@[simp] theorem State.onAccess_lastQ (s : State) (n : Nat) (g : Access → Access) : (s.onAccess n g).lastQ = s.lastQ := rfl
@[simp] theorem State.onAccess_modRegs (s : State) (n : Nat) (g : Access → Access) : (s.onAccess n g).modRegs = s.modRegs := rfl
@[simp] theorem State.onAccess_dies (s : State) (n : Nat) (g : Access → Access) : (s.onAccess n g).dies = s.dies := rfl
@[simp] theorem State.onAccess_queues (s : State) (n : Nat) (g : Access → Access) : (s.onAccess n g).queues = s.queues := rfl
@[simp] theorem State.onAccess_links (s : State) (n : Nat) (g : Access → Access) : (s.onAccess n g).links = s.links := rfl
@[simp] theorem State.onAccess_streamsIn (s : State) (n : Nat) (g : Access → Access) : (s.onAccess n g).streamsIn = s.streamsIn := rfl
@[simp] theorem State.onAccess_reports (s : State) (n : Nat) (g : Access → Access) : (s.onAccess n g).reports = s.reports := rfl
@[simp] theorem State.onAccess_msix (s : State) (n : Nat) (g : Access → Access) : (s.onAccess n g).msix = s.msix := rfl
@[simp] theorem State.onAccess_msixPending (s : State) (n : Nat) (g : Access → Access) : (s.onAccess n g).msixPending = s.msixPending := rfl
@[simp] theorem State.onAccess_msixHeld (s : State) (n : Nat) (g : Access → Access) : (s.onAccess n g).msixHeld = s.msixHeld := rfl
@[simp] theorem State.onAccess_fatal (s : State) (n : Nat) (g : Access → Access) : (s.onAccess n g).fatal = s.fatal := rfl
@[simp] theorem State.onAccess_fatalSite (s : State) (n : Nat) (g : Access → Access) : (s.onAccess n g).fatalSite = s.fatalSite := rfl
@[simp] theorem State.onAccess_booted (s : State) (n : Nat) (g : Access → Access) : (s.onAccess n g).booted = s.booted := rfl
@[simp] theorem State.onAccess_cxl (s : State) (n : Nat) (g : Access → Access) : (s.onAccess n g).cxl = s.cxl := rfl

/-! ### `State.dropAccesses` -/

@[simp] theorem State.dropAccesses_agenda (s : State) (p : Access → Bool) : (s.dropAccesses p).agenda = s.agenda := rfl
@[simp] theorem State.dropAccesses_firing (s : State) (p : Access → Bool) : (s.dropAccesses p).firing = s.firing := rfl
@[simp] theorem State.dropAccesses_fresh (s : State) (p : Access → Bool) : (s.dropAccesses p).fresh = s.fresh := rfl
@[simp] theorem State.dropAccesses_hostRead (s : State) (p : Access → Bool) : (s.dropAccesses p).hostRead = s.hostRead := rfl
@[simp] theorem State.dropAccesses_hostBytes (s : State) (p : Access → Bool) : (s.dropAccesses p).hostBytes = s.hostBytes := rfl
@[simp] theorem State.dropAccesses_clocks (s : State) (p : Access → Bool) : (s.dropAccesses p).clocks = s.clocks := rfl
@[simp] theorem State.dropAccesses_pes (s : State) (p : Access → Bool) : (s.dropAccesses p).pes = s.pes := rfl
@[simp] theorem State.dropAccesses_tiles (s : State) (p : Access → Bool) : (s.dropAccesses p).tiles = s.tiles := rfl
@[simp] theorem State.dropAccesses_opers (s : State) (p : Access → Bool) : (s.dropAccesses p).opers = s.opers := rfl
@[simp] theorem State.dropAccesses_regions (s : State) (p : Access → Bool) : (s.dropAccesses p).regions = s.regions := rfl
@[simp] theorem State.dropAccesses_matrices (s : State) (p : Access → Bool) : (s.dropAccesses p).matrices = s.matrices := rfl
@[simp] theorem State.dropAccesses_snaps (s : State) (p : Access → Bool) : (s.dropAccesses p).snaps = s.snaps := rfl
@[simp] theorem State.dropAccesses_parked (s : State) (p : Access → Bool) : (s.dropAccesses p).parked = s.parked := rfl
@[simp] theorem State.dropAccesses_net (s : State) (p : Access → Bool) : (s.dropAccesses p).net = s.net := rfl
@[simp] theorem State.dropAccesses_accesses (s : State) (p : Access → Bool) : (s.dropAccesses p).accesses = s.accesses.filter (fun a => !p a) := rfl
@[simp] theorem State.dropAccesses_nextAcc (s : State) (p : Access → Bool) : (s.dropAccesses p).nextAcc = s.nextAcc := rfl
@[simp] theorem State.dropAccesses_mem (s : State) (p : Access → Bool) : (s.dropAccesses p).mem = s.mem := rfl
@[simp] theorem State.dropAccesses_hostMem (s : State) (p : Access → Bool) : (s.dropAccesses p).hostMem = s.hostMem := rfl
@[simp] theorem State.dropAccesses_poisonMem (s : State) (p : Access → Bool) : (s.dropAccesses p).poisonMem = s.poisonMem := rfl
@[simp] theorem State.dropAccesses_tlb (s : State) (p : Access → Bool) : (s.dropAccesses p).tlb = s.tlb := rfl
@[simp] theorem State.dropAccesses_holds (s : State) (p : Access → Bool) : (s.dropAccesses p).holds = s.holds := rfl
@[simp] theorem State.dropAccesses_holdIds (s : State) (p : Access → Bool) : (s.dropAccesses p).holdIds = s.holdIds := rfl
@[simp] theorem State.dropAccesses_slots (s : State) (p : Access → Bool) : (s.dropAccesses p).slots = s.slots := rfl
@[simp] theorem State.dropAccesses_pins (s : State) (p : Access → Bool) : (s.dropAccesses p).pins = s.pins := rfl
@[simp] theorem State.dropAccesses_migrations (s : State) (p : Access → Bool) : (s.dropAccesses p).migrations = s.migrations := rfl
@[simp] theorem State.dropAccesses_inval (s : State) (p : Access → Bool) : (s.dropAccesses p).inval = s.inval := rfl
@[simp] theorem State.dropAccesses_tinvWait (s : State) (p : Access → Bool) : (s.dropAccesses p).tinvWait = s.tinvWait := rfl
@[simp] theorem State.dropAccesses_retire (s : State) (p : Access → Bool) : (s.dropAccesses p).retire = s.retire := rfl
@[simp] theorem State.dropAccesses_faultQ (s : State) (p : Access → Bool) : (s.dropAccesses p).faultQ = s.faultQ := rfl
@[simp] theorem State.dropAccesses_patrol (s : State) (p : Access → Bool) : (s.dropAccesses p).patrol = s.patrol := rfl
@[simp] theorem State.dropAccesses_images (s : State) (p : Access → Bool) : (s.dropAccesses p).images = s.images := rfl
@[simp] theorem State.dropAccesses_insts (s : State) (p : Access → Bool) : (s.dropAccesses p).insts = s.insts := rfl
@[simp] theorem State.dropAccesses_forgotten (s : State) (p : Access → Bool) : (s.dropAccesses p).forgotten = s.forgotten := rfl
@[simp] theorem State.dropAccesses_pushed (s : State) (p : Access → Bool) : (s.dropAccesses p).pushed = s.pushed := rfl
@[simp] theorem State.dropAccesses_taken (s : State) (p : Access → Bool) : (s.dropAccesses p).taken = s.taken := rfl
@[simp] theorem State.dropAccesses_lastQ (s : State) (p : Access → Bool) : (s.dropAccesses p).lastQ = s.lastQ := rfl
@[simp] theorem State.dropAccesses_modRegs (s : State) (p : Access → Bool) : (s.dropAccesses p).modRegs = s.modRegs := rfl
@[simp] theorem State.dropAccesses_dies (s : State) (p : Access → Bool) : (s.dropAccesses p).dies = s.dies := rfl
@[simp] theorem State.dropAccesses_queues (s : State) (p : Access → Bool) : (s.dropAccesses p).queues = s.queues := rfl
@[simp] theorem State.dropAccesses_links (s : State) (p : Access → Bool) : (s.dropAccesses p).links = s.links := rfl
@[simp] theorem State.dropAccesses_streamsIn (s : State) (p : Access → Bool) : (s.dropAccesses p).streamsIn = s.streamsIn := rfl
@[simp] theorem State.dropAccesses_reports (s : State) (p : Access → Bool) : (s.dropAccesses p).reports = s.reports := rfl
@[simp] theorem State.dropAccesses_msix (s : State) (p : Access → Bool) : (s.dropAccesses p).msix = s.msix := rfl
@[simp] theorem State.dropAccesses_msixPending (s : State) (p : Access → Bool) : (s.dropAccesses p).msixPending = s.msixPending := rfl
@[simp] theorem State.dropAccesses_msixHeld (s : State) (p : Access → Bool) : (s.dropAccesses p).msixHeld = s.msixHeld := rfl
@[simp] theorem State.dropAccesses_fatal (s : State) (p : Access → Bool) : (s.dropAccesses p).fatal = s.fatal := rfl
@[simp] theorem State.dropAccesses_fatalSite (s : State) (p : Access → Bool) : (s.dropAccesses p).fatalSite = s.fatalSite := rfl
@[simp] theorem State.dropAccesses_booted (s : State) (p : Access → Bool) : (s.dropAccesses p).booted = s.booted := rfl
@[simp] theorem State.dropAccesses_cxl (s : State) (p : Access → Bool) : (s.dropAccesses p).cxl = s.cxl := rfl

/-! ### `State.onLink` -/

@[simp] theorem State.onLink_agenda (s : State) (p : Nat) (g : LinkPort → LinkPort) : (s.onLink p g).agenda = s.agenda := rfl
@[simp] theorem State.onLink_firing (s : State) (p : Nat) (g : LinkPort → LinkPort) : (s.onLink p g).firing = s.firing := rfl
@[simp] theorem State.onLink_fresh (s : State) (p : Nat) (g : LinkPort → LinkPort) : (s.onLink p g).fresh = s.fresh := rfl
@[simp] theorem State.onLink_hostRead (s : State) (p : Nat) (g : LinkPort → LinkPort) : (s.onLink p g).hostRead = s.hostRead := rfl
@[simp] theorem State.onLink_hostBytes (s : State) (p : Nat) (g : LinkPort → LinkPort) : (s.onLink p g).hostBytes = s.hostBytes := rfl
@[simp] theorem State.onLink_clocks (s : State) (p : Nat) (g : LinkPort → LinkPort) : (s.onLink p g).clocks = s.clocks := rfl
@[simp] theorem State.onLink_pes (s : State) (p : Nat) (g : LinkPort → LinkPort) : (s.onLink p g).pes = s.pes := rfl
@[simp] theorem State.onLink_tiles (s : State) (p : Nat) (g : LinkPort → LinkPort) : (s.onLink p g).tiles = s.tiles := rfl
@[simp] theorem State.onLink_opers (s : State) (p : Nat) (g : LinkPort → LinkPort) : (s.onLink p g).opers = s.opers := rfl
@[simp] theorem State.onLink_regions (s : State) (p : Nat) (g : LinkPort → LinkPort) : (s.onLink p g).regions = s.regions := rfl
@[simp] theorem State.onLink_matrices (s : State) (p : Nat) (g : LinkPort → LinkPort) : (s.onLink p g).matrices = s.matrices := rfl
@[simp] theorem State.onLink_snaps (s : State) (p : Nat) (g : LinkPort → LinkPort) : (s.onLink p g).snaps = s.snaps := rfl
@[simp] theorem State.onLink_parked (s : State) (p : Nat) (g : LinkPort → LinkPort) : (s.onLink p g).parked = s.parked := rfl
@[simp] theorem State.onLink_net (s : State) (p : Nat) (g : LinkPort → LinkPort) : (s.onLink p g).net = s.net := rfl
@[simp] theorem State.onLink_accesses (s : State) (p : Nat) (g : LinkPort → LinkPort) : (s.onLink p g).accesses = s.accesses := rfl
@[simp] theorem State.onLink_nextAcc (s : State) (p : Nat) (g : LinkPort → LinkPort) : (s.onLink p g).nextAcc = s.nextAcc := rfl
@[simp] theorem State.onLink_mem (s : State) (p : Nat) (g : LinkPort → LinkPort) : (s.onLink p g).mem = s.mem := rfl
@[simp] theorem State.onLink_hostMem (s : State) (p : Nat) (g : LinkPort → LinkPort) : (s.onLink p g).hostMem = s.hostMem := rfl
@[simp] theorem State.onLink_poisonMem (s : State) (p : Nat) (g : LinkPort → LinkPort) : (s.onLink p g).poisonMem = s.poisonMem := rfl
@[simp] theorem State.onLink_tlb (s : State) (p : Nat) (g : LinkPort → LinkPort) : (s.onLink p g).tlb = s.tlb := rfl
@[simp] theorem State.onLink_holds (s : State) (p : Nat) (g : LinkPort → LinkPort) : (s.onLink p g).holds = s.holds := rfl
@[simp] theorem State.onLink_holdIds (s : State) (p : Nat) (g : LinkPort → LinkPort) : (s.onLink p g).holdIds = s.holdIds := rfl
@[simp] theorem State.onLink_slots (s : State) (p : Nat) (g : LinkPort → LinkPort) : (s.onLink p g).slots = s.slots := rfl
@[simp] theorem State.onLink_pins (s : State) (p : Nat) (g : LinkPort → LinkPort) : (s.onLink p g).pins = s.pins := rfl
@[simp] theorem State.onLink_migrations (s : State) (p : Nat) (g : LinkPort → LinkPort) : (s.onLink p g).migrations = s.migrations := rfl
@[simp] theorem State.onLink_inval (s : State) (p : Nat) (g : LinkPort → LinkPort) : (s.onLink p g).inval = s.inval := rfl
@[simp] theorem State.onLink_tinvWait (s : State) (p : Nat) (g : LinkPort → LinkPort) : (s.onLink p g).tinvWait = s.tinvWait := rfl
@[simp] theorem State.onLink_retire (s : State) (p : Nat) (g : LinkPort → LinkPort) : (s.onLink p g).retire = s.retire := rfl
@[simp] theorem State.onLink_faultQ (s : State) (p : Nat) (g : LinkPort → LinkPort) : (s.onLink p g).faultQ = s.faultQ := rfl
@[simp] theorem State.onLink_patrol (s : State) (p : Nat) (g : LinkPort → LinkPort) : (s.onLink p g).patrol = s.patrol := rfl
@[simp] theorem State.onLink_images (s : State) (p : Nat) (g : LinkPort → LinkPort) : (s.onLink p g).images = s.images := rfl
@[simp] theorem State.onLink_insts (s : State) (p : Nat) (g : LinkPort → LinkPort) : (s.onLink p g).insts = s.insts := rfl
@[simp] theorem State.onLink_forgotten (s : State) (p : Nat) (g : LinkPort → LinkPort) : (s.onLink p g).forgotten = s.forgotten := rfl
@[simp] theorem State.onLink_pushed (s : State) (p : Nat) (g : LinkPort → LinkPort) : (s.onLink p g).pushed = s.pushed := rfl
@[simp] theorem State.onLink_taken (s : State) (p : Nat) (g : LinkPort → LinkPort) : (s.onLink p g).taken = s.taken := rfl
@[simp] theorem State.onLink_lastQ (s : State) (p : Nat) (g : LinkPort → LinkPort) : (s.onLink p g).lastQ = s.lastQ := rfl
@[simp] theorem State.onLink_modRegs (s : State) (p : Nat) (g : LinkPort → LinkPort) : (s.onLink p g).modRegs = s.modRegs := rfl
@[simp] theorem State.onLink_dies (s : State) (p : Nat) (g : LinkPort → LinkPort) : (s.onLink p g).dies = s.dies := rfl
@[simp] theorem State.onLink_queues (s : State) (p : Nat) (g : LinkPort → LinkPort) : (s.onLink p g).queues = s.queues := rfl
@[simp] theorem State.onLink_links (s : State) (p : Nat) (g : LinkPort → LinkPort) : (s.onLink p g).links = Map.alter s.links .down p g := rfl
@[simp] theorem State.onLink_streamsIn (s : State) (p : Nat) (g : LinkPort → LinkPort) : (s.onLink p g).streamsIn = s.streamsIn := rfl
@[simp] theorem State.onLink_reports (s : State) (p : Nat) (g : LinkPort → LinkPort) : (s.onLink p g).reports = s.reports := rfl
@[simp] theorem State.onLink_msix (s : State) (p : Nat) (g : LinkPort → LinkPort) : (s.onLink p g).msix = s.msix := rfl
@[simp] theorem State.onLink_msixPending (s : State) (p : Nat) (g : LinkPort → LinkPort) : (s.onLink p g).msixPending = s.msixPending := rfl
@[simp] theorem State.onLink_msixHeld (s : State) (p : Nat) (g : LinkPort → LinkPort) : (s.onLink p g).msixHeld = s.msixHeld := rfl
@[simp] theorem State.onLink_fatal (s : State) (p : Nat) (g : LinkPort → LinkPort) : (s.onLink p g).fatal = s.fatal := rfl
@[simp] theorem State.onLink_fatalSite (s : State) (p : Nat) (g : LinkPort → LinkPort) : (s.onLink p g).fatalSite = s.fatalSite := rfl
@[simp] theorem State.onLink_booted (s : State) (p : Nat) (g : LinkPort → LinkPort) : (s.onLink p g).booted = s.booted := rfl
@[simp] theorem State.onLink_cxl (s : State) (p : Nat) (g : LinkPort → LinkPort) : (s.onLink p g).cxl = s.cxl := rfl

/-! ### `State.onQueue` -/

@[simp] theorem State.onQueue_agenda (s : State) (q : Nat) (g : QueueReg → QueueReg) : (s.onQueue q g).agenda = s.agenda := rfl
@[simp] theorem State.onQueue_firing (s : State) (q : Nat) (g : QueueReg → QueueReg) : (s.onQueue q g).firing = s.firing := rfl
@[simp] theorem State.onQueue_fresh (s : State) (q : Nat) (g : QueueReg → QueueReg) : (s.onQueue q g).fresh = s.fresh := rfl
@[simp] theorem State.onQueue_hostRead (s : State) (q : Nat) (g : QueueReg → QueueReg) : (s.onQueue q g).hostRead = s.hostRead := rfl
@[simp] theorem State.onQueue_hostBytes (s : State) (q : Nat) (g : QueueReg → QueueReg) : (s.onQueue q g).hostBytes = s.hostBytes := rfl
@[simp] theorem State.onQueue_clocks (s : State) (q : Nat) (g : QueueReg → QueueReg) : (s.onQueue q g).clocks = s.clocks := rfl
@[simp] theorem State.onQueue_pes (s : State) (q : Nat) (g : QueueReg → QueueReg) : (s.onQueue q g).pes = s.pes := rfl
@[simp] theorem State.onQueue_tiles (s : State) (q : Nat) (g : QueueReg → QueueReg) : (s.onQueue q g).tiles = s.tiles := rfl
@[simp] theorem State.onQueue_opers (s : State) (q : Nat) (g : QueueReg → QueueReg) : (s.onQueue q g).opers = s.opers := rfl
@[simp] theorem State.onQueue_regions (s : State) (q : Nat) (g : QueueReg → QueueReg) : (s.onQueue q g).regions = s.regions := rfl
@[simp] theorem State.onQueue_matrices (s : State) (q : Nat) (g : QueueReg → QueueReg) : (s.onQueue q g).matrices = s.matrices := rfl
@[simp] theorem State.onQueue_snaps (s : State) (q : Nat) (g : QueueReg → QueueReg) : (s.onQueue q g).snaps = s.snaps := rfl
@[simp] theorem State.onQueue_parked (s : State) (q : Nat) (g : QueueReg → QueueReg) : (s.onQueue q g).parked = s.parked := rfl
@[simp] theorem State.onQueue_net (s : State) (q : Nat) (g : QueueReg → QueueReg) : (s.onQueue q g).net = s.net := rfl
@[simp] theorem State.onQueue_accesses (s : State) (q : Nat) (g : QueueReg → QueueReg) : (s.onQueue q g).accesses = s.accesses := rfl
@[simp] theorem State.onQueue_nextAcc (s : State) (q : Nat) (g : QueueReg → QueueReg) : (s.onQueue q g).nextAcc = s.nextAcc := rfl
@[simp] theorem State.onQueue_mem (s : State) (q : Nat) (g : QueueReg → QueueReg) : (s.onQueue q g).mem = s.mem := rfl
@[simp] theorem State.onQueue_hostMem (s : State) (q : Nat) (g : QueueReg → QueueReg) : (s.onQueue q g).hostMem = s.hostMem := rfl
@[simp] theorem State.onQueue_poisonMem (s : State) (q : Nat) (g : QueueReg → QueueReg) : (s.onQueue q g).poisonMem = s.poisonMem := rfl
@[simp] theorem State.onQueue_tlb (s : State) (q : Nat) (g : QueueReg → QueueReg) : (s.onQueue q g).tlb = s.tlb := rfl
@[simp] theorem State.onQueue_holds (s : State) (q : Nat) (g : QueueReg → QueueReg) : (s.onQueue q g).holds = s.holds := rfl
@[simp] theorem State.onQueue_holdIds (s : State) (q : Nat) (g : QueueReg → QueueReg) : (s.onQueue q g).holdIds = s.holdIds := rfl
@[simp] theorem State.onQueue_slots (s : State) (q : Nat) (g : QueueReg → QueueReg) : (s.onQueue q g).slots = s.slots := rfl
@[simp] theorem State.onQueue_pins (s : State) (q : Nat) (g : QueueReg → QueueReg) : (s.onQueue q g).pins = s.pins := rfl
@[simp] theorem State.onQueue_migrations (s : State) (q : Nat) (g : QueueReg → QueueReg) : (s.onQueue q g).migrations = s.migrations := rfl
@[simp] theorem State.onQueue_inval (s : State) (q : Nat) (g : QueueReg → QueueReg) : (s.onQueue q g).inval = s.inval := rfl
@[simp] theorem State.onQueue_tinvWait (s : State) (q : Nat) (g : QueueReg → QueueReg) : (s.onQueue q g).tinvWait = s.tinvWait := rfl
@[simp] theorem State.onQueue_retire (s : State) (q : Nat) (g : QueueReg → QueueReg) : (s.onQueue q g).retire = s.retire := rfl
@[simp] theorem State.onQueue_faultQ (s : State) (q : Nat) (g : QueueReg → QueueReg) : (s.onQueue q g).faultQ = s.faultQ := rfl
@[simp] theorem State.onQueue_patrol (s : State) (q : Nat) (g : QueueReg → QueueReg) : (s.onQueue q g).patrol = s.patrol := rfl
@[simp] theorem State.onQueue_images (s : State) (q : Nat) (g : QueueReg → QueueReg) : (s.onQueue q g).images = s.images := rfl
@[simp] theorem State.onQueue_insts (s : State) (q : Nat) (g : QueueReg → QueueReg) : (s.onQueue q g).insts = s.insts := rfl
@[simp] theorem State.onQueue_forgotten (s : State) (q : Nat) (g : QueueReg → QueueReg) : (s.onQueue q g).forgotten = s.forgotten := rfl
@[simp] theorem State.onQueue_pushed (s : State) (q : Nat) (g : QueueReg → QueueReg) : (s.onQueue q g).pushed = s.pushed := rfl
@[simp] theorem State.onQueue_taken (s : State) (q : Nat) (g : QueueReg → QueueReg) : (s.onQueue q g).taken = s.taken := rfl
@[simp] theorem State.onQueue_lastQ (s : State) (q : Nat) (g : QueueReg → QueueReg) : (s.onQueue q g).lastQ = s.lastQ := rfl
@[simp] theorem State.onQueue_modRegs (s : State) (q : Nat) (g : QueueReg → QueueReg) : (s.onQueue q g).modRegs = s.modRegs := rfl
@[simp] theorem State.onQueue_dies (s : State) (q : Nat) (g : QueueReg → QueueReg) : (s.onQueue q g).dies = s.dies := rfl
@[simp] theorem State.onQueue_links (s : State) (q : Nat) (g : QueueReg → QueueReg) : (s.onQueue q g).links = s.links := rfl
@[simp] theorem State.onQueue_streamsIn (s : State) (q : Nat) (g : QueueReg → QueueReg) : (s.onQueue q g).streamsIn = s.streamsIn := rfl
@[simp] theorem State.onQueue_reports (s : State) (q : Nat) (g : QueueReg → QueueReg) : (s.onQueue q g).reports = s.reports := rfl
@[simp] theorem State.onQueue_msix (s : State) (q : Nat) (g : QueueReg → QueueReg) : (s.onQueue q g).msix = s.msix := rfl
@[simp] theorem State.onQueue_msixPending (s : State) (q : Nat) (g : QueueReg → QueueReg) : (s.onQueue q g).msixPending = s.msixPending := rfl
@[simp] theorem State.onQueue_msixHeld (s : State) (q : Nat) (g : QueueReg → QueueReg) : (s.onQueue q g).msixHeld = s.msixHeld := rfl
@[simp] theorem State.onQueue_fatal (s : State) (q : Nat) (g : QueueReg → QueueReg) : (s.onQueue q g).fatal = s.fatal := rfl
@[simp] theorem State.onQueue_fatalSite (s : State) (q : Nat) (g : QueueReg → QueueReg) : (s.onQueue q g).fatalSite = s.fatalSite := rfl
@[simp] theorem State.onQueue_booted (s : State) (q : Nat) (g : QueueReg → QueueReg) : (s.onQueue q g).booted = s.booted := rfl
@[simp] theorem State.onQueue_cxl (s : State) (q : Nat) (g : QueueReg → QueueReg) : (s.onQueue q g).cxl = s.cxl := rfl

/-! ### `State.post` -/

@[simp] theorem State.post_agenda (s : State) (f : Flight) : (s.post f).agenda = s.agenda := rfl
@[simp] theorem State.post_firing (s : State) (f : Flight) : (s.post f).firing = s.firing := rfl
@[simp] theorem State.post_fresh (s : State) (f : Flight) : (s.post f).fresh = s.fresh := rfl
@[simp] theorem State.post_hostRead (s : State) (f : Flight) : (s.post f).hostRead = s.hostRead := rfl
@[simp] theorem State.post_hostBytes (s : State) (f : Flight) : (s.post f).hostBytes = s.hostBytes := rfl
@[simp] theorem State.post_clocks (s : State) (f : Flight) : (s.post f).clocks = s.clocks := rfl
@[simp] theorem State.post_pes (s : State) (f : Flight) : (s.post f).pes = s.pes := rfl
@[simp] theorem State.post_tiles (s : State) (f : Flight) : (s.post f).tiles = s.tiles := rfl
@[simp] theorem State.post_opers (s : State) (f : Flight) : (s.post f).opers = s.opers := rfl
@[simp] theorem State.post_regions (s : State) (f : Flight) : (s.post f).regions = s.regions := rfl
@[simp] theorem State.post_matrices (s : State) (f : Flight) : (s.post f).matrices = s.matrices := rfl
@[simp] theorem State.post_snaps (s : State) (f : Flight) : (s.post f).snaps = s.snaps := rfl
@[simp] theorem State.post_parked (s : State) (f : Flight) : (s.post f).parked = s.parked := rfl
@[simp] theorem State.post_net (s : State) (f : Flight) : (s.post f).net = s.net ++ [f] := rfl
@[simp] theorem State.post_accesses (s : State) (f : Flight) : (s.post f).accesses = s.accesses := rfl
@[simp] theorem State.post_nextAcc (s : State) (f : Flight) : (s.post f).nextAcc = s.nextAcc := rfl
@[simp] theorem State.post_mem (s : State) (f : Flight) : (s.post f).mem = s.mem := rfl
@[simp] theorem State.post_hostMem (s : State) (f : Flight) : (s.post f).hostMem = s.hostMem := rfl
@[simp] theorem State.post_poisonMem (s : State) (f : Flight) : (s.post f).poisonMem = s.poisonMem := rfl
@[simp] theorem State.post_tlb (s : State) (f : Flight) : (s.post f).tlb = s.tlb := rfl
@[simp] theorem State.post_holds (s : State) (f : Flight) : (s.post f).holds = s.holds := rfl
@[simp] theorem State.post_holdIds (s : State) (f : Flight) : (s.post f).holdIds = s.holdIds := rfl
@[simp] theorem State.post_slots (s : State) (f : Flight) : (s.post f).slots = s.slots := rfl
@[simp] theorem State.post_pins (s : State) (f : Flight) : (s.post f).pins = s.pins := rfl
@[simp] theorem State.post_migrations (s : State) (f : Flight) : (s.post f).migrations = s.migrations := rfl
@[simp] theorem State.post_inval (s : State) (f : Flight) : (s.post f).inval = s.inval := rfl
@[simp] theorem State.post_tinvWait (s : State) (f : Flight) : (s.post f).tinvWait = s.tinvWait := rfl
@[simp] theorem State.post_retire (s : State) (f : Flight) : (s.post f).retire = s.retire := rfl
@[simp] theorem State.post_faultQ (s : State) (f : Flight) : (s.post f).faultQ = s.faultQ := rfl
@[simp] theorem State.post_patrol (s : State) (f : Flight) : (s.post f).patrol = s.patrol := rfl
@[simp] theorem State.post_images (s : State) (f : Flight) : (s.post f).images = s.images := rfl
@[simp] theorem State.post_insts (s : State) (f : Flight) : (s.post f).insts = s.insts := rfl
@[simp] theorem State.post_forgotten (s : State) (f : Flight) : (s.post f).forgotten = s.forgotten := rfl
@[simp] theorem State.post_pushed (s : State) (f : Flight) : (s.post f).pushed = s.pushed := rfl
@[simp] theorem State.post_taken (s : State) (f : Flight) : (s.post f).taken = s.taken := rfl
@[simp] theorem State.post_lastQ (s : State) (f : Flight) : (s.post f).lastQ = s.lastQ := rfl
@[simp] theorem State.post_modRegs (s : State) (f : Flight) : (s.post f).modRegs = s.modRegs := rfl
@[simp] theorem State.post_dies (s : State) (f : Flight) : (s.post f).dies = s.dies := rfl
@[simp] theorem State.post_queues (s : State) (f : Flight) : (s.post f).queues = s.queues := rfl
@[simp] theorem State.post_links (s : State) (f : Flight) : (s.post f).links = s.links := rfl
@[simp] theorem State.post_streamsIn (s : State) (f : Flight) : (s.post f).streamsIn = s.streamsIn := rfl
@[simp] theorem State.post_reports (s : State) (f : Flight) : (s.post f).reports = s.reports := rfl
@[simp] theorem State.post_msix (s : State) (f : Flight) : (s.post f).msix = s.msix := rfl
@[simp] theorem State.post_msixPending (s : State) (f : Flight) : (s.post f).msixPending = s.msixPending := rfl
@[simp] theorem State.post_msixHeld (s : State) (f : Flight) : (s.post f).msixHeld = s.msixHeld := rfl
@[simp] theorem State.post_fatal (s : State) (f : Flight) : (s.post f).fatal = s.fatal := rfl
@[simp] theorem State.post_fatalSite (s : State) (f : Flight) : (s.post f).fatalSite = s.fatalSite := rfl
@[simp] theorem State.post_booted (s : State) (f : Flight) : (s.post f).booted = s.booted := rfl
@[simp] theorem State.post_cxl (s : State) (f : Flight) : (s.post f).cxl = s.cxl := rfl

/-! ### `State.raiseVector` -/

@[simp] theorem State.raiseVector_agenda (s : State) (v : Nat) : (s.raiseVector v).agenda = s.agenda := rfl
@[simp] theorem State.raiseVector_firing (s : State) (v : Nat) : (s.raiseVector v).firing = s.firing := rfl
@[simp] theorem State.raiseVector_fresh (s : State) (v : Nat) : (s.raiseVector v).fresh = s.fresh := rfl
@[simp] theorem State.raiseVector_hostRead (s : State) (v : Nat) : (s.raiseVector v).hostRead = s.hostRead := rfl
@[simp] theorem State.raiseVector_hostBytes (s : State) (v : Nat) : (s.raiseVector v).hostBytes = s.hostBytes := rfl
@[simp] theorem State.raiseVector_clocks (s : State) (v : Nat) : (s.raiseVector v).clocks = s.clocks := rfl
@[simp] theorem State.raiseVector_pes (s : State) (v : Nat) : (s.raiseVector v).pes = s.pes := rfl
@[simp] theorem State.raiseVector_tiles (s : State) (v : Nat) : (s.raiseVector v).tiles = s.tiles := rfl
@[simp] theorem State.raiseVector_opers (s : State) (v : Nat) : (s.raiseVector v).opers = s.opers := rfl
@[simp] theorem State.raiseVector_regions (s : State) (v : Nat) : (s.raiseVector v).regions = s.regions := rfl
@[simp] theorem State.raiseVector_matrices (s : State) (v : Nat) : (s.raiseVector v).matrices = s.matrices := rfl
@[simp] theorem State.raiseVector_snaps (s : State) (v : Nat) : (s.raiseVector v).snaps = s.snaps := rfl
@[simp] theorem State.raiseVector_parked (s : State) (v : Nat) : (s.raiseVector v).parked = s.parked := rfl
@[simp] theorem State.raiseVector_net (s : State) (v : Nat) : (s.raiseVector v).net = s.net := rfl
@[simp] theorem State.raiseVector_accesses (s : State) (v : Nat) : (s.raiseVector v).accesses = s.accesses := rfl
@[simp] theorem State.raiseVector_nextAcc (s : State) (v : Nat) : (s.raiseVector v).nextAcc = s.nextAcc := rfl
@[simp] theorem State.raiseVector_mem (s : State) (v : Nat) : (s.raiseVector v).mem = s.mem := rfl
@[simp] theorem State.raiseVector_hostMem (s : State) (v : Nat) : (s.raiseVector v).hostMem = s.hostMem := rfl
@[simp] theorem State.raiseVector_poisonMem (s : State) (v : Nat) : (s.raiseVector v).poisonMem = s.poisonMem := rfl
@[simp] theorem State.raiseVector_tlb (s : State) (v : Nat) : (s.raiseVector v).tlb = s.tlb := rfl
@[simp] theorem State.raiseVector_holds (s : State) (v : Nat) : (s.raiseVector v).holds = s.holds := rfl
@[simp] theorem State.raiseVector_holdIds (s : State) (v : Nat) : (s.raiseVector v).holdIds = s.holdIds := rfl
@[simp] theorem State.raiseVector_slots (s : State) (v : Nat) : (s.raiseVector v).slots = s.slots := rfl
@[simp] theorem State.raiseVector_pins (s : State) (v : Nat) : (s.raiseVector v).pins = s.pins := rfl
@[simp] theorem State.raiseVector_migrations (s : State) (v : Nat) : (s.raiseVector v).migrations = s.migrations := rfl
@[simp] theorem State.raiseVector_inval (s : State) (v : Nat) : (s.raiseVector v).inval = s.inval := rfl
@[simp] theorem State.raiseVector_tinvWait (s : State) (v : Nat) : (s.raiseVector v).tinvWait = s.tinvWait := rfl
@[simp] theorem State.raiseVector_retire (s : State) (v : Nat) : (s.raiseVector v).retire = s.retire := rfl
@[simp] theorem State.raiseVector_faultQ (s : State) (v : Nat) : (s.raiseVector v).faultQ = s.faultQ := rfl
@[simp] theorem State.raiseVector_patrol (s : State) (v : Nat) : (s.raiseVector v).patrol = s.patrol := rfl
@[simp] theorem State.raiseVector_images (s : State) (v : Nat) : (s.raiseVector v).images = s.images := rfl
@[simp] theorem State.raiseVector_insts (s : State) (v : Nat) : (s.raiseVector v).insts = s.insts := rfl
@[simp] theorem State.raiseVector_forgotten (s : State) (v : Nat) : (s.raiseVector v).forgotten = s.forgotten := rfl
@[simp] theorem State.raiseVector_pushed (s : State) (v : Nat) : (s.raiseVector v).pushed = s.pushed := rfl
@[simp] theorem State.raiseVector_taken (s : State) (v : Nat) : (s.raiseVector v).taken = s.taken := rfl
@[simp] theorem State.raiseVector_lastQ (s : State) (v : Nat) : (s.raiseVector v).lastQ = s.lastQ := rfl
@[simp] theorem State.raiseVector_modRegs (s : State) (v : Nat) : (s.raiseVector v).modRegs = s.modRegs := rfl
@[simp] theorem State.raiseVector_dies (s : State) (v : Nat) : (s.raiseVector v).dies = s.dies := rfl
@[simp] theorem State.raiseVector_queues (s : State) (v : Nat) : (s.raiseVector v).queues = s.queues := rfl
@[simp] theorem State.raiseVector_links (s : State) (v : Nat) : (s.raiseVector v).links = s.links := rfl
@[simp] theorem State.raiseVector_streamsIn (s : State) (v : Nat) : (s.raiseVector v).streamsIn = s.streamsIn := rfl
@[simp] theorem State.raiseVector_reports (s : State) (v : Nat) : (s.raiseVector v).reports = s.reports := rfl
@[simp] theorem State.raiseVector_msix (s : State) (v : Nat) : (s.raiseVector v).msix = s.msix := rfl
@[simp] theorem State.raiseVector_msixPending (s : State) (v : Nat) : (s.raiseVector v).msixPending = s.msixPending ++ [v] := rfl
@[simp] theorem State.raiseVector_msixHeld (s : State) (v : Nat) : (s.raiseVector v).msixHeld =
    (if s.masked v && !(s.msixHeld.contains v) then s.msixHeld ++ [v] else s.msixHeld) := rfl
@[simp] theorem State.raiseVector_fatal (s : State) (v : Nat) : (s.raiseVector v).fatal = s.fatal := rfl
@[simp] theorem State.raiseVector_fatalSite (s : State) (v : Nat) : (s.raiseVector v).fatalSite = s.fatalSite := rfl
@[simp] theorem State.raiseVector_booted (s : State) (v : Nat) : (s.raiseVector v).booted = s.booted := rfl
@[simp] theorem State.raiseVector_cxl (s : State) (v : Nat) : (s.raiseVector v).cxl = s.cxl := rfl

/-! ### `State.tick` -/

@[simp] theorem State.tick_agenda (s : State) (d n : Nat) : (s.tick d n).agenda = s.agenda := rfl
@[simp] theorem State.tick_firing (s : State) (d n : Nat) : (s.tick d n).firing = s.firing := rfl
@[simp] theorem State.tick_fresh (s : State) (d n : Nat) : (s.tick d n).fresh = s.fresh := rfl
@[simp] theorem State.tick_hostRead (s : State) (d n : Nat) : (s.tick d n).hostRead = s.hostRead := rfl
@[simp] theorem State.tick_hostBytes (s : State) (d n : Nat) : (s.tick d n).hostBytes = s.hostBytes := rfl
@[simp] theorem State.tick_clocks (s : State) (d n : Nat) : (s.tick d n).clocks = Map.put s.clocks d (s.now d + n) := rfl
@[simp] theorem State.tick_pes (s : State) (d n : Nat) : (s.tick d n).pes = s.pes := rfl
@[simp] theorem State.tick_tiles (s : State) (d n : Nat) : (s.tick d n).tiles = s.tiles := rfl
@[simp] theorem State.tick_opers (s : State) (d n : Nat) : (s.tick d n).opers = s.opers := rfl
@[simp] theorem State.tick_matrices (s : State) (d n : Nat) : (s.tick d n).matrices = s.matrices := rfl
@[simp] theorem State.tick_snaps (s : State) (d n : Nat) : (s.tick d n).snaps = s.snaps := rfl
@[simp] theorem State.tick_parked (s : State) (d n : Nat) : (s.tick d n).parked = s.parked := rfl
@[simp] theorem State.tick_net (s : State) (d n : Nat) : (s.tick d n).net = s.net := rfl
@[simp] theorem State.tick_accesses (s : State) (d n : Nat) : (s.tick d n).accesses = s.accesses := rfl
@[simp] theorem State.tick_nextAcc (s : State) (d n : Nat) : (s.tick d n).nextAcc = s.nextAcc := rfl
@[simp] theorem State.tick_mem (s : State) (d n : Nat) : (s.tick d n).mem = s.mem := rfl
@[simp] theorem State.tick_hostMem (s : State) (d n : Nat) : (s.tick d n).hostMem = s.hostMem := rfl
@[simp] theorem State.tick_poisonMem (s : State) (d n : Nat) : (s.tick d n).poisonMem = s.poisonMem := rfl
@[simp] theorem State.tick_tlb (s : State) (d n : Nat) : (s.tick d n).tlb = s.tlb := rfl
@[simp] theorem State.tick_holds (s : State) (d n : Nat) : (s.tick d n).holds = s.holds := rfl
@[simp] theorem State.tick_holdIds (s : State) (d n : Nat) : (s.tick d n).holdIds = s.holdIds := rfl
@[simp] theorem State.tick_slots (s : State) (d n : Nat) : (s.tick d n).slots = s.slots := rfl
@[simp] theorem State.tick_pins (s : State) (d n : Nat) : (s.tick d n).pins = s.pins := rfl
@[simp] theorem State.tick_migrations (s : State) (d n : Nat) : (s.tick d n).migrations = s.migrations := rfl
@[simp] theorem State.tick_inval (s : State) (d n : Nat) : (s.tick d n).inval = s.inval := rfl
@[simp] theorem State.tick_tinvWait (s : State) (d n : Nat) : (s.tick d n).tinvWait = s.tinvWait := rfl
@[simp] theorem State.tick_retire (s : State) (d n : Nat) : (s.tick d n).retire = s.retire := rfl
@[simp] theorem State.tick_faultQ (s : State) (d n : Nat) : (s.tick d n).faultQ = s.faultQ := rfl
@[simp] theorem State.tick_patrol (s : State) (d n : Nat) : (s.tick d n).patrol = s.patrol := rfl
@[simp] theorem State.tick_images (s : State) (d n : Nat) : (s.tick d n).images = s.images := rfl
@[simp] theorem State.tick_insts (s : State) (d n : Nat) : (s.tick d n).insts = s.insts := rfl
@[simp] theorem State.tick_forgotten (s : State) (d n : Nat) : (s.tick d n).forgotten = s.forgotten := rfl
@[simp] theorem State.tick_pushed (s : State) (d n : Nat) : (s.tick d n).pushed = s.pushed := rfl
@[simp] theorem State.tick_taken (s : State) (d n : Nat) : (s.tick d n).taken = s.taken := rfl
@[simp] theorem State.tick_lastQ (s : State) (d n : Nat) : (s.tick d n).lastQ = s.lastQ := rfl
@[simp] theorem State.tick_modRegs (s : State) (d n : Nat) : (s.tick d n).modRegs = s.modRegs := rfl
@[simp] theorem State.tick_dies (s : State) (d n : Nat) : (s.tick d n).dies = s.dies := rfl
@[simp] theorem State.tick_queues (s : State) (d n : Nat) : (s.tick d n).queues = s.queues := rfl
@[simp] theorem State.tick_links (s : State) (d n : Nat) : (s.tick d n).links = s.links := rfl
@[simp] theorem State.tick_streamsIn (s : State) (d n : Nat) : (s.tick d n).streamsIn = s.streamsIn := rfl
@[simp] theorem State.tick_reports (s : State) (d n : Nat) : (s.tick d n).reports = s.reports := rfl
@[simp] theorem State.tick_msix (s : State) (d n : Nat) : (s.tick d n).msix = s.msix := rfl
@[simp] theorem State.tick_msixPending (s : State) (d n : Nat) : (s.tick d n).msixPending = s.msixPending := rfl
@[simp] theorem State.tick_msixHeld (s : State) (d n : Nat) : (s.tick d n).msixHeld = s.msixHeld := rfl
@[simp] theorem State.tick_fatal (s : State) (d n : Nat) : (s.tick d n).fatal = s.fatal := rfl
@[simp] theorem State.tick_fatalSite (s : State) (d n : Nat) : (s.tick d n).fatalSite = s.fatalSite := rfl
@[simp] theorem State.tick_booted (s : State) (d n : Nat) : (s.tick d n).booted = s.booted := rfl
@[simp] theorem State.tick_cxl (s : State) (d n : Nat) : (s.tick d n).cxl = s.cxl := rfl

/-! ### `State.tickAll` -/

@[simp] theorem State.tickAll_agenda (s : State) : (s.tickAll).agenda = s.agenda := rfl
@[simp] theorem State.tickAll_firing (s : State) : (s.tickAll).firing = s.firing := rfl
@[simp] theorem State.tickAll_fresh (s : State) : (s.tickAll).fresh = s.fresh := rfl
@[simp] theorem State.tickAll_hostRead (s : State) : (s.tickAll).hostRead = s.hostRead := rfl
@[simp] theorem State.tickAll_hostBytes (s : State) : (s.tickAll).hostBytes = s.hostBytes := rfl
@[simp] theorem State.tickAll_pes (s : State) : (s.tickAll).pes = s.pes := rfl
@[simp] theorem State.tickAll_tiles (s : State) : (s.tickAll).tiles = s.tiles := rfl
@[simp] theorem State.tickAll_opers (s : State) : (s.tickAll).opers = s.opers := rfl
@[simp] theorem State.tickAll_matrices (s : State) : (s.tickAll).matrices = s.matrices := rfl
@[simp] theorem State.tickAll_snaps (s : State) : (s.tickAll).snaps = s.snaps := rfl
@[simp] theorem State.tickAll_parked (s : State) : (s.tickAll).parked = s.parked := rfl
@[simp] theorem State.tickAll_net (s : State) : (s.tickAll).net = s.net := rfl
@[simp] theorem State.tickAll_accesses (s : State) : (s.tickAll).accesses = s.accesses := rfl
@[simp] theorem State.tickAll_nextAcc (s : State) : (s.tickAll).nextAcc = s.nextAcc := rfl
@[simp] theorem State.tickAll_mem (s : State) : (s.tickAll).mem = s.mem := rfl
@[simp] theorem State.tickAll_hostMem (s : State) : (s.tickAll).hostMem = s.hostMem := rfl
@[simp] theorem State.tickAll_poisonMem (s : State) : (s.tickAll).poisonMem = s.poisonMem := rfl
@[simp] theorem State.tickAll_tlb (s : State) : (s.tickAll).tlb = s.tlb := rfl
@[simp] theorem State.tickAll_holds (s : State) : (s.tickAll).holds = s.holds := rfl
@[simp] theorem State.tickAll_holdIds (s : State) : (s.tickAll).holdIds = s.holdIds := rfl
@[simp] theorem State.tickAll_slots (s : State) : (s.tickAll).slots = s.slots := rfl
@[simp] theorem State.tickAll_pins (s : State) : (s.tickAll).pins = s.pins := rfl
@[simp] theorem State.tickAll_migrations (s : State) : (s.tickAll).migrations = s.migrations := rfl
@[simp] theorem State.tickAll_inval (s : State) : (s.tickAll).inval = s.inval := rfl
@[simp] theorem State.tickAll_tinvWait (s : State) : (s.tickAll).tinvWait = s.tinvWait := rfl
@[simp] theorem State.tickAll_retire (s : State) : (s.tickAll).retire = s.retire := rfl
@[simp] theorem State.tickAll_faultQ (s : State) : (s.tickAll).faultQ = s.faultQ := rfl
@[simp] theorem State.tickAll_patrol (s : State) : (s.tickAll).patrol = s.patrol := rfl
@[simp] theorem State.tickAll_images (s : State) : (s.tickAll).images = s.images := rfl
@[simp] theorem State.tickAll_insts (s : State) : (s.tickAll).insts = s.insts := rfl
@[simp] theorem State.tickAll_forgotten (s : State) : (s.tickAll).forgotten = s.forgotten := rfl
@[simp] theorem State.tickAll_pushed (s : State) : (s.tickAll).pushed = s.pushed := rfl
@[simp] theorem State.tickAll_taken (s : State) : (s.tickAll).taken = s.taken := rfl
@[simp] theorem State.tickAll_lastQ (s : State) : (s.tickAll).lastQ = s.lastQ := rfl
@[simp] theorem State.tickAll_modRegs (s : State) : (s.tickAll).modRegs = s.modRegs := rfl
@[simp] theorem State.tickAll_dies (s : State) : (s.tickAll).dies = s.dies := rfl
@[simp] theorem State.tickAll_queues (s : State) : (s.tickAll).queues = s.queues := rfl
@[simp] theorem State.tickAll_links (s : State) : (s.tickAll).links = s.links := rfl
@[simp] theorem State.tickAll_streamsIn (s : State) : (s.tickAll).streamsIn = s.streamsIn := rfl
@[simp] theorem State.tickAll_reports (s : State) : (s.tickAll).reports = s.reports := rfl
@[simp] theorem State.tickAll_msix (s : State) : (s.tickAll).msix = s.msix := rfl
@[simp] theorem State.tickAll_msixPending (s : State) : (s.tickAll).msixPending = s.msixPending := rfl
@[simp] theorem State.tickAll_msixHeld (s : State) : (s.tickAll).msixHeld = s.msixHeld := rfl
@[simp] theorem State.tickAll_fatal (s : State) : (s.tickAll).fatal = s.fatal := rfl
@[simp] theorem State.tickAll_fatalSite (s : State) : (s.tickAll).fatalSite = s.fatalSite := rfl
@[simp] theorem State.tickAll_booted (s : State) : (s.tickAll).booted = s.booted := rfl
@[simp] theorem State.tickAll_cxl (s : State) : (s.tickAll).cxl = s.cxl := rfl

end Sys2Proof.Machine
end

