-- ==== Sys2Proof/Laws/Ops.lean ====
section
/-! SUPPORT. What the shared operations do to the parts of the state they name: a read after a change of the same part,
and of any other. -/

namespace Sys2Proof.Machine

variable (s : State) {k j : Nat}

@[simp] theorem State.pe_onPe_self (k : Nat) (g : Pe → Pe) : (s.onPe k g).pe k = g (s.pe k) :=
  Map.get_alter_self s.pes Pe.idle k g

theorem State.pe_onPe_ne (g : Pe → Pe) (h : j ≠ k) : (s.onPe k g).pe j = s.pe j :=
  Map.get_alter_ne s.pes Pe.idle g h

theorem State.pe_onPe (k j : Nat) (g : Pe → Pe) : (s.onPe k g).pe j = if j = k then g (s.pe k) else s.pe j :=
  Map.get_alter s.pes Pe.idle k j g

@[simp] theorem State.tile_onTile_self (k : Nat) (g : Tile → Tile) : (s.onTile k g).tile k = g (s.tile k) :=
  Map.get_alter_self s.tiles Tile.clear k g

theorem State.tile_onTile_ne (g : Tile → Tile) (h : j ≠ k) : (s.onTile k g).tile j = s.tile j :=
  Map.get_alter_ne s.tiles Tile.clear g h

@[simp] theorem State.oper_onOper_self (k : Nat) (g : Oper → Oper) : (s.onOper k g).oper k = g (s.oper k) :=
  Map.get_alter_self s.opers Oper.idle k g

theorem State.oper_onOper_ne (g : Oper → Oper) (h : j ≠ k) : (s.onOper k g).oper j = s.oper j :=
  Map.get_alter_ne s.opers Oper.idle g h

@[simp] theorem State.region_onRegion_self (k : Nat) (g : Region → Region) : (s.onRegion k g).region k = g (s.region k) :=
  Map.get_alter_self s.regions Region.empty k g

theorem State.region_onRegion_ne (g : Region → Region) (h : j ≠ k) : (s.onRegion k g).region j = s.region j :=
  Map.get_alter_ne s.regions Region.empty g h

@[simp] theorem State.matrix_onMatrix_self (k : Nat) (g : Matrix → Matrix) : (s.onMatrix k g).matrix k = g (s.matrix k) :=
  Map.get_alter_self s.matrices Matrix.clear k g

theorem State.matrix_onMatrix_ne (g : Matrix → Matrix) (h : j ≠ k) : (s.onMatrix k g).matrix j = s.matrix j :=
  Map.get_alter_ne s.matrices Matrix.clear g h

@[simp] theorem State.die_onDie_self (d : Nat) (g : DieRegs → DieRegs) : (s.onDie d g).die d = g (s.die d) :=
  Map.get_alter_self s.dies DieRegs.reset d g

theorem State.die_onDie_ne (g : DieRegs → DieRegs) (h : j ≠ k) : (s.onDie k g).die j = s.die j :=
  Map.get_alter_ne s.dies DieRegs.reset g h

@[simp] theorem State.link_onLink_self (p : Nat) (g : LinkPort → LinkPort) : (s.onLink p g).link p = g (s.link p) :=
  Map.get_alter_self s.links LinkPort.down p g

theorem State.link_onLink_ne (g : LinkPort → LinkPort) (h : j ≠ k) : (s.onLink k g).link j = s.link j :=
  Map.get_alter_ne s.links LinkPort.down g h

theorem State.now_tick (d e n : Nat) : (s.tick d n).now e = if e = d then s.now d + n else s.now e :=
  Map.get_put s.clocks 0 d e _

/-! ### Taking an error (R140) -/

/-- What raising an error can do: a report of kind 0 where the load has no handler; else the error token, under the entry's
number with the token saved there, under 0xFFFF for a report-kind error, or a wait while the buffer is full. -/
theorem State.raiseError_cases (region : Nat) (r : ErrRec) (saved : Option Token) (hasDst : Bool) :
    (s.handlerOf region = none ∧ s.raiseError region r saved hasDst = s.report 0 r r.payload) ∨
    (∃ h, s.handlerOf region = some h ∧ faultKind r.code = false ∧
      s.raiseError region r saved hasDst =
        s.post (errorFlight (s.region h) (s.handlerSite (s.region h)) r 0xFFFF)) ∨
    (∃ h e, s.handlerOf region = some h ∧ faultKind r.code = true ∧ freeFault 64 (s.region h).faults 0 = some e ∧
      s.raiseError region r saved hasDst =
        (s.onRegion h (fun g => { g with faults := Map.put g.faults e ⟨saved.getD .zero, hasDst⟩ })).post
          (errorFlight (s.region h) (s.handlerSite (s.region h)) r e)) ∨
    (∃ h, s.handlerOf region = some h ∧ faultKind r.code = true ∧ freeFault 64 (s.region h).faults 0 = none ∧
      s.raiseError region r saved hasDst =
        s.onRegion h (fun g => { g with faultWait := g.faultWait ++ [⟨r, ⟨saved.getD .zero, hasDst⟩⟩] })) := by
  unfold State.raiseError
  cases hh : s.handlerOf region with
  | none => exact .inl ⟨rfl, rfl⟩
  | some h =>
    cases hk : faultKind r.code with
    | false => exact .inr (.inl ⟨h, rfl, by simp, by simp⟩)
    | true =>
      cases hf : freeFault 64 (s.region h).faults 0 with
      | none => exact .inr (.inr (.inr ⟨h, rfl, rfl, hf, by simp [hf]⟩))
      | some e => exact .inr (.inr (.inl ⟨h, e, rfl, rfl, hf, by simp [hf]⟩))

/-- The entry found is free and below the bound, and every lower one is in use. -/
theorem freeFault_spec {n k e : Nat} {m : Map Saved} (h : freeFault n m k = some e) :
    k ≤ e ∧ e < k + n ∧ Map.find m e = none ∧ ∀ i, k ≤ i → i < e → (Map.find m i).isSome = true := by
  induction n generalizing k with
  | zero => simp [freeFault] at h
  | succ n ih =>
    cases hf : Map.find m k with
    | none =>
      simp only [freeFault, hf, Option.some.injEq] at h
      subst h
      exact ⟨Nat.le_refl _, by omega, hf, fun i h1 h2 => by omega⟩
    | some v =>
      simp only [freeFault, hf] at h
      obtain ⟨h1, h2, h3, h4⟩ := ih h
      refine ⟨by omega, by omega, h3, fun i hi1 hi2 => ?_⟩
      by_cases c : i = k
      · subst c; simp [hf]
      · exact h4 i (by omega) hi2

end Sys2Proof.Machine
end

