-- ==== Sys2Proof/Laws/Firing.lean ====
section
/-! SUPPORT. What a firing leaves behind: one lemma for each shared ending of a station word. -/

namespace Sys2Proof.Machine

/-- A change of one PE's results alone is what `Gains` says. -/
theorem gains_append (s : State) (k : Nat) (r : Result) :
    Gains s (s.onPe k (fun p => { p with results := p.results ++ [r] })) k r := by
  refine ⟨by simp, by simp, fun j hj => State.pe_onPe_ne s _ hj, rfl⟩

theorem pushResult_leaves (op : Nat) (f : Fields) (conv : Bool) (cause : Nat) (emits : List Emit) (s : State) :
    Leaves op f conv cause emits s (pushResult op f conv cause emits s) :=
  ⟨_, gains_append s _ _, rfl, rfl, rfl, rfl, rfl, rfl, rfl⟩

theorem finish_delivers (op : Nat) (f : Fields) (v : Value) (s : State) : Delivers op f v s (finish op f v s) :=
  pushResult_leaves op f v.converted (causeNum v.cause) _ s

theorem finishPass_passes (op : Nat) (f : Fields) (u : Token) (s : State) : Passes op f u s (finishPass op f u s) :=
  pushResult_leaves op f false 0 _ s

theorem finishWith_leaves (op : Nat) (f : Fields) (emits : List Emit) (s : State) :
    Leaves op f false 0 emits s (finishWith op f emits s) :=
  pushResult_leaves op f false 0 emits s

theorem finishReport_reports (op : Nat) (f : Fields) (s : State) : Reports op f s (finishReport op f s) :=
  pushResult_leaves op f false 0 _ s

theorem finishFault_faults (op : Nat) (f : Fields) (code : Nat) (s : State) :
    FaultsWith op f code s (finishFault op f code s) :=
  pushResult_leaves op f false 0 _ s

/-! ### The lanes of prepared operands -/

theorem lanesOf_length (g : Fmt) (p : Word) : (lanesOf g p).length = Fmt.lanes g := by simp [lanesOf]

/-- A prepared operand has the lanes of its format. -/
theorem prepare_length (g : Fmt) (f : Fields) (t : Token) : (prepare g f t).lanes.length = Fmt.lanes g := by
  unfold prepare
  split
  · exact lanesOf_length g _
  · simp [convertLanes]

theorem prepareR_length (op : Nat) (g : Fmt) (f : Fields) (s : State) :
    (prepareR op g f s).lanes.length = Fmt.lanes g := by
  unfold prepareR
  split
  · exact lanesOf_length g _
  · exact prepare_length g f _

/-- Lists of one length joined pair by pair, as a list over their positions. -/
theorem zipWith_range {α β γ : Type} (h : α → β → γ) (a : List α) (b : List β) (da : α) (db : β) (n : Nat)
    (ha : a.length = n) (hb : b.length = n) :
    List.zipWith h a b = (List.range n).map (fun k => h (a.getD k da) (b.getD k db)) := by
  apply List.ext_getElem
  · simp [ha, hb]
  · intro i h1 h2
    simp only [List.length_zipWith, ha, hb, Nat.min_self] at h1
    simp [ha, hb, h1]

theorem map_range {α β : Type} (h : α → β) (a : List α) (da : α) (n : Nat) (ha : a.length = n) :
    a.map h = (List.range n).map (fun k => h (a.getD k da)) := by
  apply List.ext_getElem
  · simp [ha]
  · intro i h1 h2
    simp only [List.length_map, ha] at h1
    simp [ha, h1]

/-! ### The values of whole forms -/

theorem fltOne_value (f : Fields) (s : State) (g : Nat → LaneRes) :
    fltOne f s g = floatValue f [leftOf f s] (fun k => g ((leftOf f s).lanes.getD k 0)) := by
  unfold fltOne floatValue leftOf
  simp only [map_range g _ 0 _ (prepare_length _ _ _)]
  simp [minCause]

theorem fltTwo_value (op : Nat) (f : Fields) (s : State) (g : Nat → Nat → LaneRes) :
    fltTwo op f s g = floatValue f [leftOf f s, rightOf op f s]
      (fun k => g ((leftOf f s).lanes.getD k 0) ((rightOf op f s).lanes.getD k 0)) := by
  unfold fltTwo floatValue leftOf rightOf
  simp only [zipWith_range g _ _ 0 0 _ (prepare_length _ _ _) (prepareR_length _ _ _ _)]
  simp [minCause]

theorem zipWith3_range (g : Nat → Nat → Nat → LaneRes) (a b c : List Nat) (n : Nat)
    (ha : a.length = n) (hb : b.length = n) (hc : c.length = n) :
    List.zipWith (fun h c => h c) (List.zipWith g a b) c =
      (List.range n).map (fun k => g (a.getD k 0) (b.getD k 0) (c.getD k 0)) := by
  apply List.ext_getElem
  · simp [ha, hb, hc]
  · intro i h1 h2
    simp only [List.length_zipWith, ha, hb, hc, Nat.min_self] at h1
    simp [ha, hb, hc, h1]

theorem fltThree_value (op : Nat) (f : Fields) (s : State) (g : Nat → Nat → Nat → LaneRes) :
    fltThree op f s g = floatValue f [leftOf f s, rightOf op f s, thirdOf f s]
      (fun k => g ((leftOf f s).lanes.getD k 0) ((rightOf op f s).lanes.getD k 0) ((thirdOf f s).lanes.getD k 0)) := by
  unfold fltThree floatValue leftOf rightOf thirdOf
  simp only [zipWith3_range g _ _ _ _ (prepare_length _ _ _) (prepareR_length _ _ _ _) (prepare_length _ _ _)]
  simp [minCause, Bool.or_assoc]

/-- A form whose meaning is `finish` of a lane function of one operand. -/
theorem oneFloat_of {op : Nat} {i : Fields → Instr} {h : Fields → Nat → LaneRes} (g : Fields → Nat → LaneRes)
    (he : ∀ f s, exec (i f) s = .next (finish op f (fltOne f s (g f)) s)) (hg : ∀ f a, g f a = h f a) :
    OneFloat op i h := by
  intro f s
  have e : g f = h f := funext (hg f)
  refine ⟨_, he f s, ?_⟩
  rw [← fltOne_value f s (h f), e]
  exact finish_delivers op f _ s

/-- A form whose meaning is `finish` of a lane function of two operands. -/
theorem twoFloats_of {op : Nat} {i : Fields → Instr} {h : Fields → Nat → Nat → LaneRes} (g : Fields → Nat → Nat → LaneRes)
    (he : ∀ f s, exec (i f) s = .next (finish op f (fltTwo op f s (g f)) s)) (hg : ∀ f a b, g f a b = h f a b) :
    TwoFloats op i h := by
  intro f s
  have e : g f = h f := by funext a b; exact hg f a b
  refine ⟨_, he f s, ?_⟩
  rw [← fltTwo_value op f s (h f), e]
  exact finish_delivers op f _ s

/-- A form whose meaning is `finish` of a lane function of three operands. -/
theorem threeFloats_of {op : Nat} {i : Fields → Instr} {h : Fields → Nat → Nat → Nat → LaneRes}
    (g : Fields → Nat → Nat → Nat → LaneRes)
    (he : ∀ f s, exec (i f) s = .next (finish op f (fltThree op f s (g f)) s)) (hg : ∀ f a b c, g f a b c = h f a b c) :
    ThreeFloats op i h := by
  intro f s
  have e : g f = h f := by funext a b c; exact hg f a b c
  refine ⟨_, he f s, ?_⟩
  rw [← fltThree_value op f s (h f), e]
  exact finish_delivers op f _ s

/-! ### Group 0 -/

theorem intLanes_length (f : Fields) (p : Prepared) : (intLanes f p).length = p.lanes.length := by simp [intLanes]

theorem width_pos (f : Fields) : 0 < Fields.width f := by
  unfold Fields.width; split <;> [omega; (split <;> omega)]

/-- A prepared lane as a w-bit pattern is what the lane functions read. -/
theorem intLanes_getD (f : Fields) (p : Prepared) (k : Nat) :
    (intLanes f p).getD k 0 = (wLane (Fields.width f) p k).toNat := by
  simp only [intLanes, wLane, BitVec.toNat_ofNat]
  by_cases h : k < p.lanes.length
  · simp [h]
  · simp [h]

/-- The payload depends on the w low bits of each lane alone. -/
theorem intPayload_range (f : Fields) (xs : List Nat) (y : Nat → BitVec (Fields.width f))
    (hn : f.fmtOut = .i8 → xs.length = 8) (hp : f.fmtOut ≠ .i8 → 0 < xs.length)
    (h : ∀ k, k < xs.length → xs.getD k 0 % 2 ^ Fields.width f = (y k).toNat) : intPayload f xs = intWord f y := by
  unfold intPayload intWord
  by_cases c : f.fmtOut = .i8
  · have hw : Fields.width f = 8 := by simp [Fields.width, c]
    simp only [c, beq_self_eq_true, if_true]
    have hl := hn c
    have : (List.range 8).map (fun i => (y i).toNat) = xs.map (fun x => x % 2 ^ 8) := by
      apply List.ext_getElem
      · simp [hl]
      · intro i h1 h2
        have h3 := h i (by simpa using h2)
        have h4 : i < xs.length := by simpa using h2
        have e : 2 ^ Fields.width f = 2 ^ 8 := by rw [hw]
        rw [e] at h3
        simp only [List.getElem_map, List.getElem_range, ← h3]
        simp [h4]
    rw [this]
    have hpack : ∀ l : List Nat, packNat 8 (l.map (fun x => x % 2 ^ 8)) = packNat 8 l := by
      intro l
      induction l with
      | nil => rfl
      | cons a l ih => simp only [List.map_cons, packNat, ih, Nat.mod_mod]
    simp only [packLanes, Fmt.width, hpack]
  · have hb : (f.fmtOut == .i8) = false := by simp [c]
    simp only [hb, c, if_false, Bool.false_eq_true]
    have h0 := h 0 (hp c)
    have hs : signed (Fields.width f) (xs.getD 0 0) = (y 0).toInt := by
      unfold signed
      rw [h0, BitVec.toInt_eq_toNat_cond]
      have hw := width_pos f
      have e : 2 ^ Fields.width f = 2 * 2 ^ (Fields.width f - 1) := by
        rw [← Nat.pow_succ']; congr 1; omega
      by_cases c2 : (y 0).toNat < 2 ^ (Fields.width f - 1)
      · simp [c2, e]
      · simp only [c2, if_false]
        rw [if_neg (by omega)]
    rw [hs]
    apply BitVec.eq_of_toInt_eq
    have hw64 : Fields.width f ≤ 64 := by
      unfold Fields.width; split <;> [omega; (split <;> omega)]
    rw [BitVec.toInt_signExtend_of_le hw64]
    have hb1 := BitVec.toInt_lt (x := y 0)
    have hb2 := BitVec.le_toInt (x := y 0)
    have hle : (2 : Int) ^ (Fields.width f - 1) ≤ 2 ^ 63 := by
      have : (2 : Nat) ^ (Fields.width f - 1) ≤ 2 ^ 63 := Nat.pow_le_pow_right (by omega) (by omega)
      exact_mod_cast this
    unfold wrapNat
    rw [BitVec.toInt_ofNat']
    have : ((2 ^ 64 : Nat) : Int) = 18446744073709551616 := rfl
    have h63 : (2 : Int) ^ 63 = 9223372036854775808 := rfl
    rw [h63] at hle
    simp only [Int.bmod, this]
    omega

/-- A form whose meaning is `finish` of a lane function of two w-bit operands. -/
theorem twoInts_of {op : Nat} {i : Fields → Instr} {h : IntFn2} (g : Fields → Nat → Nat → Nat → Nat)
    (he : ∀ f s, exec (i f) s = .next (finish op f (intTwo op f s (g f)) s))
    (hg : ∀ (f : Fields) (a b : BitVec (Fields.width f)),
      g f (Fields.width f) a.toNat b.toNat % 2 ^ Fields.width f = (h f a b).toNat) : TwoInts op i h := by
  intro f s
  refine ⟨_, he f s, ?_⟩
  have e : intTwo op f s (g f) = ⟨intWord f (fun k => h f (wLane _ (leftOf f s) k) (wLane _ (rightOf op f s) k)), f.fmtOut,
      minCause (leftOf f s).cause (rightOf op f s).cause, (leftOf f s).converted || (rightOf op f s).converted⟩ := by
    unfold intTwo intTwoC
    simp only []
    have hl : (intLanes f (prepare f.fmtOut f (opL f s))).length = Fmt.lanes f.fmtOut := by
      rw [intLanes_length, prepare_length]
    have hr : (intLanes f (prepareR op f.fmtOut f s)).length = Fmt.lanes f.fmtOut := by
      rw [intLanes_length, prepareR_length]
    rw [zipWith_range _ _ _ 0 0 _ hl hr]
    have hc : ∀ l : List Nat, causeOf (l.map (fun k => (⟨g f (Fields.width f)
        ((intLanes f (prepare f.fmtOut f (opL f s))).getD k 0) ((intLanes f (prepareR op f.fmtOut f s)).getD k 0), none⟩ : LaneRes))) =
        none := by
      intro l
      induction l with
      | nil => rfl
      | cons a l ih => simp only [List.map_cons, causeOf, ih, minCause]
    rw [hc]
    have hm : ∀ c : Option Cause, minCause c none = c := by intro c; cases c <;> rfl
    rw [hm]
    congr 1
    apply intPayload_range
    · intro h8; simp [h8, Fmt.lanes]
    · intro _; simp; cases f.fmtOut <;> decide
    · intro k hk
      simp only [List.length_map, List.length_range] at hk
      rw [← hg, ← leftOf, ← rightOf, ← intLanes_getD, ← intLanes_getD]
      simp [hk]
  rw [← e]
  exact finish_delivers op f _ s

end Sys2Proof.Machine
end

