-- ==== Sys2Proof/Laws/Memory.lean ====
section
/-! SUPPORT. Memory: every operation keeps the canonical form, a read after a write, and equal reads make equal
memories. -/

namespace Sys2Proof.Machine

theorem Memory.wfFrom_cons (lo a : Nat) (b : Byte) (m : Memory) :
    Memory.wfFrom lo ((a, b) :: m) = true ↔ lo ≤ a ∧ b ≠ Config.unwritten ∧ Memory.wfFrom (a + 1) m = true := by
  simp [Memory.wfFrom, and_assoc]

theorem Memory.wfFrom_mono {m : Memory} {lo lo' : Nat} (h : Memory.wfFrom lo m = true) (hl : lo' ≤ lo) :
    Memory.wfFrom lo' m = true := by
  cases m with
  | nil => rfl
  | cons ab m =>
    obtain ⟨a, b⟩ := ab
    rw [Memory.wfFrom_cons] at h ⊢
    exact ⟨by omega, h.2⟩

/-- The canonical form has its keys in rising order. -/
theorem Memory.rises {m : Memory} {lo : Nat} (h : Memory.wfFrom lo m = true) : Map.Rises lo m := by
  induction m generalizing lo with
  | nil => trivial
  | cons ab m ih =>
    obtain ⟨a, b⟩ := ab
    rw [Memory.wfFrom_cons] at h
    exact ⟨h.1, ih h.2.2⟩

theorem Memory.wfFrom_put {m : Memory} {lo a : Nat} {b : Byte} (h : Memory.wfFrom lo m = true) (ha : lo ≤ a)
    (hb : b ≠ Config.unwritten) : Memory.wfFrom lo (Map.put m a b) = true := by
  induction m generalizing lo with
  | nil => simp [Map.put, Memory.wfFrom, ha, hb]
  | cons kv m ih =>
    obtain ⟨k, v⟩ := kv
    rw [Memory.wfFrom_cons] at h
    by_cases c1 : a < k
    · simp only [Map.put, c1, if_true, Memory.wfFrom_cons]
      exact ⟨ha, hb, by omega, h.2⟩
    · by_cases c2 : a = k
      · simp only [Map.put, c2, if_true, if_false, Nat.lt_irrefl, Memory.wfFrom_cons]
        exact ⟨h.1, hb, h.2.2⟩
      · simp only [Map.put, c1, c2, if_false, Memory.wfFrom_cons]
        exact ⟨h.1, h.2.1, ih h.2.2 (by omega)⟩

theorem Memory.wfFrom_del {m : Memory} {lo : Nat} (a : Nat) (h : Memory.wfFrom lo m = true) :
    Memory.wfFrom lo (Map.del m a) = true := by
  induction m generalizing lo with
  | nil => rfl
  | cons kv m ih =>
    obtain ⟨k, v⟩ := kv
    rw [Memory.wfFrom_cons] at h
    by_cases c : a = k
    · simp only [Map.del, c, if_true]; exact Memory.wfFrom_mono h.2.2 (by omega)
    · simp only [Map.del, c, if_false, Memory.wfFrom_cons]; exact ⟨h.1, h.2.1, ih h.2.2⟩

/-- A write of one byte keeps the canonical form. -/
@[simp] theorem Memory.wf_write {m : Memory} (a : Nat) (b : Byte) (h : Memory.wf m = true) :
    Memory.wf (Memory.write m a b) = true := by
  unfold Memory.write Memory.wf at *
  split
  · exact Memory.wfFrom_del a h
  · exact Memory.wfFrom_put h (Nat.zero_le a) (by assumption)

/-- A write of many bytes keeps the canonical form. -/
@[simp] theorem Memory.wf_writeBytes {m : Memory} (a : Nat) (bs : List Byte) (h : Memory.wf m = true) :
    Memory.wf (Memory.writeBytes m a bs) = true := by
  induction bs generalizing m a with
  | nil => exact h
  | cons b bs ih => exact ih (a + 1) (Memory.wf_write a b h)

theorem Memory.wf_nil : Memory.wf [] = true := rfl

/-- A byte reads as what was written there last; every other address reads as before. -/
theorem Memory.read_write {m : Memory} (h : Memory.wf m = true) (a q : Nat) (b : Byte) :
    Memory.read (Memory.write m a b) q = if q = a then b else Memory.read m q := by
  unfold Memory.read Memory.write
  by_cases c : b = Config.unwritten
  · simp only [c, if_true, Map.get, Map.find_del (Memory.rises h)]
    by_cases c2 : q = a <;> simp [c2]
  · simp only [c, if_false]
    exact Map.get_put m _ a q b

/-- Addresses below and above a written range read as before. -/
theorem Memory.read_writeBytes_outside {m : Memory} (h : Memory.wf m = true) (a q : Nat) (bs : List Byte)
    (hq : q < a ∨ a + bs.length ≤ q) : Memory.read (Memory.writeBytes m a bs) q = Memory.read m q := by
  induction bs generalizing m a with
  | nil => rfl
  | cons b bs ih =>
    simp only [List.length_cons] at hq
    have hne : q ≠ a := by omega
    rw [Memory.writeBytes, ih (Memory.wf_write a b h) (a + 1) (by omega), Memory.read_write h]
    simp [hne]

/-- The bytes written from an address read back in order. -/
theorem Memory.read_writeBytes_inside {m : Memory} (h : Memory.wf m = true) (a i : Nat) (bs : List Byte)
    (hi : i < bs.length) : Memory.read (Memory.writeBytes m a bs) (a + i) = bs.getD i Config.unwritten := by
  induction bs generalizing m a i with
  | nil => simp at hi
  | cons b bs ih =>
    cases i with
    | zero =>
      rw [Memory.writeBytes, Memory.read_writeBytes_outside (Memory.wf_write a b h) (a + 1) _ bs (by omega),
        Memory.read_write h]
      simp
    | succ i =>
      have := ih (Memory.wf_write a b h) (a + 1) i (by simpa using hi)
      simpa [Memory.writeBytes, Nat.add_assoc, Nat.add_comm 1 i] using this

/-- An address below the bound of a canonical memory reads as the unwritten byte. -/
theorem Memory.read_below {m : Memory} {lo q : Nat} (h : Memory.wfFrom lo m = true) (hq : q < lo) :
    Memory.read m q = Config.unwritten := by
  simp [Memory.read, Map.get, Map.find_below (Memory.rises h) hq]

end Sys2Proof.Machine
end

