-- ==== Sys2Proof/Laws/PerInstr.lean ====
section
/-! SUPPORT. A family per instruction: the opcode of a constructor is assigned (R96), and its row of the opcode map makes
that constructor again. -/

namespace Sys2Proof

open Sys2Proof.Machine

/-- The opcode of an instruction that has one is a row of the map that makes the instruction from its fields; the conversion
station is `cvt`'s word with SVC (R91). -/
def Laws.Opcode.Statement (i : Instr) : Prop :=
  ∀ op f, codeOf i = some (op, f) → i = .conversionStationFire f ∧ op = 0x100 ∨ (opInfo op).map (fun o => o.make f) = some i

theorem Laws.Opcode.add (f : Fields) : Laws.Opcode.Statement (.add f) := fun _ _ h => by cases h; exact .inr rfl
theorem Laws.Opcode.sub (f : Fields) : Laws.Opcode.Statement (.sub f) := fun _ _ h => by cases h; exact .inr rfl
theorem Laws.Opcode.mul (f : Fields) : Laws.Opcode.Statement (.mul f) := fun _ _ h => by cases h; exact .inr rfl
theorem Laws.Opcode.mulh (f : Fields) : Laws.Opcode.Statement (.mulh f) := fun _ _ h => by cases h; exact .inr rfl
theorem Laws.Opcode.mulhu (f : Fields) : Laws.Opcode.Statement (.mulhu f) := fun _ _ h => by cases h; exact .inr rfl
theorem Laws.Opcode.div (f : Fields) : Laws.Opcode.Statement (.div f) := fun _ _ h => by cases h; exact .inr rfl
theorem Laws.Opcode.divu (f : Fields) : Laws.Opcode.Statement (.divu f) := fun _ _ h => by cases h; exact .inr rfl
theorem Laws.Opcode.rem (f : Fields) : Laws.Opcode.Statement (.rem f) := fun _ _ h => by cases h; exact .inr rfl
theorem Laws.Opcode.remu (f : Fields) : Laws.Opcode.Statement (.remu f) := fun _ _ h => by cases h; exact .inr rfl
theorem Laws.Opcode.and (f : Fields) : Laws.Opcode.Statement (.and f) := fun _ _ h => by cases h; exact .inr rfl
theorem Laws.Opcode.or (f : Fields) : Laws.Opcode.Statement (.or f) := fun _ _ h => by cases h; exact .inr rfl
theorem Laws.Opcode.xor (f : Fields) : Laws.Opcode.Statement (.xor f) := fun _ _ h => by cases h; exact .inr rfl
theorem Laws.Opcode.andn (f : Fields) : Laws.Opcode.Statement (.andn f) := fun _ _ h => by cases h; exact .inr rfl
theorem Laws.Opcode.not (f : Fields) : Laws.Opcode.Statement (.not f) := fun _ _ h => by cases h; exact .inr rfl
theorem Laws.Opcode.shl (f : Fields) : Laws.Opcode.Statement (.shl f) := fun _ _ h => by cases h; exact .inr rfl
theorem Laws.Opcode.shr (f : Fields) : Laws.Opcode.Statement (.shr f) := fun _ _ h => by cases h; exact .inr rfl
theorem Laws.Opcode.sra (f : Fields) : Laws.Opcode.Statement (.sra f) := fun _ _ h => by cases h; exact .inr rfl
theorem Laws.Opcode.rotl (f : Fields) : Laws.Opcode.Statement (.rotl f) := fun _ _ h => by cases h; exact .inr rfl
theorem Laws.Opcode.min (f : Fields) : Laws.Opcode.Statement (.min f) := fun _ _ h => by cases h; exact .inr rfl
theorem Laws.Opcode.max (f : Fields) : Laws.Opcode.Statement (.max f) := fun _ _ h => by cases h; exact .inr rfl
theorem Laws.Opcode.minu (f : Fields) : Laws.Opcode.Statement (.minu f) := fun _ _ h => by cases h; exact .inr rfl
theorem Laws.Opcode.maxu (f : Fields) : Laws.Opcode.Statement (.maxu f) := fun _ _ h => by cases h; exact .inr rfl
theorem Laws.Opcode.abs (f : Fields) : Laws.Opcode.Statement (.abs f) := fun _ _ h => by cases h; exact .inr rfl
theorem Laws.Opcode.neg (f : Fields) : Laws.Opcode.Statement (.neg f) := fun _ _ h => by cases h; exact .inr rfl
theorem Laws.Opcode.clz (f : Fields) : Laws.Opcode.Statement (.clz f) := fun _ _ h => by cases h; exact .inr rfl
theorem Laws.Opcode.ctz (f : Fields) : Laws.Opcode.Statement (.ctz f) := fun _ _ h => by cases h; exact .inr rfl
theorem Laws.Opcode.popc (f : Fields) : Laws.Opcode.Statement (.popc f) := fun _ _ h => by cases h; exact .inr rfl
theorem Laws.Opcode.bswap (f : Fields) : Laws.Opcode.Statement (.bswap f) := fun _ _ h => by cases h; exact .inr rfl
theorem Laws.Opcode.addsat (f : Fields) : Laws.Opcode.Statement (.addsat f) := fun _ _ h => by cases h; exact .inr rfl
theorem Laws.Opcode.subsat (f : Fields) : Laws.Opcode.Statement (.subsat f) := fun _ _ h => by cases h; exact .inr rfl
theorem Laws.Opcode.lea (f : Fields) : Laws.Opcode.Statement (.lea f) := fun _ _ h => by cases h; exact .inr rfl
theorem Laws.Opcode.mad (f : Fields) : Laws.Opcode.Statement (.mad f) := fun _ _ h => by cases h; exact .inr rfl
theorem Laws.Opcode.dot8 (f : Fields) : Laws.Opcode.Statement (.dot8 f) := fun _ _ h => by cases h; exact .inr rfl
theorem Laws.Opcode.cmpEq (f : Fields) : Laws.Opcode.Statement (.cmpEq f) := fun _ _ h => by cases h; exact .inr rfl
theorem Laws.Opcode.cmpNe (f : Fields) : Laws.Opcode.Statement (.cmpNe f) := fun _ _ h => by cases h; exact .inr rfl
theorem Laws.Opcode.cmpLt (f : Fields) : Laws.Opcode.Statement (.cmpLt f) := fun _ _ h => by cases h; exact .inr rfl
theorem Laws.Opcode.cmpLe (f : Fields) : Laws.Opcode.Statement (.cmpLe f) := fun _ _ h => by cases h; exact .inr rfl
theorem Laws.Opcode.cmpLtu (f : Fields) : Laws.Opcode.Statement (.cmpLtu f) := fun _ _ h => by cases h; exact .inr rfl
theorem Laws.Opcode.cmpLeu (f : Fields) : Laws.Opcode.Statement (.cmpLeu f) := fun _ _ h => by cases h; exact .inr rfl
theorem Laws.Opcode.sext (f : Fields) : Laws.Opcode.Statement (.sext f) := fun _ _ h => by cases h; exact .inr rfl
theorem Laws.Opcode.zext (f : Fields) : Laws.Opcode.Statement (.zext f) := fun _ _ h => by cases h; exact .inr rfl
theorem Laws.Opcode.bext (f : Fields) : Laws.Opcode.Statement (.bext f) := fun _ _ h => by cases h; exact .inr rfl
theorem Laws.Opcode.bins (f : Fields) : Laws.Opcode.Statement (.bins f) := fun _ _ h => by cases h; exact .inr rfl
theorem Laws.Opcode.fadd (f : Fields) : Laws.Opcode.Statement (.fadd f) := fun _ _ h => by cases h; exact .inr rfl
theorem Laws.Opcode.fsub (f : Fields) : Laws.Opcode.Statement (.fsub f) := fun _ _ h => by cases h; exact .inr rfl
theorem Laws.Opcode.fmul (f : Fields) : Laws.Opcode.Statement (.fmul f) := fun _ _ h => by cases h; exact .inr rfl
theorem Laws.Opcode.ffma (f : Fields) : Laws.Opcode.Statement (.ffma f) := fun _ _ h => by cases h; exact .inr rfl
theorem Laws.Opcode.ffms (f : Fields) : Laws.Opcode.Statement (.ffms f) := fun _ _ h => by cases h; exact .inr rfl
theorem Laws.Opcode.ffnma (f : Fields) : Laws.Opcode.Statement (.ffnma f) := fun _ _ h => by cases h; exact .inr rfl
theorem Laws.Opcode.fmin (f : Fields) : Laws.Opcode.Statement (.fmin f) := fun _ _ h => by cases h; exact .inr rfl
theorem Laws.Opcode.fmax (f : Fields) : Laws.Opcode.Statement (.fmax f) := fun _ _ h => by cases h; exact .inr rfl
theorem Laws.Opcode.fminn (f : Fields) : Laws.Opcode.Statement (.fminn f) := fun _ _ h => by cases h; exact .inr rfl
theorem Laws.Opcode.fmaxn (f : Fields) : Laws.Opcode.Statement (.fmaxn f) := fun _ _ h => by cases h; exact .inr rfl
theorem Laws.Opcode.fabs (f : Fields) : Laws.Opcode.Statement (.fabs f) := fun _ _ h => by cases h; exact .inr rfl
theorem Laws.Opcode.fneg (f : Fields) : Laws.Opcode.Statement (.fneg f) := fun _ _ h => by cases h; exact .inr rfl
theorem Laws.Opcode.fsgn (f : Fields) : Laws.Opcode.Statement (.fsgn f) := fun _ _ h => by cases h; exact .inr rfl
theorem Laws.Opcode.fcmpEq (f : Fields) : Laws.Opcode.Statement (.fcmpEq f) := fun _ _ h => by cases h; exact .inr rfl
theorem Laws.Opcode.fcmpLt (f : Fields) : Laws.Opcode.Statement (.fcmpLt f) := fun _ _ h => by cases h; exact .inr rfl
theorem Laws.Opcode.fcmpLe (f : Fields) : Laws.Opcode.Statement (.fcmpLe f) := fun _ _ h => by cases h; exact .inr rfl
theorem Laws.Opcode.fcmpUn (f : Fields) : Laws.Opcode.Statement (.fcmpUn f) := fun _ _ h => by cases h; exact .inr rfl
theorem Laws.Opcode.frcp (f : Fields) : Laws.Opcode.Statement (.frcp f) := fun _ _ h => by cases h; exact .inr rfl
theorem Laws.Opcode.frsq (f : Fields) : Laws.Opcode.Statement (.frsq f) := fun _ _ h => by cases h; exact .inr rfl
theorem Laws.Opcode.fsqrt (f : Fields) : Laws.Opcode.Statement (.fsqrt f) := fun _ _ h => by cases h; exact .inr rfl
theorem Laws.Opcode.fdiv (f : Fields) : Laws.Opcode.Statement (.fdiv f) := fun _ _ h => by cases h; exact .inr rfl
theorem Laws.Opcode.fexp2 (f : Fields) : Laws.Opcode.Statement (.fexp2 f) := fun _ _ h => by cases h; exact .inr rfl
theorem Laws.Opcode.flog2 (f : Fields) : Laws.Opcode.Statement (.flog2 f) := fun _ _ h => by cases h; exact .inr rfl
theorem Laws.Opcode.fscale (f : Fields) : Laws.Opcode.Statement (.fscale f) := fun _ _ h => by cases h; exact .inr rfl
theorem Laws.Opcode.fround (f : Fields) : Laws.Opcode.Statement (.fround f) := fun _ _ h => by cases h; exact .inr rfl
theorem Laws.Opcode.ffloor (f : Fields) : Laws.Opcode.Statement (.ffloor f) := fun _ _ h => by cases h; exact .inr rfl
theorem Laws.Opcode.fceil (f : Fields) : Laws.Opcode.Statement (.fceil f) := fun _ _ h => by cases h; exact .inr rfl
theorem Laws.Opcode.ftrunc (f : Fields) : Laws.Opcode.Statement (.ftrunc f) := fun _ _ h => by cases h; exact .inr rfl
theorem Laws.Opcode.fclass (f : Fields) : Laws.Opcode.Statement (.fclass f) := fun _ _ h => by cases h; exact .inr rfl
theorem Laws.Opcode.cvt (f : Fields) : Laws.Opcode.Statement (.cvt f) := fun _ _ h => by cases h; exact .inr rfl
theorem Laws.Opcode.cvtI (f : Fields) : Laws.Opcode.Statement (.cvtI f) := fun _ _ h => by cases h; exact .inr rfl
theorem Laws.Opcode.cvtF (f : Fields) : Laws.Opcode.Statement (.cvtF f) := fun _ _ h => by cases h; exact .inr rfl
theorem Laws.Opcode.retag (f : Fields) : Laws.Opcode.Statement (.retag f) := fun _ _ h => by cases h; exact .inr rfl
theorem Laws.Opcode.pack (f : Fields) : Laws.Opcode.Statement (.pack f) := fun _ _ h => by cases h; exact .inr rfl
theorem Laws.Opcode.unpackLo (f : Fields) : Laws.Opcode.Statement (.unpackLo f) :=
  fun _ _ h => by cases h; exact .inr rfl
theorem Laws.Opcode.unpackHi (f : Fields) : Laws.Opcode.Statement (.unpackHi f) :=
  fun _ _ h => by cases h; exact .inr rfl
theorem Laws.Opcode.shuf (f : Fields) : Laws.Opcode.Statement (.shuf f) := fun _ _ h => by cases h; exact .inr rfl
theorem Laws.Opcode.bcast (f : Fields) : Laws.Opcode.Statement (.bcast f) := fun _ _ h => by cases h; exact .inr rfl
theorem Laws.Opcode.lext (f : Fields) : Laws.Opcode.Statement (.lext f) := fun _ _ h => by cases h; exact .inr rfl
theorem Laws.Opcode.lins (f : Fields) : Laws.Opcode.Statement (.lins f) := fun _ _ h => by cases h; exact .inr rfl
theorem Laws.Opcode.hsum (f : Fields) : Laws.Opcode.Statement (.hsum f) := fun _ _ h => by cases h; exact .inr rfl
theorem Laws.Opcode.hmax (f : Fields) : Laws.Opcode.Statement (.hmax f) := fun _ _ h => by cases h; exact .inr rfl
theorem Laws.Opcode.hmin (f : Fields) : Laws.Opcode.Statement (.hmin f) := fun _ _ h => by cases h; exact .inr rfl
theorem Laws.Opcode.fdot (f : Fields) : Laws.Opcode.Statement (.fdot f) := fun _ _ h => by cases h; exact .inr rfl
theorem Laws.Opcode.steer (f : Fields) : Laws.Opcode.Statement (.steer f) := fun _ _ h => by cases h; exact .inr rfl
theorem Laws.Opcode.merge (f : Fields) : Laws.Opcode.Statement (.merge f) := fun _ _ h => by cases h; exact .inr rfl
theorem Laws.Opcode.mux (f : Fields) : Laws.Opcode.Statement (.mux f) := fun _ _ h => by cases h; exact .inr rfl
theorem Laws.Opcode.fan (f : Fields) : Laws.Opcode.Statement (.fan f) := fun _ _ h => by cases h; exact .inr rfl
theorem Laws.Opcode.sink (f : Fields) : Laws.Opcode.Statement (.sink f) := fun _ _ h => by cases h; exact .inr rfl
theorem Laws.Opcode.const (f : Fields) : Laws.Opcode.Statement (.const f) := fun _ _ h => by cases h; exact .inr rfl
theorem Laws.Opcode.invar (f : Fields) : Laws.Opcode.Statement (.invar f) := fun _ _ h => by cases h; exact .inr rfl
theorem Laws.Opcode.wave (f : Fields) : Laws.Opcode.Statement (.wave f) := fun _ _ h => by cases h; exact .inr rfl
theorem Laws.Opcode.tagSet (f : Fields) : Laws.Opcode.Statement (.tagSet f) := fun _ _ h => by cases h; exact .inr rfl
theorem Laws.Opcode.tagInc (f : Fields) : Laws.Opcode.Statement (.tagInc f) := fun _ _ h => by cases h; exact .inr rfl
theorem Laws.Opcode.tagSplit (f : Fields) : Laws.Opcode.Statement (.tagSplit f) :=
  fun _ _ h => by cases h; exact .inr rfl
theorem Laws.Opcode.tagJoin (f : Fields) : Laws.Opcode.Statement (.tagJoin f) :=
  fun _ _ h => by cases h; exact .inr rfl
theorem Laws.Opcode.squash (f : Fields) : Laws.Opcode.Statement (.squash f) := fun _ _ h => by cases h; exact .inr rfl
theorem Laws.Opcode.call (f : Fields) : Laws.Opcode.Statement (.call f) := fun _ _ h => by cases h; exact .inr rfl
theorem Laws.Opcode.ret (f : Fields) : Laws.Opcode.Statement (.ret f) := fun _ _ h => by cases h; exact .inr rfl
theorem Laws.Opcode.frameNew (f : Fields) : Laws.Opcode.Statement (.frameNew f) :=
  fun _ _ h => by cases h; exact .inr rfl
theorem Laws.Opcode.frameFree (f : Fields) : Laws.Opcode.Statement (.frameFree f) :=
  fun _ _ h => by cases h; exact .inr rfl
theorem Laws.Opcode.acc (f : Fields) : Laws.Opcode.Statement (.acc f) := fun _ _ h => by cases h; exact .inr rfl
theorem Laws.Opcode.accmax (f : Fields) : Laws.Opcode.Statement (.accmax f) := fun _ _ h => by cases h; exact .inr rfl
theorem Laws.Opcode.count (f : Fields) : Laws.Opcode.Statement (.count f) := fun _ _ h => by cases h; exact .inr rfl
theorem Laws.Opcode.nwr (f : Fields) : Laws.Opcode.Statement (.nwr f) := fun _ _ h => by cases h; exact .inr rfl
theorem Laws.Opcode.nrd (f : Fields) : Laws.Opcode.Statement (.nrd f) := fun _ _ h => by cases h; exact .inr rfl
theorem Laws.Opcode.npeek (f : Fields) : Laws.Opcode.Statement (.npeek f) := fun _ _ h => by cases h; exact .inr rfl
theorem Laws.Opcode.nrel (f : Fields) : Laws.Opcode.Statement (.nrel f) := fun _ _ h => by cases h; exact .inr rfl
theorem Laws.Opcode.foldSet (f : Fields) : Laws.Opcode.Statement (.foldSet f) :=
  fun _ _ h => by cases h; exact .inr rfl
theorem Laws.Opcode.foldResize (f : Fields) : Laws.Opcode.Statement (.foldResize f) :=
  fun _ _ h => by cases h; exact .inr rfl
theorem Laws.Opcode.foldQ (f : Fields) : Laws.Opcode.Statement (.foldQ f) := fun _ _ h => by cases h; exact .inr rfl
theorem Laws.Opcode.reqLd (f : Fields) : Laws.Opcode.Statement (.reqLd f) := fun _ _ h => by cases h; exact .inr rfl
theorem Laws.Opcode.reqSt (f : Fields) : Laws.Opcode.Statement (.reqSt f) := fun _ _ h => by cases h; exact .inr rfl
theorem Laws.Opcode.reqLdo (f : Fields) : Laws.Opcode.Statement (.reqLdo f) := fun _ _ h => by cases h; exact .inr rfl
theorem Laws.Opcode.reqSto (f : Fields) : Laws.Opcode.Statement (.reqSto f) := fun _ _ h => by cases h; exact .inr rfl
theorem Laws.Opcode.atomAdd (f : Fields) : Laws.Opcode.Statement (.atomAdd f) :=
  fun _ _ h => by cases h; exact .inr rfl
theorem Laws.Opcode.atomFadd (f : Fields) : Laws.Opcode.Statement (.atomFadd f) :=
  fun _ _ h => by cases h; exact .inr rfl
theorem Laws.Opcode.atomMin (f : Fields) : Laws.Opcode.Statement (.atomMin f) :=
  fun _ _ h => by cases h; exact .inr rfl
theorem Laws.Opcode.atomMax (f : Fields) : Laws.Opcode.Statement (.atomMax f) :=
  fun _ _ h => by cases h; exact .inr rfl
theorem Laws.Opcode.atomAnd (f : Fields) : Laws.Opcode.Statement (.atomAnd f) :=
  fun _ _ h => by cases h; exact .inr rfl
theorem Laws.Opcode.atomOr (f : Fields) : Laws.Opcode.Statement (.atomOr f) := fun _ _ h => by cases h; exact .inr rfl
theorem Laws.Opcode.atomXchg (f : Fields) : Laws.Opcode.Statement (.atomXchg f) :=
  fun _ _ h => by cases h; exact .inr rfl
theorem Laws.Opcode.atomCas (f : Fields) : Laws.Opcode.Statement (.atomCas f) :=
  fun _ _ h => by cases h; exact .inr rfl
theorem Laws.Opcode.qPush (f : Fields) : Laws.Opcode.Statement (.qPush f) := fun _ _ h => by cases h; exact .inr rfl
theorem Laws.Opcode.qPop (f : Fields) : Laws.Opcode.Statement (.qPop f) := fun _ _ h => by cases h; exact .inr rfl
theorem Laws.Opcode.qPeek (f : Fields) : Laws.Opcode.Statement (.qPeek f) := fun _ _ h => by cases h; exact .inr rfl
theorem Laws.Opcode.fence (f : Fields) : Laws.Opcode.Statement (.fence f) := fun _ _ h => by cases h; exact .inr rfl
theorem Laws.Opcode.trigger (f : Fields) : Laws.Opcode.Statement (.trigger f) :=
  fun _ _ h => by cases h; exact .inr rfl
theorem Laws.Opcode.barArrive (f : Fields) : Laws.Opcode.Statement (.barArrive f) :=
  fun _ _ h => by cases h; exact .inr rfl
theorem Laws.Opcode.barWait (f : Fields) : Laws.Opcode.Statement (.barWait f) :=
  fun _ _ h => by cases h; exact .inr rfl
theorem Laws.Opcode.trap (f : Fields) : Laws.Opcode.Statement (.trap f) := fun _ _ h => by cases h; exact .inr rfl
theorem Laws.Opcode.report (f : Fields) : Laws.Opcode.Statement (.report f) := fun _ _ h => by cases h; exact .inr rfl
theorem Laws.Opcode.reinject (f : Fields) : Laws.Opcode.Statement (.reinject f) :=
  fun _ _ h => by cases h; exact .inr rfl
theorem Laws.Opcode.ptest (f : Fields) : Laws.Opcode.Statement (.ptest f) := fun _ _ h => by cases h; exact .inr rfl
theorem Laws.Opcode.pclear (f : Fields) : Laws.Opcode.Statement (.pclear f) := fun _ _ h => by cases h; exact .inr rfl
theorem Laws.Opcode.couple (f : Fields) : Laws.Opcode.Statement (.couple f) := fun _ _ h => by cases h; exact .inr rfl
theorem Laws.Opcode.siteid (f : Fields) : Laws.Opcode.Statement (.siteid f) := fun _ _ h => by cases h; exact .inr rfl
theorem Laws.Opcode.clk (f : Fields) : Laws.Opcode.Statement (.clk f) := fun _ _ h => by cases h; exact .inr rfl
theorem Laws.Opcode.halt (f : Fields) : Laws.Opcode.Statement (.halt f) := fun _ _ h => by cases h; exact .inr rfl
theorem Laws.Opcode.brk (f : Fields) : Laws.Opcode.Statement (.brk f) := fun _ _ h => by cases h; exact .inr rfl
theorem Laws.Opcode.nop (f : Fields) : Laws.Opcode.Statement (.nop f) := fun _ _ h => by cases h; exact .inr rfl
theorem Laws.Opcode.mmMode (f : Fields) : Laws.Opcode.Statement (.mmMode f) := fun _ _ h => by cases h; exact .inr rfl
theorem Laws.Opcode.mmWload (f : Fields) : Laws.Opcode.Statement (.mmWload f) :=
  fun _ _ h => by cases h; exact .inr rfl
theorem Laws.Opcode.mmWswap (f : Fields) : Laws.Opcode.Statement (.mmWswap f) :=
  fun _ _ h => by cases h; exact .inr rfl
theorem Laws.Opcode.mmRun (f : Fields) : Laws.Opcode.Statement (.mmRun f) := fun _ _ h => by cases h; exact .inr rfl
theorem Laws.Opcode.mmOrun (f : Fields) : Laws.Opcode.Statement (.mmOrun f) := fun _ _ h => by cases h; exact .inr rfl
theorem Laws.Opcode.mmClr (f : Fields) : Laws.Opcode.Statement (.mmClr f) := fun _ _ h => by cases h; exact .inr rfl
theorem Laws.Opcode.mmDrain (f : Fields) : Laws.Opcode.Statement (.mmDrain f) :=
  fun _ _ h => by cases h; exact .inr rfl
theorem Laws.Opcode.mmMask (f : Fields) : Laws.Opcode.Statement (.mmMask f) := fun _ _ h => by cases h; exact .inr rfl
theorem Laws.Opcode.mmRowstat (f : Fields) : Laws.Opcode.Statement (.mmRowstat f) :=
  fun _ _ h => by cases h; exact .inr rfl
theorem Laws.Opcode.mmScale (f : Fields) : Laws.Opcode.Statement (.mmScale f) :=
  fun _ _ h => by cases h; exact .inr rfl
theorem Laws.Opcode.mmBias (f : Fields) : Laws.Opcode.Statement (.mmBias f) := fun _ _ h => by cases h; exact .inr rfl
theorem Laws.Opcode.mmAct (f : Fields) : Laws.Opcode.Statement (.mmAct f) := fun _ _ h => by cases h; exact .inr rfl
theorem Laws.Opcode.conversionStationFire (f : Fields) : Laws.Opcode.Statement (.conversionStationFire f) :=
  fun _ _ h => by cases h; exact .inl ⟨rfl, rfl⟩
theorem Laws.Opcode.tokenArrival (n : Nat) : Laws.Opcode.Statement (.tokenArrival n) := fun _ _ h => nomatch h
theorem Laws.Opcode.matchingEntryGranted (x : Site) (n : Nat) : Laws.Opcode.Statement (.matchingEntryGranted x n) :=
  fun _ _ h => nomatch h
theorem Laws.Opcode.readyQueueEntry (x : Site) : Laws.Opcode.Statement (.readyQueueEntry x) := fun _ _ h => nomatch h
theorem Laws.Opcode.resultInjection (x : Site) (n : Nat) : Laws.Opcode.Statement (.resultInjection x n) :=
  fun _ _ h => nomatch h
theorem Laws.Opcode.gangedLaneTimeout (r n : Nat) : Laws.Opcode.Statement (.gangedLaneTimeout r n) :=
  fun _ _ h => nomatch h
theorem Laws.Opcode.couplingTokenArrival (n : Nat) : Laws.Opcode.Statement (.couplingTokenArrival n) :=
  fun _ _ h => nomatch h
theorem Laws.Opcode.joinForward (x : Site) (c st : Nat) : Laws.Opcode.Statement (.joinForward x c st) :=
  fun _ _ h => nomatch h
theorem Laws.Opcode.operatorCouplingForward (x : Site) : Laws.Opcode.Statement (.operatorCouplingForward x) :=
  fun _ _ h => nomatch h
theorem Laws.Opcode.squashTokenArrival (n : Nat) : Laws.Opcode.Statement (.squashTokenArrival n) :=
  fun _ _ h => nomatch h
theorem Laws.Opcode.tagAdmission (r : Nat) : Laws.Opcode.Statement (.tagAdmission r) := fun _ _ h => nomatch h
theorem Laws.Opcode.cabooseRelease (r n : Nat) : Laws.Opcode.Statement (.cabooseRelease r n) := fun _ _ h => nomatch h
theorem Laws.Opcode.stall (r : Nat) : Laws.Opcode.Statement (.stall r) := fun _ _ h => nomatch h
theorem Laws.Opcode.faultEntryFreed (r : Nat) : Laws.Opcode.Statement (.faultEntryFreed r) := fun _ _ h => nomatch h
theorem Laws.Opcode.feedWord (n : Nat) : Laws.Opcode.Statement (.feedWord n) := fun _ _ h => nomatch h
theorem Laws.Opcode.systolicStep (x : Site) : Laws.Opcode.Statement (.systolicStep x) := fun _ _ h => nomatch h
theorem Laws.Opcode.nameWordWrite (n : Nat) : Laws.Opcode.Statement (.nameWordWrite n) := fun _ _ h => nomatch h
theorem Laws.Opcode.stalledWordRetry (x : Site) : Laws.Opcode.Statement (.stalledWordRetry x) := fun _ _ h => nomatch h
theorem Laws.Opcode.nameReadRequest (n : Nat) : Laws.Opcode.Statement (.nameReadRequest n) := fun _ _ h => nomatch h
theorem Laws.Opcode.requestForward (n : Nat) : Laws.Opcode.Statement (.requestForward n) := fun _ _ h => nomatch h
theorem Laws.Opcode.foldSetApply (n : Nat) : Laws.Opcode.Statement (.foldSetApply n) := fun _ _ h => nomatch h
theorem Laws.Opcode.foldResizeStart (n : Nat) : Laws.Opcode.Statement (.foldResizeStart n) := fun _ _ h => nomatch h
theorem Laws.Opcode.foldResizeComplete (x : Site) : Laws.Opcode.Statement (.foldResizeComplete x) :=
  fun _ _ h => nomatch h
theorem Laws.Opcode.foldQueryServe (n : Nat) : Laws.Opcode.Statement (.foldQueryServe n) := fun _ _ h => nomatch h
theorem Laws.Opcode.scrubGranule (x : Site) (fixed bad : Bool) : Laws.Opcode.Statement (.scrubGranule x fixed bad) :=
  fun _ _ h => nomatch h
theorem Laws.Opcode.scrubWriteback (x : Site) : Laws.Opcode.Statement (.scrubWriteback x) := fun _ _ h => nomatch h
theorem Laws.Opcode.tileScrubComplete (x : Site) : Laws.Opcode.Statement (.tileScrubComplete x) :=
  fun _ _ h => nomatch h
theorem Laws.Opcode.t2Patrol (stack : Nat) (fixed bad : Bool) : Laws.Opcode.Statement (.t2Patrol stack fixed bad) :=
  fun _ _ h => nomatch h
theorem Laws.Opcode.arm (n : Nat) : Laws.Opcode.Statement (.arm n) := fun _ _ h => nomatch h
theorem Laws.Opcode.rewind (n : Nat) : Laws.Opcode.Statement (.rewind n) := fun _ _ h => nomatch h
theorem Laws.Opcode.flush (n : Nat) : Laws.Opcode.Statement (.flush n) := fun _ _ h => nomatch h
theorem Laws.Opcode.status (n : Nat) : Laws.Opcode.Statement (.status n) := fun _ _ h => nomatch h
theorem Laws.Opcode.gateOpen (n : Nat) : Laws.Opcode.Statement (.gateOpen n) := fun _ _ h => nomatch h
theorem Laws.Opcode.gateClose (n : Nat) : Laws.Opcode.Statement (.gateClose n) := fun _ _ h => nomatch h
theorem Laws.Opcode.copy (n : Nat) : Laws.Opcode.Statement (.copy n) := fun _ _ h => nomatch h
theorem Laws.Opcode.hostRead (n : Nat) : Laws.Opcode.Statement (.hostRead n) := fun _ _ h => nomatch h
theorem Laws.Opcode.hostWrite (n : Nat) : Laws.Opcode.Statement (.hostWrite n) := fun _ _ h => nomatch h
theorem Laws.Opcode.nvmeRead (n : Nat) : Laws.Opcode.Statement (.nvmeRead n) := fun _ _ h => nomatch h
theorem Laws.Opcode.nvmeWrite (n : Nat) : Laws.Opcode.Statement (.nvmeWrite n) := fun _ _ h => nomatch h
theorem Laws.Opcode.migrate (n : Nat) : Laws.Opcode.Statement (.migrate n) := fun _ _ h => nomatch h
theorem Laws.Opcode.boundToken (n : Nat) : Laws.Opcode.Statement (.boundToken n) := fun _ _ h => nomatch h
theorem Laws.Opcode.loadBaseToken (n : Nat) : Laws.Opcode.Statement (.loadBaseToken n) := fun _ _ h => nomatch h
theorem Laws.Opcode.elementDataReturn (n : Nat) : Laws.Opcode.Statement (.elementDataReturn n) :=
  fun _ _ h => nomatch h
theorem Laws.Opcode.passCompletion (x : Site) : Laws.Opcode.Statement (.passCompletion x) := fun _ _ h => nomatch h
theorem Laws.Opcode.storeDataToken (n : Nat) : Laws.Opcode.Statement (.storeDataToken n) := fun _ _ h => nomatch h
theorem Laws.Opcode.gatherItem (n : Nat) : Laws.Opcode.Statement (.gatherItem n) := fun _ _ h => nomatch h
theorem Laws.Opcode.gatherMask (n : Nat) : Laws.Opcode.Statement (.gatherMask n) := fun _ _ h => nomatch h
theorem Laws.Opcode.scatterFiring (n : Nat) : Laws.Opcode.Statement (.scatterFiring n) := fun _ _ h => nomatch h
theorem Laws.Opcode.loopIteration (x : Site) : Laws.Opcode.Statement (.loopIteration x) := fun _ _ h => nomatch h
theorem Laws.Opcode.gateData (n : Nat) : Laws.Opcode.Statement (.gateData n) := fun _ _ h => nomatch h
theorem Laws.Opcode.gateCompletion (n : Nat) : Laws.Opcode.Statement (.gateCompletion n) := fun _ _ h => nomatch h
theorem Laws.Opcode.lookupPosition (n : Nat) : Laws.Opcode.Statement (.lookupPosition n) := fun _ _ h => nomatch h
theorem Laws.Opcode.lookupEntryReturn (n : Nat) : Laws.Opcode.Statement (.lookupEntryReturn n) :=
  fun _ _ h => nomatch h
theorem Laws.Opcode.reorderToken (n : Nat) : Laws.Opcode.Statement (.reorderToken n) := fun _ _ h => nomatch h
theorem Laws.Opcode.decodeInput (n : Nat) : Laws.Opcode.Statement (.decodeInput n) := fun _ _ h => nomatch h
theorem Laws.Opcode.sieveScore (n : Nat) : Laws.Opcode.Statement (.sieveScore n) := fun _ _ h => nomatch h
theorem Laws.Opcode.compareToken (n : Nat) : Laws.Opcode.Statement (.compareToken n) := fun _ _ h => nomatch h
theorem Laws.Opcode.compareTimeout (x : Site) : Laws.Opcode.Statement (.compareTimeout x) := fun _ _ h => nomatch h
theorem Laws.Opcode.portRequest (n : Nat) : Laws.Opcode.Statement (.portRequest n) := fun _ _ h => nomatch h
theorem Laws.Opcode.fenceComplete (r n : Nat) : Laws.Opcode.Statement (.fenceComplete r n) := fun _ _ h => nomatch h
theorem Laws.Opcode.drawbarForward (n : Nat) : Laws.Opcode.Statement (.drawbarForward n) := fun _ _ h => nomatch h
theorem Laws.Opcode.drawbarReceive (module : Nat) (slot : LinkSlot) : Laws.Opcode.Statement (.drawbarReceive module slot) :=
  fun _ _ h => nomatch h
theorem Laws.Opcode.tenderAccess (n : Nat) : Laws.Opcode.Statement (.tenderAccess n) := fun _ _ h => nomatch h
theorem Laws.Opcode.filterWaitEnd (n : Nat) : Laws.Opcode.Statement (.filterWaitEnd n) := fun _ _ h => nomatch h
theorem Laws.Opcode.translationWalkEnd (n : Nat) : Laws.Opcode.Statement (.translationWalkEnd n) :=
  fun _ _ h => nomatch h
theorem Laws.Opcode.engineSlotFreed (u : Nat) : Laws.Opcode.Statement (.engineSlotFreed u) := fun _ _ h => nomatch h
theorem Laws.Opcode.pinGranted (n : Nat) : Laws.Opcode.Statement (.pinGranted n) := fun _ _ h => nomatch h
theorem Laws.Opcode.pageRetireRecord (n : Nat) : Laws.Opcode.Statement (.pageRetireRecord n) := fun _ _ h => nomatch h
theorem Laws.Opcode.nvmeCompletion (n status : Nat) : Laws.Opcode.Statement (.nvmeCompletion n status) :=
  fun _ _ h => nomatch h
theorem Laws.Opcode.cxlWriteTimeout (n : Nat) : Laws.Opcode.Statement (.cxlWriteTimeout n) := fun _ _ h => nomatch h
theorem Laws.Opcode.imageRegister : Laws.Opcode.Statement (.imageRegister) := fun _ _ h => nomatch h
theorem Laws.Opcode.imageUnregister : Laws.Opcode.Statement (.imageUnregister) := fun _ _ h => nomatch h
theorem Laws.Opcode.launchArbitration : Laws.Opcode.Statement (.launchArbitration) := fun _ _ h => nomatch h
theorem Laws.Opcode.instanceStart (i : Nat) : Laws.Opcode.Statement (.instanceStart i) := fun _ _ h => nomatch h
theorem Laws.Opcode.initialDataWrite (i : Nat) : Laws.Opcode.Statement (.initialDataWrite i) := fun _ _ h => nomatch h
theorem Laws.Opcode.initialTokenInjection (i : Nat) : Laws.Opcode.Statement (.initialTokenInjection i) :=
  fun _ _ h => nomatch h
theorem Laws.Opcode.instanceEnd (i : Nat) : Laws.Opcode.Statement (.instanceEnd i) := fun _ _ h => nomatch h
theorem Laws.Opcode.configWordDelivery (r : Nat) : Laws.Opcode.Statement (.configWordDelivery r) :=
  fun _ _ h => nomatch h
theorem Laws.Opcode.contextResident (r : Nat) : Laws.Opcode.Statement (.contextResident r) := fun _ _ h => nomatch h
theorem Laws.Opcode.regionDrained (r : Nat) : Laws.Opcode.Statement (.regionDrained r) := fun _ _ h => nomatch h
theorem Laws.Opcode.gracefulReconfiguration (r : Nat) (v : Word) : Laws.Opcode.Statement (.gracefulReconfiguration r v) :=
  fun _ _ h => nomatch h
theorem Laws.Opcode.regionFlush (r : Nat) : Laws.Opcode.Statement (.regionFlush r) := fun _ _ h => nomatch h
theorem Laws.Opcode.regionHalt (r : Nat) : Laws.Opcode.Statement (.regionHalt r) := fun _ _ h => nomatch h
theorem Laws.Opcode.regionResume (r : Nat) : Laws.Opcode.Statement (.regionResume r) := fun _ _ h => nomatch h
theorem Laws.Opcode.clearPoisonLog (r : Nat) : Laws.Opcode.Statement (.clearPoisonLog r) := fun _ _ h => nomatch h
theorem Laws.Opcode.clearStall (r : Nat) : Laws.Opcode.Statement (.clearStall r) := fun _ _ h => nomatch h
theorem Laws.Opcode.debugStep (die : Nat) (v : Word) : Laws.Opcode.Statement (.debugStep die v) :=
  fun _ _ h => nomatch h
theorem Laws.Opcode.debugRead (die : Nat) : Laws.Opcode.Statement (.debugRead die) := fun _ _ h => nomatch h
theorem Laws.Opcode.preemptDrainToWave (i : Nat) : Laws.Opcode.Statement (.preemptDrainToWave i) :=
  fun _ _ h => nomatch h
theorem Laws.Opcode.preemptForcedSave (i : Nat) : Laws.Opcode.Statement (.preemptForcedSave i) :=
  fun _ _ h => nomatch h
theorem Laws.Opcode.preemptResume (i : Nat) : Laws.Opcode.Statement (.preemptResume i) := fun _ _ h => nomatch h
theorem Laws.Opcode.park (r : Nat) : Laws.Opcode.Statement (.park r) := fun _ _ h => nomatch h
theorem Laws.Opcode.drainBudgetExpiry (i : Nat) : Laws.Opcode.Statement (.drainBudgetExpiry i) :=
  fun _ _ h => nomatch h
theorem Laws.Opcode.instanceResume (i : Nat) : Laws.Opcode.Statement (.instanceResume i) := fun _ _ h => nomatch h
theorem Laws.Opcode.waveMark (r : Nat) : Laws.Opcode.Statement (.waveMark r) := fun _ _ h => nomatch h
theorem Laws.Opcode.strikeReport (die : Nat) (tile : Bool) (sensor : Nat) : Laws.Opcode.Statement (.strikeReport die tile sensor) :=
  fun _ _ h => nomatch h
theorem Laws.Opcode.rollbackComplete (r : Nat) : Laws.Opcode.Statement (.rollbackComplete r) := fun _ _ h => nomatch h
theorem Laws.Opcode.uncorrectableError (e : ErrorPlace) : Laws.Opcode.Statement (.uncorrectableError e) :=
  fun _ _ h => nomatch h
theorem Laws.Opcode.injectStrike (die : Nat) : Laws.Opcode.Statement (.injectStrike die) := fun _ _ h => nomatch h
theorem Laws.Opcode.sensorSelfTest (die sensor : Nat) (ok : Bool) : Laws.Opcode.Statement (.sensorSelfTest die sensor ok) :=
  fun _ _ h => nomatch h
theorem Laws.Opcode.fatalStop (cls : Nat) (place : Detector) : Laws.Opcode.Statement (.fatalStop cls place) :=
  fun _ _ h => nomatch h
theorem Laws.Opcode.dumpWritten : Laws.Opcode.Statement (.dumpWritten) := fun _ _ h => nomatch h
theorem Laws.Opcode.dieReset (v : Word) : Laws.Opcode.Statement (.dieReset v) := fun _ _ h => nomatch h
theorem Laws.Opcode.moduleReset (failed : BitVec 24) (sensorsOk : Bool) : Laws.Opcode.Statement (.moduleReset failed sensorsOk) :=
  fun _ _ h => nomatch h
theorem Laws.Opcode.powerThrottle (draw : Nat) : Laws.Opcode.Statement (.powerThrottle draw) := fun _ _ h => nomatch h
theorem Laws.Opcode.hifHandshake (v : Word) : Laws.Opcode.Statement (.hifHandshake v) := fun _ _ h => nomatch h
theorem Laws.Opcode.functionLevelReset : Laws.Opcode.Statement (.functionLevelReset) := fun _ _ h => nomatch h
theorem Laws.Opcode.tinvPage (v : Word) : Laws.Opcode.Statement (.tinvPage v) := fun _ _ h => nomatch h
theorem Laws.Opcode.tinvContext (v : Word) : Laws.Opcode.Statement (.tinvContext v) := fun _ _ h => nomatch h
theorem Laws.Opcode.tinvAll (v : Word) : Laws.Opcode.Statement (.tinvAll v) := fun _ _ h => nomatch h
theorem Laws.Opcode.invalidationComplete : Laws.Opcode.Statement (.invalidationComplete) := fun _ _ h => nomatch h
theorem Laws.Opcode.tresRetry (v : Word) : Laws.Opcode.Statement (.tresRetry v) := fun _ _ h => nomatch h
theorem Laws.Opcode.tresFail (v : Word) : Laws.Opcode.Statement (.tresFail v) := fun _ _ h => nomatch h
theorem Laws.Opcode.fqheadWrite (v : Word) : Laws.Opcode.Statement (.fqheadWrite v) := fun _ _ h => nomatch h
theorem Laws.Opcode.rqheadWrite (v : Word) : Laws.Opcode.Statement (.rqheadWrite v) := fun _ _ h => nomatch h
theorem Laws.Opcode.queueHeadWrite (q : Nat) (v : Word) : Laws.Opcode.Statement (.queueHeadWrite q v) :=
  fun _ _ h => nomatch h
theorem Laws.Opcode.queueTailWrite (q : Nat) (v : Word) : Laws.Opcode.Statement (.queueTailWrite q v) :=
  fun _ _ h => nomatch h
theorem Laws.Opcode.tokenWindowWrite (off len : Nat) (v : BitVec 128) : Laws.Opcode.Statement (.tokenWindowWrite off len v) :=
  fun _ _ h => nomatch h
theorem Laws.Opcode.apertureAccess (write : Bool) (off : Nat) (data : List Byte) : Laws.Opcode.Statement (.apertureAccess write off data) :=
  fun _ _ h => nomatch h
theorem Laws.Opcode.beatReceive (p : Nat) (bytes : List Byte) : Laws.Opcode.Statement (.beatReceive p bytes) :=
  fun _ _ h => nomatch h
theorem Laws.Opcode.retryRequest (p : Nat) : Laws.Opcode.Statement (.retryRequest p) := fun _ _ h => nomatch h
theorem Laws.Opcode.linkSilenceTimeout (p : Nat) : Laws.Opcode.Statement (.linkSilenceTimeout p) :=
  fun _ _ h => nomatch h
theorem Laws.Opcode.linkLoss (p : Nat) : Laws.Opcode.Statement (.linkLoss p) := fun _ _ h => nomatch h
theorem Laws.Opcode.streamAcknowledgement (x : Site) (seq : Nat) : Laws.Opcode.Statement (.streamAcknowledgement x seq) :=
  fun _ _ h => nomatch h
theorem Laws.Opcode.streamAckSend (x : Site) : Laws.Opcode.Statement (.streamAckSend x) := fun _ _ h => nomatch h
theorem Laws.Opcode.linkTraining (p major minor module port flight : Nat) : Laws.Opcode.Statement (.linkTraining p major minor module port flight) :=
  fun _ _ h => nomatch h
theorem Laws.Opcode.linkRetrain (p : Nat) : Laws.Opcode.Statement (.linkRetrain p) := fun _ _ h => nomatch h
theorem Laws.Opcode.linkEnable (p : Nat) (on : Bool) : Laws.Opcode.Statement (.linkEnable p on) :=
  fun _ _ h => nomatch h
theorem Laws.Opcode.registerWrite (off : Nat) (v : Word) : Laws.Opcode.Statement (.registerWrite off v) :=
  fun _ _ h => nomatch h
theorem Laws.Opcode.driveDataAccess (q : Nat) (write : Bool) (addr : Nat) (data : List Byte) : Laws.Opcode.Statement (.driveDataAccess q write addr data) :=
  fun _ _ h => nomatch h
theorem Laws.Opcode.hostLinkCompletion (n : Nat) (data : List Byte) : Laws.Opcode.Statement (.hostLinkCompletion n data) :=
  fun _ _ h => nomatch h

end Sys2Proof
end

