-- ==== Sys2Proof/Laws/Steps.lean ====
section
/-! SUPPORT. What the shared operations of the units' own steps do, once each. -/

namespace Sys2Proof.Machine

variable (s : State)

theorem acceptInput_inside (k : Nat) {f : Flight} (h : f.input = false) : acceptInput s k f = s := by
  simp [acceptInput, h]

theorem regionAt_onPe (k : Nat) (g : Pe → Pe) (x : Site) (c : Nat) : (s.onPe k g).regionAt x c = s.regionAt x c := rfl

/-- Accepting a flight takes it off the network, and changes besides the places of a response's request alone. -/
theorem dropFlight_rest (n : Nat) (h : n < s.net.length) : (dropFlight s n).net = s.net.eraseIdx n ∧
    { dropFlight s n with net := s.net, pes := s.pes, opers := s.opers } = s ∧
    ((s.net[n]?).all (fun f => f.cls != .response) → dropFlight s n = { s with net := s.net.eraseIdx n }) := by
  unfold dropFlight
  rw [List.getElem?_eq_getElem h]
  dsimp only
  split
  · next hc =>
    unfold settleOwed
    refine ⟨?_, ?_, by simp_all⟩ <;> (split <;> [split <;> rfl; rfl])
  · exact ⟨rfl, rfl, fun _ => rfl⟩

/-- A list of flights posted one after the other. -/
theorem foldl_post (fs : List Flight) : (fs.foldl (fun s f => s.post f) s) = { s with net := s.net ++ fs } := by
  induction fs generalizing s with
  | nil => simp
  | cons f fs ih => simp only [List.foldl_cons]; rw [ih]; simp [State.post]

theorem retireTags_net (k : Nat) : (retireTags s k).net = s.net := by
  unfold retireTags; simp only []; split <;> rfl

theorem retireTags_fatal (k : Nat) : (retireTags s k).fatal = s.fatal := by
  unfold retireTags; simp only []; split <;> rfl

theorem retireTags_clocks (k : Nat) : (retireTags s k).clocks = s.clocks := by
  unfold retireTags; simp only []; split <;> rfl

/-- What enters a caboose: one more effect there, one more emission counted at the PE, and nothing else. -/
theorem enterCaboose_spec (k site st tag wave seq : Nat) (a : Act) :
    ∃ e : Effect, ((enterCaboose k site st tag wave seq a s).region k).caboose = (s.region k).caboose ++ [e] ∧
      e.act = a ∧ e.tag = tag ∧ e.site = site ∧ e.station = st ∧ e.wave = wave ∧ e.entered = s.now (s.region k).die ∧
      (enterCaboose k site st tag wave seq a s).net = s.net ∧ (enterCaboose k site st tag wave seq a s).mem = s.mem :=
  ⟨_, by simp [enterCaboose, State.onPe, State.onRegion, State.region, Map.alter]; rfl, rfl, rfl, rfl, rfl, rfl, rfl, rfl, rfl⟩

/-- A change of a region record that keeps its place and context keeps where a PE or operator site belongs. -/
theorem findRegion_onRegion {k : Nat} {g : Region → Region} {p : Nat → Region → Bool} {j : Nat}
    (hg : ∀ r, (g r).valid = r.valid) (hp : ∀ r, p k (g r) = p k r)
    (h : s.findRegion p = some j) (hj : j = k) : (s.onRegion k g).findRegion p = some j := by
  subst hj
  simp only [State.findRegion, State.onRegion, Map.alter] at *
  have hd : ∀ d : Region, Map.get s.regions d j = Map.get s.regions d j := fun _ => rfl
  generalize hv : g (Map.get s.regions Region.empty j) = v at *
  have hpv : (v.valid && p j v) = ((Map.get s.regions Region.empty j).valid && p j (Map.get s.regions Region.empty j)) := by
    rw [← hv, hg, hp]
  simp only [Map.get] at hpv
  clear hv hd
  generalize s.regions = m at *
  induction m with
  | nil => simp at h
  | cons kv m ih =>
    obtain ⟨a, b⟩ := kv
    simp only [List.find?_cons, Map.find_cons] at h hpv
    simp only [Map.put]
    split
    · rename_i hlt
      simp only [List.find?_cons]
      by_cases hq : (v.valid && p j v) = true
      · simp [hq]
      · simp only [Bool.not_eq_true] at hq; simp only [hq]
        simpa [List.find?_cons] using h
    · split
      · rename_i h1 h2
        subst h2
        simp only [if_true, Option.getD_some] at hpv
        simp only [List.find?_cons, hpv]
        split <;> simp_all
      · rename_i h1 h2
        simp only [if_neg h2] at hpv
        simp only [List.find?_cons]
        by_cases hb : (b.valid && p a b) = true
        · simp only [hb] at h ⊢; simpa using h
        · simp only [Bool.not_eq_true] at hb; simp only [hb] at h ⊢; exact ih h hpv

/-- Fields of a region that say where it lies. -/
def Region.sameArea (r q : Region) : Prop := q.head = r.head ∧ q.status = r.status

theorem regionAt_onRegion {k : Nat} {g : Region → Region} {x : Site} {c : Nat} (hg : ∀ r, Region.sameArea r (g r))
    (ht : isTile x = false) (h : s.regionAt x c = some k) : (s.onRegion k g).regionAt x c = some k := by
  unfold State.regionAt at *
  by_cases hp : isPe x = true
  · simp only [hp, if_true] at *
    refine findRegion_onRegion s (fun r => ?_) (fun r => ?_) h rfl
    · simp [Region.valid, (hg r).2]
    · simp only [Region.ctx, Region.holdsPe, Region.die, Region.row, Region.height, Region.col, Region.width, (hg r).1]; rfl
  · simp only [Bool.not_eq_true] at hp
    simp only [hp, ht, Bool.false_eq_true, if_false] at h ⊢
    exact h

end Sys2Proof.Machine
end

