-- ==== Sys2Proof/Laws/Units.lean ====
section
/-! SUPPORT. What the shared operations of the units leave alone and answer: operators, tiles, accesses, regions. -/

namespace Sys2Proof.Machine

/-- An operator that runs no pass requests nothing. -/
theorem issueNext_idle {s : State} {x : Nat} (h : (s.oper x).state ≠ 2) : issueNext x s = s := by
  unfold issueNext; simp [h]

/-- Nor does a list of such operators. -/
theorem wakeList_idle (xs : List Nat) (s : State) (h : ∀ x ∈ xs, (s.oper x).state ≠ 2) :
    xs.foldl (fun s x => issueNext x s) s = s := by
  induction xs with
  | nil => rfl
  | cons x xs ih =>
    simp only [List.foldl_cons]
    rw [issueNext_idle (h x (by simp))]
    exact ih (fun y hy => h y (by simp [hy]))

/-- A region whose operators run no pass is not changed by waking them. -/
theorem wakeOpers_idle (k : Nat) (s : State) (h : ∀ ko ∈ regionOpers s k, (s.oper ko.1).state ≠ 2) : wakeOpers k s = s := by
  unfold wakeOpers
  apply wakeList_idle
  intro x hx
  obtain ⟨ko, hko, rfl⟩ := List.mem_map.1 hx
  exact h ko hko

/-- A change made at a list of PEs holds at each of them afterwards. -/
theorem foldPe (g : Pe → Pe) (P : Pe → Prop) (hg : ∀ p, P (g p)) (hk : ∀ p, P p → P (g p)) (xs : List Nat) (s : State) :
    ∀ x, x ∈ xs ∨ P (s.pe x) → P ((xs.foldl (fun s x => s.onPe x g) s).pe x) := by
  induction xs generalizing s with
  | nil => intro x hx; simpa using hx
  | cons y ys ih =>
    intro x hx
    simp only [List.foldl_cons]
    apply ih
    by_cases hxy : x = y
    · right; subst hxy; simp [hg]
    · rcases hx with hx | hx
      · left; simp at hx; exact hx.resolve_left hxy
      · right; rw [State.pe_onPe_ne (h := hxy)]; exact hx

/-- It leaves everything but the PEs. -/
theorem foldPe_rest (g : Pe → Pe) (xs : List Nat) (s : State) :
    { xs.foldl (fun s x => s.onPe x g) s with pes := s.pes } = s := by
  induction xs generalizing s with
  | nil => rfl
  | cons y ys ih => exact congrArg (fun u : State => { u with pes := s.pes }) (ih (s.onPe y g))

/-- Releasing pins leaves everything but the pins. -/
theorem foldUnpin (xs : List (Nat × Oper)) (s : State) : { xs.foldl (fun s ko => unpin (2 * ko.1) s) s with pins := s.pins } = s := by
  induction xs generalizing s with
  | nil => rfl
  | cons y ys ih => exact congrArg (fun u : State => { u with pins := s.pins }) (ih (unpin (2 * y.1) s))

/-- A change made at a list of tiles leaves everything but the tiles. -/
theorem foldTile_rest (g : Tile → Tile) (xs : List Nat) (s : State) :
    { xs.foldl (fun s x => s.onTile x g) s with tiles := s.tiles } = s := by
  induction xs generalizing s with
  | nil => rfl
  | cons y ys ih => exact congrArg (fun u : State => { u with tiles := s.tiles }) (ih (s.onTile y g))

/-- Resetting named storage leaves everything but the tiles. -/
theorem resetNames_rest (k : Nat) (s : State) : { resetNames k s with tiles := s.tiles } = s := foldTile_rest _ _ _
/-- A change at the PEs of a region leaves everything but the PEs. -/
theorem onRegionPes_rest (k : Nat) (g : Pe → Pe) (s : State) : { onRegionPes k g s with pes := s.pes } = s := foldPe_rest _ _ _

/-! ### What operators take -/

/-- An operator that `Takes` says takes a token has it at its input. -/
theorem Takes.flight {s : State} {n : Nat} {fl : Flight} {t : Token} (h : Takes s n fl t) : operFlight s n = some (fl, t) := by
  obtain ⟨h1, h2, h3, h4, h5, h6, h7⟩ := h
  unfold operFlight
  simp [h2, h3, h4, h1, h5, h6, h7, fifoOf]

/-- Taking it removes the flight and changes nothing else. -/
theorem Takes.take {s : State} {n : Nat} {fl : Flight} {t : Token} (h : Takes s n fl t) : takeFlight n fl s = Without s n := by
  obtain ⟨-, -, -, -, -, h6, -⟩ := h
  unfold takeFlight
  simp only []
  split
  · rfl
  · exact acceptInput_inside _ _ h6

/-- A control token on port C is a command of its kind. -/
theorem Takes.command {s : State} {n : Nat} {fl : Flight} {t : Token} (h : Takes s n fl t) {c : Nat} (hp : t.port = .c)
    (hk : ctlKind t = c) : commandToken s n c = some (fl, t) := by
  unfold commandToken
  rw [h.flight]
  simp [hp, hk]

/-- A token on a data port is data of its operator's kind. -/
theorem Takes.data {s : State} {n : Nat} {fl : Flight} {t : Token} (h : Takes s n fl t) {k : Nat} {p : Port}
    (hk : (s.oper fl.dst).kind = k) (hp : t.port = p) : dataToken s n k p = some (fl, t) := by
  unfold dataToken
  rw [h.flight]
  simp [hp, hk]

/-- An event that takes place, of a module that no fatal error has stopped. -/
theorem orSelf_some {s t : State} {r : Option State} (h : s.fatal = false) (hr : r = some t) : s.orSelf r = t := by
  simp [State.orSelf, h, hr]

/-- A host's write takes effect while the interface is open. -/
theorem hostEvent_open {s : State} {g : State → State} (h : s.hostOpen = true) : hostEvent s g = g s := by
  simp [hostEvent, h]

/-! ### Reads that a tile serves -/

/-- A tile with nothing to serve is not changed. -/
theorem serveTile_nil (site : Nat) (s : State) (h : (s.tile site).serving = []) :
    serveTile site s = s.onTile site (fun t => { t with serving := [], peeks := t.kept [] }) := by
  unfold serveTile
  simp only [h, serveList, List.append_nil]
  rfl

/-- A read all of whose words are visible sends them all, in order. -/
theorem serveOne_all (d : Desc) (t : Tile) (site k : Nat) (b : Bool) (v : Serving) (n m : Nat) (hm : m + n = d.words)
    (hv : ∀ i < d.words, visible t v.pos i b = true) :
    serveOne d t site k b n { v with next := m } =
      ({ v with next := d.words }, ((List.range' m n).map (fun i => wordFlights site k v (wordToken d t v i))).flatten) := by
  induction n generalizing m with
  | zero => simp at hm; simp [serveOne, hm]
  | succ n ih =>
    unfold serveOne
    have h1 : m < d.words := by omega
    simp only [h1, hv m h1, decide_true, Bool.and_self, if_true]
    rw [ih (m + 1) (by omega)]
    simp [List.range'_succ]
    rfl

/-! ### Accesses -/

/-- The access of a number after a change of it. -/
theorem access_onAccess {s : State} {n : Nat} {a : Access} {g : Access → Access} (h : s.access n = some a)
    (hg : ∀ x, (g x).id = x.id) : (s.onAccess n g).access n = some (g a) := by
  have key : ∀ xs : List Access, xs.find? (fun x => x.id == n) = some a →
      (xs.map (fun x => if x.id == n then g x else x)).find? (fun x => x.id == n) = some (g a) := by
    intro xs
    induction xs with
    | nil => intro h; simp at h
    | cons x xs ih =>
      intro h
      by_cases hx : (x.id == n) = true
      · rw [List.find?_cons_of_pos (p := fun x : Access => x.id == n) hx] at h
        cases h
        rw [List.map_cons, if_pos hx, List.find?_cons_of_pos (p := fun x : Access => x.id == n) (by rw [hg]; exact hx)]
      · rw [List.find?_cons_of_neg (p := fun x : Access => x.id == n) hx] at h
        rw [List.map_cons, if_neg hx, List.find?_cons_of_neg (p := fun x : Access => x.id == n) hx]
        exact ih h
  exact key _ h

/-- Dropped accesses are gone. -/
theorem dropAccesses_gone {s : State} {p : Access → Bool} {a : Access} (h : a ∈ (s.dropAccesses p).accesses) : p a = false := by
  simp [State.dropAccesses] at h
  exact h.2

end Sys2Proof.Machine
end

