-- ==== Sys2Proof/Tests/Slice0.lean ====
section
/-! SUPPORT. Tests of the model: words of the spec's encodings, worked examples of the spec, ill-formed words, and for every
statement with hypotheses a state and operands that meet them. -/

namespace Sys2Proof.Tests

set_option Elab.async false

open Sys2Proof Sys2Proof.Machine

/-! ### Small states -/

/-- Fields of a word with nothing set. -/
def plain : Fields :=
  ⟨2, .i64, false, .rne, false, 0, 0, false, false, false, false, false, 0, 0, ⟨false, 0, 0, 0, 0, .l⟩, ⟨false, 0, 0, 0, 0, .l⟩⟩

/-- A token of 64-bit integer `v` at PE (0, 1, 1), station 0, port L. -/
def tk (v : Word) : Token := { Token.zero with payload := v, row := 1, col := 1, fmt := .i64 }

/-- A target at PE (0, 1, 1), station 0. -/
def t11 : Target := ⟨true, 0, 1, 1, 0, .l⟩

/-- A token that travels inside region 0. -/
def fly (t : Token) : Flight := ⟨0, 0, .data, Site.key (Token.site t), Token.lane t, .token t, 1, false, false⟩

/-- A machine with one region of 8 by 8 PEs running in record 0, the host's interface open, and the firing of one set. -/
def run (toks : List Token) : State :=
  { State.reset with
    firing := ⟨Site.key ⟨0, 1, 1⟩, 0, 0, 0, 0, toks, 0, 0⟩, regions := [(0, placedRegion)], booted := true
    modRegs := { ModRegs.reset with hifact := 0x10100 } }

/-- Operator site (0, 0, 5). -/
def op5 : Nat := Site.key ⟨0, 0, 5⟩

/-- A token at operator site (0, 0, 5). -/
def opTok (q : Port) (v : Word) : Token := { Token.zero with payload := v, col := 5, port := q, fmt := .i64 }

/-- A control token of a kind and argument at operator site (0, 0, 5). -/
def opCtl (kind arg : Nat) : Token := { opTok .c (BitVec.ofNat 64 (kind * 2 ^ 56 + arg)) with ends := 0 }

/-- The machine with an operator at site (0, 0, 5) that belongs to region 0, and a token on its way to it. -/
def withOper (o : Oper) (t : Token) : State :=
  { run [] with opers := [(op5, { o with region := 1 })], net := [fly t] }

/-! ### Witnesses of the statements' hypotheses -/

theorem test_witness_RoundingIsExact : Fmt.isFloat .f32 = true ∧ 0 < 3 := by decide

theorem test_witness_SumsAndProductsAreExact :
    ([FVal.fin false 3 0, .fin true 1 (-1)]).all FVal.finite = true ∧ FVal.finite (.fin false 3 0) = true ∧
    FVal.finite (.fin true 1 (-1)) = true := by decide

theorem test_witness_QuotientsAreRoundedOnce :
    Fmt.isFloat .bf16 = true ∧ FVal.finite (.fin false 1 0) = true ∧ FVal.finite (.fin true 3 0) = true ∧
    FVal.rat (.fin false 1 0) ≠ 0 ∧ FVal.rat (.fin true 3 0) ≠ 0 := by
  refine ⟨by decide, by decide, by decide, ?_, ?_⟩ <;> norm_num [FVal.rat]

theorem test_witness_RootsAreRoundedOnce :
    Fmt.isFloat .e4m3 = true ∧ 0x39 < 2 ^ Fmt.width .e4m3 ∧ FVal.finite (decodeF .e4m3 0x39) = true ∧
    0 < FVal.rat (decodeF .e4m3 0x39) := by
  refine ⟨by decide, by decide, by decide, ?_⟩
  have h : decodeF .e4m3 0x39 = .fin false 9 (-3) := by decide
  rw [h]; norm_num [FVal.rat]

/-- The power of two 2^3 as an operand of fexp2, and the classes of E5M2 at the ends of their ranges. -/
theorem test_witness_FloatSpecialForms :
    ((0 < 8 ∧ 8 < 4096) ∧ ((-400 : Int) ≤ 3 ∧ (8 : ℚ) = (1 : ℕ) * (2 : ℚ) ^ (3 : Int))) ∧
    (Fmt.isFloat .e5m2 = true ∧ 0x7B < 2 ^ Fmt.width .e5m2 ∧ FVal.finite (decodeF .e5m2 0x7B) = true) ∧
    (0 % signBit .e5m2 = 0) ∧ (0 < 3 % signBit .e5m2 ∧ 3 % signBit .e5m2 < 2 ^ Fmt.frac .e5m2) ∧
    (2 ^ Fmt.frac .e5m2 ≤ 0x7B % signBit .e5m2 ∧ 0x7B % signBit .e5m2 ≤ Fmt.maxFinite .e5m2) ∧
    (Fmt.e5m2 ≠ .e4m3 ∧ 0xFC % signBit .e5m2 = Fmt.maxFinite .e5m2 + 1) ∧ isNaN .e5m2 0xFE = true := by
  refine ⟨⟨by decide, by decide, by norm_num⟩, by decide, by decide, by decide, by decide, by decide, by decide⟩

theorem test_witness_scaled_value : FVal.rat (decodeF .e5m2 0x7B) ≠ 0 := by
  have h : decodeF .e5m2 0x7B = .fin false 7 13 := by decide
  rw [h]; norm_num [FVal.rat]

/-- Conversion: a finite nonzero value, a zero, a NaN and an infinity of E5M2, and an integer. -/
theorem test_witness_ConversionsFollowTheTable :
    (Fmt.isFloat .e5m2 = true ∧ Fmt.isFloat .f32 = true ∧ Fmt.e5m2 ≠ .f32 ∧ 0x7B < 2 ^ Fmt.width .e5m2 ∧
      FVal.finite (decodeF .e5m2 0x7B) = true) ∧
    (decodeF .e5m2 0x80 = .fin true 0 (-16)) ∧ isNaN .e5m2 0xFE = true ∧ decodeF .e5m2 0xFC = .inf true ∧
    (Fmt.isFloat .i8 = false ∧ signed (Fmt.width .i8) 0x80 ≠ 0) := by decide

theorem test_witness_ReductionForms : [1] ≠ ([] : List Nat) ∧ Fmt.isFloat .i8 = false ∧ Fmt.isFloat .f32 = true := by decide

theorem test_witness_ConversionStation : (run [tk 1, tk 2]).firing.toks = [tk 1, tk 2] := rfl

theorem test_witness_ConstantsAndHeldValues :
    (opL plain (run [{ tk 1 with port := .r }])).port = .r ∧
    ((opL plain (run [tk 1])).port ≠ .r ∧ plain.imm = false) ∧
    ((opL { plain with imm := true } (run [tk 1])).port ≠ .r ∧ ({ plain with imm := true } : Fields).imm = true) := by decide

theorem test_witness_TagWaveAndSquash : (run [tk 1]).fireRegion = some 0 := by decide +kernel

theorem test_witness_Frames :
    placedRegion.pool 0 = some (1, 0) ∧ placedRegion.frameFree 0 = some 0 := by decide +kernel

theorem test_witness_AccumulationAndCounting :
    (Accum.zero.waiting.find? (fun w => w.seq.toNat == Accum.zero.next % 64) = none) ∧
    (({ Accum.zero with waiting := [tk 5] }).waiting.find? (fun w => w.seq.toNat == Accum.zero.next % 64) = some (tk 5)) := by
  decide

theorem test_witness_Barriers :
    (Barrier.mk 2 [] [7] []).closed.contains 7 = true ∧
    (let b : Barrier := ⟨2, [⟨0, 0, []⟩, ⟨1, 0, []⟩, ⟨2, 0, []⟩, ⟨3, 0, []⟩], [], []⟩
     b.closed.contains 9 = false ∧ b.opened.any (fun x => x.gen == 9) = false ∧ 4 ≤ b.opened.length) ∧
    (let b : Barrier := ⟨2, [⟨3, 1, []⟩], [], []⟩
     b.closed.contains 3 = false ∧ b.opened = [⟨3, 1, []⟩] ∧ (BarGen.mk 3 1 []).gen = 3) := by decide

theorem test_witness_SystemAndFences :
    (run [tk 1]).fireRegion = some 0 ∧ (run [tk 1]).fireReg.clkReplay.find? (fun x =>
      x.1 == member (run [tk 1]).firing.site (run [tk 1]).firing.station && x.2.1 == (run [tk 1]).firing.tag) = none := by
  decide +kernel

theorem test_witness_Reinject : (run [tk 1]).fireReg.refree.find? (fun x => x.1 == (run [tk 1]).firing.tag) = none := by
  decide +kernel

/-- mm.mode 0 by a context that owns the array and by one that does not, and modes 1 and 2 likewise. -/
theorem test_witness_MatrixControlEffects :
    let owned := (run [tk 1]).onMatrix (run [tk 1]).firing.site (fun m => { m with owner := some 0 })
    (plain.aux16.toNat % 4 = 0 ∧ ((run [tk 1]).matrix (run [tk 1]).firing.site).owner ≠ some (run [tk 1]).firing.ctx) ∧
    (plain.aux16.toNat % 4 = 0 ∧ (owned.matrix owned.firing.site).owner = some owned.firing.ctx) ∧
    (({ plain with aux16 := 1 } : Fields).aux16.toNat % 4 ≠ 0 ∧ (owned.matrix owned.firing.site).owner = some owned.firing.ctx) ∧
    (({ plain with aux16 := 2 } : Fields).aux16.toNat % 4 ≠ 0 ∧
      ((run [tk 1]).matrix (run [tk 1]).firing.site).owner ≠ some (run [tk 1]).firing.ctx) := by decide +kernel

theorem test_witness_WeightsRunsActivation :
    isNaN .f32 0x7FC00000 = true ∧
    (plain.aux16.toNat % 16 = 0 ∧ isNaN plain.fmtOut 5 = false ∧ 5 < 2 ^ Fmt.width plain.fmtOut) := by decide

theorem test_witness_SystolicSteps :
    Fmt.bf16 ≠ .i8 ∧ ([FVal.fin false 1 0]).length = ([FVal.fin true 1 0]).length ∧
    ([FVal.fin false 1 0]).all FVal.finite = true ∧ ([FVal.fin true 1 0]).all FVal.finite = true := by decide

theorem test_witness_DecodeOfEncode :
    (Instr.add plain).svcMatches = true ∧ encode (.add plain) = some 0x002C0000000000000000000000000000#128 := by
  decide +kernel

theorem test_witness_UnassignedOpcodes :
    0x380 ≤ decodeOpcode (BitVec.allOnes 128) ∧
    (let w := BitVec.ofNat 128 (0x30C * 2 ^ 118)
     decodeOpcode w < 0x380 ∧ (0x30C ≤ decodeOpcode w ∧ decodeOpcode w ≤ 0x37F)) ∧
    decodeWord 0#128 = .ok (.add (decodeFields 0#128)) := by decide +kernel

/-- A word that the loader accepts, and one with a shift of tagop 5. -/
theorem test_witness_AcceptedWords :
    wordReject 0x000 plain = none ∧ wordReject 0x000 { plain with tagop := 5, aux16 := 4 } = none ∧
    wordReject 0x01F { plain with arity := 3, reserve := 1, w32 := true } = none := by decide +kernel

/-- A station word: the opcode with the plain fields. -/
def word (op : Nat) (f : Fields) : StationWord := encodeWord op f

/-- The machine with a station word at PE (0, 1, 1), station 0 of context 0, and a token on its way to it. -/
def withPe (w : StationWord) (g : Pe → Pe) (t : Token) : State :=
  { run [] with
    pes := [(Site.key ⟨0, 1, 1⟩, g { Pe.idle with store := [(0, w)], ctxs := [(0, 0x40080000)] })], net := [fly t] }

/-- One-operand form `nop`, which a token fires alone. -/
def nopWord : StationWord := word 0x28E { plain with arity := 1 }

/-- Two-operand form `add`. -/
def addWord : StationWord := word 0x000 plain

/-- The matched set of the placed word. -/
def placedSet : Ready := ⟨0, 0, 0, 0, zeroOperands addWord, 0, 0⟩

theorem test_witness_StepRunsDecoded :
    (let s := State.reset.withFetchWord 128 addWord.toNat
     s.agenda = .issue ⟨0, 1, 1⟩ [] :: [] ∧ isPe ⟨0, 1, 1⟩ = true ∧
     ({ s with agenda := [] } : State).pick (Site.key ⟨0, 1, 1⟩) [] = some placedSet ∧
     decodeWord ((s.pe (Site.key ⟨0, 1, 1⟩)).word 0 0) = .ok (.add (decodeFields addWord))) ∧
    (let s := State.reset.withFetchWord 128 (2 ^ 128 - 1)
     (({ s with agenda := [] } : State).pick (Site.key ⟨0, 1, 1⟩) []).isSome = true ∧
     decodeWord ((s.pe (Site.key ⟨0, 1, 1⟩)).word 0 0) = .error .opcodeReserved) ∧
    State.reset.pick (Site.key ⟨0, 1, 1⟩) [] = none ∧
    ({ State.reset with agenda := [.event .dumpWritten] }).agenda = [.event .dumpWritten] ∧
    ({ State.reset with agenda := [.tick 0 1] }).agenda = [.tick 0 1] ∧ State.reset.agenda = [] := by decide +kernel

theorem test_witness_SelectorOrder :
    (State.reset.withFetchWord 128 addWord.toNat).pick (Site.key ⟨0, 1, 1⟩) [] = some placedSet := by decide +kernel

/-- A region that is its load's handler, with an empty fault buffer and with a full one. -/
def handled (faults : Map Saved) : State :=
  { run [] with regions := [(0, { placedRegion with head := 0x80880000, faults := faults })] }

theorem test_witness_TakingAnError :
    (run []).handlerOf 0 = none ∧ (handled []).handlerOf 0 = some 0 ∧ faultKind 0x03 = false ∧
    (faultKind 0x11 = true ∧ 0 < 64 ∧ Map.find ((handled []).region 0).faults 0 = none) ∧
    (let s := handled ((List.range 64).map (fun e => (e, ⟨Token.zero, true⟩)))
     s.handlerOf 0 = some 0 ∧ ∀ e < 64, (Map.find (s.region 0).faults e).isSome = true) := by decide +kernel

theorem test_witness_MemoryKeepsItsForm :
    Memory.wf State.reset.mem = true ∧ Memory.wf State.reset.hostMem = true ∧
    step { State.reset with agenda := [.tick 0 1] } = .next (State.reset.tick 0 1) := ⟨by decide, by decide, rfl⟩

theorem test_witness_MemoryReadsWhatWasWritten : Memory.wf [(3, 1), (7, 2)] = true ∧ Memory.wf [] = true := by decide

/-- A token that fires a station alone, one that completes a set, and one that waits. -/
theorem test_witness_ArrivalAndMatching :
    (let t := tk 5
     let s := withPe nopWord id t
     let f := decodeFields nopWord
     s.fatal = false ∧ headOfLane s.net 0 = some (fly t) ∧ isPe (Token.site t) = true ∧
     isPe (Site.ofKey (Site.key (Token.site t))) = true ∧ (s.pe (Site.key (Token.site t))).ctxState 0 = 1 ∧
     stationBad (s.pe (Site.key (Token.site t))) t = none ∧ (opInfo (wordOp nopWord)).isSome = true ∧ t.port ≠ .c ∧
     feedSide s t = none ∧ s.regionAt (Token.site t) 0 = some 0 ∧
     (s.region 0).holdsPe (Site.ofKey (Site.key (Token.site t))) = true ∧
     isDead (s.region 0) (Site.key (Token.site t)) 0 0 = false ∧ (f.lock = true → t.fmt = f.fmtOut) ∧
     (opInfo (wordOp nopWord)).map (fun o => alone (s.pe (Site.key (Token.site t))) f 0x28E 0 0 o t.port) = some true ∧
     (s.pe (Site.key (Token.site t))).ready.length < 16 ∧ (s.pe (Site.key (Token.site t))).marked = [] ∧
     entriesNeeded (s.pe (Site.key (Token.site t))) 0 0 t = 0 ∧ grantMany (Site.key (Token.site t)) 0 0 0 0 s = some 0) ∧
    (let t := tk 5
     let s := withPe nopWord (fun p => { p with marked := [placedSet] }) t
     stationBad (s.pe (Site.key (Token.site t))) t = none ∧ feedSide s t = none ∧
     (opInfo (wordOp nopWord)).map (fun o => alone (s.pe (Site.key (Token.site t))) (decodeFields nopWord) 0x28E 0 0 o t.port) =
       some true ∧
     (s.pe (Site.key (Token.site t))).marked ≠ [] ∧ headOfLane s.net 0 = some (fly t) ∧
     s.stopped (Site.key (Token.site t)) 0 = false ∧ tokenAtStation s (some 0) (fly t) t = none) ∧
    (let t := { tk 5 with port := .r }
     let s := withPe addWord (fun p => { p with entries := [⟨0, 0, 0, .l, tk 4, false, false⟩] }) t
     stationBad (s.pe (Site.key (Token.site t))) t = none ∧ feedSide s t = none ∧
     (∀ e ∈ [Entry.mk 0 0 0 .l (tk 4) false false], e.port ≠ t.port ∧ e.pending = false) ∧ wordOp addWord ≠ 0x186 ∧
     (∃ o ∈ opInfo (wordOp addWord), alone (s.pe (Site.key (Token.site t))) (decodeFields addWord) 0 0 0 o t.port = false ∧
       ∀ q ∈ awaited o (decodeFields addWord), ∃ y ∈ [(Port.l, tk 4), (t.port, t)], y.1 = q)) ∧
    (let t := tk 5
     let s := withPe addWord id t
     stationBad (s.pe (Site.key (Token.site t))) t = none ∧ feedSide s t = none ∧
     (∃ o ∈ opInfo (wordOp addWord), alone (s.pe (Site.key (Token.site t))) (decodeFields addWord) 0 0 0 o t.port = false ∧
       ∃ q ∈ awaited o (decodeFields addWord), ∀ y ∈ [(t.port, t)], y.1 ≠ q) ∧
     grant s (Site.key (Token.site t)) 0 0 0 = some false) ∧
    (let t := { tk 0x3F80 with fmt := .bf16, seq := 2 }
     let p := { (withPe (word 0x191 { plain with arity := 1, fmtOut := .bf16 }) id t).pe (Site.key ⟨0, 1, 1⟩) with accum := [(accKey 0 0 0, ⟨0, 1, true, false, 0, [], false, []⟩)] }
     p.isAcc 0 0 = true ∧ p.ready = [] ∧ p.marked = [] ∧ entriesNeeded p 0 0 t = 1 ∧
     entriesNeeded { p with accum := [] } 0 0 t = 2 ∧ entriesNeeded { p with accum := [] } 0 0 { t with seq := 0 } = 1) ∧
    (let p := { Pe.idle with marked := [placedSet] }
     p.marked = placedSet :: [] ∧ p.ready.length < 16) := by decide +kernel

/-- The effect that sends a flight, entered at cycle 0. -/
def effOf (f : Flight) : Effect := ⟨0, 0, Site.key ⟨0, 1, 1⟩, 0, 0, 0, ⟨Site.key ⟨0, 1, 1⟩, 0, 0, 0, 0, 0, 0⟩, .send f⟩

/-- The machine with region 0 changed, and the clocks of all dies at `n`. -/
def withRegion (n : Nat) (g : Region → Region) : State :=
  { run [] with regions := [(0, g placedRegion)], clocks := (List.range 25).map (fun d => (d, n)) }

/-- Results: one that is logged, and one that is sent; effects: a new one and one whose key was released before; and a held
token whose tag is live. -/
theorem test_witness_ResultsAndReleases :
    (let q : Result := ⟨0, 0, 0, 0, 5, 0, []⟩
     let s := { run [] with pes := [(Site.key ⟨0, 1, 1⟩, { Pe.idle with results := [q] })] }
     s.fatal = false ∧ (s.pe (Site.key ⟨0, 1, 1⟩)).results[0]? = some q ∧ q.ready ≤ s.now 0 ∧
     (∀ a ∈ (s.pe (Site.key ⟨0, 1, 1⟩)).results.take 0, ¬(a.ctx = q.ctx ∧ a.station = q.station)) ∧
     s.regionAt ⟨0, 1, 1⟩ q.ctx = some 0 ∧ cabooseRoom s (some 0) 1 = true ∧
     admitWants s 0 (Site.key ⟨0, 1, 1⟩) q = [] ∧ wordOp ((s.pe (Site.key ⟨0, 1, 1⟩)).word q.ctx q.station) ≠ 0x28D ∧ q.cause ≠ 0 ∧ q.emits = []) ∧
    (let q : Result := ⟨0, 0, 0, 0, 0, 0, [.token (tk 1) .data]⟩
     let s := { run [] with pes := [(Site.key ⟨0, 1, 1⟩, { Pe.idle with results := [q] })] }
     s.regionAt ⟨0, 1, 1⟩ q.ctx = some 0 ∧ cabooseRoom s (some 0) 1 = true ∧ q.cause = 0 ∧ admitWants s 0 (Site.key ⟨0, 1, 1⟩) q = [] ∧
     placeExists (Token.site (tk 1)) (tk 1).station.toNat = true) ∧
    (let e := effOf (fly (tk 1))
     let s0 := retireTags (withRegion 48 (fun r => { r with caboose := [e] })) 0
     (s0.region 0).caboose[0]? = some e ∧ releasable s0 0 0 e = true ∧ e.act = .send (fly (tk 1)) ∧
     (s0.region 0).keyOut e.key = false) ∧
    (let e := effOf (fly (tk 1))
     let s0 := retireTags (withRegion 48 (fun r => { r with caboose := [e], keysOut := [(e.key, 0)] })) 0
     (s0.region 0).caboose[0]? = some e ∧ releasable s0 0 0 e = true ∧ (s0.region 0).keyOut e.key = true ∧
     (s0.region 0).inputs = []) := by decide +kernel

theorem test_witness_tag_admission :
    let fl := { fly (tk 1) with input := true }
    let m := member (Site.key ⟨0, 1, 1⟩) 0
    let s := { withRegion 0 (fun r => { r with
        launchQ := [fl], domains := [{ Domain.none with members := [m], live := [⟨0, 0, false⟩], order := 1 }] }) with
      pes := [(Site.key ⟨0, 1, 1⟩, { Pe.idle with entries := [⟨0, 0, 0, .r, tk 2, false, false⟩] })] }
    let r := (retireTags s 0).region 0
    r.admits = true ∧ r.launchQ = fl :: [] ∧ fl.msg.token? = some (tk 1) ∧ fl.input = true ∧ fl.isAnswer = false ∧ r.unprot = false ∧
    (r.inputs.filter (fun x => x.2.2.lane == fl.lane)).length < r.replayCap ∧
    r.domainOf (member fl.dst (if isPe (Site.ofKey fl.dst) then (tk 1).station.toNat else 0)) = some 0 ∧
    (r.domains.getD 0 Domain.none).isLive 0 = true := by decide +kernel

/-- The controller PE's matrix state in a mode, with a line of forms. -/
def withMatrix (mode : Nat) (q : List MatOp) (s : State) : State :=
  s.onMatrix (Site.key ⟨0, 1, 1⟩) (fun m => { m with mode := mode, owner := some 0, queue := q, height := 8, width := 8 })

/-- A matrix form with its L and R payloads. -/
def matOp (op : Nat) (l r : Word) : MatOp := ⟨op, plain, 0, 0, 0, 0, tk l, tk r, tk 0, 1, 0, 0, 0, false, 0⟩

theorem test_witness_MonitorBufferAndArray :
    stallDue (withRegion (2 ^ 20) (fun r => { r with caboose := [effOf (fly (tk 1))] })) 0 = true ∧
    (let w : FaultWait := ⟨⟨0x11, ⟨0, 1, 1⟩, 0, 0, 0⟩, ⟨tk 1, true⟩⟩
     let s := { run [] with regions := [(0, { placedRegion with head := 0x80880000, faultWait := [w] })] }
     (s.region 0).faultWait = w :: [] ∧ freeFault 64 (s.region 0).faults 0 = some 0) ∧
    (let s := withMatrix 1 [] { run [] with net := [fly (tk 1)] }
     headOfLane s.net 0 = some (fly (tk 1)) ∧ feedSide s (tk 1) = some (0, 1) ∧
     feedRow (s.pe (Site.key (Token.site (tk 1)))).west (tk 1) = .taken [⟨0, 0, [1], false, false⟩]) ∧
    (let r : Row := ⟨0, 0, [1, 2, 3, 4, 5, 6, 7], false, false⟩
     [r].find? (fun r => !r.done && r.tag == (tk 8).tag.toNat && r.seq == (tk 8).seq.toNat) = some r ∧
     [r].any (fun r => r.done && r.tag == (tk 8).tag.toNat && r.seq == (tk 8).seq.toNat) = false ∧ r.words.length = 7 ∧
     ({ tk 8 with ends := 1 } : Token).ends.getLsbD 0 = true ∧ ([r].filter Row.done).length < 4) ∧
    (let q := matOp 0x305 0 0
     let s := withMatrix 1 [q] (run [])
     (s.matrix (Site.key ⟨0, 1, 1⟩)).queue = q :: [] ∧ s.regionAt ⟨0, 1, 1⟩ q.ctx = some 0 ∧ q.op ≠ 0x303 ∧ q.op ≠ 0x304) ∧
    (let q := { matOp 0x303 1 0x10001 with mask := 0 }
     q.op = 0x303 ∧ nextPass q.mask (field q.r.payload 29 24) (field q.r.payload 23 16) 65 q.pass = none) ∧
    (let q := matOp 0x303 1 0x10001
     let s := withMatrix 1 [q] { run [] with
       pes := [(Site.key ⟨0, 1, 1⟩, { Pe.idle with west := [⟨0, 0, [1, 2, 3, 4, 5, 6, 7, 8], false, true⟩] })] }
     nextPass q.mask (field q.r.payload 29 24) (field q.r.payload 23 16) 65 q.pass = some 0 ∧
     ∀ i < field q.r.payload 15 0, (findRow (s.pe (Site.key ((s.region 0).peAt i 0))).west ((q.emitTag + 0) % 65536) q.step).isSome = true) := by
  decide +kernel

/-- A coupling token with serial `v`. -/
def coupleTok (v : Nat) : Token := { tk (BitVec.ofNat 64 (2 ^ 56 + v)) with port := .c }

/-- A squash token of tag `i`. -/
def squashTok (i : Nat) : Token := { tk (BitVec.ofNat 64 (2 * 2 ^ 56 + i)) with port := .c }

theorem test_witness_CouplingAndSquash :
    (∀ was ∈ [true, false], ∀ sn ∈ [(7 : Nat), 8], let t := coupleTok 7
     let s := { withPe nopWord id t with regions := [(0, { placedRegion with serialSet := was, serial := BitVec.ofNat 64 sn })] }
     headOfLane s.net 0 = some (fly t) ∧ t.port = .c ∧ ctlKind t = 1 ∧ ctlBad t = none ∧ isPe (Token.site t) = true ∧
     (s.pe (Site.key (Token.site t))).ctxState 0 = 1 ∧ s.regionAt (Token.site t) 0 = some 0) := by decide +kernel

theorem test_witness_joins :
    (let s := { withPe nopWord (fun p => { p with joins := [(0, 1)] }) (tk 0) with
       regions := [(0, { placedRegion with serialSet := true })] }
     s.regionAt ⟨0, 1, 1⟩ 0 = some 0 ∧ joinReady s 0 (Site.key ⟨0, 1, 1⟩) 0 0 = true ∧
     wordOp ((s.pe (Site.key ⟨0, 1, 1⟩)).word 0 0) ≠ 0x187 ∧ wordOp ((s.pe (Site.key ⟨0, 1, 1⟩)).word 0 0) ≠ 0x303 ∧
     ∀ g ∈ validTargets (decodeFields ((s.pe (Site.key ⟨0, 1, 1⟩)).word 0 0)),
       isTile (Target.site g) = false ∧ s.regionAt (Target.site g) 0 = some 0) ∧
    (let s := { withOper { Oper.idle with kind := 9, joins := 1 } (opTok .l 0) with
       regions := [(0, { placedRegion with serialSet := true })] }
     let o := s.oper op5
     s.fatal = false ∧ o.region = 0 + 1 ∧ (s.region 0).serialSet = true ∧ o.forwarded = false ∧ max 1 o.fanin ≤ o.joins ∧ o.state = 0 ∧
     o.moves = [] ∧ s.accesses = [] ∧ o.kind ≠ 5 ∧ o.kind ≠ 7 ∧ (operTargets o).filter Target.valid = []) ∧
    ((run []).hostOpen = true ∧ ((run []).region 0).status = 2 ∧ ((run []).region 0).serialSet = false ∧
     ((run []).region 0).launchQ = []) ∧
    drainedNow (withRegion 0 (fun r => { r with status := 3 })) 0 = true := by decide +kernel

theorem test_witness_squashes :
    (∀ live ∈ [[LiveTag.mk 4 0 false], []],
     let t := squashTok 4
     let m := member (Site.key ⟨0, 1, 1⟩) 0
     let s := { withPe (word 0x187 { plain with arity := 1, tagop := 3 }) id t with
       regions := [(0, { placedRegion with domains := [{ Domain.none with members := [m], live := live }] })] }
     headOfLane s.net 0 = some (fly t) ∧ t.port = .c ∧ ctlKind t = 2 ∧ ctlBad t = none ∧ isOper (Token.site t) = false ∧
     (s.pe (Site.key (Token.site t))).ctxState 0 = 1 ∧ wordOp ((s.pe (Site.key (Token.site t))).word 0 0) = 0x187 ∧
     s.regionAt (Token.site t) 0 = some 0 ∧ (s.region 0).domainOf m = some 0) := by decide +kernel

/-! ### Witnesses: tiles -/

/-- A statement of I64 with tiles of two words, one reader, extent 16, modulus 4, in one tile of column 17. -/
def desc : Desc := ⟨0x40040006, 15, 0x0001000100010004, 0xF0⟩

/-- The tile at (0, 1, 17). -/
def tile17 : Nat := Site.key ⟨0, 1, 17⟩

/-- The machine with that tile, its statement declared, and a message on its way to it. -/
def withTile (g : Tile → Tile) (m : Msg) : State :=
  { run [] with
    tiles := [(tile17, g { Tile.clear with descs := [(descKey 0 0, desc)] })]
    net := [⟨Site.key ⟨0, 1, 1⟩, 0, .request, tile17, 7, m, 1, false, false⟩] }

/-- A name word of tag `n`. -/
def nw (n : Nat) (inside : Bool) : NameWord := ⟨0, 0, n, 9, false, none, Site.key ⟨0, 1, 1⟩, 0, inside, false, tk 9⟩

/-- A read request of tag `n`. -/
def rd (k : ReadKind) (n : Nat) : NameRead :=
  ⟨k, 0, 0, n, 0, [t11], tk 0, 0, false, Site.key ⟨0, 1, 1⟩, 0, 0⟩

/-- A fold request. -/
def foldOf (k : FoldKind) (m : Word) : FoldReq := ⟨k, 0, 0, m, [tk 0], tk 0, 0⟩

/-- Every state of a slot against a word and a read of an equal, a newer and an older generation. -/
theorem test_witness_TileWords :
    (Map.get Tile.clear.slots Slot.empty 0).state = 0 ∧ desc.newer 1 0 = true ∧ desc.newer 0 1 = false ∧ desc.newer 1 1 = false ∧
    (∀ st ∈ [0, 1, 2, 3, 4], (Map.get ({ Tile.clear with slots := [(0, ⟨1, 1, 0, 0, 0, st, 0⟩)] } : Tile).slots Slot.empty 0).state = st) ∧
    (0 + 2 = desc.words) := by decide

/-- A word that is written from outside the region and from inside it, one that stalls, and one that joins the stalled ones. -/
theorem test_witness_name_words :
    (let s := withTile id (.word (nw 1 false))
     let w' : NameWord := { nw 1 false with inside := true }
     (headOfLane s.net 0).map Flight.msg = some (.word (nw 1 false)) ∧ locate s tile17 0 0 1 = some (tile17, 1, 0) ∧
     s.tileRegion (Site.ofKey tile17) 0 = some 0 ∧ resizing s desc 0 0 0 = false ∧ (s.region 0).keysOut = [] ∧
     (s.tile tile17).stalled = [] ∧ (s.tile tile17).serving = [] ∧
     (match writeWord desc 1 0 w' false (s.tile tile17) with
      | .wrote u => (Map.get u.slots Slot.empty 1).cursor == 1 | _ => false) = true ∧
     (match writeWord desc 1 0 w' false { s.tile tile17 with slots := [(1, ⟨0, 1, 0, 1, 0, 1, 0⟩)] } with
      | .wrote u => (Map.get u.slots Slot.empty 1).cursor == 2 | _ => false) = true) ∧
    (let s := withTile (fun t => { t with slots := [(1, ⟨0, 1, 0, 2, 2, 2, 0⟩)] }) (.word (nw 5 false))
     locate s tile17 0 0 5 = some (tile17, 1, 1) ∧ (s.tile tile17).stalled = [] ∧
     (match writeWord desc 1 1 { nw 5 false with inside := true } false (s.tile tile17) with | .stall => true | _ => false) = true) ∧
    (let s := withTile (fun t => { t with stalled := [nw 5 false] }) (.word (nw 1 false))
     locate s tile17 0 0 1 = some (tile17, 1, 0) ∧ (s.tile tile17).stalled ≠ [] ∧ (s.tile tile17).stalled.length < 8) ∧
    (let s := withTile (fun t => { t with stalled := [nw 1 false], slots := [(1, ⟨0, 1, 0, 1, 0, 1, 0⟩)] }) (.word (nw 1 false))
     (s.tile tile17).stalled = nw 1 false :: [] ∧ (nw 1 false).inside = false ∧ (nw 1 false).reply = none ∧
     (s.tile tile17).serving = [] ∧
     (match writeWord desc 1 0 (nw 1 false) true { s.tile tile17 with stalled := [] } with
      | .wrote u => (Map.get u.slots Slot.empty 1).cursor != 1 | _ => false) = true) := by decide +kernel

/-- A read that is served, one that only lowers the readers, one that is deferred, and a request for another tile. -/
theorem test_witness_name_reads :
    (let s := withTile (fun t => { t with slots := [(1, ⟨0, 1, 0, 2, 2, 2, 0⟩)], present := [(granKey 1 0, true)] }) (.read (rd .npeek 1))
     (headOfLane s.net 0).map Flight.msg = some (.read (rd .npeek 1)) ∧ locate s tile17 0 0 1 = some (tile17, 1, 0) ∧
     (match readSlot desc 1 0 .npeek (s.tile tile17) with | .serve b => !b | _ => false) = true ∧
     ∀ i < desc.words, visible (s.tile tile17) 1 i true = true) ∧
    (let s := withTile (fun t => { t with slots := [(1, ⟨0, 1, 0, 2, 2, 2, 0⟩)] }) (.read (rd .nrel 1))
     (match readSlot desc 1 0 .nrel (s.tile tile17) with | .only => true | _ => false) = true) ∧
    (let s := withTile id (.read (rd .nrd 1))
     (match readSlot desc 1 0 .nrd (s.tile tile17) with | .defer => true | _ => false) = true) ∧
    (let far := { desc with w3 := 0xF0 + 2 ^ 41 }
     let s := { withTile (fun t => { t with descs := [(descKey 0 0, far)] }) (.read (rd .nrd 1)) with fatal := false }
     locate s tile17 0 0 1 = some (Site.key ⟨0, 3, 17⟩, 0, 0) ∧ Site.key ⟨0, 3, 17⟩ ≠ tile17) := by decide +kernel

/-- Folds with the moduli in force, with moduli that are not allowed, and with ones that are; a resize that may and one whose
occupants would meet; its end; the scrubber. -/
theorem test_witness_FoldsAndScrub :
    (let s := withTile id (.fold (foldOf .set desc.w2))
     (headOfLane s.net 0).map Flight.msg = some (.fold (foldOf .set desc.w2)) ∧ (s.tile tile17).resizing = none) ∧
    (moduliOk desc 0 = false ∧ (0 : Word) ≠ desc.w2) ∧
    (let m : Word := 0x0001000100010008
     m ≠ desc.w2 ∧ moduliOk desc m = true ∧ occupied (withTile id (.fold (foldOf .set m))) desc 0 = [] ∧
     moveClash { desc with w2 := m } (moves (withTile id (.fold (foldOf .resize m))) desc { desc with w2 := m } 0) = false) ∧
    (let m : Word := 0x0001000100010001
     let s := withTile (fun t => { t with slots := [(0, ⟨0, 1, 0, 1, 1, 1, 0⟩), (1, ⟨0, 1, 0, 1, 1, 1, 0⟩)] }) (.fold (foldOf .resize m))
     moduliOk desc m = true ∧ moveClash { desc with w2 := m } (moves s desc { desc with w2 := m } 0) = true) ∧
    (let q := foldOf .resize 0x0001000100010008
     let s := withTile (fun t => { t with resizing := some q }) (.fold q)
     (s.tile tile17).resizing = some q ∧ (s.tile tile17).resizeAt ≤ s.now 0) ∧
    (let s := withTile id (.fold (foldOf .query 0))
     isTile (Site.ofKey tile17) = true ∧ (s.tile tile17).resizing = none ∧ field (s.die 0).scrub 15 0 ≠ 0) := by decide +kernel

theorem test_witness_scrub_writeback :
    (let s := withTile (fun t => { t with scrubWrite := some (0, 1, [1, 2, 3, 4, 5, 6, 7, 8]) }) (.word (nw 1 false))
     (s.tile tile17).scrubWrite = some (0, 1, [1, 2, 3, 4, 5, 6, 7, 8]) ∧
     (Map.get (s.tile tile17).slots Slot.empty (0 * 8 / max 1 desc.words)).stamp ≠ 1) ∧
    (let s := withTile (fun t => { t with scrubWrite := some (0, 0, [1, 2, 3, 4, 5, 6, 7, 8]) }) (.word (nw 1 false))
     (Map.get (s.tile tile17).slots Slot.empty (0 * 8 / max 1 desc.words)).stamp = 0 ∧ (s.tile tile17).data = []) ∧
    (let s := withTile (fun t => { t with scrubDone := 3 }) (.word (nw 1 false))
     let u : State := { s with clocks := [(0, 3)] }
     (u.tile tile17).scrubDone ≠ 0 ∧ (u.tile tile17).scrubDone ≤ u.now 0) := by decide +kernel

/-! ### Witnesses: operators, PORTs and translation -/

/-- A token that an operator of a kind takes. -/
theorem takes (o : Oper) (t : Token) (h : headOfLane (withOper o t).net 0 = some (fly t) ∧ isOper (Token.site t) = true ∧
    operBad ((withOper o t).oper (fly t).dst) t = none ∧ operState (withOper o t) (fly t).dst t = .open) :
    Takes (withOper o t) 0 (fly t) t := ⟨rfl, h.1, rfl, h.2.1, h.2.2.1, rfl, h.2.2.2⟩

/-- An operator of a kind. -/
def kindOf (k : Nat) : Oper := { Oper.idle with kind := k }

/-- Every command reaches a kind that takes it: an arm, a rewind, a flush, a status, a GATE's open and close, a completion of
status 0 and 1, and a bound. -/
theorem test_witness_OperatorCommands :
    (∀ x ∈ [(1, 0x10), (6, 0x10), (7, 0x11), (9, 0x11), (1, 0x11), (1, 0x12), (11, 0x12), (0, 0x13), (5, 0x14), (5, 0x15), (4, 0x04),
        (1, 0x04)],
      Takes (withOper (kindOf x.1) (opCtl x.2 0)) 0 (fly (opCtl x.2 0)) (opCtl x.2 0) ∧ ctlKind (opCtl x.2 0) = x.2 ∧
      (opCtl x.2 0).port = .c) ∧
    (∀ st ∈ [0, 2 ^ 48], Takes (withOper (kindOf 5) (opCtl 3 st)) 0 (fly (opCtl 3 st)) (opCtl 3 st)) := by
  refine ⟨fun x hx => ⟨takes _ _ ?_, ?_, ?_⟩, fun x hx => takes _ _ ?_⟩ <;> revert x hx <;> decide +kernel

/-- The states of an operator that the clauses on passes and gates speak of. -/
theorem test_witness_operator_states :
    (let o := { kindOf 1 with state := 2, counts := [3] }
     (o.state = 2 ∧ total o.counts ≠ 0) ∧ closed o = false ∧ closed { o with joins := 1 } = true) ∧
    (let o := { kindOf 1 with region := 1, nextCounts := [3] }
     let s := { run [] with opers := [(op5, o)] }
     closed (s.oper op5) = false ∧ (s.oper op5).state = 0 ∧ (s.oper op5).arms = [] ∧ (s.oper op5).kind = 1 ∧
     (Map.get (s.oper op5).pm 0 0).toNat < 2 ^ 57 ∧ total (nextCounts (s.oper op5)) ≠ 0 ∧
     slotFree s (servingUnit s op5) = true) ∧
    (gateMode (kindOf 5) = 0 ∧ ({ kindOf 5 with isOpen := true } : Oper).isOpen = true) ∧
    (let o := { kindOf 5 with pm := [(0, 1)], opened := [0] }
     gateMode o = 1 ∧ (opTok .l 0).tag.toNat ∈ o.opened) ∧
    (let o := { kindOf 5 with pm := [(0, 2)], grants := 1 }
     gateMode o = 2 ∧ 0 < o.grants) ∧
    (let o := { kindOf 5 with pm := [(1, 4)] }
     o.held.length < field (Map.get o.pm 0 1) 6 0) := by decide +kernel

theorem test_witness_operator_emission :
    let s := withOper (kindOf 0) (opTok .l 0)
    t11.valid = true ∧ (s.oper op5).region = 0 + 1 ∧ isDead (s.region 0) op5 0 0 = false ∧
    placeExists (Token.site (operToken (s.oper op5) t11 (tk 1))) 0 = true ∧
    operDomain s 0 (operToken (s.oper op5) t11 (tk 1)) = none := by decide +kernel

theorem test_witness_operator_emission_live :
    let d : Domain := { Domain.none with members := [member (Site.key ⟨0, 1, 1⟩) 0], live := [⟨0, 0, false⟩] }
    let s := { withOper (kindOf 0) (opTok .l 0) with regions := [(0, { placedRegion with domains := [d] })] }
    operDomain s 0 (operToken (s.oper op5) t11 (tk 1)) = some 0 ∧ ((s.region 0).domains.getD 0 Domain.none).isLive 0 = true := by
  decide +kernel

/-- An access of operator site (0, 0, 5). -/
def acc (kind : AccKind) (phase : Nat) : Access :=
  ⟨0, kind, 0, op5, 1, 0, 0, 0, 0x1000, 8, [], [], 0x1000, phase, [], 0, 0, 0, 0, none, [1, 0, 0, 0, 0, 0, 0, 0], false, none⟩

/-- The machine with that operator and that access. -/
def withAccess (o : Oper) (a : Access) : State := { withOper o (opTok .l 0) with accesses := [a] }

theorem test_witness_element_returns :
    (∀ k ∈ [0, 2], ∃ s, s = withAccess { kindOf k with state := 2 } (acc .read 5) ∧ s.fatal = false ∧ s.access 0 = some (acc .read 5) ∧
      (acc .read 5).req = none ∧ (acc .read 5).kind = .read ∧ elementParts s (acc .read 5) = [acc .read 5] ∧
      (acc .read 5).poison = false ∧ operAwake s op5 = true ∧ (acc .read 5).elem = (s.oper op5).done ∧ (s.oper op5).state = 2 ∧
      operCan op5 (toA (s.oper op5)) (tk 1) s = true ∧
      ∀ t ∈ blockTokens (s.oper op5) (acc .read 5) [acc .read 5], operCan op5 (toA (s.oper op5)) t s = true) ∧
    (let s := withAccess { kindOf 6 with held := [opTok .l 1] } (acc .read 5)
     (s.oper op5).held = opTok .l 1 :: [] ∧ (acc .read 5).op ≠ 3 ∧ (acc .read 5).elem = (s.oper op5).done ∧
     operCan op5 (toA (s.oper op5)) (opTok .l 1) s = true) ∧
    (let s := withOper { kindOf 0 with state := 5 } (opTok .l 0)
     s.fatal = false ∧ operAwake s op5 = true ∧ (s.oper op5).state = 5) ∧
    (let s := withOper { kindOf 1 with state := 2, joins := 1 } (opTok .l 0)
     (s.oper op5).state = 2 ∧ closed (s.oper op5) = true ∧ s.accesses = []) := by
  refine ⟨fun k hk => ⟨_, rfl, ?_⟩, ?_⟩
  · revert k hk; decide +kernel
  · decide +kernel

/-- A STORE of one tag level with four elements in its pass. -/
def store4 : Oper := { kindOf 1 with state := 2, counts := [4], sent := 4, pm := [(1, 7 * 2 ^ 8)] }

/-- A data token for each kind of operator, in a state in which the kind acts on it. -/
theorem test_witness_OperatorData :
    (∀ x ∈ [(store4, Port.l), (kindOf 2, .l), (kindOf 2, .p), (kindOf 3, .l), (kindOf 3, .r), (kindOf 6, .l), (kindOf 7, .l), (kindOf 8, .l),
        (kindOf 9, .l), (kindOf 10, .l), (kindOf 0, .l), (kindOf 5, .l), (kindOf 11, .r)],
      Takes (withOper x.1 (opTok x.2 3)) 0 (fly (opTok x.2 3)) (opTok x.2 3)) := by
  intro x hx; refine takes _ _ ?_; revert x hx; decide +kernel

theorem test_witness_store_gather :
    (let s := withOper store4 (opTok .l 3)
     let o := s.oper op5
     o.state = 2 ∧ o.pos < o.sent ∧ operMay s op5 = true ∧ cabooseRoom s (some (o.region - 1)) 1 = true ∧ 0 ∉ o.counts ∧
     (opTok .l 3).poison = false ∧ storeElement o (opTok .l 3) (Map.get o.arrivals 0 0) = some [0] ∧
     inSpace (elementAddr o [0]) (elemSize o) = true ∧ inSpace (elementAddr { o with base := 2 ^ 57 } [0]) (elemSize o) = false ∧
     storeElement { o with counts := [0] } (opTok .l 3) 0 = none) ∧
    (let o := { kindOf 2 with state := 2, pm := [(3, 8 * 2 ^ 32), (5, 4)] }
     let s := withOper o (opTok .l 3)
     itemMode (kindOf 2) ≠ 2 ∧ itemMode { kindOf 2 with pm := [(1, 2)] } = 2 ∧ (s.oper op5).state = 2 ∧
     (s.oper op5).pos < field (Map.get (s.oper op5).pm 0 5) 31 0 ∧ bit (Map.get (s.oper op5).pm 0 1) 5 = false ∧
     operMay s op5 = true ∧ (s.oper op5).mask = none) ∧
    (let o := { kindOf 3 with state := 2, pm := [(5, 4)], held2 := [opTok .r 9] }
     o.state = 2 ∧ o.pos < field (Map.get o.pm 0 5) 31 0 ∧
     o.held2.find? (fun y => y.tag == (opTok .l 3).tag && y.seq == (opTok .l 3).seq) = some (opTok .r 9) ∧
     ({ o with held2 := [] } : Oper).held2.find? (fun y => y.tag == (opTok .l 3).tag && y.seq == (opTok .l 3).seq) = none ∧
     o.held.any (fun y => y.tag == (opTok .l 3).tag && y.seq == (opTok .l 3).seq) = false) := by decide +kernel

theorem test_witness_lookup_and_others :
    (let o := { kindOf 6 with pm := [(1, 8)] }
     (opTok .l 3).payload.toNat / 2 ^ field (Map.get o.pm 0 1) 37 32 < field (Map.get o.pm 0 1) 31 0 ∧
     field (Map.get o.pm 0 1) 31 0 ≤ (opTok .l 9).payload.toNat / 2 ^ field (Map.get o.pm 0 1) 37 32 ∧ o.held = []) ∧
    (let o := { kindOf 7 with pm := [(1, 4)] }
     ((opTok .l 3).tag.toNat = o.expTag ∧ (bit (Map.get o.pm 0 0) 0 = false ∨ (opTok .l 3).seq.toNat = o.expSeq)) ∧
     operCan op5 (toA o) (opTok .l 3) (withOper o (opTok .l 3)) = true ∧
     ¬({ opTok .l 3 with tag := 1 } : Token).tag.toNat = o.expTag ∧ o.held.length < field (Map.get o.pm 0 1) 6 0) ∧
    (({ kindOf 8 with discard := true } : Oper).discard = true ∧ ({ kindOf 8 with state := 2 } : Oper).discard = false) ∧
    ((∀ y ∈ (kindOf 9).sieve, y.tag ≠ 0) ∧ (kindOf 9).sieve.length < 16) ∧
    (let o := { kindOf 10 with pm := [(0, 5 * 2 ^ 32 + 4)], counts := [0], held := [opTok .l 1] }
     let s := { withOper o (opTok .l 3) with clocks := [(0, 5)] }
     o.held.length < compareDepth o ∧ o.held2 = [] ∧ pairMatches (opTok .l 3) { opTok .l 3 with port := .r } = true ∧
     pairMatches (opTok .l 3) (opTok .l 4) = false ∧ (s.oper op5).counts = 0 :: [] ∧ field (Map.get o.pm 0 0) 63 32 ≠ 0 ∧
     0 + field (Map.get o.pm 0 0) 63 32 ≤ s.now 0) := by decide +kernel

theorem test_witness_loop_iteration :
    (let o := { kindOf 4 with state := 2, sent := 2, counts := [2], pm := [(12, BitVec.ofNat 64 (Target.bits t11))] }
     let u := retireTags (withOper o (opTok .l 0)) 0
     (u.oper op5).region = 0 + 1 ∧ (u.oper op5).state = 2 ∧ (u.oper op5).pos < (u.oper op5).sent ∧ operMay u op5 = true ∧
     (toA (u.oper op5)).valid = true ∧ cabooseRoom u (some 0) 1 = true ∧ (u.region 0).domainOf (member op5 0) = none) ∧
    (∀ x ∈ [([LiveTag.mk 0 0 false], 0), ([], 1)],
     let o := { kindOf 4 with state := 2, sent := 2, counts := [2], pm := [(12, BitVec.ofNat 64 (Target.bits t11))] }
     let d : Domain := ⟨[member op5 0, member (Site.key ⟨0, 1, 1⟩) 0], [⟨op5, 0, 4, []⟩], false, x.1, [], 1, []⟩
     let s := { withOper o (opTok .l 0) with
       regions := [(0, { placedRegion with domains := [d] })]
       pes := [(Site.key ⟨0, 1, 1⟩, { Pe.idle with entries := [⟨0, 0, 0, .r, tk 2, false, false⟩] })] }
     let u := retireTags s 0
     (u.region 0).domainOf (member op5 0) = some 0 ∧
     (if x.2 = 0 then ((u.region 0).domains.getD 0 Domain.none).isLive 0 = true
      else ((u.region 0).domains.getD 0 Domain.none).isLive 0 = false ∧ canAdmit u 0 0 (some (member op5 0)) 0 = true ∧ isNext u 0 0 0 (member op5 0) = true)) := by
  decide +kernel

theorem test_witness_operator_access :
    let s := withOper (kindOf 1) (opTok .l 0)
    (s.oper op5).region = 0 + 1 ∧ 0 < 8 ∧ 0x1000 % 64 + 8 ≤ 64 ∧ ([1, 2] : List Byte).length ≤ 8 := by decide +kernel

/-- A request of a form at the PORT of site (0, 0, 5). -/
def req (op : Nat) (addr : Word) : PortReq :=
  ⟨op, 3, .i64, false, .rne, false, addr, 5, 0, tk 0, t11, t11, Site.key ⟨0, 1, 1⟩, 0, 0, 0, tk 0⟩

/-- The machine with a PORT and a request on its way to it, page 0 of context 0 translated to itself at every unit. -/
def withReq (o : Oper) (q : PortReq) (d : QueueReg) : State :=
  { run [] with
    opers := [(op5, { o with region := 1 })], queues := [(3, d)], tlb := (List.range 64).map (fun u => ⟨u, 0, 16, 0, 0, true, true, false⟩)
    net := [⟨Site.key ⟨0, 1, 1⟩, 0, .request, op5, 7, .port q, 1, false, false⟩] }

/-- A PORT of class 0 with eight requests outstanding at most. -/
def port8 : Oper := { kindOf 11 with pm := [(4, 8)] }

theorem test_witness_PortsAndTransfers :
    (let s := withReq port8 (req 0x207 8) QueueReg.zero
     s.fatal = false ∧ (headOfLane s.net 0).map Flight.msg = some (.port (req 0x207 8)) ∧ (s.oper op5).kind = 11 ∧
     s.accesses = [] ∧ 0 < field (Map.get (s.oper op5).pm 0 4) 8 0 ∧ fenced (s.oper op5) 0 = false ∧
     forwardBusy s (s.oper op5) (req 0x207 8) = false) ∧
    (let d : QueueReg := ⟨0, 0x102, 0, 1⟩
     let s := withReq port8 (req 0x213 8) d
     bit d.cfg 8 = true ∧ bit d.cfg 9 = false ∧ bit d.cfg 10 = false ∧ QueueReg.used d < QueueReg.depth d ∧ QueueReg.used d ≠ 0 ∧
     queuePa s d (field d.tail 31 0) true = .at 16 ∧ queuePa s d (field d.head 31 0) false = .at 0 ∧ queueHeld s (req 0x213 8) = false ∧ migrating s 0 = none ∧
     rangePoisoned s 0 16 = false ∧ QueueReg.used { d with tail := 0 } = 0) ∧
    (2 ^ 57 ≤ (req 0x207 (2 ^ 57)).addr.toNat ∧ (req 0x207 9).addr.toNat % 8 ≠ 0 ∧ (req 0x207 8).addr.toNat % 8 = 0 ∧
     sectorRead (req 0x207 8) = false) ∧
    (let f : FenceWait := ⟨req 0x280 0, [], [], true⟩
     let s := withReq { port8 with fences := [f] } (req 0x207 8) QueueReg.zero
     (s.oper op5).fences[0]? = some f ∧ f.arrived = true ∧ (∀ a ∈ s.accesses, a.id ∈ f.covered → 5 ≤ a.phase) ∧
     ∀ g ∈ f.ahead, aheadOpen s g = false) := by decide +kernel

theorem test_witness_transfers :
    (∀ x ∈ [(0x18 : Nat), 0x19, 0x1A, 0x1B, 0x1C, 0x1D], Takes (withOper port8 (opCtl x 0)) 0 (fly (opCtl x 0)) (opCtl x 0) ∧
      cabooseRoom (withOper port8 (opCtl x 0)) (some 0) 1 = true ∧
      commandFenced (withOper port8 (opCtl x 0)) (fly (opCtl x 0)) = false ∧ ctlKind (opCtl x 0) = x) ∧
    (∀ k ∈ [(0x19 : Nat), 0x1A, 0x1B],
      let m : Transfer := ⟨0, k, 0, 0x2000, 0x1000, 8, 0, 0, 0, 0, 0, 0, 2, 0, opCtl k 0, 0, []⟩
      let s := withAccess { port8 with moves := [m] } (acc .write 4)
      s.fatal = false ∧ s.access 0 = some (acc .write 4) ∧ moveOf s op5 0 = some m ∧ m.phase = 2 ∧ m.len.toNat = 8) := by
  refine ⟨fun x hx => ⟨takes _ _ ?_, ?_, ?_⟩, ?_⟩
  · revert x hx; decide +kernel
  · revert x hx; decide +kernel
  · revert x hx; decide +kernel
  · decide +kernel

theorem test_witness_drive_access :
    let s := { withReq port8 (req 0x207 8) QueueReg.zero with modRegs := { ModRegs.reset with nqp := [(2, 2 ^ 63)] } }
    s.fatal = false ∧ bit (Map.get s.modRegs.nqp 0 (4 * 0 + 2)) 63 = true ∧ s.modRegs.nwin.toNat ≤ 0x40 ∧
    translate s ioUnit 0 0x40 = .page 16 0 true true false ∧ migrating s 0x40 = none := by decide +kernel

/-! ### Witnesses: translation, loads, regions, faults, host and links -/

/-- The least image: one load with one region of 8 by 8 PEs and no words (R325 to R328), its CRC-32C worked out by hand. -/
def imageBytes : List Byte :=
  wordBytes ([0x0001000057534143, 0x0000000100010000, 7, 272, 64, 0x0CD7DFA9, 0, 0,
    96, 176, 0x10000, 32, 0xA180000000880000, 0, 0, 0] ++ List.replicate 18 0)

/-- The machine with that image at 0x10000, a registration under way, and launch queue 0 enabled with one entry. -/
def withImage (g : State → State) : State :=
  g { run [] with
    regions := [], mem := Memory.writeBytes [] 0x10000 imageBytes
    modRegs := { ModRegs.reset with hifact := 0x10100, imgaddr := 0x10000, imglen := 272, imgcmd := 1, imgstat := 1, imghdl := 7 } }

theorem test_witness_registration :
    (let s := withImage id
     s.fatal = false ∧ bit s.modRegs.imgstat 0 = true ∧ s.modRegs.imgcmd.toNat = 1 ∧
     imageReject s s.modRegs.imgaddr.toNat s.modRegs.imglen.toNat = none) ∧
    (imageReject (withImage id) 0x10000 271).isSome = true ∧
    (let s := withImage (fun s => { s with modRegs := { s.modRegs with imgcmd := 2 } })
     bit s.modRegs.imgstat 0 = true ∧ s.modRegs.imgcmd.toNat = 2 ∧
     ((s.regions.any (fun kr => kr.2.valid && kr.2.image == s.modRegs.imghdl)) || headNames s s.modRegs.imghdl) = false) ∧
    (let s := withImage (fun s => { s with regions := [(0, { placedRegion with image := 7 })] })
     ((s.regions.any (fun kr => kr.2.valid && kr.2.image == s.modRegs.imghdl)) || headNames s s.modRegs.imghdl) = true) := by
  decide +kernel

/-- The registered image, a launch block at 0x20000 that names it, and a queue entry for it at 0x30000. -/
def withLaunch (block : List Word) (g : State → State) : State :=
  withImage (fun s => g { s with
    images := [⟨7, 0x10000, 272⟩], tlb := [⟨ioUnit, 0, 21, 0, 0, true, true, false⟩], queues := [(192, ⟨0x30000, 0x104, 0, 1⟩)]
    mem := Memory.writeBytes (Memory.writeBytes s.mem 0x20000 (wordBytes block)) 0x30000 (wordBytes [0x20000, 5]) })

/-- The load of that image, and the instance that is being started for it. -/
def load0 : LoadSec := readLoad (withImage id) 0x10000 0

/-- The instance in a phase. -/
def inst5 (phase : Nat) : Inst := ⟨5, 7, 0, 0, 0, 0, 0, 0, [0], phase, 0, 0, [], false, 0⟩

theorem test_witness_arbitration :
    (let s := withLaunch [8, 0, 0, 0, 0, 0] id
     s.fatal = false ∧ (headBlock s 0).isSome = true ∧
     (headBlock s 0).map (fun b => launchReason s b.1 b.2.2) = some (some 2)) ∧
    (let s := withLaunch [7, 0, 0, 0, 0, 0] id
     (headBlock s 0).map (fun b => (b.1, b.2.1, launchReason s b.1 b.2.2, decide (b.2.2.prio < 8), b.2.2.preds)) =
       some (0x20000, 5, none, true, []) ∧
     (∀ q ∈ List.range 64, q ≠ 0 → (headBlock s q).isNone = true) ∧ s.insts = [] ∧
     ((headBlock s 0).bind (fun b => launchLoad s b.2.2)).isSome = true ∧ evictions s (s.taken + 1) 7 load0 false [] = some []) := by
  decide +kernel

theorem test_witness_instance_chosen :
    let s := withLaunch [7, 0, 0, 0, 0, 0] (fun s => { s with insts := [inst5 0] })
    s.inst 5 = some (inst5 0) ∧ (inst5 0).phase = 0 ∧ s.imageOf (inst5 0).image = some ⟨7, 0x10000, 272⟩ ∧
    readLoad s 0x10000 0 = load0 ∧ evictions s (inst5 0).entry 7 load0 false [] = some [] ∧ reusable s 7 load0 0 = none ∧
    freeRecord s (Region.die (load0.regions.getD 0 Region.empty)) = some 0 := by decide +kernel

theorem test_witness_instance_resident :
    let s := withLaunch [7, 0, 0, 0, 0, 0] (fun s => { s with insts := [inst5 1], regions := [(0, { placedRegion with image := 7 })] })
    s.inst 5 = some (inst5 1) ∧ (inst5 1).phase = 1 ∧ instLoad s (inst5 1) = some load0 ∧ instResident s (inst5 1) = true ∧
    load0.blocks.length ≤ (inst5 1).dataNext ∧ reusable s 7 load0 0 = some 0 := by decide +kernel

theorem test_witness_instance_running :
    let s := withLaunch [7, 0, 0, 0, 0, 0] (fun s => { s with insts := [inst5 3], regions := [(0, { placedRegion with image := 7 })] })
    s.inst 5 = some (inst5 3) ∧ ∀ k ∈ (inst5 3).regions, quiescent s k = true ∧ nothingDue s k = true ∧ (s.region k).rolling = false := by
  decide +kernel

theorem test_witness_instance_configured :
    ∀ n ∈ [0, 2],
      let s := withLaunch [7, 0, 0, 0, 0, 0] (fun s => { s with regions := [(0, { placedRegion with image := 7, status := 1, words := n })] })
      regionLoad s 0 = some load0 ∧ (s.region 0).status = 1 ∧
      (if n = 0 then ((configWords s 0 load0)[0]?).isSome = true else (configWords s 0 load0).length ≤ n) := by decide +kernel

/-- A block of initial data of eight bytes at address 0x40, in a page that may be written, and one past the end. -/
theorem test_witness_initial_data :
    let s := withLaunch [7, 0, 0, 0, 0, 0] id
    let b : DataBlock := ⟨0x40, 8, 0x10000, true⟩
    b.va.toNat + b.len ≤ 2 ^ 57 ∧
    (writeVa 0 (vaParts b.va.toNat b.len) (Memory.readBytes s.mem b.start b.len) s).isSome = true ∧
    2 ^ 57 < ({ b with va := 2 ^ 57 } : DataBlock).va.toNat + b.len := by decide +kernel

/-- Tables: a root at 0x40000, a middle table at 0x50000, a leaf table at 0x60000, and a page of 64 KiB at 0x70000; a page of
512 MiB beside it. -/
def tables : State :=
  { run [] with
    modRegs := { ModRegs.reset with hifact := 0x10100, troot := [(0, 0x40001)] }
    mem := Memory.writeBytes (Memory.writeBytes (Memory.writeBytes (Memory.writeBytes [] 0x40000 (wordBytes [0x50001]))
      0x50000 (wordBytes [0x60001, 0x2000000F])) 0x60000 (wordBytes [0x7000F])) 0x70000 [1] }

theorem test_witness_walk :
    bit (Map.get tables.modRegs.troot 0 0) 0 = true ∧ tables.poisonMem = [] ∧
    Memory.readWord tables.mem (field (Map.get tables.modRegs.troot 0 0) 51 18 * 2 ^ 18 + 8 * 0) = 0x50001 ∧ bit (0x50001 : Word) 0 = true ∧
    entryBad 0 0 0x50001 = false ∧ Memory.readWord tables.mem (field (0x50001 : Word) 51 16 * 2 ^ 16 + 8 * 0) = 0x60001 ∧
    bit (0x60001 : Word) 0 = true ∧ entryBad 1 0 0x60001 = false ∧ bit (0x60001 : Word) 1 = false ∧
    Memory.readWord tables.mem (field (0x60001 : Word) 51 16 * 2 ^ 16 + 8 * 0) = 0x7000F ∧ entryBad 2 0 0x7000F = false ∧
    (entryBad 1 1 0x2000000F = false ∧ bit (0x2000000F : Word) 1 = true) ∧
    bit (Map.get (run []).modRegs.troot 0 0) 0 = false := by decide +kernel

/-- Accesses that wait for translation (a fault, no permission, no reference count, a page), for a pin, for their home, at the
filter, and for an expander. -/
theorem test_witness_Translation :
    (let s := withAccess (kindOf 1) (acc .read 0)
     s.access 0 = some (acc .read 0) ∧ (acc .read 0).phase = 0 ∧ inTurn s (acc .read 0) = true ∧
     translate s (acc .read 0).unit 0 0x1000 = .fault 0 1) ∧
    (∀ x ∈ [(false, true, true), (true, true, false), (true, true, true)],
     let s := { withAccess (kindOf 1) (acc .read 0) with tlb := [⟨0, 0, 16, 0, 0, x.1, x.2.1, x.2.2⟩] }
     translate s 0 0 0x1000 = .page 16 0 x.1 x.2.1 x.2.2 ∧ permits .read x.1 x.2.1 = x.1 ∧ holdsPin s (acc .read 0) 0 = false) ∧
    (let s := { withAccess (kindOf 1) (acc .read 1) with tlb := [⟨0, 0, 16, 0, 0, true, true, true⟩] }
     waitsPin s (acc .read 1) = true ∧ pinnedPages s 0 < 1024 ∧ inTurn s (acc .read 1) = true) ∧
    (let s := withAccess (kindOf 1) (acc .read 2)
     (acc .read 2).phase = 2 ∧ sectorTurn s (acc .read 2) = true ∧ filterAt s (homeOf 0x1000) (filterSpots 0x1000).1 = []) ∧
    (let b := { acc .write 3 with id := 1 }
     let s := { withAccess (kindOf 1) (acc .read 2) with accesses := [acc .read 2, b] }
     sectorTurn s (acc .read 2) = true ∧ filterAt s (homeOf 0x1000) (filterSpots 0x1000).1 ≠ [] ∧
     filterAt s (homeOf 0x1000) (filterSpots 0x1000).2 ≠ []) ∧
    (inT3 (acc .read 2).pa = false ∧ inT3 (2 ^ 46) = true) := by decide +kernel

theorem test_witness_held_streams :
    (let h : Hold := ⟨0, 0, 0, true, [0, 0, 0, 0]⟩
     let s := { withAccess (kindOf 1) (acc .read 1) with holds := [h] }
     s.hostOpen = true ∧ heldBy? s 0x10000 = some h ∧ field (0x10000 : Word) 17 16 = 1 ∧ heldBy? s 0x10001 = none ∧
     (heldBy? s 0x20000 = some h ∧ field (0x20000 : Word) 17 16 = 2 ∧ s.access h.access = some (acc .read 1))) ∧
    ((run []).faultQ = [] ∧ (run []).holds = [] ∧ (run []).inval = [] ∧ (run []).tinvWait = []) ∧
    (let s := { run [] with inval := [⟨2, 0, 0, []⟩] }
     s.inval = ⟨2, 0, 0, []⟩ :: [] ∧ (∀ a ∈ s.accesses, a.id ∈ ([] : List Nat) → 5 ≤ a.phase)) ∧
    (let s := { run [] with retire := [(0, 0x10000, 16)], modRegs := { ModRegs.reset with hifact := 0x10100, fqcfg := 0x10004 } }
     s.retire[0]? = some (0, 0x10000, 16) ∧ s.inval = [] ∧ s.pins = [] ∧ s.faultQ = [] ∧ s.faultRoom = true) ∧
    (let s := { run [] with opers := [(op5, { kindOf 1 with state := 4, arms := [⟨0, none⟩] })] }
     (s.opers.find? (fun ko => ko.2.state == 4 && !ko.2.arms.isEmpty && servingUnit s ko.1 == servingUnit s op5)).isSome = true ∧
     slotFree s (servingUnit s op5) = true) := by decide +kernel

theorem test_witness_performed :
    migrating (run []) 0x1000 = none ∧ (acc .read 2).cmp = [] ∧
    ((req 0x207 8).op = 0x207 ∧ sectorRead (req 0x207 8) = false ∧ (acc .read 2).poison = false ∧ (req 0x207 8).targetB.valid = true) ∧
    (pinnedPages (run []) 0 < 1024 ∧ ((withAccess (kindOf 1) (acc .read 1)).oper op5).kind = 1) := by decide +kernel

/-! ### Control of regions, marks, faults, the host and the links -/

/-- The machine with region 0 changed. -/
def withR (g : Region → Region) : State := { run [] with regions := [(0, g placedRegion)] }

/-- A halted region whose PE (0, 1, 1) the debug block reads. -/
def debugged (halt : Bool) : State :=
  { withR (fun r => { r with halted := halt }) with dies := [(0, { DieRegs.reset with daddr := 0x300204 })] }

theorem test_witness_region_control :
    ((run []).hostOpen = true ∧ (placedRegion.valid = true ∧ placedRegion.status = 2)) ∧
    (let s := withR (fun r => { r with halted := true })
     (s.region 0).halted = true ∧ regionOpers s 0 = [] ∧ field (0x100 : Word) 5 0 = 0 ∧ field (0x100 : Word) 15 8 = 1) ∧
    (readable (debugged true) (debugRegion (debugged true) 0 0x300204) = true ∧
     (debugItem (debugged true) (debugRegion (debugged true) 0 0x300204) 0 0x300204).isSome = true ∧
     readable (debugged false) (debugRegion (debugged false) 0 0x300204) = false) ∧
    (placedRegion.preempt.mode = 0) := by decide +kernel

theorem test_witness_RegionControl :
    (let s := { run [] with insts := [inst5 3], modRegs := { ModRegs.reset with hifact := 0x10100, pssize := 4096 } }
     s.hostOpen = true ∧ s.inst 5 = some (inst5 3) ∧ (inst5 3).phase = 3 ∧ s.poolHolds (inst5 3).regions = true ∧
     (run []).poolHolds [0] = false) ∧
    (let s := { withR (fun r => { r with preempt := ⟨1, 0, 0, 0, false⟩ }) with
       modRegs := { ModRegs.reset with hifact := 0x10100, pssize := 4096 } }
     s.fatal = false ∧ s.poolHolds [0] = true ∧ (s.region 0).rolling = false ∧ (s.region 0).halted = false ∧ Region.saving (s.region 0) = 1 ∧
     waveBoundary s 0 = true) ∧
    (let s := { withR (fun r => { r with preempt := ⟨2, 0, 0, 0, false⟩ }) with
       modRegs := { ModRegs.reset with hifact := 0x10100, pssize := 4096 } }
     Region.saving (s.region 0) = 2 ∧ saveReady s 0 = true) ∧
    (let x := inst5 5
     let s := withLaunch [7, 0, 0, 0, 0, 0] (fun s => { s with insts := [x], regions := [(0, { placedRegion with status := 6, image := 7, inst := 5 })] })
     s.inst 5 = some x ∧ x.byHost = false ∧ (resumePlan s x).isSome = true ∧ ({ x with byHost := true } : Inst).byHost = true) ∧
    (∀ p ∈ [3, 0],
     let s := { withR (fun r => { r with preempt := ⟨1, 0, 8, p, false⟩ }) with clocks := [(0, 9)], insts := [{ inst5 3 with policy := p }] }
     s.inst 5 = some { inst5 3 with policy := p } ∧ (inst5 3).regions = [0] ∧ budgetOver s 0 = true ∧
     (s.region 0).preempt.mode = 1) := by decide +kernel

theorem test_witness_MarksAndRollback :
    (let s := { run [] with clocks := [(0, 1024)] }
     let r := s.region 0
     s.fatal = false ∧ r.rolling = false ∧ r.status = 2 ∧ r.markAt / 1024 < s.now r.die / 1024 ∧ r.unprot = false ∧ r.oldest ≤ r.wave) ∧
    (∀ kr ∈ (State.reset).regions, kr.2.valid = false) ∧
    (([0, 1, 2, 6].map (fun st => ((withR (fun r => { r with status := st })).region 0).status)) = [0, 1, 2, 6]) ∧
    (let s := withR (fun r => { r with unprot := true })
     (s.region 0).status = 2 ∧ (s.region 0).unprot = true) ∧
    (let s := withR (fun r => { r with rolling := true, restarts := 1 })
     (s.region 0).status = 2 ∧ (s.region 0).unprot = false ∧ (s.region 0).rolling = true ∧ 1 ≤ (s.region 0).restarts ∧
     (s.region 0).replayQ = [] ∧ regionOpers s 0 = []) ∧
    (let s := { run [] with snaps := [⟨0, 0, some placedRegion, [], [], [], [], none, [], []⟩] }
     (s.region 0).rolling = false ∧ (replaySnap s 0).isSome = true) ∧
    (let p : Snap := ⟨0, 0, some placedRegion, [], [], [], [], none, [], []⟩
     let s := { run [] with parked := [p] }
     p ∈ s.parked ∧ (s.region p.region).inst = placedRegion.inst) ∧
    isTile ⟨0, 1, 17⟩ = true := by decide +kernel

theorem test_witness_FatalAndReset :
    (run []).fatal = false ∧ (Memory.wf (run []).mem = true ∧ Memory.wf (run []).hostMem = true) ∧
    (let s := { run [] with fatal := true, modRegs := { ModRegs.reset with dmpsize := 4096 } }
     s.fatal = true ∧ bit s.modRegs.fstat 4 = false ∧ field s.modRegs.dmpsize 31 0 ≠ 0) ∧
    bit ({ ModRegs.reset with fstat := 16 } : ModRegs).fstat 4 = true ∧
    ((run []).hostOpen = true ∧ bit (0x100 : Word) 8 = true ∧ field (0x100 : Word) 4 0 = 0 ∧ dieHeld (run []) 0 = false) ∧
    dieHeld { run [] with insts := [inst5 3] } 0 = true ∧
    (let s := { State.reset with booted := true }
     s.fatal = false ∧ s.booted = true ∧ field s.modRegs.hifact 17 16 = 0 ∧ bit (0x10100 : Word) 16 = true ∧
     field (0x10100 : Word) 15 8 = 1 ∧ bit (0x10200 : Word) 16 = true ∧ field (0x10200 : Word) 15 8 ≠ 1) ∧
    field (run []).modRegs.hifact 17 16 ≠ 0 ∧ State.reset.hostOpen = false := by decide +kernel

/-- A queue of four entries, enabled, that the host writes and reads. -/
def hostQ (head tail : Word) : QueueReg := ⟨0, 0x702, head, tail⟩

theorem test_witness_host_queues :
    ((run []).hostOpen = true ∧ (run []).reports = []) ∧
    (let r := hostQ 0 2
     bit r.cfg 8 = true ∧ bit r.cfg 10 = true ∧ 1 ≤ (field (2 : Word) 31 0 + 2 ^ 32 - field r.head 31 0) % 2 ^ 32 ∧
     (field (2 : Word) 31 0 + 2 ^ 32 - field r.head 31 0) % 2 ^ 32 ≤ QueueReg.used r ∧
     ¬((field (3 : Word) 31 0 + 2 ^ 32 - field r.head 31 0) % 2 ^ 32 ≤ QueueReg.used r)) ∧
    (let r := hostQ 0 2
     bit r.cfg 9 = true ∧ 1 ≤ (field (4 : Word) 31 0 + 2 ^ 32 - field r.tail 31 0) % 2 ^ 32 ∧
     (field (4 : Word) 31 0 + 2 ^ 32 - field r.tail 31 0) % 2 ^ 32 + QueueReg.used r ≤ QueueReg.depth r ∧
     ¬((field (5 : Word) 31 0 + 2 ^ 32 - field r.tail 31 0) % 2 ^ 32 + QueueReg.used r ≤ QueueReg.depth r)) ∧
    bit QueueReg.zero.cfg 8 = false := by decide +kernel

theorem test_witness_HostInterface :
    (let t := Token.ofWords (Token.header (tk 1)) 1
     let s := withPe nopWord id (tk 1)
     s.hostOpen = true ∧ s.regionAt (Token.site t) t.ctx.toNat = some 0 ∧ (s.region 0).status ≠ 6 ∧ windowBad s t = false ∧
     windowBad (run []) t = true) ∧
    (Memory.wf (run []).mem = true ∧ (run []).migrations = [] ∧ mapped (field (run []).modRegs.apbase 51 27 * 2 ^ 27 + 0) = true ∧
     mapped (field (run []).modRegs.apbase 51 27 * 2 ^ 27 + 7) = true ∧ mapped (field (0x0800000000000000 : Word) 51 27 * 2 ^ 27) = true ∧
     mapped (field (0x000FFFFFF8000000 : Word) 51 27 * 2 ^ 27) = false) ∧
    (bit ({ ModRegs.reset with hifact := 0x10100 } : ModRegs).imgstat 0 = false ∧ field (2 : Word) 1 0 = 2 ∧ field (3 : Word) 1 0 = 3) ∧
    (field (6 : Word) 31 3 = 0 ∧ field (6 : Word) 2 0 = 6) ∧ (repmapOk 33 = false) := by decide +kernel

/-- Drawbar port 0 changed. -/
def withLink (g : LinkPort → LinkPort) (s : State) : State := { s with links := [(0, g LinkPort.down)] }

/-- An idle beat of a sequence, and the bytes of one whose check fails. -/
def beat (seq : Nat) : Beat := ⟨true, .idle, [], seq, 0, 1, 0, 0⟩

/-- A PORT of the drawbar class on port 0, its tokens for site (1, 0, 5). -/
def portD : Oper := { kindOf 11 with pm := [(0, 3)] }

theorem test_witness_links :
    (let s := withLink (fun q => { q with lstat := 2, fails := [(0, 7)] }) (run [])
     s.fatal = false ∧ LinkPort.state (s.link 0) = 2 ∧ (Beat.read (Beat.bytes (beat 0))).good = true ∧
     (Beat.read (Beat.bytes (beat 0))).seq = (s.link 0).recvSeq ∧ (Beat.read []).good = false ∧ (Beat.read []).seq = 0 ∧
     7 ≤ Map.get (s.link 0).fails 0 (Beat.read []).seq ∧ (s.link 0).unacked = []) ∧
    (let s := withLink (fun q => { q with lstat := 2, resend := true }) { run [] with clocks := [(24, 4096)] }
     (s.link 0).resend = true ∧ (s.link 0).silence + 4096 ≤ s.now 24 ∧ Map.get (s.link 0).fails 0 0 < 7) ∧
    (let s := withLink (fun q => { q with lstat := 1 }) { run [] with clocks := [(24, 4096)] }
     LinkPort.state (s.link 0) = 1 ∧ (s.link 0).silence + 4096 ≤ s.now 24 ∧ s.reportRoom = false) ∧
    (let s : State := { run [] with modRegs := { ModRegs.reset with rqcfg := 4 + 2 ^ 16 } }
     s.reportRoom = true ∧ s.reports = [] ∧ ringUsed s.modRegs.rqFull s.modRegs.rqtail s.modRegs.rqhead = 0) ∧
    (let s := withLink (fun q => { q with lstat := 3 }) (run [])
     LinkPort.state (s.link 0) = 3 ∧ (s.link 0).told = false ∧ s.opers = []) ∧
    (let s := withLink (fun q => { q with lstat := 1, lctl := 1 }) (run [])
     LinkPort.state (s.link 0) = 1 ∧ (s.link 0).outQ = [] ∧ s.hostOpen = true ∧ bit (s.link 0).lctl 0 = true ∧
     bit ((run []).link 0).lctl 0 = false) := by decide +kernel

theorem test_witness_forward :
    ∃ n fl, Takes (withOper portD (opTok .r 1)) n fl (opTok .r 1) ∧ (opTok .r 1).port = .r ∧
      ((withOper portD (opTok .r 1)).oper fl.dst).kind = 11 ∧ Oper.portClass ((withOper portD (opTok .r 1)).oper fl.dst) = 3 ∧
      ((withOper portD (opTok .r 1)).oper fl.dst).unacked.length + forwardsHeld (withOper portD (opTok .r 1)) fl.dst < 1024 ∧
      ((withOper portD (opTok .r 1)).oper fl.dst).region = 0 + 1 ∧ cabooseRoom (withOper portD (opTok .r 1)) (some 0) 1 = true ∧
      LinkPort.maySend ((withOper portD (opTok .r 1)).link (streamLink ((withOper portD (opTok .r 1)).oper fl.dst))) = false :=
  ⟨0, fly (opTok .r 1), takes _ _ (by decide +kernel), by decide +kernel⟩

/-- A slot for operator site (0, 0, 5) from site (0, 0, 5) of module 1. -/
def slot (seq : Nat) : LinkSlot :=
  ⟨Token.bits (opTok .l 1), BitVec.ofNat 32 (siteBits ⟨0, 0, 5⟩ 0), BitVec.ofNat 32 (siteBits ⟨0, 0, 5⟩ 0), seq⟩

theorem test_witness_DrawbarLinks :
    (∀ n ∈ [0, 4],
     let s := { withLink (fun q => { q with lstat := 2, inQ := [(1, slot n)] }) (withOper portD (opTok .l 1)) with
       streamsIn := [⟨1, (slot 0).src, 0, 0, op5, 1⟩] }
     s.fatal = false ∧ slotPort s 1 (slot n) = some 0 ∧ (s.oper (Site.key (Target.site (targetOf (slot n).dst.toNat)))).kind = 11 ∧
     s.streamsIn.find? (fun x => x.module == 1 && x.src == (slot n).src) = some ⟨1, (slot 0).src, 0, 0, op5, 1⟩ ∧
     operCan op5 (toA (s.oper op5)) (opTok .l 1) s = true ∧
     s.streamsIn.find? (fun e => e.site == Site.key ⟨0, 0, 5⟩ && decide (0 < e.due) && LinkPort.maySend (s.link e.link)) =
       some ⟨1, (slot 0).src, 0, 0, op5, 1⟩) ∧
    (let a := (BitVec.ofNat 32 (siteBits ⟨0, 0, 5⟩ 0), 3)
     let s := withLink (fun q => { q with acksIn := [a] }) (run [])
     (s.links.find? (fun kp => kp.2.acksIn.contains a)).isSome = true) := by decide +kernel

/-! ### Words of the spec's examples, put together from the four columns of its tables -/

/-- A station word from its columns [127:96], [95:64], target A and target B. -/
def cols (h m a b : Nat) : Nat := h * 2 ^ 96 + m * 2 ^ 64 + a * 2 ^ 32 + b

/-- Group 0, R116: `lift: addsat.i8 #100` without its target: opcode 0x01C, arity 2, fmt_out 7, IMM, imm16 0x0064. -/
theorem test_decode_addsat : decodeTableWord 128 (cols 0x072E0010 0x00640000 0 0) =
    some (.addsat { plain with fmtOut := .i8, imm := true, imm16 := 100 }) := by decide +kernel

/-- Group 0, the gcd program's `ub`: `shr` by 32 to mx.r and mn.r; and its `fin`: tagop 6 with s = 3. -/
theorem test_decode_shr :
    decodeTableWord 128 (cols 0x03EC0010 0x00200000 0x80081001 0x80101001) = some (.shr { plain with
      imm := true, imm16 := 32, a := ⟨true, 0, 1, 2, 0, .r⟩, b := ⟨true, 0, 2, 2, 0, .r⟩ }) ∧
    decodeTableWord 128 (cols 0x03EC0C10 0x00200003 0x80002800 0) = some (.shr { plain with
      imm := true, imm16 := 32, tagop := 6, aux16 := 3, a := ⟨true, 0, 0, 5, 0, .l⟩ }) := by decide +kernel

/-- Group 0, the gcd program's `mx`, `mn`, `d` and `pk`. -/
theorem test_decode_gcd :
    decodeTableWord 128 (cols 0x04EC0001 0 0x80101800 0) = some (.max { plain with w32 := true, a := ⟨true, 0, 2, 3, 0, .l⟩ }) ∧
    decodeTableWord 128 (cols 0x04AC0001 0 0x80101801 0x80082001) = some (.min { plain with
      w32 := true, a := ⟨true, 0, 2, 3, 0, .r⟩, b := ⟨true, 0, 1, 4, 0, .r⟩ }) ∧
    decodeTableWord 128 (cols 0x006C0001 0 0x80102000 0x80082000) = some (.sub { plain with
      w32 := true, a := ⟨true, 0, 2, 4, 0, .l⟩, b := ⟨true, 0, 1, 4, 0, .l⟩ }) ∧
    decodeTableWord 128 (cols 0x0AAC0000 0x07E0 0x80102800 0) = some (.bins { plain with
      aux16 := 0x7E0, a := ⟨true, 0, 2, 5, 0, .l⟩ }) := by decide +kernel

/-- Group 1, R118: `f: ffma.bf16` without its target: opcode 0x083, arity 3, fmt_out 2, reserve 1. -/
theorem test_decode_ffma : decodeTableWord 128 (cols 0x20F40020 0 0 0) =
    some (.ffma { plain with arity := 3, fmtOut := .bf16, reserve := 1 }) := by decide +kernel

/-- Group 2, R129: `p: pack.bf16` without its target. -/
theorem test_decode_pack : decodeTableWord 128 (cols 0x41240000 0 0 0) = some (.pack { plain with fmtOut := .bf16 }) := by
  decide +kernel

/-- Group 3, the gcd program's `ga` (arity 2) and `wv` with window 8. -/
theorem test_decode_flow :
    decodeTableWord 128 (cols 0x60200000 0 0x80103000 0x80182800) = some (.steer { plain with
      fmtOut := .f64, a := ⟨true, 0, 2, 6, 0, .l⟩, b := ⟨true, 0, 3, 5, 0, .l⟩ }) ∧
    decodeTableWord 128 (cols 0x61E00610 0x00080000 0x80080800 0) = some (.wave { plain with
      fmtOut := .f64, tagop := 3, imm := true, imm16 := 8, a := ⟨true, 0, 1, 1, 0, .l⟩ }) := by decide +kernel

/-- Group 4, the fold pipeline's `put`, `chk`, `rz`, `rd` and `wr`; and R158's `req.ldo`. -/
theorem test_decode_names :
    decodeTableWord 128 (cols 0x80160000 0 0x80087800 0) = some (.nwr { plain with
      arity := 1, fmtOut := .f16, a := ⟨true, 0, 1, 15, 0, .l⟩ }) ∧
    decodeTableWord 128 (cols 0x819C0000 0 0x80087808 0) = some (.foldQ { plain with arity := 1, a := ⟨true, 0, 1, 15, 2, .l⟩ }) ∧
    decodeTableWord 128 (cols 0x815C0000 0 0x80087828 0) = some (.foldResize { plain with
      arity := 1, a := ⟨true, 0, 1, 15, 10, .l⟩ }) ∧
    decodeTableWord 128 (cols 0x80560000 0 0x80188000 0) = some (.nrd { plain with
      arity := 1, fmtOut := .f16, a := ⟨true, 0, 3, 16, 0, .l⟩ }) ∧
    decodeTableWord 128 (cols 0x825C0000 0xFC0F 0 0) = some (.reqLdo { plain with arity := 1, aux16 := 0xFC0F }) := by
  decide +kernel

/-- Group 5, the gcd program's `rep`, the fold pipeline's `tx`, and R279's fence of scope 2. -/
theorem test_decode_system :
    decodeTableWord 128 (cols 0xA14C0000 1 0 0) = some (.report { plain with arity := 0, aux16 := 1 }) ∧
    decodeTableWord 128 (cols 0xA3900C00 6 0x80088000 0) = some (.nop { plain with
      arity := 1, fmtOut := .f64, tagop := 6, aux16 := 6, a := ⟨true, 0, 1, 16, 0, .l⟩ }) ∧
    decodeTableWord 128 (cols 0xA01C0000 2 0 0) = some (.fence { plain with arity := 1, aux16 := 2 }) := by decide +kernel

/-- Group 6, R188's `mm.run.bf16 col=2 w=0 -> agg.l`. -/
theorem test_decode_mmRun : decodeTableWord 128 (cols 0xC0F40020 2 0x80484804 0) = some (.mmRun { plain with
    arity := 3, fmtOut := .bf16, reserve := 1, aux16 := 2, a := ⟨true, 0, 9, 9, 1, .l⟩ }) := by decide +kernel

/-- R14, R26: the two tokens worked out in the spec, to PE row 8 column 8 of die 0. -/
theorem test_token_header :
    Token.header { Token.zero with payload := 30, row := 9, col := 9, fmt := .i64 } = 0x0090900030000000 ∧
    Token.header { Token.zero with payload := 12, row := 9, col := 9, port := .r, fmt := .i64 } = 0x0090900230000000 := by decide

/-- R250: the descriptor of `sq`: I64 tiles of one word, extent 4, modulus 2, one reader, in tile 4 of column 0; sq(0), sq(1) and
sq(2) stand in slots 0, 1 and 0 with generations 0, 0 and 1. -/
theorem test_descriptor :
    let d : Desc := ⟨0x40000006, 3, 0x0001000100010002, 0x0000002000000010⟩
    d.words = 1 ∧ d.readers = 1 ∧ d.extent 0 = 4 ∧ d.modulus 0 = 2 ∧ d.slots = 2 ∧
    [0, 1, 2].map d.place = [some (0, 0), some (1, 0), some (0, 1)] := by decide

/-! ### Ill-formed words, one for each check of R98, and one that the checks accept -/

theorem test_wellFormed_accepts : Instr.wellFormed (.addsat { plain with fmtOut := .i8, imm := true, imm16 := 100 }) = true := by
  decide

/-- A reserved opcode and an unassigned one decode to no instruction. -/
theorem test_refuses_opcodes :
    decodeTableWord 128 (cols 0xE0000000 0 0 0) = none ∧ decodeTableWord 128 (cols 0x0AC00000 0 0 0) = none ∧
    wordReject 0x380 plain = some 0x40 ∧ wordReject 0x02B plain = some 0x41 := by decide +kernel

/-- Each check of the word refuses a term of its own: a reserved bit, an arity, an immediate where the form has no R and one that
does not fit, a third target beside an immediate, a target of no site, a squash whose target is no control port, a target named
twice, a tagop, a reservation, a format. -/
theorem test_refuses_ill_formed :
    wordReject 0 { plain with rsv := true } = some 0x42 ∧
    wordReject 0 { plain with arity := 3 } = some 0x43 ∧
    wordReject 0x00D { plain with arity := 1, imm := true } = some 0x44 ∧
    wordReject 0 { plain with fmtOut := .i8, imm := true, imm16 := 200 } = some 0x45 ∧
    wordReject 0 { plain with imm := true, tri := true } = some 0x46 ∧
    wordReject 0 { plain with a := ⟨true, 0, 127, 1, 0, .l⟩ } = some 0x47 ∧
    wordReject 0x18C { plain with arity := 1, fmtOut := .f64, a := t11 } = some 0x48 ∧
    wordReject 0 { plain with a := t11, b := t11 } = some 0x49 ∧
    wordReject 0 { plain with tagop := 3 } = some 0x4A ∧
    wordReject 0 { plain with lock := true } = some 0x4B ∧
    wordReject 0 { plain with fmtOut := .f32 } = some 0x4C := by decide

theorem test_wellFormed_refuses :
    ([Instr.add { plain with rsv := true }, .add { plain with arity := 3 }, .not { plain with arity := 1, imm := true },
      .add { plain with tagop := 3 }, .add { plain with fmtOut := .f32 }, .cvt { plain with svc := true }].map Instr.wellFormed)
      = [false, false, false, false, false, false] := by decide

/-! ### Worked examples of the spec: one step each -/

/-- The payload, format and poison of each token that a firing's result holds, and the code of each error. -/
def sent (i : Instr) (toks : List Token) : List (Word × Fmt × Bool) × List Nat :=
  match exec i (run toks) with
  | .next s => match (s.pe (Site.key ⟨0, 1, 1⟩)).results.getLast? with
    | some r => (r.emits.filterMap (fun e => match e with | .token t _ => some (t.payload, t.fmt, t.poison) | _ => none),
        r.emits.filterMap (fun e => match e with | .error x _ _ => some x.code | _ => none))
    | none => ([], [])
  | _ => ([], [])

/-- A word with one target. -/
def w1 : Fields := { plain with a := t11 }

/-- A token of a format on a port. -/
def tf (q : Port) (f : Fmt) (v : Word) : Token := { tk v with port := q, fmt := f }

/-- R116: addsat.i8 #100 clamps lane 1 to 255; add.i8.sat #100 delivers 44 there. -/
theorem test_addsat :
    sent (.addsat { w1 with fmtOut := .i8, imm := true, imm16 := 100 }) [tf .l .i8 0x0A0A0A0A0A0AC80A] =
      ([(0x6E6E6E6E6E6EFF6E, .i8, false)], []) ∧
    sent (.add { w1 with fmtOut := .i8, imm := true, imm16 := 100, sat := true }) [tf .l .i8 0x0A0A0A0A0A0AC80A] =
      ([(0x6E6E6E6E6E6E2C6E, .i8, false)], []) := by decide +kernel

/-- R118: one rounding of ffma.bf16 against the two of fmul.bf16 and fadd.bf16. -/
theorem test_ffma :
    ((sent (.ffma { w1 with arity := 3, fmtOut := .bf16 })
      [tf .l .bf16 0x3F88, tf .r .bf16 0x3F88, tf .p .bf16 0xBF90]).1.map Prod.fst).map (· % 65536) = [0x3B80] ∧
    (sent (.fmul { w1 with fmtOut := .bf16 }) [tf .l .bf16 0x3F88, tf .r .bf16 0x3F88]).1 = [(0x3F90, .bf16, false)] := by
  decide +kernel

/-- R127: cvt.i.i8.rne of FP32 lanes 3.5 and -1.0 gives 4 and a clamped 0 with poison. -/
theorem test_cvtI : (sent (.cvtI { w1 with arity := 1, fmtOut := .i8 }) [tf .l .f32 0xBF80000040600000]).1 =
    [(4, .i8, true)] := by decide +kernel

/-- R129: pack.bf16 of two FP32 tokens. -/
theorem test_pack : (sent (.pack { w1 with fmtOut := .bf16 }) [tf .l .f32 0x3F80C0003F800000, tf .r .f32 0x43E00000C0200000]).1 =
    [(0x43E0C0203F813F80, .bf16, false)] := by decide +kernel

/-- The gcd program's first trip: `ub`, `mn`, `d` and `pk` on the pair (48, 18). -/
theorem test_gcd_trip :
    (sent (.shr { w1 with imm := true, imm16 := 32 }) [tk 0x0000001200000030]).1 = [(18, .i64, false)] ∧
    (sent (.min { w1 with w32 := true }) [tk 0x0000001200000030, tf .r .i64 18]).1 = [(18, .i64, false)] ∧
    (sent (.sub { w1 with w32 := true }) [tk 48, tf .r .i64 18]).1 = [(30, .i64, false)] ∧
    (sent (.bins { w1 with aux16 := 0x7E0 }) [tk 30, tf .r .i64 18]).1 = [(0x000000120000001E, .i64, false)] := by decide +kernel

/-- R110: a zero divisor gives all ones, poisoned, and the most negative dividend over -1 itself under wrap. -/
theorem test_div :
    (sent (.div w1) [tk 7, tf .r .i64 0]).1 = [(0xFFFFFFFFFFFFFFFF, .i64, true)] ∧
    (sent (.rem w1) [tk (-7), tf .r .i64 2]).1 = [(-1, .i64, false)] := by decide +kernel

/-- R139, R289: the payload of the gcd program's stall record. -/
theorem test_stall_payload : ErrRec.payload ⟨0x0D, ⟨0, 2, 6⟩, 0, 0, 0x4118⟩ = 0x050D002060004118 := by decide

/-- R211: the scores 1.0, 9.0, 3.0, 4.5 and 5.0 of query tile 2 under tau = 4.0, with the diagonal kept, keep tiles 0, 1, 2
and 4. -/
theorem test_sieve :
    let o : Oper := { kindOf 9 with pm := [(0, 0x40800000), (1, 0x10000)] }
    let score := fun (j : Nat) (v : Word) => { opTok .l v with tag := 2, seq := BitVec.ofNat 6 j, fmt := .f32 }
    (sieveOne o (sieveOne o (sieveOne o (sieveOne o (sieveOne o ⟨2, 0xFF800000, 0, 0, 0, []⟩ (score 0 0x3F800000))
      (score 1 0x41100000)) (score 2 0x40400000)) (score 3 0x40900000)) (score 4 0x40A00000)).mask = 0x17 := by decide +kernel

/-- R66 to R70: the worked XF8 block of 28 bytes. -/
theorem test_xf8 :
    (match readBlock (streamBits [0x80, 0x00, 0x41, 0x04, 0x10, 0x41, 0x04, 0x10, 0x41, 0x04, 0x10, 0x41, 0x04, 0x10,
      0x51, 0x45, 0x14, 0x51, 0x45, 0x14, 0x68, 0xD1, 0xA3, 0x46, 0x8D, 0x20, 0xF4, 0x00]) with
      | .got xs _ => xs
      | _ => []) = List.replicate 16 0x38 ++ List.replicate 8 0x3C ++ List.replicate 6 0x34 ++ [0xC0, 0x00] := by decide +kernel

/-- R223: entries a, b and d of context 0 and c of context 3, the last served context being 0: c goes first, then a, then b. -/
theorem test_selector :
    let e := fun (c m : Nat) => (⟨c, 0, m, m, [tk 0], 0, 0⟩ : Ready)
    let s := fun (last : Nat) (q : List Ready) => { withPe nopWord (fun p => { p with
      ctxs := [(0, 0x40080000), (3, 0x40080001)], store := [(0, nopWord), (1, nopWord)], ready := q, lastCtx := last }) (tk 0) with
      clocks := [(0, 100)], regions := [(0, placedRegion), (1, { placedRegion with head := placedRegion.head + 0x30000000 })] }
    (s 0 [e 0 96, e 0 97, e 3 98, e 0 99]).pick (Site.key ⟨0, 1, 1⟩) [] = some (e 3 98) ∧
    (s 3 [e 0 97, e 0 96, e 0 99]).pick (Site.key ⟨0, 1, 1⟩) [] = some (e 0 96) ∧
    (s 0 [e 0 97, e 0 99]).pick (Site.key ⟨0, 1, 1⟩) [] = some (e 0 97) := by decide +kernel

/-- R65: an acc.bf16 that holds seq 0 and waits with seq 2 takes seq 1: it adds in seq order and delivers 0x3F81. -/
theorem test_acc_order :
    let v := fun (n : Nat) (x : Word) (e : BitVec 4) => { tf .l .bf16 x with seq := BitVec.ofNat 6 n, ends := e }
    let s := { run [v 1 0x3B80 0] with
      pes := [(Site.key ⟨0, 1, 1⟩, { Pe.idle with accum := [(accKey 0 0 0, ⟨0x3B80, 1, true, false, 0, [v 2 0x3F80 1], false, []⟩)] })] }
    (match exec (.acc { w1 with arity := 1, fmtOut := .bf16 }) s with
      | .next t => ((t.pe (Site.key ⟨0, 1, 1⟩)).results.map (fun r => r.emits.filterMap (fun e =>
          match e with | .token t _ => some (t.payload, t.ends) | _ => none)))
      | _ => []) = [[(0x3F81, 1)]] := by decide +kernel

/-- R352 to R355: virtual address 0x4006005D000 of context 0 lies in the frame at 0x200300000. -/
theorem test_page_walk :
    let put := fun (a : Nat) (v : Word) (m : Memory) => Memory.writeBytes m a (leBytes 8 v.toNat)
    let s := { run [] with
      modRegs := { ModRegs.reset with troot := [(0, 0x100000001)] }
      mem := put 0x100000008 0x100040001 (put 0x100040018 0x100050001 (put 0x100050028 0x20030010F [])) }
    walk s 0 0x4006005D000 = .page 16 0x200300000 true true true := by decide +kernel

/-! ### Witnesses of the clauses on the forms of groups 4 to 6 -/

/-- The fields of a word of statement 0 whose target A is valid. -/
def toT11 : Fields := { plain with arity := 1, a := t11 }

/-- The firing of set `toks` under `tag` at PE (0, 1, 1), where the statement of `desc` is declared. -/
def named (tag : Nat) (toks : List Token) : State :=
  { run toks with
    firing := ⟨Site.key ⟨0, 1, 1⟩, 0, 0, tag, 0, toks, 0, 0⟩
    pes := [(Site.key ⟨0, 1, 1⟩, { Pe.idle with descs := [(descKey 0 0, desc)] })] }

/-- A poisoned token. -/
def bad (v : Word) : Token := { tk v with poison := true }

/-- A name inside its extents and one outside, and a word of moduli with and without poison. -/
theorem test_witness_NameForms :
    (let s := named 5 [tk 3]
     (Map.get (s.pe s.firing.site).descs Desc.zero (descKey s.firing.ctx (toT11.aux16.toNat % 4096))).place s.firing.tag = some (1, 1)) ∧
    (let s := named 5 [tk 3]
     (Map.get (s.pe s.firing.site).descs Desc.zero (descKey s.firing.ctx 7)).place s.firing.tag = none) ∧
    (opL toT11 (run [tk 3])).poison = false ∧ (opL toT11 (run [bad 3])).poison = true := by decide +kernel

/-- A request with a clean and with a poisoned address, and a push of clean and of poisoned operands. -/
theorem test_witness_RequestAndQueueForms :
    (opL plain (run [tk 3, tk 4])).poison = false ∧ (opL plain (run [bad 3, tk 4])).poison = true ∧
    (opR 0x213 plain (run [tk 3, tk 4])).poison = false ∧ (opR 0x213 plain (run [tk 3, bad 4])).poison = true := by decide +kernel

/-- Region 0 before and after its first trigger, with a barrier 0 of `n` arrivals, and a saved token in entry 0. -/
def synced (triggered : Bool) (b : Barrier) (faults : Map Saved) : State :=
  { run [tk 3] with regions := [(0, { placedRegion with triggered := triggered, barriers := [(0, b)], faults := faults })] }

theorem test_witness_triggers :
    (synced false Barrier.none []).fireReg.triggered = false ∧ (synced true Barrier.none []).fireReg.triggered = true := by decide +kernel

/-- A barrier that is declared, one that is not, a generation remembered as closed and one with which nothing is open. -/
theorem test_witness_barrier_forms :
    (∀ x ∈ [(Barrier.mk 2 [] [0] [], true), (Barrier.mk 2 [] [] [], false)],
     let s := synced false x.1 []
     let b := Map.get (s.region s.fireReg.loadBase).barriers Barrier.none (plain.aux16.toNat % 64)
     s.fireRegion = some 0 ∧ b.n ≠ 0 ∧ b.queue = [] ∧ b.opened = [] ∧ b.closed.contains s.firing.tag = x.2 ∧
     s.firing.ctx < 8 ∧ s.firing.station < 512) ∧
    (let s := run [tk 3]
     (Map.get (s.region s.fireReg.loadBase).barriers Barrier.none (plain.aux16.toNat % 64)).n = 0) := by decide +kernel

/-- An entry with a destination, one without, and no entry. -/
theorem test_witness_reinject_forms :
    (∀ d ∈ [true, false], let s := synced false Barrier.none [(0, ⟨tk 9, d⟩)]
     s.fireReg.refree.find? (fun x => x.1 == s.firing.tag) = none ∧
     Map.find s.fireReg.faults s.firing.tag = some ⟨tk 9, d⟩ ∧ (Saved.mk (tk 9) d).hasDst = d) ∧
    (plain.arity ≠ 0 ∧ ({ plain with arity := 0 } : Fields).arity = 0) ∧
    Map.find (synced false Barrier.none []).fireReg.faults (synced false Barrier.none []).firing.tag = none := by decide +kernel

/-- A line of forms that is empty and one that is not, with the array owned by the context and by none. -/
theorem test_witness_ControllerFormsTakeTurns :
    ((run [tk 1]).matrix (run [tk 1]).firing.site).queue = [] ∧
    (let s := withMatrix 1 [matOp 0x305 0 0] (run [tk 1])
     (s.matrix s.firing.site).queue ≠ [] ∧ (s.matrix s.firing.site).ownerAfter = some s.firing.ctx ∧
     ({ plain with aux16 := 1 } : Fields).aux16.toNat % 4 ≠ 0) ∧
    (plain.aux16.toNat % 4 = 0 ∧ ((run [tk 1]).matrix (run [tk 1]).firing.site).ownerAfter ≠ some (run [tk 1]).firing.ctx) := by
  decide +kernel

/-- Payloads of mm.mask, mm.clr, mm.drain and mm.rowstat in and out of their ranges. -/
theorem test_witness_matrix_payloads :
    (∀ n ∈ [4, 5, 6, 50], (opL plain (run [tk 1])).payload.toNat / 2 ^ n = 0 ∧
      (opL plain (run [tk (BitVec.allOnes 64)])).payload.toNat / 2 ^ n ≠ 0) ∧
    ((run [tk 1]).firing.tag < 64 ∧ (opL plain (run [tk 1])).seq.toNat < 8 ∧
     8 ≤ (opL plain (run [{ tk 1 with seq := 8 }])).seq.toNat ∧ 64 ≤ (named 64 [tk 1]).firing.tag) := by decide +kernel

/-- A WS run within its limits, one beyond them, the same for an OS run, and a poisoned operand. -/
theorem test_witness_runs :
    (∀ x ∈ [(0x303, 1), (0x304, 2)],
     let s := withMatrix x.2 [] (run [tk 4, tk 0x10001, tk 1])
     (s.matrix s.firing.site).queue = [] ∧ anyPoison (operands { plain with arity := 3 } s) = false ∧
     (let l := (opL plain s).payload.toNat
      let p := (opR x.1 plain s).payload.toNat
      l < 2 ^ 7 ∧ p < 2 ^ 30 ∧ p / 2 ^ 16 % 2 ^ 8 = 1 ∧ (s.matrix s.firing.site).owner = some s.firing.ctx ∧ 1 ≤ l ∧ 1 ≤ p % 2 ^ 16 ∧
      (s.matrix s.firing.site).mode = x.2 ∧ l ≤ min s.fireReg.height 64 ∧ p % 2 ^ 16 ≤ min s.fireReg.height 64) ∧
     2 ^ 7 ≤ (opL plain (run [tk 200, tk 0x10001, tk 1])).payload.toNat ∧
     anyPoison (operands { plain with arity := 3 } (withMatrix x.2 [] (run [bad 4, tk 0x10001, tk 1]))) = true) := by decide +kernel

/-- A drained row of one cell, an entry of I64 cells, and the entry and row of mm.scale in and out of their ranges. -/
theorem test_witness_cells :
    (∀ i < activeRows (run [tk 1]) 1, (rowValues (run [tk 1]) { plain with fmtOut := .f32 } placedRegion 0 1 i).1 ≠ .i64) ∧
    (let s := { run [tk 1] with pes := [(Site.key ⟨0, 1, 1⟩, { Pe.idle with cells := [(1, ⟨5, some .i64, 1, false⟩)] })] }
     ∃ i < activeRows s 1, (rowValues s plain s.fireReg 0 1 i).1 = .i64) ∧
    (let s := run [tk 1, tk 3]
     (prepareR 0x309 .i64 plain s).lanes.getD 0 0 < 16 ∧ (opL plain s).seq.toNat < s.fireReg.height ∧
     16 ≤ (prepareR 0x309 .i64 plain (run [tk 1, tk 16])).lanes.getD 0 0 ∧
     s.fireReg.height ≤ (opL plain (run [{ tk 1 with seq := 8 }, tk 3])).seq.toNat) := by decide +kernel

/-! ### Witnesses of the clauses on PEs, tiles, operators and PORTs -/

/-- A token that takes an entry of its own, one whose set waits for it, and a matched set that must queue. -/
theorem test_witness_arrivals :
    (let t := tk 5
     let s := withPe addWord id t
     (fly t).input = false ∧ (fly t).isAnswer = false ∧ (fly t).dst = Site.key (Token.site t) ∧
     (s.pe (Site.key (Token.site t))).marked = [] ∧ (s.pe (Site.key (Token.site t))).entries = [] ∧
     (grant s (Site.key (Token.site t)) 0 0 0).isSome = true) ∧
    (let t := { tk 5 with seq := 1 }
     let s := withPe (word 0x191 { plain with arity := 1, fmtOut := .f64 }) id t
     entriesNeeded (s.pe (Site.key (Token.site t))) 0 0 t = 2 ∧ (grantMany (Site.key (Token.site t)) 0 0 0 2 s).isSome = true) ∧
    (16 ≤ ({ Pe.idle with ready := List.replicate 16 placedSet }).ready.length ∧
     ({ Pe.idle with marked := [placedSet] }).marked ≠ [] ∧ ({ Pe.idle with marked := [placedSet] }).nextEnter ≤ (run []).now 0) := by
  decide +kernel

/-- A held token whose tag is not live, can be admitted, and is the one whose turn it is. -/
theorem test_witness_tag_admitted :
    let fl := { fly (tk 1) with input := true }
    let m := member (Site.key ⟨0, 1, 1⟩) 0
    let s := withRegion 0 (fun r => { r with
      launchQ := [fl], domains := [⟨[m], [⟨Site.key ⟨0, 1, 1⟩, 0, 4, []⟩], false, [], [], 1, []⟩] })
    let s0 := tagRetire s 0
    let r := s0.region 0
    r.admits = true ∧ r.launchQ = fl :: [] ∧ r.domainOf m = some 0 ∧ (r.domains.getD 0 Domain.none).isLive 0 = false ∧
    canAdmit s0 0 0 (some m) 0 = true ∧ isNext s0 0 0 0 m = true := by decide +kernel

/-- A feed word at a resident context, a run in its turn that has not begun, and one that has. -/
theorem test_witness_array_turns :
    (let s := withMatrix 1 [] (withPe addWord id (tk 1))
     (s.pe (Site.key (Token.site (tk 1)))).ctxState (tk 1).ctx.toNat = 1 ∧ (feedSide s (tk 1)).isSome = true) ∧
    (∀ b ∈ [true, false], ({ matOp 0x303 1 0x10001 with started := b } : MatOp).started = b) := by decide +kernel

/-- A coupling token with no older data before it, and regions and operators whose joins hold. -/
theorem test_witness_couplings :
    (let t := coupleTok 7
     let s := withPe nopWord id t
     couplesFirst s 0 t = false ∧ (fly t).input = false ∧ (fly t).cls ≠ .response ∧ (s.region 0).halted = false) ∧
    (let s := { withOper { Oper.idle with kind := 9, joins := 1 } (opTok .l 0) with
       regions := [(0, { placedRegion with serialSet := true })], net := [] }
     (s.oper op5).region = 0 + 1 ∧ (s.region 0).halted = false ∧ operJoinReady s op5 = true ∧
     (operTargets (s.oper op5)).filter Target.valid = []) ∧
    ([(0, ⟨0, .i64, false⟩)] : Map Held).Pairwise (fun a b => a.1 < b.1) := by decide +kernel

/-- The fault buffers of a machine without a handler have room. -/
theorem no_handler (s : State) (h : ∀ kr ∈ s.regions, Region.handler kr.2 = false) (k code : Nat) : handlerFull s k code = false := by
  have n : s.handlerOf k = none := by
    simp only [State.handlerOf, State.findRegion, Option.map_eq_none_iff, List.find?_eq_none]
    intro kr hk
    simp [h kr hk]
  simp [handlerFull, n]

theorem test_witness_fault_buffers (s : State) (h : s.regions = [(0, placedRegion)]) : ∀ k, handlerFull s k 0x01 = false :=
  fun k => no_handler s (by rw [h]; decide) k _

/-- A word and a read at a tile, and a request that goes on. -/
theorem test_witness_tile_requests :
    (let s := withTile id (.word (nw 1 false))
     let fl := s.net.getD 0 (fly (tk 0))
     headOfLane s.net 0 = some fl ∧ fl.cls = .request ∧ wordAhead s 0 fl = false ∧ fl.msg = .word (nw 1 false) ∧ fl.dst = tile17) ∧
    (let far := { desc with w3 := 0xF0 + 2 ^ 41 }
     let s := withTile (fun t => { t with descs := [(descKey 0 0, far)] }) (.word (nw 1 false))
     locate s tile17 0 0 1 = some (Site.key ⟨0, 3, 17⟩, 0, 0) ∧ resizing s far 0 0 0 = false ∧ (s.tile tile17).stalled = []) ∧
    (let s := withTile (fun t => { t with slots := [(1, ⟨0, 1, 0, 2, 2, 3, 0⟩)], present := [(granKey 1 0, true)] }) (.read (rd .npeek 1))
     inPlace (s.tile tile17) 1 = true) ∧
    (let s := withTile id (.read (rd .nrd 1))
     (s.tile tile17).deferred.length < 256 ∧ (s.region (rd .nrd 1).region).keysOut = []) := by decide +kernel

/-- A set with a live occupant, one with none, and the scrubber of a tile that no resize holds. -/
theorem test_witness_fold_states :
    (let s := withTile (fun t => { t with slots := [(1, ⟨0, 1, 0, 1, 1, 1, 0⟩)] }) (.fold (foldOf .set 0x0001000100010008))
     ∃ o ∈ occupied s desc 0, Slot.live o.2.2.2 = true) ∧
    tileResizing (withTile id (.fold (foldOf .query 0))) (Site.ofKey tile17) = false ∧
    (∀ k ∈ [FoldKind.set, .resize, .query], (foldOf k 1).kind = k) := by decide +kernel

/-- A pass that waits for a slot, and an operator with and without room for its effects. -/
theorem test_witness_operator_waits :
    (let o := { kindOf 1 with state := 4, arms := [⟨3, none⟩] }
     o.state = 4 ∧ o.arms = ⟨3, none⟩ :: []) ∧
    (let s := withOper (kindOf 0) (opTok .l 0)
     (s.oper op5).out = [] ∧ cabooseRoom s (some 0) 1 = true) ∧
    (let s := withRegion 0 (fun r => { r with caboose := List.replicate 64 (effOf (fly (tk 1))) })
     cabooseRoom s (some 0) 1 = false) := by decide +kernel

/-- A block of items that wait for their mask and that do not, two tokens of a scatter that meet either way, and items that take
their mask bit or not. -/
theorem test_witness_items :
    (let o := { kindOf 2 with state := 2, pm := [(1, 32), (5, 4)], mask := some (opTok .p 5) }
     let s := withOper o (opTok .l 3)
     maskReady (s.oper op5) = true ∧ itemsOut s op5 < 64 ∧ bit (Map.get (s.oper op5).pm 0 1) 5 = true ∧
     bit ((s.oper op5).mask.getD .zero).payload 0 = true ∧ bit ((s.oper op5).mask.getD .zero).payload 1 = false ∧
     ((s.oper op5).mask.getD .zero).poison = false ∧ ({ o with mask := none } : Oper).mask = none) ∧
    (let o := { kindOf 3 with state := 2, pm := [(5, 4)] }
     let same := fun (y : Token) => y.tag == (opTok .l 3).tag && y.seq == (opTok .l 3).seq
     ({ o with held := [opTok .l 9] } : Oper).held.find? same = some (opTok .l 9) ∧
     o.held.find? same = none ∧ o.held2.any same = false ∧ (opTok .r 3).port ≠ .l) ∧
    (∀ p ∈ [true, false], ({ opTok .l 3 with poison := p } : Token).poison = p) ∧
    ((itemAddr { kindOf 3 with pm := [(2, 8), (3, 8)] } 3).toOption = some 24 ∧ (itemAddr { kindOf 3 with pm := [(2, 8), (3, 8)] } 8).toOption = none) := by decide +kernel

/-- A tag that the SIEVE knows, and pairs of a COMPARE from either side. -/
theorem test_witness_pairs :
    (let o := { kindOf 9 with sieve := [⟨0, 0xFF800000, 0, 0, 0, []⟩] }
     ∃ y ∈ o.sieve, y.tag = (opTok .l 3).tag.toNat) ∧
    (let o := { kindOf 10 with pm := [(0, 5 * 2 ^ 32 + 4)] }
     o.held.length < compareDepth o ∧ o.held2.length < compareDepth o ∧
     ({ o with held2 := [opTok .r 3] } : Oper).held2 = opTok .r 3 :: [] ∧ pairMatches (opTok .l 3) (opTok .r 3) = true ∧
     pairMatches (opTok .l 3) (opTok .r 4) = false) := by decide +kernel

/-- A stream of eight elements ends no pattern early, and finite sums compare. -/
theorem test_witness_patterns :
    (3 < total [2, 2] ∧ 0 < 8 ∧ (List.replicate 32 (0 : Byte)).length = 32) ∧ FVal.finite (.fin false 1 0) = true := by decide

/-- A request that a PORT takes with nothing before it, a fence that no early entry names and one that it does, a queue that is
off and one that bars the form, and sites of other kinds. -/
theorem test_witness_port_requests :
    (let s := withReq port8 (req 0x207 8) QueueReg.zero
     let fl := s.net.getD 0 (fly (tk 0))
     headOfLane s.net 0 = some fl ∧ portOut s fl.dst < field (Map.get (s.oper fl.dst).pm 0 4) 8 0 ∧
     portAhead s 0 fl (fun p => p.op == 0x280) = false ∧ portAhead s 0 fl throughPort = false ∧
     (req 0x207 8).site ≠ 0 ∧ (kindOf 1).kind ≠ 11) ∧
    (let f : FenceWait := ⟨req 0x280 8, [], [], false⟩
     (∀ g ∈ (port8).fences, g.req = req 0x280 8 → g.arrived = true) ∧ (f ∈ [f] ∧ f.req = req 0x280 8 ∧ f.arrived = false)) ∧
    (bit (0x302 : Word) 9 = true ∧ bit (0x502 : Word) 10 = true ∧ bit (0x2 : Word) 8 = false) ∧
    (0x207 ≤ (req 0x207 8).op ∧ (req 0x207 8).op ≤ 0x212) := by decide +kernel

/-- A transfer that a drive reads through the window, and one with nothing to read. -/
theorem test_witness_drive :
    (let m : Transfer := ⟨0, 0x1B, 0, 0x40, 0, 8, 0, 0, 0, 0, 0, 0, 2, 0, opCtl 0x1B 0, 0, []⟩
     let s := { withAccess { port8 with moves := [m] } (acc .write 4) with
       modRegs := { ModRegs.reset with hifact := 0x10100, nqp := [(2, 2 ^ 63)] } }
     bit (Map.get s.modRegs.nqp 0 2) 63 = true ∧ driveMove s 0 true 0x40 8 = some (op5, m)) ∧
    (let m : Transfer := ⟨0, 0x19, 0, 0x2000, 0x1000, 0, 0, 0, 0, 0, 0, 0, 2, 0, opCtl 0x19 0, 0, []⟩
     m.kind = 0x19 ∧ m.len = 0) ∧
    (let s := { withAccess port8 (acc .write 4) with accesses := [{ acc .write 4 with op := 0x1B }] }
     ∀ a ∈ s.accesses, a.oper = op5 → a.req = none → a.op = 0x1B → a.elem = 0 → a.id = 0) := by decide +kernel

/-- An access whose write is performed, and one whose page has no permission for a write. -/
theorem test_witness_translated :
    ((acc .write 5).phase = 5 ∧ (acc .write 5).req = none ∧ (acc .write 5).kind = .write) ∧
    ({ acc .write 3 with pa := 2 ^ 46 } : Access).phase = 3 ∧ inT3 ({ acc .write 3 with pa := 2 ^ 46 } : Access).pa = true ∧
    permits .write true false = false ∧
    (let s := { run [] with inval := [⟨2, 0, 0, []⟩] }
     s.inval ≠ []) := by decide +kernel

/-- Initial data whose page may not be written, and an instance with a done address. -/
theorem test_witness_data_and_done :
    (let s := withLaunch [7, 0, 0, 0, 0, 0] id
     let b : DataBlock := ⟨0x40, 8, 0x10000, true⟩
     let u : State := { s with tlb := [] }
     b.va.toNat + b.len ≤ 2 ^ 57 ∧ writeVa 0 (vaParts b.va.toNat b.len) (Memory.readBytes u.mem b.start b.len) u = none ∧
     (let x := { inst5 3 with doneAt := 0x40 }
      x.doneAt ≠ 0 ∧ x.doneAt.toNat + 8 ≤ 2 ^ 57 ∧
      (writeVa 0 (vaParts x.doneAt.toNat 8) (leBytes 8 x.num) s).isSome = true) ∧ (inst5 3).doneAt = 0) ∧
    (placedRegion.halted = false ∧ (0 : Nat) < 4) := by decide +kernel

/-- A queue of launches whose tail the host writes, and the token window of a parked region. -/
theorem test_witness_host_window :
    (bit (hostQ 0 2).cfg 8 = true ∧ 192 ≤ (200 : Nat)) ∧
    (let s := { withPe nopWord id (tk 1) with regions := [(0, { placedRegion with status := 6 })] }
     s.regionAt (Token.site (tk 1)) (tk 1).ctx.toNat = some 0 ∧ (s.region 0).status = 6 ∧ windowBad s (tk 1) = false) := by
  decide +kernel

/-- A slot of a stream that no record names yet. -/
theorem test_witness_new_stream :
    let s := withLink (fun q => { q with lstat := 2, inQ := [(1, slot 0)] }) (withOper portD (opTok .l 1))
    s.fatal = false ∧ slotPort s 1 (slot 0) = some 0 ∧
    s.streamsIn.find? (fun x => x.module == 1 && x.src == (slot 0).src) = none ∧
    operCan op5 (toA (s.oper op5)) (opTok .l 1) s = true := by decide +kernel

/-! ### Witnesses of the clauses on barriers, waves, strikes, held requests and links -/

/-- A barrier of `n` arrivals whose generations 1 to 4 are open with one arrival each. -/
def fourOpen (n : Nat) (queue : List (Option (List Emit × Nat × Nat) × Nat)) : Barrier :=
  ⟨n, [⟨1, 1, []⟩, ⟨2, 1, []⟩, ⟨3, 1, []⟩, ⟨4, 1, []⟩], [0], queue⟩

/-- Generations of a barrier that are closed, open, new with and without room, and that the next arrival completes or not; and queued
waits that are and are not tried. -/
theorem test_witness_generations :
    (let b := fourOpen 2 [(none, 0), (none, 6)]
     b.closed.contains 0 = true ∧ b.closed.contains 6 = false ∧ b.opened.any (fun x => x.gen == 1) = true ∧
     b.opened.any (fun x => x.gen == 6) = false ∧ 4 ≤ b.opened.length ∧ b.queue = (none, 0) :: [(none, 6)] ∧ (fourOpen 2 []).queue = [] ∧
     (∃ x, (b.opened.map (fun (x : BarGen) => if x.gen = 1 then { x with arrivals := x.arrivals + 1 } else x)).find? (fun x => x.gen == 1) =
       some x ∧ b.n ≤ x.arrivals) ∧
     (∀ x ∈ b.opened, x.gen = 1 → x.arrivals < b.n) ∧
     ∀ x ∈ b.opened.map (fun (x : BarGen) => if x.gen = 1 then { x with arrivals := x.arrivals + 1 } else x),
       x.gen = 1 → x.arrivals < (fourOpen 3 []).n) ∧
    (let b : Barrier := ⟨2, [⟨1, 1, []⟩], [0], [(none, 6)]⟩
     b.opened.length < 4 ∧ b.opened.any (fun x => x.gen == 6) = false) := by
  refine ⟨⟨by decide, by decide, by decide, by decide, by decide, rfl, rfl, ⟨⟨1, 2, []⟩, by decide, by decide⟩, by decide, by decide⟩,
    by decide⟩

/-- Waits of a generation that the four open ones leave no place, and of one among them. -/
theorem test_witness_barrier_waits :
    ∀ g ∈ [1, 6], let s := { synced false (fourOpen 2 []) [] with firing := { (run []).firing with tag := g } }
      let b := Map.get (s.region s.fireReg.loadBase).barriers Barrier.none (plain.aux16.toNat % 64)
      b.n ≠ 0 ∧ b.queue = [] ∧ b.closed.contains s.firing.tag = false ∧ 4 ≤ b.opened.length ∧
      b.opened.any (fun x => x.gen == s.firing.tag) = decide (g = 1) ∧ ∀ x ∈ b.opened, x.gen = s.firing.tag → x.arrivals < b.n := by
  decide +kernel

/-- A mark that is due of a protected region, and regions that have none due. -/
theorem test_witness_waves :
    (let s := withRegion 3000 id
     let r := s.region 0
     s.fatal = false ∧ r.rolling = false ∧ 2 ≤ r.status ∧ r.status ≤ 4 ∧ r.markAt / 1024 < s.now r.die / 1024 ∧ r.unprot = false ∧
     r.oldest ≤ r.wave) ∧
    ((withR (fun r => { r with rolling := true })).region 0).rolling = true ∧ ((withR (fun r => { r with status := 1 })).region 0).status < 2 ∧
    4 < ((withR (fun r => { r with status := 5 })).region 0).status ∧
    (run []).now 0 / 1024 ≤ ((run []).region 0).markAt / 1024 := by decide +kernel

/-- A region struck once and twice in a rollback, and a die on which a region goes back. -/
theorem test_witness_second_strikes :
    (∀ n ∈ [0, 1], let r := (withR (fun r => { r with rolling := true, restarts := n })).region 0
      2 ≤ r.status ∧ r.status ≤ 5 ∧ r.unprot = false ∧ r.rolling = true ∧ (1 ≤ r.restarts ↔ n = 1)) ∧
    (∃ kr ∈ (withR (fun r => { r with rolling := true })).regions, kr.2.rolling = true ∧ kr.2.die = 0) ∧
    (∀ kr ∈ (run []).regions, kr.2.rolling = true → kr.2.die ≠ 0) := by decide +kernel

/-- An event that comes after a fatal stop, a machine whose host has no interface, and a die with no parked region. -/
theorem test_witness_after_fatal :
    (let s := { run [] with fatal := true, agenda := [.event (.waveMark 0)] }
     s.agenda = .event (.waveMark 0) :: [] ∧ s.fatal = true ∧ afterFatal (.waveMark 0) = false) ∧
    bit State.reset.modRegs.hifact 16 = false ∧ (∀ kr ∈ (run []).regions, kr.2.status = 6 → Region.die kr.2 ≠ 0) ∧
    ({ run [] with fatal := true } : State).hostOpen = false := by decide +kernel

/-- A queue whose page has no permission, one whose page faults, and a form that no held access stands for. -/
theorem test_witness_queue_places :
    (let d : QueueReg := ⟨0, 0x102, 0, 1⟩
     let s := { withReq port8 (req 0x213 8) d with tlb := [⟨ioUnit, 0, 16, 0, 0, false, false, false⟩] }
     let u := { withReq port8 (req 0x213 8) d with tlb := [] }
     queuePa s d (field d.tail 31 0) true = .denied ∧ queuePa s d (field d.head 31 0) false = .denied ∧
     queuePa u d (field d.tail 31 0) true = .fault 0 1 ∧ queueHeld s (req 0x213 8) = false ∧ queueHeld u (req 0x213 8) = false ∧
     bit d.cfg 8 = true ∧ bit d.cfg 9 = false ∧ QueueReg.used d < QueueReg.depth d) ∧
    migratedTo (run []) 0x1000 = none := by decide +kernel

/-- Holds of an access of an operator and of a queue form, and of none. -/
theorem test_witness_queue_holds :
    (∀ op ∈ [0x207, 0x213],
     let h : Hold := ⟨0, 0, 0, true, [0, 0, 0, 0]⟩
     let a := { acc .read 1 with op := op, req := some (req op 8) }
     let s := { withAccess (kindOf 1) a with holds := [h] }
     heldBy? s 0x10000 = some h ∧ (unhold h s).access h.access = some a ∧ a.ofQueue = decide (op = 0x213)) ∧
    heldBy? (run []) 0x10000 = none := by decide +kernel

/-- A stream whose 64 tokens are not yet acknowledged, one whose acknowledgement has a link that is down, and a PORT of no region. -/
theorem test_witness_stream_limits :
    (let s := { withLink (fun q => { q with lstat := 2, inQ := [(1, slot 0)] }) (withOper portD (opTok .l 1)) with
       streamsIn := [⟨1, (slot 0).src, 0, 0, op5, 64⟩] }
     slotPort s 1 (slot 0) = some 0 ∧ (s.oper op5).kind = 11 ∧ 64 ≤ (s.streamsIn.getD 0 ⟨0, 0, 0, 0, 0, 0⟩).due ∧ LinkPort.state (s.link 0) = 2 ∧
     LinkPort.state (s.link 1) ≠ 2) ∧
    (let s := { withOper portD (opTok .r 1) with opers := [(op5, portD)] }
     (s.oper op5).region = 0 ∧ operState s op5 (opTok .r 1) = .open ∧ (s.oper op5).unacked.length + forwardsHeld s op5 < 1024) := by
  decide +kernel

/-- A poisoned frame tag, an operator that is open and one that is drained, and a coupling token that none comes before. -/
theorem test_witness_arrival_states :
    (opL plain (run [bad 4])).poison = true ∧ (opL plain (run [tk 4])).poison = false ∧
    (∀ x ∈ [(2, OperMeets.open), (4, .drained)],
      operState { withOper (kindOf 9) (opTok .l 0) with regions := [(0, { placedRegion with status := x.1 })] } op5 (opTok .l 0) = x.2) ∧
    couplesFirst (withPe nopWord id (coupleTok 7)) 0 (coupleTok 7) = false := by decide +kernel

/-- Room for an access, for a LOOKUP's slot, for a request at the next tile, and for the results of a step; contributions that find no
running value and one. -/
theorem test_witness_rooms :
    accessRoom (withOper (kindOf 1) (opTok .l 0)) op5 8 = true ∧ slotRoom (withOper (kindOf 6) (opTok .l 0)) op5 = true ∧
    queueLength (run []) (Site.key ⟨0, 3, 17⟩) (Site.key ⟨0, 3, 17⟩ * 2048 + 12) < 8 ∧ (loopAdmits 0 0 [] (run [])).isSome = true ∧
    cabooseRoom (run []) (some 0) 4 = true ∧
    (∀ p ∈ [({ Pe.idle with accum := [(accKey 0 0 0, { Accum.zero with next := 1 })] }, 1), (Pe.idle, 0)],
      (Map.find p.1.accum (accKey 0 0 0)).isSome = decide (p.2 = 1) ∧ p.1.ready = [] ∧ p.1.marked = []) ∧
    ((withPe (word 0x191 { plain with arity := 1, fmtOut := .f64 }) id (tk 1)).pe (Site.key ⟨0, 1, 1⟩)).isAcc 0 0 = true := by
  decide +kernel

/-- A context that the debug block may not read, a pool that holds what is saved, and one that does not. -/
theorem test_witness_pools :
    readable (run []) (some 0) = false ∧ (run []).poolHolds [0] = false ∧
    ({ run [] with modRegs := { ModRegs.reset with pssize := 0xFFFF } } : State).poolHolds [0] = true := by decide +kernel
end Sys2Proof.Tests
end

section
/-! Memory: bytes and words read back as they were written, and equal reads make equal memories (O44). -/

namespace Sys2Proof.Machine

variable {m n : Memory}

/-! ### The bytes of a number -/

@[simp] theorem leBytes_length (n v : Nat) : (leBytes n v).length = n := by
  induction n generalizing v with
  | zero => rfl
  | succ n ih => simp [leBytes, ih]

/-- Little-endian bytes give back the number they were made of, as far as they reach. -/
theorem leNat_leBytes (n v : Nat) : leNat (leBytes n v) = v % 256 ^ n := by
  induction n generalizing v with
  | zero => simp [leBytes, leNat, Nat.mod_one]
  | succ n ih =>
    rw [leBytes, leNat, ih, BitVec.toNat_ofNat, Nat.mod_mod, Nat.pow_succ', Nat.mod_mul]

/-- The byte at place `i` is the `i`-th digit to the base 256. -/
theorem leBytes_getD {n i : Nat} (v : Nat) (d : Byte) (hi : i < n) :
    (leBytes n v).getD i d = BitVec.ofNat 8 (v / 256 ^ i) := by
  induction n generalizing v i with
  | zero => omega
  | succ n ih =>
    cases i with
    | zero => apply BitVec.eq_of_toNat_eq; simp [leBytes]
    | succ i =>
      rw [leBytes, List.getD_cons_succ, ih (v / 256) (by omega), Nat.div_div_eq_div_mul, Nat.pow_succ']

/-- Byte `i` of a word is its bits from `8 * i` on. -/
theorem leBytes_word_getD (w : Word) {i : Nat} (d : Byte) (hi : i < 8) :
    (leBytes 8 w.toNat).getD i d = w.extractLsb' (8 * i) 8 := by
  rw [leBytes_getD _ _ hi]
  apply BitVec.eq_of_toNat_eq
  rw [BitVec.toNat_ofNat, BitVec.extractLsb'_toNat, Nat.shiftRight_eq_div_pow, Nat.pow_mul]

/-! ### Reading what was written -/

theorem Memory.readBytes_eq_map (m : Memory) (a k : Nat) :
    Memory.readBytes m a k = (List.range k).map (fun i => Memory.read m (a + i)) := by
  induction k generalizing a with
  | zero => rfl
  | succ k ih =>
    simp only [Memory.readBytes, ih, List.range_succ_eq_map, List.map_cons, List.map_map, Nat.add_zero]
    congr 2
    funext i
    simp only [Function.comp_apply, Nat.add_assoc, Nat.add_comm 1 i]

theorem Memory.readBytes_writeBytes (h : Memory.wf m = true) (a : Nat) (bs : List Byte) :
    Memory.readBytes (Memory.writeBytes m a bs) a bs.length = bs := by
  rw [Memory.readBytes_eq_map]
  apply List.ext_getElem (by simp)
  intro i _ hi
  simp [Memory.read_writeBytes_inside h a i bs hi, hi]

theorem Memory.readWord_writeBytes (h : Memory.wf m = true) (a : Nat) (w : Word) :
    Memory.readWord (Memory.writeBytes m a (leBytes 8 w.toNat)) a = w := by
  have hr : Memory.readBytes (Memory.writeBytes m a (leBytes 8 w.toNat)) a 8 = leBytes 8 w.toNat := by
    simpa using Memory.readBytes_writeBytes h a (leBytes 8 w.toNat)
  apply BitVec.eq_of_toNat_eq
  rw [Memory.readWord, hr, leNat_leBytes, BitVec.toNat_ofNat]
  have := w.isLt
  omega

/-! ### Canonical memories that read alike are equal -/

/-- The first entry of a canonical memory reads as what it holds. -/
theorem Memory.read_head (a : Nat) (b : Byte) (m : Memory) : Memory.read ((a, b) :: m) a = b := by
  simp [Memory.read, Map.get, Map.find_cons]

/-- Below its first entry's successor a canonical memory's tail reads as unwritten, above it as the whole. -/
theorem Memory.read_tail {lo a : Nat} {b : Byte} (h : Memory.wfFrom lo ((a, b) :: m) = true) (q : Nat) :
    Memory.read m q = if q ≤ a then Config.unwritten else Memory.read ((a, b) :: m) q := by
  obtain ⟨-, -, hm⟩ := (Memory.wfFrom_cons lo a b m).mp h
  split
  · exact Memory.read_below hm (by omega)
  · have hne : q ≠ a := by omega
    simp [Memory.read, Map.get, Map.find_cons, hne]

/-- The first address of a canonical memory is not below the first address of one that reads alike. -/
theorem Memory.head_le_of_read_eq {lo lo' a a' : Nat} {b b' : Byte} (hm : Memory.wfFrom lo ((a, b) :: m) = true)
    (hn : Memory.wfFrom lo' ((a', b') :: n) = true)
    (he : ∀ q, Memory.read ((a, b) :: m) q = Memory.read ((a', b') :: n) q) : a' ≤ a := by
  obtain ⟨-, hb, -⟩ := (Memory.wfFrom_cons lo a b m).mp hm
  obtain ⟨-, hb', hn'⟩ := (Memory.wfFrom_cons lo' a' b' n).mp hn
  by_contra hlt
  have hbelow : Memory.wfFrom a' ((a', b') :: n) = true := (Memory.wfFrom_cons a' a' b' n).mpr ⟨le_refl _, hb', hn'⟩
  exact hb (by rw [← Memory.read_head a b m, he a]; exact Memory.read_below hbelow (by omega))

theorem Memory.eq_of_read_eq {lo lo' : Nat} (hm : Memory.wfFrom lo m = true) (hn : Memory.wfFrom lo' n = true)
    (he : ∀ q, Memory.read m q = Memory.read n q) : m = n := by
  induction m generalizing n lo lo' with
  | nil =>
    cases n with
    | nil => rfl
    | cons e n =>
      obtain ⟨a, b⟩ := e
      have hb := ((Memory.wfFrom_cons lo' a b n).mp hn).2.1
      exact absurd ((Memory.read_head a b n).symm.trans (he a).symm) hb
  | cons e m ih =>
    obtain ⟨a, b⟩ := e
    cases n with
    | nil =>
      have hb := ((Memory.wfFrom_cons lo a b m).mp hm).2.1
      exact absurd ((Memory.read_head a b m).symm.trans (he a)) hb
    | cons e' n =>
      obtain ⟨a', b'⟩ := e'
      obtain rfl : a = a' := le_antisymm (Memory.head_le_of_read_eq hn hm (fun q => (he q).symm))
        (Memory.head_le_of_read_eq hm hn he)
      obtain rfl : b = b' := by rw [← Memory.read_head a b m, he a, Memory.read_head]
      have htails := ih ((Memory.wfFrom_cons lo a b m).mp hm).2.2 ((Memory.wfFrom_cons lo' a b n).mp hn).2.2
        (fun q => by rw [Memory.read_tail hm, Memory.read_tail hn, he q])
      rw [htails]

/-- Settles O44: a written range reads back and the rest is unchanged (the laws of one write, over the list of bytes), a word's
bytes are its digits to the base 256, and equal reads make equal canonical memories, by induction on both. -/
theorem memoryReadsWhatWasWritten : Obligations.MemoryReadsWhatWasWritten := by
  refine ⟨fun m a bs h => ⟨Memory.wf_writeBytes a bs h, Memory.readBytes_writeBytes h a bs,
      fun q hq => Memory.read_writeBytes_outside h a q bs hq⟩,
    fun m a w h => ⟨Memory.readWord_writeBytes h a w, fun i hi => ?_⟩,
    fun m n hm hn he => Memory.eq_of_read_eq hm hn he⟩
  rw [Memory.read_writeBytes_inside h a i _ (by simpa using hi), leBytes_word_getD w _ hi]

end Sys2Proof.Machine
end

section
/-! Every step keeps both memories in canonical form (O43). Only the writes of bytes touch a memory: each function of the
model has one lemma that says it keeps the form, in the order of the definitions. -/

namespace Sys2Proof.Machine

/-- Where an event takes place, the state that it leaves has both memories in canonical form. -/
def MaybeOk (o : Option State) : Prop := ∀ t, o = some t → t.memOk

section
variable {α : Type} {c : Prop} [Decidable c] {s t : State} {o p : Option State} {a : Nat} {bs : List Byte}

/-- Bytes written to the module's memory keep the form. -/
theorem State.memOk.of_writeMem (hs : s.memOk) (hm : t.mem = Memory.writeBytes s.mem a bs) (hh : t.hostMem = s.hostMem) :
    t.memOk := by
  obtain ⟨hsm, hsh⟩ := hs
  exact ⟨hm ▸ Memory.wf_writeBytes a bs hsm, hh ▸ hsh⟩

/-- Bytes written to the host's memory keep the form. -/
theorem State.memOk.of_writeHost (hs : s.memOk) (hm : t.mem = s.mem) (hh : t.hostMem = Memory.writeBytes s.hostMem a bs) :
    t.memOk := by
  obtain ⟨hsm, hsh⟩ := hs
  exact ⟨hm ▸ hsm, hh ▸ Memory.wf_writeBytes a bs hsh⟩

/-- The form of a state speaks of its two memories alone: a state written out field by field has it when they have. -/
theorem State.memOk.update {
    agenda firing fresh hostRead hostBytes clocks pes tiles opers regions matrices snaps parked net accesses nextAcc
    mem hostMem poisonMem tlb holds holdIds slots pins migrations inval tinvWait retire faultQ patrol images insts
    forgotten pushed taken lastQ modRegs dies queues links streamsIn reports msix msixPending msixHeld fatal fatalSite
    booted cxl}
    (h : Memory.wf mem = true ∧ Memory.wf hostMem = true) : State.memOk
    ⟨agenda, firing, fresh, hostRead, hostBytes, clocks, pes, tiles, opers, regions, matrices, snaps, parked, net,
      accesses, nextAcc, mem, hostMem, poisonMem, tlb, holds, holdIds, slots, pins, migrations, inval, tinvWait,
      retire, faultQ, patrol, images, insts, forgotten, pushed, taken, lastQ, modRegs, dies, queues, links,
      streamsIn, reports, msix, msixPending, msixHeld, fatal, fatalSite, booted, cxl⟩ := h

theorem State.memOk.ite (hs : s.memOk) (ht : t.memOk) : (if c then s else t).memOk := by
  split
  · exact hs
  · exact ht

theorem State.memOk.foldl {g : State → α → State} {xs : List α} (hg : ∀ {s x}, s.memOk → (g s x).memOk) (hs : s.memOk) :
    (xs.foldl g s).memOk := by
  induction xs generalizing s with
  | nil => exact hs
  | cons x xs ih => exact ih (hg hs)

theorem MaybeOk.none : MaybeOk none := nofun

theorem MaybeOk.some (hs : s.memOk) : MaybeOk (some s) := by
  rintro _ ⟨⟩
  exact hs

theorem MaybeOk.ite (ho : MaybeOk o) (hp : MaybeOk p) : MaybeOk (if c then o else p) := by
  split
  · exact ho
  · exact hp

theorem MaybeOk.map {x : Option α} {g : α → State} (hg : ∀ a, x = Option.some a → (g a).memOk) : MaybeOk (x.map g) := by
  intro t e
  obtain ⟨a, ha, rfl⟩ := Option.map_eq_some_iff.1 e
  exact hg a ha

theorem MaybeOk.getD (ho : MaybeOk o) (hs : s.memOk) : (o.getD s).memOk := by
  cases o with
  | none => exact hs
  | some t => exact ho t rfl

end

section
variable {s : State}

/-! ### Ops -/

theorem State.onPe_memOk {k g} (hs : s.memOk) : (s.onPe k g).memOk := hs

theorem State.onTile_memOk {k g} (hs : s.memOk) : (s.onTile k g).memOk := hs

theorem State.onOper_memOk {k g} (hs : s.memOk) : (s.onOper k g).memOk := hs

theorem State.onRegion_memOk {r g} (hs : s.memOk) : (s.onRegion r g).memOk := hs

theorem State.onMatrix_memOk {k g} (hs : s.memOk) : (s.onMatrix k g).memOk := hs

theorem State.onRegs_memOk {g} (hs : s.memOk) : (s.onRegs g).memOk := hs

theorem State.onInst_memOk {i g} (hs : s.memOk) : (s.onInst i g).memOk := hs

theorem State.raiseVector_memOk {v} (hs : s.memOk) : (s.raiseVector v).memOk := hs

theorem State.putReport_memOk {p} (hs : s.memOk) : (s.putReport p).memOk :=
  .ite (hs.of_writeHost rfl rfl) (hs.of_writeHost rfl rfl)

theorem State.report_memOk {kind r payload} (hs : s.memOk) : (s.report kind r payload).memOk :=
  .ite (State.putReport_memOk hs) hs

theorem drainReports_memOk {ps} (hs : s.memOk) : (drainReports ps s).memOk := by
  induction ps generalizing s with
  | nil => exact hs
  | cons p ps ih => exact .ite (ih (State.putReport_memOk hs)) hs

theorem State.deviceReport_memOk {kind g payload} (hs : s.memOk) : (s.deviceReport kind g payload).memOk :=
  State.report_memOk hs

theorem State.refuseWrite_memOk (hs : s.memOk) : (s.refuseWrite).memOk := State.deviceReport_memOk hs

theorem State.post_memOk {f} (hs : s.memOk) : (s.post f).memOk := hs

theorem State.raiseError_memOk {region r saved hasDst} (hs : s.memOk) : (s.raiseError region r saved hasDst).memOk := by
  unfold State.raiseError
  dsimp only
  split
  · exact State.report_memOk hs
  split
  · split <;> exact hs
  exact hs

/-! ### Drawbar -/

theorem answerLink_memOk {p} (hs : s.memOk) : (answerLink p s).memOk := .ite hs hs

theorem sendNumbered_memOk {site t} (hs : s.memOk) : (sendNumbered site t s).memOk := hs

/-! ### Operands -/

theorem pushResult_memOk {op f converted cause emits} (hs : s.memOk) : (pushResult op f converted cause emits s).memOk := hs

theorem finish_memOk {op f v} (hs : s.memOk) : (finish op f v s).memOk := hs

theorem finishWith_memOk {op f emits} (hs : s.memOk) : (finishWith op f emits s).memOk := hs

/-! ### Domain -/

theorem State.progress_memOk {k} (hs : s.memOk) : (s.progress k).memOk := hs

theorem retireTags_memOk {k} (hs : s.memOk) : (retireTags s k).memOk := .ite hs hs

theorem admitTag_memOk {k i src tag} (hs : s.memOk) : (admitTag k i src tag s).memOk := hs

theorem enterCaboose_memOk {k site st tag wave seq a} (hs : s.memOk) : (enterCaboose k site st tag wave seq a s).memOk := hs

/-! ### Flow -/

theorem State.sinkFirst_memOk {region site st ctx tag} (hs : s.memOk) : (s.sinkFirst region site st ctx tag).2.memOk := by
  unfold State.sinkFirst
  dsimp only
  split <;> exact hs

theorem noteWave_memOk (hs : s.memOk) : (noteWave s).memOk := by
  unfold noteWave
  split <;> exact hs

theorem enterFrame_memOk {op pool ret f} (hs : s.memOk) : (enterFrame op pool ret f s).memOk := by
  unfold enterFrame
  dsimp only
  split <;> exact hs

theorem leaveFrame_memOk {op dest f} (hs : s.memOk) : (leaveFrame op dest f s).memOk := by
  unfold leaveFrame
  dsimp only
  split
  · exact hs
  split <;> exact hs

theorem accumulate_memOk {op max f} (hs : s.memOk) : (accumulate op max f s).memOk := .ite hs (.ite hs hs)

theorem countStep_memOk {f} (hs : s.memOk) : (countStep f s).memOk := .ite hs hs

/-! ### Names -/

theorem sendName_memOk {op f conv cause m} (hs : s.memOk) : (sendName op f conv cause m s).memOk := by
  unfold sendName
  dsimp only
  split <;> exact hs

theorem sendFold_memOk {op k f} (hs : s.memOk) : (sendFold op k f s).memOk := .ite hs hs

/-! ### Requests -/

theorem sendRequest_memOk {op f conv cause data cmp poison} (hs : s.memOk) :
    (sendRequest op f conv cause data cmp poison s).memOk :=
  .ite hs hs

theorem sendAtomic_memOk {op f} (hs : s.memOk) : (sendAtomic op f s).memOk := sendRequest_memOk hs

/-! ### System -/

theorem releaseWaits_memOk {ws} (hs : s.memOk) : (releaseWaits ws s).memOk := by
  induction ws generalizing s with
  | nil => exact hs
  | cons w ws ih => exact ih (s := releaseWait w s) hs

theorem barrierTake_memOk {loadBase i w g} (hs : s.memOk) : (barrierTake loadBase i w g s).memOk := releaseWaits_memOk hs

theorem keepClk_memOk (hs : s.memOk) : (keepClk s).memOk := by
  unfold keepClk
  dsimp only
  split <;> exact hs

/-! ### Matrix -/

theorem onPes_memOk {xs g} (hs : s.memOk) : (onPes xs g s).memOk := .foldl (fun h => h) hs

theorem finishL_memOk {op f} (hs : s.memOk) : (finishL op f s).memOk := hs

theorem clearMatrix_memOk (hs : s.memOk) : (clearMatrix s).memOk := onPes_memOk hs

theorem modeEffect_memOk {f} (hs : s.memOk) : (modeEffect f s).memOk :=
  .ite (.ite hs hs) (finishL_memOk (State.onMatrix_memOk (.ite hs (clearMatrix_memOk hs))))

theorem swapEffect_memOk {f} (hs : s.memOk) : (swapEffect f s).memOk := finishL_memOk (onPes_memOk hs)

theorem clrEffect_memOk {f} (hs : s.memOk) : (clrEffect f s).memOk :=
  .ite hs (finishL_memOk (.ite (State.onMatrix_memOk (onPes_memOk hs)) (onPes_memOk hs)))

theorem maskEffect_memOk {f} (hs : s.memOk) : (maskEffect f s).memOk := .ite hs hs

theorem drainEffect_memOk {f} (hs : s.memOk) : (drainEffect f s).memOk := .ite hs (pushResult_memOk (.ite (onPes_memOk hs) hs))

theorem rowstatEffect_memOk {f} (hs : s.memOk) : (rowstatEffect f s).memOk := .ite hs hs

theorem scaleEffect_memOk {f} (hs : s.memOk) : (scaleEffect f s).memOk := .ite hs (pushResult_memOk (.foldl (fun h => h) hs))

theorem ctlEffect_memOk {op f} (hs : s.memOk) : (ctlEffect op f s).memOk :=
  .ite (modeEffect_memOk hs) (.ite (swapEffect_memOk hs) (.ite (clrEffect_memOk hs) (.ite (drainEffect_memOk hs) (.ite
    (maskEffect_memOk hs) (.ite (rowstatEffect_memOk hs) (.ite (scaleEffect_memOk hs) hs))))))

theorem control_memOk {op f} (hs : s.memOk) : (control op f s).memOk := .ite (ctlEffect_memOk hs) hs

theorem modeForm_memOk {f} (hs : s.memOk) : (modeForm f s).memOk := .ite hs (control_memOk hs)

theorem wloadEffect_memOk {f} (hs : s.memOk) : (wloadEffect f s).memOk := .ite hs hs

theorem beginRun_memOk {op f} (hs : s.memOk) : (beginRun op f s).memOk := .ite hs (.ite hs hs)

theorem startRun_memOk {op f} (hs : s.memOk) : (startRun op f s).memOk := .ite (beginRun_memOk hs) hs

theorem feedToken_memOk {t side r} (hs : s.memOk) (e : feedToken t side s = some r) : r.1.memOk := by
  unfold feedToken at e
  dsimp only at e
  split at e <;> cases e <;> exact hs

theorem logSteps_memOk {region site station ctx tag cs} (hs : s.memOk) : (logSteps region site station ctx tag cs s).memOk := by
  unfold logSteps
  refine .foldl (fun h => ?_) hs
  split <;> exact h

theorem loopAdmits_memOk {region ctx ts} (hs : s.memOk) : MaybeOk (loopAdmits region ctx ts s) := by
  induction ts generalizing s with
  | nil => exact .some hs
  | cons t ts ih =>
    unfold loopAdmits
    split
    · exact ih hs
    · exact .ite (ih hs) (.ite (ih hs) .none)

theorem refire_memOk {x q} (hs : s.memOk) : (refire x q s).memOk := hs

theorem popMat_memOk {x} (hs : s.memOk) : (popMat x s).memOk := hs

theorem setHead_memOk {x q} (hs : s.memOk) : (setHead x q s).memOk := hs

theorem endRun_memOk {x q r} (hs : s.memOk) : (endRun x q r s).memOk :=
  finishWith_memOk (refire_memOk (popMat_memOk (.ite (onPes_memOk hs) hs)))

theorem wsStep_memOk {x region q g r} (hs : s.memOk) : MaybeOk (wsStep x region q g r s) := by
  unfold wsStep
  dsimp only
  refine .ite ?_ .none
  split
  · exact .none
  · next u e =>
    have hu : u.memOk := loopAdmits_memOk hs _ e
    exact .some (.foldl (fun h => h) (logSteps_memOk (.foldl (fun h => h) hu)))

theorem osStep_memOk {x region q g r} (hs : s.memOk) : MaybeOk (osStep x region q g r s) :=
  .ite (.some (setHead_memOk (logSteps_memOk (.foldl (fun h => h) (.foldl (fun h => h) (.foldl (fun h => h) hs)))))) .none

theorem systolic_memOk {x} (hs : s.memOk) : MaybeOk (systolic x s) := by
  unfold systolic
  dsimp only
  split
  · exact .none
  split
  · exact .none
  split
  · exact .some (beginRun_memOk hs)
  split
  · split
    · exact .some (endRun_memOk hs)
    exact .ite (wsStep_memOk hs) (osStep_memOk hs)
  exact .some (ctlEffect_memOk hs)

/-! ### Serve -/

theorem countFold_memOk {first k g} (hs : s.memOk) : (countFold first k g s).memOk := hs

theorem serveTile_memOk {site} (hs : s.memOk) : (serveTile site s).memOk := hs

/-! ### Network -/

theorem settleOwed_memOk {f} (hs : s.memOk) : (settleOwed f s).memOk := by
  unfold settleOwed
  split
  · split <;> exact hs
  exact hs

theorem dropFlight_memOk {n} (hs : s.memOk) : (dropFlight s n).memOk := by
  unfold dropFlight
  dsimp only
  split
  · exact hs
  exact .ite (settleOwed_memOk hs) hs

theorem replayOverrun_memOk {k} (hs : s.memOk) : (replayOverrun k s).memOk := State.raiseError_memOk hs

theorem acceptInput_memOk {k f} (hs : s.memOk) : (acceptInput s k f).memOk :=
  .ite hs (.ite hs (.ite (replayOverrun_memOk hs) hs))

theorem MaybeOk.orSelf {o : Option State} (ho : MaybeOk o) (hs : s.memOk) : (s.orSelf o).memOk := .ite hs (ho.getD hs)

theorem MaybeOk.orHeld {o : Option State} (ho : MaybeOk o) (hs : s.memOk) : (s.orHeld o).memOk := by
  unfold State.orHeld
  split
  · exact hs
  · exact .ite hs (ho _ rfl)

theorem matchToken_memOk {t} (hs : s.memOk) : MaybeOk (matchToken s t) := by
  unfold matchToken
  dsimp only
  split
  · exact .none
  split
  · exact .ite .none (.map fun _ _ => hs)
  split
  · exact .none
  split
  · exact .some hs
  split
  · exact .some hs
  exact .none

theorem matchReturn_memOk {t} (hs : s.memOk) : MaybeOk (matchReturn s t) := .ite (matchToken_memOk hs) .none

theorem divertToken_memOk {k t f} (hs : s.memOk) : MaybeOk (divertToken s k t f) := by
  unfold divertToken
  dsimp only
  split
  · exact .none
  split
  · exact .none
  exact .some hs

theorem divertArrives_memOk {fl t back g rd sat} (hs : s.memOk) : MaybeOk (divertArrives s fl t back g rd sat) := by
  unfold divertArrives
  dsimp only
  split
  · exact .none
  exact .ite .none (.some hs)

theorem tokenAtStation_memOk {k fl t} (hs : s.memOk) : MaybeOk (tokenAtStation s k fl t) := by
  unfold tokenAtStation
  dsimp only
  split
  · exact matchToken_memOk hs
  exact .ite (.some hs) (.ite (matchReturn_memOk hs) (.ite (divertToken_memOk hs) (matchToken_memOk hs)))

theorem arrivalError_memOk {fl t r saved} (hs : s.memOk) : MaybeOk (arrivalError fl t r saved s) := by
  unfold arrivalError
  dsimp only
  split
  · exact .ite (.ite .none (.some (State.raiseError_memOk (acceptInput_memOk hs)))) (.ite .none (.some (enterCaboose_memOk
    (acceptInput_memOk hs))))
  exact .ite .none (.some (State.raiseError_memOk hs))

theorem enterFifo_memOk {k i fl} (hs : s.memOk) : MaybeOk (enterFifo s k i fl) := .ite (.some hs) .none

theorem answerAdmitted_memOk {k fl t} (hs : s.memOk) : MaybeOk (answerAdmitted s k fl t) := by
  unfold answerAdmitted
  dsimp only
  split
  · exact .some hs
  split
  · exact .some hs
  exact .ite (.some hs) (.ite (.some hs) .none)

theorem tokenAtPe_memOk {fl t} (hs : s.memOk) : MaybeOk (tokenAtPe s fl t) := by
  unfold tokenAtPe
  dsimp only
  split
  · exact .none
  split
  · exact .some hs
  split
  · exact arrivalError_memOk hs
  split
  · exact arrivalError_memOk hs
  split
  · exact .none
  split
  · exact tokenAtStation_memOk hs
  split
  · exact .none
  split
  · exact enterFifo_memOk hs
  split
  · exact arrivalError_memOk hs
  split
  · exact .none
  split
  · exact .none
  next s0 e0 =>
    have hs0 : s0.memOk := answerAdmitted_memOk hs _ e0
    exact .map fun t e => acceptInput_memOk (tokenAtStation_memOk hs0 _ e)

theorem tokenAtOther_memOk {fl t} (hs : s.memOk) : MaybeOk (tokenAtOther s fl t) := by
  unfold tokenAtOther
  dsimp only
  split
  · exact .some hs
  · exact .none
  · exact .ite (arrivalError_memOk hs) .none
  split
  · split
    · exact arrivalError_memOk hs
    split
    · exact .none
    split
    · exact enterFifo_memOk hs
    exact .none
  exact arrivalError_memOk hs

theorem arrive_memOk {n} (hs : s.memOk) : MaybeOk (arrive s n) := by
  unfold arrive
  dsimp only
  split
  · exact .none
  split
  · exact .none
  split
  · exact .ite (tokenAtPe_memOk (dropFlight_memOk hs)) (tokenAtOther_memOk (dropFlight_memOk hs))
  · exact divertArrives_memOk (dropFlight_memOk hs)
  exact .none

theorem grantEntry_memOk {x n} (hs : s.memOk) : MaybeOk (grantEntry s x n) := by
  unfold grantEntry
  split
  · exact .ite (arrive_memOk hs) .none
  exact .none

theorem noteTrigger_memOk {k a} (hs : s.memOk) : (noteTrigger k a s).memOk := by
  unfold noteTrigger
  dsimp only
  split <;> exact hs

theorem sendOne_memOk {site st ctx tag wave k e} (hs : s.memOk) : (sendOne site st ctx tag wave k e s).memOk := by
  unfold sendOne
  dsimp only
  split
  · split
    · split
      · exact State.raiseError_memOk hs
      exact .ite (State.raiseError_memOk hs) hs
    split
    · exact hs
    exact .ite hs hs
  · split
    · exact hs
    exact .ite hs hs
  · split
    · exact hs
    exact noteTrigger_memOk hs
  split
  · exact State.raiseError_memOk hs
  exact .ite (State.raiseError_memOk hs) hs

theorem sendAll_memOk {site st ctx tag wave k es} (hs : s.memOk) : (sendAll site st ctx tag wave k es s).memOk := by
  induction es generalizing s with
  | nil => exact hs
  | cons e es ih => exact ih (sendOne_memOk hs)

theorem beforeAdmit_memOk {k i site q} (hs : s.memOk) : (beforeAdmit s k i site q).memOk := .ite hs hs

theorem admitOne_memOk {k site q w} (hs : s.memOk) : MaybeOk (admitOne k site q w s) :=
  .ite (.some hs) (.ite (.some (admitTag_memOk (beforeAdmit_memOk hs))) .none)

theorem admitEach_memOk {k site q ws} (hs : s.memOk) : MaybeOk (admitEach k site q ws s) := by
  induction ws generalizing s with
  | nil => exact .some hs
  | cons w ws ih =>
    unfold admitEach
    split
    · next t e => exact ih (admitOne_memOk hs _ e)
    · exact .none

theorem admitResult_memOk {k site q} (hs : s.memOk) : MaybeOk (admitResult s k site q) := by
  unfold admitResult
  split
  · exact .some hs
  exact admitEach_memOk (retireTags_memOk hs)

theorem inject_memOk {x n} (hs : s.memOk) : MaybeOk (inject s x n) := by
  unfold inject
  dsimp only
  split
  · exact .none
  refine .ite .none (.ite .none ?_)
  split
  · exact .none
  next u e =>
  have hu : u.memOk := by
    split at e
    · cases e
      exact hs
    · exact admitResult_memOk hs _ e
  refine .some ?_
  split
  · exact .ite (sendAll_memOk (.ite hu hu)) (sendAll_memOk (.ite hu hu))
  · exact sendAll_memOk hu

theorem feed_memOk {n} (hs : s.memOk) : MaybeOk (feed s n) := by
  unfold feed
  split
  · exact .none
  split
  · split
    · refine .ite .none (.ite (.some (acceptInput_memOk (dropFlight_memOk hs))) ?_)
      split
      · next e => exact arrivalError_memOk (feedToken_memOk (dropFlight_memOk hs) e)
      · next e => exact .some (acceptInput_memOk (feedToken_memOk (dropFlight_memOk hs) e))
      · exact .none
    · exact .none
  · exact .none

theorem coupleArrives_memOk {n} (hs : s.memOk) : MaybeOk (coupleArrives s n) := by
  unfold coupleArrives
  dsimp only
  split
  · exact .none
  exact .ite .none (.ite (.some (State.onRegion_memOk (acceptInput_memOk (dropFlight_memOk hs)))) (.ite (.some (State.onPe_memOk
    (State.onRegion_memOk (acceptInput_memOk (dropFlight_memOk hs))))) (.some (State.onOper_memOk (State.onRegion_memOk
    (acceptInput_memOk (dropFlight_memOk hs)))))))

theorem forwardCouple_memOk {site st ctx k serial gs} (hs : s.memOk) :
    (forwardCouple site st ctx k serial gs s).memOk := by
  induction gs generalizing s with
  | nil => exact hs
  | cons g gs ih => exact ih (.ite hs hs)

theorem joinGo_memOk {x ctx st} (hs : s.memOk) : MaybeOk (joinGo s x ctx st) := by
  unfold joinGo
  dsimp only
  split
  · exact .none
  exact .ite .none (.some (forwardCouple_memOk hs))

theorem operJoin_memOk {x} (hs : s.memOk) : MaybeOk (operJoin s x) :=
  .ite .none (.ite .none (.some (forwardCouple_memOk (State.onRegion_memOk (State.onOper_memOk (.foldl (fun h => .ite
    (sendOne_memOk h) h) hs))))))

theorem expireRead_memOk {tile r} (hs : s.memOk) : (expireRead tile r s).memOk := countFold_memOk (State.raiseError_memOk hs)

theorem readAfterDrop_memOk {tile pos ke r v} (hs : s.memOk) : (readAfterDrop tile pos ke r v s).memOk := by
  unfold readAfterDrop
  dsimp only
  split
  · split
    · split
      · apply State.onTile_memOk
        apply State.onTile_memOk
        split <;> exact hs
      apply expireRead_memOk
      apply State.onTile_memOk
      split <;> exact hs
    exact hs
  split
  · split
    · split
      · apply State.onTile_memOk
        split <;> exact hs
      apply expireRead_memOk
      split <;> exact hs
    exact hs
  split
  · split
    · apply State.onTile_memOk
      split <;> exact hs
    apply expireRead_memOk
    split <;> exact hs
  exact hs

theorem peeksAfterDrop_memOk {tile pos gen} (hs : s.memOk) : (peeksAfterDrop tile pos gen s).memOk :=
  .foldl (fun h => expireRead_memOk h) hs

theorem readsAfterDrop_memOk {tile pos gen} (hs : s.memOk) : (readsAfterDrop tile pos gen s).memOk :=
  serveTile_memOk (peeksAfterDrop_memOk (.foldl (fun h => readAfterDrop_memOk h) (.foldl (fun h => readAfterDrop_memOk h) hs)))

theorem undoAccess_memOk {a} (hs : s.memOk) : (undoAccess a s).memOk := by
  unfold undoAccess
  dsimp only
  split
  · exact hs
  exact .ite hs hs

theorem undoAct_memOk {k a} (hs : s.memOk) : (undoAct k a s).memOk := by
  unfold undoAct
  split
  · split
    · exact .ite hs hs
    exact hs
  · exact hs
  · exact hs
  · exact readsAfterDrop_memOk hs
  · split
    · exact undoAccess_memOk hs
    exact hs
  exact hs

theorem trimResults_memOk {k d dead x} (hs : s.memOk) : (trimResults k d dead x s).memOk := by
  unfold trimResults
  dsimp only
  refine .foldl (fun h => ?_) hs
  split
  · exact undoAct_memOk h
  · exact undoAct_memOk h
  exact h

theorem squashAct_memOk {k di i} (hs : s.memOk) : (squashAct k di i s).memOk :=
  .ite hs (State.onRegion_memOk (.foldl (fun h => h) (.foldl (fun h => undoAct_memOk h) (State.onRegion_memOk (.update
    (State.memOk.foldl (fun h => settleOwed_memOk h) (.foldl (fun h => h) (.foldl (fun h => trimResults_memOk h) hs))))))))

theorem squashArrives_memOk {n} (hs : s.memOk) : MaybeOk (squashArrives s n) := by
  unfold squashArrives
  dsimp only
  split
  · exact .none
  split
  · split
    · exact .none
    split
    · exact .none
    split
    · exact .none
    split
    · exact .some (acceptInput_memOk (dropFlight_memOk hs))
    exact .ite (.some (squashAct_memOk (acceptInput_memOk (dropFlight_memOk hs)))) (.ite (.some (State.onOper_memOk
      (squashAct_memOk (acceptInput_memOk (dropFlight_memOk hs))))) (.some (State.onOper_memOk (acceptInput_memOk
      (dropFlight_memOk hs)))))
  exact .none

theorem admitFlight_memOk {k fl} (hs : s.memOk) : MaybeOk (admitFlight s k fl) := by
  unfold admitFlight
  dsimp only
  split
  · exact .ite (.some hs) .none
  exact .ite (.some hs) (.ite (.some hs) (.ite (.some hs) .none))

theorem admitStreams_memOk {k n} (hs : s.memOk) : MaybeOk (admitStreams s k n) := by
  induction n with
  | zero => exact .none
  | succ n ih =>
    unfold admitStreams
    dsimp only
    split
    · exact ih
    split
    · next u e =>
      have hu : u.memOk := MaybeOk.ite .none (admitFlight_memOk hs) _ e
      exact .some (acceptInput_memOk hu)
    · exact ih

theorem outGo_memOk {site e} (hs : s.memOk) : (outGo site e s).memOk := by
  unfold outGo
  dsimp only
  split
  · exact hs
  split
  · exact sendOne_memOk hs
  split
  · exact hs
  split
  · exact .ite (sendOne_memOk hs) (.ite (.ite (sendOne_memOk hs) hs) (sendOne_memOk hs))
  exact sendOne_memOk hs

theorem drainOut_memOk {site n} (hs : s.memOk) : (drainOut site n s).memOk := by
  induction n generalizing s with
  | zero => exact hs
  | succ n ih =>
    unfold drainOut
    split
    · exact hs
    split
    · exact ih (outGo_memOk hs)
    · exact hs

theorem putOut_memOk {site e} (hs : s.memOk) : (putOut site e s).memOk := drainOut_memOk hs

theorem drainOuts_memOk {k} (hs : s.memOk) : (drainOuts s k).memOk := .ite hs (.foldl (fun h => drainOut_memOk h) hs)

theorem tagRetire_memOk {k} (hs : s.memOk) : (tagRetire s k).memOk := drainOuts_memOk (retireTags_memOk hs)

theorem tagAdmit_memOk {k} (hs : s.memOk) : MaybeOk (tagAdmit s k) := by
  unfold tagAdmit
  dsimp only
  split
  · exact .none
  split
  · split
    · next t e =>
      have ht : t.memOk := admitFlight_memOk (tagRetire_memOk hs) _ e
      exact .some (acceptInput_memOk ht)
    exact admitStreams_memOk (tagRetire_memOk hs)
  exact admitStreams_memOk (tagRetire_memOk hs)

theorem sendFlight_memOk {f} (hs : s.memOk) : (sendFlight f s).memOk := by
  unfold sendFlight
  split
  · exact .ite hs hs
  exact hs

theorem performAct_memOk {k a} (hs : s.memOk) : (performAct k a s).memOk := by
  unfold performAct
  split
  · exact sendFlight_memOk hs
  · exact hs
  · exact hs
  · exact hs
  · exact barrierTake_memOk hs
  · exact State.report_memOk hs
  · exact hs
  · exact hs
  · exact State.raiseError_memOk hs
  exact hs

theorem deliverKept_memOk {k p n} (hs : s.memOk) : (deliverKept k p n s).memOk := .foldl (fun h => h) hs

theorem keepPlace_memOk {dst q got} (hs : s.memOk) : (keepPlace dst q got s).memOk := by
  unfold keepPlace
  dsimp only
  split
  · exact hs
  split
  · split <;> exact hs
  exact .ite hs hs

theorem dropCommand_memOk {k a} (hs : s.memOk) : (dropCommand k a s).memOk := by
  unfold dropCommand
  dsimp only
  split
  · exact deliverKept_memOk hs
  exact hs

theorem dropAct_memOk {k a} (hs : s.memOk) : (dropAct k a s).memOk := by
  unfold dropAct
  dsimp only
  split
  · split
    · exact keepPlace_memOk (deliverKept_memOk hs)
    exact deliverKept_memOk hs
  · split
    · exact hs
    split
    · exact dropCommand_memOk hs
    split
    · exact hs
    exact .ite hs hs
  · exact hs
  · exact hs
  exact hs

theorem releaseEffect_memOk {k n} (hs : s.memOk) : MaybeOk (releaseEffect s k n) := by
  unfold releaseEffect
  dsimp only
  split
  · exact .none
  exact .ite .none (.some (.ite (dropAct_memOk (State.onRegion_memOk (retireTags_memOk hs))) (performAct_memOk (.ite
    (State.progress_memOk (State.onRegion_memOk (retireTags_memOk hs))) (State.onRegion_memOk (retireTags_memOk hs))))))

theorem raiseStall_memOk {k} (hs : s.memOk) : (raiseStall s k).memOk := State.raiseError_memOk hs

theorem faultFreed_memOk {h} (hs : s.memOk) : MaybeOk (faultFreed s h) := by
  unfold faultFreed
  dsimp only
  split
  · exact .some hs
  exact .none

/-! ### Select -/

theorem State.issue_memOk {x e} (hs : s.memOk) : (s.issue x e).memOk := by
  unfold State.issue
  dsimp only
  split <;> exact hs

/-! ### Tiles -/

theorem keptRead_memOk {site rs rst r} (hs : s.memOk) : MaybeOk (keptRead site rs rst r s) :=
  .ite (.some (deliverKept_memOk hs)) .none

theorem handleRead_memOk {site rs rst r pos gen} (hs : s.memOk) : (handleRead site rs rst r pos gen s).memOk := by
  unfold handleRead
  dsimp only
  split
  · next t e =>
    have ht : t.memOk := keptRead_memOk hs _ e
    exact ht
  split
  · exact serveTile_memOk (.ite hs hs)
  · exact hs
  · exact .ite hs hs
  exact .ite (expireRead_memOk hs) (State.raiseError_memOk hs)

theorem retryDeferred_memOk {site pos} (hs : s.memOk) : (retryDeferred site pos s).memOk := by
  unfold retryDeferred
  dsimp only
  refine .foldl (fun h => ?_) hs
  split
  · exact handleRead_memOk h
  exact h

theorem dropWord_memOk {site rs k words w key} (hs : s.memOk) : (dropWord site rs k words w key s).memOk := by
  unfold dropWord
  dsimp only
  split
  · exact .ite (deliverKept_memOk hs) hs
  exact hs

theorem landWord_memOk {site rs rst inside home w pos gen} (hs : s.memOk) :
    MaybeOk (landWord site rs rst inside home w pos gen s) := by
  unfold landWord
  dsimp only
  split
  · exact .some (dropWord_memOk hs)
  split
  · exact .none
  · exact .some (.ite (countFold_memOk (State.raiseError_memOk hs)) (State.raiseError_memOk hs))
  refine .some ?_
  apply serveTile_memOk
  split
  · apply retryDeferred_memOk
    split
    · split
      · apply State.post_memOk
        split
        · exact hs
        · exact acceptInput_memOk hs
        exact hs
      split
      · exact hs
      · exact acceptInput_memOk hs
      exact hs
    split
    · exact hs
    · exact acceptInput_memOk hs
    exact hs
  split
  · split
    · apply State.post_memOk
      split
      · exact hs
      · exact acceptInput_memOk hs
      exact hs
    split
    · exact hs
    · exact acceptInput_memOk hs
    exact hs
  split
  · exact hs
  · exact acceptInput_memOk hs
  exact hs

theorem countStall_memOk {site w} (hs : s.memOk) : (countStall site w s).memOk := .ite hs hs

theorem nameWrite_memOk {n} (hs : s.memOk) : MaybeOk (nameWrite s n) := by
  unfold nameWrite
  dsimp only
  split
  · exact .none
  split
  · split
    · exact .none
    split
    · exact .none
    split
    · exact .ite (.some (State.onTile_memOk (dropFlight_memOk hs))) .none
    split
    · exact .none
    split
    · next t e =>
      have ht : t.memOk := landWord_memOk (dropFlight_memOk hs) _ e
      exact .some ht
    exact .some (State.onTile_memOk (countStall_memOk (dropFlight_memOk hs)))
  exact .none

theorem retryWord_memOk {x} (hs : s.memOk) : MaybeOk (retryWord s x) := by
  unfold retryWord
  dsimp only
  split
  · exact .none
  split
  · exact .none
  refine .ite .none (.ite (.some (State.post_memOk (State.onTile_memOk hs))) ?_)
  split
  · next e => exact .some (landWord_memOk (State.onTile_memOk hs) _ e)
  · exact .ite .none (.some (State.onTile_memOk (countStall_memOk hs)))

theorem nameRead_memOk {n} (hs : s.memOk) : MaybeOk (nameRead s n) := by
  unfold nameRead
  dsimp only
  split
  · exact .none
  split
  · split
    · exact .none
    exact .ite .none (.some (handleRead_memOk (dropFlight_memOk hs)))
  exact .none

theorem forwardRequest_memOk {n} (hs : s.memOk) : MaybeOk (forwardRequest s n) := by
  unfold forwardRequest
  dsimp only
  split
  · exact .none
  split
  · exact .ite .none (.some (State.post_memOk (dropFlight_memOk hs)))
  exact .none

theorem foldReply_memOk {site k q v} (hs : s.memOk) : (foldReply site k q v s).memOk := .foldl (fun h => h) hs

theorem foldFault_memOk {fl q} (hs : s.memOk) : (foldFault fl q s).memOk := State.raiseError_memOk hs

theorem setModuli_memOk {d die ctx stmt m} (hs : s.memOk) : (setModuli d die ctx stmt m s).memOk :=
  .update (State.memOk.foldl (fun h => h) hs)

theorem resizeStart_memOk {n} (hs : s.memOk) : MaybeOk (resizeStart s n) := by
  unfold resizeStart
  dsimp only
  split
  · exact .none
  exact .ite (.some (foldReply_memOk (dropFlight_memOk hs))) (.ite (.some (foldFault_memOk (dropFlight_memOk hs))) (.some
    (.foldl (fun h => h) (State.onTile_memOk (dropFlight_memOk hs)))))

theorem moveReads_memOk {d d' die} (hs : s.memOk) : (moveReads d d' die s).memOk := by
  unfold moveReads
  dsimp only
  refine .foldl (fun h => ?_) (.foldl (fun h => h) hs)
  split <;> exact h

theorem applyFold_memOk {die q d} (hs : s.memOk) : (applyFold die q d s).memOk :=
  .foldl (fun h => h) (.update (moveReads_memOk (setModuli_memOk (.foldl (fun h => h) (.foldl (fun h => h) hs)))))

theorem foldSet_memOk {n} (hs : s.memOk) : MaybeOk (foldSet s n) := by
  unfold foldSet
  dsimp only
  split
  · exact .none
  exact .ite (.some (foldReply_memOk (dropFlight_memOk hs))) (.ite (.some (foldFault_memOk (dropFlight_memOk hs))) (.some
    (foldReply_memOk (countFold_memOk (applyFold_memOk (dropFlight_memOk hs))))))

theorem resizeDone_memOk {x} (hs : s.memOk) : MaybeOk (resizeDone s x) := by
  unfold resizeDone
  dsimp only
  split
  · exact .none
  exact .ite .none (.some (foldReply_memOk (State.onTile_memOk (countFold_memOk (applyFold_memOk hs)))))

theorem foldQuery_memOk {n} (hs : s.memOk) : MaybeOk (foldQuery s n) := by
  unfold foldQuery
  dsimp only
  split
  · exact .none
  exact .some (foldReply_memOk (countFold_memOk (dropFlight_memOk hs)))

theorem poisonGranule_memOk {site gran port} (hs : s.memOk) : (poisonGranule site gran port s).memOk := by
  unfold poisonGranule
  dsimp only
  split <;> exact hs

theorem scrubRead_memOk {x fixed bad} (hs : s.memOk) : MaybeOk (scrubRead s x fixed bad) :=
  .ite .none (.some (.ite (poisonGranule_memOk hs) hs))

theorem scrubBack_memOk {x} (hs : s.memOk) : MaybeOk (scrubBack s x) := by
  unfold scrubBack
  dsimp only
  split
  · exact .none
  exact .ite (.some hs) (.some hs)

/-! ### Access -/

theorem fillTlb_memOk {unit ctx va w} (hs : s.memOk) : (fillTlb unit ctx va w s).memOk := by
  unfold fillTlb
  dsimp only
  split
  · exact hs
  exact .ite hs hs

theorem addAccess_memOk {a} (hs : s.memOk) : (addAccess a s).memOk := hs

theorem State.onAccess_memOk {n g} (hs : s.memOk) : (s.onAccess n g).memOk := hs

theorem State.dropAccesses_memOk {p} (hs : s.memOk) : (s.dropAccesses p).memOk := hs

theorem operAccess_memOk {site kind op elem tag seq va size data cmp tok} (hs : s.memOk) :
    (operAccess site kind op elem tag seq va size data cmp tok s).memOk :=
  .foldl (fun h => .ite h h) hs

theorem logMemory_memOk {site tag} (hs : s.memOk) : (logMemory site tag s).memOk := .ite hs hs

theorem copySector_memOk {m i} (hs : s.memOk) : (copySector m i s).memOk := .ite hs (hs.of_writeMem rfl rfl)

theorem readHome_memOk {pa size} (hs : s.memOk) : (readHome pa size s).2.memOk := by
  unfold readHome
  dsimp only
  split
  · exact copySector_memOk hs
  · exact hs

theorem writeHome_memOk {pa bs} (hs : s.memOk) : (writeHome pa bs s).memOk := by
  have hw : (mendRange pa bs.length { s with mem := Memory.writeBytes s.mem pa bs }).memOk := hs.of_writeMem rfl rfl
  unfold writeHome
  dsimp only
  split
  · exact .ite (hw.of_writeMem rfl rfl) hw
  · exact .ite (hw.of_writeMem rfl rfl) hw
  · exact hw

theorem logAtomic_memOk {q c} (hs : s.memOk) : (logAtomic q c s).memOk := by
  unfold logAtomic
  split <;> exact hs

theorem performMem_memOk {a} (hs : s.memOk) : (performMem a s).2.2.memOk := by
  unfold performMem
  dsimp only
  split
  · exact .ite (logMemory_memOk (readHome_memOk hs)) (readHome_memOk hs)
  · exact writeHome_memOk hs
  · exact writeHome_memOk hs
  split
  · exact logAtomic_memOk (.ite (logMemory_memOk (writeHome_memOk hs)) (writeHome_memOk hs))
  · exact hs

theorem State.putFault_memOk {ws} (hs : s.memOk) : (s.putFault ws).memOk :=
  .ite (hs.of_writeHost rfl rfl) (hs.of_writeHost rfl rfl)

theorem drainRetire_memOk {ws} (hs : s.memOk) : (drainRetire ws s).memOk := by
  induction ws generalizing s with
  | nil => exact hs
  | cons w ws ih => exact .ite (ih (State.putFault_memOk hs)) hs

theorem drainHolds_memOk {hds} (hs : s.memOk) : (drainHolds hds s).memOk := by
  induction hds generalizing s with
  | nil => exact hs
  | cons d hds ih =>
    have hf : State.memOk { s.putFault d.words with holds := s.holds.map (fun x =>
        if x.unit == d.unit && x.id == d.id then { x with written := true } else x) } := State.putFault_memOk hs
    exact .ite (ih hs) (.ite (ih hf) hs)

theorem holdAccess_memOk {a level cause} (hs : s.memOk) : (holdAccess a level cause s).memOk :=
  State.raiseError_memOk (drainHolds_memOk hs)

theorem pinPage_memOk {a page sh} (hs : s.memOk) : (pinPage a page sh s).memOk := .ite hs hs

theorem unpin_memOk {key} (hs : s.memOk) : (unpin key s).memOk := hs

/-! ### Operators -/

theorem takeFlight_memOk {n fl} (hs : s.memOk) : (takeFlight n fl s).memOk :=
  .ite (dropFlight_memOk hs) (acceptInput_memOk (dropFlight_memOk hs))

theorem operForce_memOk {site g t} (hs : s.memOk) : (operForce site g t s).memOk := putOut_memOk hs

theorem operTell_memOk {site g t} (hs : s.memOk) : (operTell site g t s).memOk := putOut_memOk hs

theorem operSend_memOk {site g t} (hs : s.memOk) : MaybeOk (operSend site g t s) := .ite (.some (outGo_memOk hs)) .none

theorem siteError_memOk {site tag r saved} (hs : s.memOk) : (siteError site tag r saved s).memOk :=
  .ite (State.raiseError_memOk hs) (sendOne_memOk hs)

theorem operError_memOk {site code tag saved} (hs : s.memOk) : (operError site code tag saved s).memOk := siteError_memOk hs

theorem sinkReport_memOk {site t} (hs : s.memOk) : (sinkReport site t s).memOk :=
  .ite hs (.ite (siteError_memOk (State.sinkFirst_memOk hs)) (State.sinkFirst_memOk hs))

theorem numberSlot_memOk {site} (hs : s.memOk) : (numberSlot site s).memOk := .ite hs hs

theorem claimSlot_memOk {site} (hs : s.memOk) : (claimSlot site s).memOk := numberSlot_memOk (.ite hs hs)

theorem itemDone_memOk {site} (hs : s.memOk) : (itemDone site s).memOk := hs

theorem poisonItem_memOk {site tag} (hs : s.memOk) : (poisonItem site tag s).memOk := State.onOper_memOk (operForce_memOk hs)

theorem itemFault_memOk {site code tag payload tok} (hs : s.memOk) : (itemFault site code tag payload tok s).memOk :=
  itemDone_memOk (.ite (poisonItem_memOk (operError_memOk hs)) (operError_memOk hs))

theorem dropMask_memOk {site k} (hs : s.memOk) : (dropMask site k s).memOk := hs

theorem gatherNext_memOk {site n} (hs : s.memOk) : (gatherNext site n s).memOk := by
  induction n generalizing s with
  | zero => exact hs
  | succ n ih =>
    exact .ite hs (.ite (ih (s := itemDone site _) hs) (.ite (operAccess_memOk (numberSlot_memOk (s := dropMask site _ _) hs))
      (ih (itemFault_memOk (s := dropMask site _ _) hs))))

theorem issueNext_memOk {site} (hs : s.memOk) : (issueNext site s).memOk :=
  .ite hs (.ite (.ite hs (.ite (operAccess_memOk (State.onOper_memOk (numberSlot_memOk hs))) (operError_memOk hs))) (.ite
    (gatherNext_memOk hs) hs))

theorem wakeOpers_memOk {k} (hs : s.memOk) : (wakeOpers k s).memOk := .foldl (fun h => issueNext_memOk h) hs

theorem wakeFull_memOk {k} {t : State} (ht : t.memOk) : (wakeFull s k t).memOk := .foldl (fun h => issueNext_memOk h) ht

theorem reviveTag_memOk {site tag} (hs : s.memOk) : (reviveTag site tag s).memOk := by
  unfold reviveTag
  dsimp only
  split <;> exact hs

theorem beginPass_memOk {site arm} (hs : s.memOk) : (beginPass site arm s).memOk :=
  .ite (operError_memOk (State.onOper_memOk (.ite (operTell_memOk (reviveTag_memOk hs)) hs))) (.ite (.foldl (fun h =>
    operForce_memOk h) (State.onOper_memOk (.ite (operTell_memOk (reviveTag_memOk hs)) hs))) (issueNext_memOk (.ite
    (operTell_memOk (reviveTag_memOk hs)) hs)))

theorem startNext_memOk {site} (hs : s.memOk) : (startNext site s).memOk := by
  unfold startNext
  dsimp only
  split
  · exact hs
  split
  · exact hs
  exact .ite hs (.ite (.ite (beginPass_memOk hs) hs) (beginPass_memOk hs))

theorem armPass_memOk {site arm} (hs : s.memOk) : (armPass site arm s).memOk := .ite hs (startNext_memOk hs)

theorem abandon_memOk {site} (hs : s.memOk) : (abandon site s).memOk := hs

theorem endPass_memOk {site complete} (hs : s.memOk) : (endPass site complete s).memOk :=
  startNext_memOk (.ite (operTell_memOk hs) hs)

theorem elementDone_memOk {site} (hs : s.memOk) : (elementDone site s).memOk := hs

theorem armCommand_memOk {n} (hs : s.memOk) : MaybeOk (armCommand s n) := by
  unfold armCommand
  dsimp only
  split
  · exact .none
  exact .some (.ite (armPass_memOk (takeFlight_memOk hs)) (takeFlight_memOk hs))

theorem freshSlot_memOk {site} (hs : s.memOk) : (freshSlot site s).memOk := .ite hs hs

theorem rewindCommand_memOk {n} (hs : s.memOk) : MaybeOk (rewindCommand s n) := by
  unfold rewindCommand
  dsimp only
  split
  · exact .none
  exact .some (.ite (State.onOper_memOk (takeFlight_memOk hs)) (.ite (issueNext_memOk (.ite (State.onOper_memOk
    (State.onOper_memOk (freshSlot_memOk (abandon_memOk (takeFlight_memOk hs))))) (State.onOper_memOk (freshSlot_memOk
    (abandon_memOk (takeFlight_memOk hs)))))) (State.onOper_memOk (takeFlight_memOk hs))))

theorem tellTransfer_memOk {site g m status} (hs : s.memOk) : (tellTransfer site g m status s).memOk :=
  .ite hs (putOut_memOk hs)

theorem transferDone_memOk {site m status} (hs : s.memOk) : (transferDone site m status s).memOk :=
  .ite (tellTransfer_memOk (State.onOper_memOk (unpin_memOk (.ite hs hs)))) (.ite (tellTransfer_memOk (State.onOper_memOk
    (unpin_memOk (.ite hs hs)))) (State.onOper_memOk (unpin_memOk (.ite hs hs))))

theorem dropHeld_memOk {site} (hs : s.memOk) : (dropHeld site s).memOk := by
  unfold dropHeld
  dsimp only
  refine .foldl (fun h => ?_) hs
  split
  · exact State.onOper_memOk (.ite h h)
  exact h

theorem flushCommand_memOk {n} (hs : s.memOk) : MaybeOk (flushCommand s n) := by
  unfold flushCommand
  dsimp only
  split
  · exact .none
  refine .some ?_
  split
  · exact State.onOper_memOk (takeFlight_memOk hs)
  split
  · exact .foldl (fun h => transferDone_memOk h) (dropHeld_memOk (abandon_memOk (takeFlight_memOk hs)))
  split
  · exact endPass_memOk (State.onOper_memOk (abandon_memOk (takeFlight_memOk hs)))
  split
  · split
    · exact endPass_memOk (State.onOper_memOk (takeFlight_memOk hs))
    exact takeFlight_memOk hs
  exact takeFlight_memOk hs

theorem statusCommand_memOk {n} (hs : s.memOk) : MaybeOk (statusCommand s n) := by
  unfold statusCommand
  dsimp only
  split
  · exact .none
  exact .some (putOut_memOk (takeFlight_memOk hs))

theorem gateRelease_memOk {site} (hs : s.memOk) : (gateRelease site s).memOk := .foldl (fun h => operForce_memOk h) hs

theorem gateOpening_memOk {site tag} (hs : s.memOk) : (gateOpening site tag s).memOk := gateRelease_memOk hs

theorem openCommand_memOk {n} (hs : s.memOk) : MaybeOk (openCommand s n) := by
  unfold openCommand
  split
  · exact .none
  exact .some (gateOpening_memOk (takeFlight_memOk hs))

theorem closeCommand_memOk {n} (hs : s.memOk) : MaybeOk (closeCommand s n) := by
  unfold closeCommand
  split
  · exact .none
  exact .some (State.onOper_memOk (takeFlight_memOk hs))

theorem gateToken_memOk {n} (hs : s.memOk) : MaybeOk (gateToken s n) := by
  unfold gateToken
  dsimp only
  split
  · exact .none
  exact .ite .none (.some (gateRelease_memOk (State.onOper_memOk (takeFlight_memOk hs))))

theorem gateComplete_memOk {n} (hs : s.memOk) : MaybeOk (gateComplete s n) := by
  unfold gateComplete
  dsimp only
  split
  · exact .none
  exact .some (.ite (gateOpening_memOk (takeFlight_memOk hs)) (operTell_memOk (takeFlight_memOk hs)))

theorem bound_memOk {n} (hs : s.memOk) : MaybeOk (bound s n) := by
  unfold bound
  dsimp only
  split
  · exact .none
  exact .ite (.some (.ite (armPass_memOk (State.onOper_memOk (takeFlight_memOk hs))) (State.onOper_memOk (takeFlight_memOk
    hs)))) (.ite (.some (State.onOper_memOk (takeFlight_memOk hs))) (.some (operError_memOk (takeFlight_memOk hs))))

theorem baseToken_memOk {n} (hs : s.memOk) : MaybeOk (baseToken s n) := by
  unfold baseToken
  dsimp only
  split
  · exact .none
  exact .some (.ite (operError_memOk (takeFlight_memOk hs)) (armPass_memOk (takeFlight_memOk hs)))

theorem keepAccess_memOk {a} (hs : s.memOk) : (keepAccess a s).memOk := .ite hs hs

theorem elementReturn_memOk {n} (hs : s.memOk) : MaybeOk (elementReturn s n) := by
  unfold elementReturn
  dsimp only
  split
  · exact .none
  split
  · exact .none
  split
  · refine .map fun t e => ?_
    have ht : t.memOk := operSend_memOk hs _ e
    exact issueNext_memOk (elementDone_memOk (.foldl (fun h => keepAccess_memOk h) (.ite (logMemory_memOk ht) ht)))
  exact .ite (.ite (.some (issueNext_memOk (itemDone_memOk (elementDone_memOk (.foldl (fun h => keepAccess_memOk h) (.ite
    (logMemory_memOk (.foldl (fun h => operForce_memOk h) hs)) (.foldl (fun h => operForce_memOk h) hs))))))) .none) .none

theorem passEnds_memOk {x} (hs : s.memOk) : MaybeOk (passEnds s x) :=
  .ite .none (.ite (.some (endPass_memOk hs)) (.ite (.some (endPass_memOk hs)) .none))

theorem storeToken_memOk {n} (hs : s.memOk) : MaybeOk (storeToken s n) := by
  unfold storeToken
  dsimp only
  split
  · exact .none
  split
  · exact .none
  split
  · exact .none
  split
  · exact .some (operError_memOk (takeFlight_memOk (numberSlot_memOk hs)))
  exact .ite (.some (operError_memOk (State.onOper_memOk (takeFlight_memOk (numberSlot_memOk hs))))) (.some (operAccess_memOk
    (sinkReport_memOk (State.onOper_memOk (takeFlight_memOk (numberSlot_memOk hs))))))

theorem fetchItem_memOk {site k tag seq x poison marked tok} (hs : s.memOk) :
    (fetchItem site k tag seq x poison marked tok s).memOk := by
  unfold fetchItem
  split
  · exact itemDone_memOk (poisonItem_memOk (operError_memOk hs))
  split
  · exact itemFault_memOk hs
  exact operAccess_memOk hs

theorem takeItem_memOk {site k t} (hs : s.memOk) : (takeItem site k t s).memOk := .ite hs (fetchItem_memOk hs)

theorem indexRead_memOk {a} (hs : s.memOk) : (indexRead a s).memOk :=
  .ite hs (issueNext_memOk (fetchItem_memOk (.foldl (fun h => keepAccess_memOk h) hs)))

theorem gatherToken_memOk {n} (hs : s.memOk) : MaybeOk (gatherToken s n) := by
  unfold gatherToken
  dsimp only
  split
  · exact .none
  exact .ite (.some (.ite (operError_memOk (takeFlight_memOk hs)) (armPass_memOk (takeFlight_memOk hs)))) (.ite (.some (.ite
    (armPass_memOk hs) hs)) (.ite .none (.some (dropMask_memOk (takeItem_memOk (State.onOper_memOk (takeFlight_memOk
    (numberSlot_memOk (.ite (armPass_memOk hs) hs)))))))))

theorem maskToken_memOk {n} (hs : s.memOk) : MaybeOk (maskToken s n) := by
  unfold maskToken
  dsimp only
  split
  · exact .none
  exact .ite .none (.some (issueNext_memOk (.ite (operError_memOk (State.onOper_memOk (takeFlight_memOk hs)))
    (State.onOper_memOk (takeFlight_memOk hs)))))

theorem scatterPair_memOk {site l r} (hs : s.memOk) : (scatterPair site l r s).memOk := by
  unfold scatterPair
  dsimp only
  split
  · exact itemDone_memOk (operError_memOk (State.onOper_memOk (numberSlot_memOk hs)))
  split
  · exact itemFault_memOk (State.onOper_memOk (numberSlot_memOk hs))
  exact operAccess_memOk (sinkReport_memOk (State.onOper_memOk (numberSlot_memOk hs)))

theorem scatterToken_memOk {n} (hs : s.memOk) : MaybeOk (scatterToken s n) := by
  unfold scatterToken
  dsimp only
  split
  · exact .none
  split
  · exact .none
  split
  · exact .some (.ite (scatterPair_memOk (State.onOper_memOk (takeFlight_memOk hs))) (scatterPair_memOk (State.onOper_memOk
    (takeFlight_memOk hs))))
  exact .ite .none (.some (State.onOper_memOk (takeFlight_memOk hs)))

theorem loopNext_memOk {x} {s0 : State} (hs : s0.memOk) : MaybeOk (loopNext s0 x) := by
  unfold loopNext
  dsimp only
  split
  · split
    · exact .none
    split
    · exact .some (State.onOper_memOk (operForce_memOk hs))
    split
    · exact .none
    split
    · exact .some (State.onOper_memOk (operForce_memOk hs))
    exact .ite (.some (State.onOper_memOk (operForce_memOk hs))) (.ite (.some (State.onOper_memOk (operForce_memOk hs))) .none)
  split
  · exact .none
  split
  · exact .some (State.onOper_memOk (operForce_memOk (retireTags_memOk hs)))
  split
  · exact .none
  split
  · exact .some (State.onOper_memOk (operForce_memOk (retireTags_memOk hs)))
  exact .ite (.some (State.onOper_memOk (operForce_memOk (retireTags_memOk hs)))) (.ite (.some (State.onOper_memOk
    (operForce_memOk (admitTag_memOk (retireTags_memOk hs))))) .none)

theorem lookupToken_memOk {n} (hs : s.memOk) : MaybeOk (lookupToken s n) := by
  unfold lookupToken
  dsimp only
  split
  · exact .none
  exact .ite .none (.ite (.some (operError_memOk (takeFlight_memOk hs))) (.ite (.ite (.some (operError_memOk (operForce_memOk
    (takeFlight_memOk hs)))) .none) (.ite (.ite (.some (operError_memOk (operForce_memOk (takeFlight_memOk hs)))) .none) (.ite
    .none (.some (operAccess_memOk (State.onOper_memOk (takeFlight_memOk (claimSlot_memOk hs)))))))))

theorem lookupReturn_memOk {n} (hs : s.memOk) : MaybeOk (lookupReturn s n) := by
  unfold lookupReturn
  dsimp only
  split
  · exact .none
  split
  · exact .none
  split
  · exact .none
  refine .map fun t e => ?_
  have ht : t.memOk := operSend_memOk hs _ e
  exact .ite (unpin_memOk (.update (State.memOk.foldl (fun h => keepAccess_memOk h) (.ite (logMemory_memOk ht) ht))))
    (State.onOper_memOk (.foldl (fun h => keepAccess_memOk h) (.ite (logMemory_memOk ht) ht)))

theorem reorderDrain_memOk {site n} (hs : s.memOk) : (reorderDrain site n s).memOk := by
  induction n generalizing s with
  | zero => exact hs
  | succ n ih =>
    unfold reorderDrain
    dsimp only
    split
    · exact hs
    · exact ih (operForce_memOk hs)

theorem reorderTake_memOk {n} (hs : s.memOk) : MaybeOk (reorderTake s n) := by
  unfold reorderTake
  dsimp only
  split
  · exact .none
  exact .ite (.ite (.some (reorderDrain_memOk (operForce_memOk (State.onOper_memOk (takeFlight_memOk hs))))) .none) (.ite .none
    (.some (State.onOper_memOk (takeFlight_memOk hs))))

theorem decodeBlocks_memOk {site n} (hs : s.memOk) : (decodeBlocks site n s).memOk := by
  induction n generalizing s with
  | zero => exact hs
  | succ n ih =>
    unfold decodeBlocks
    dsimp only
    refine .ite hs ?_
    split
    · exact hs
    · exact operError_memOk (State.onOper_memOk hs)
    · have hd {t : State} {ts : List Token} {o : Oper} (ht : t.memOk) :
          (ts.foldl (fun s t => elementDone site (operForce site (toA o) t s)) t).memOk :=
        .foldl (fun h => elementDone_memOk (operForce_memOk h)) ht
      exact ih (.ite (State.onOper_memOk (hd (State.onOper_memOk hs))) (hd (State.onOper_memOk hs)))

theorem decodeToken_memOk {n} (hs : s.memOk) : MaybeOk (decodeToken s n) := by
  unfold decodeToken
  dsimp only
  split
  · exact .none
  exact .ite (.some (takeFlight_memOk hs)) (.ite .none (.some (decodeBlocks_memOk (State.onOper_memOk (takeFlight_memOk hs)))))

theorem sieveRun_memOk {site tag n} (hs : s.memOk) : (sieveRun site tag n s).memOk := by
  induction n generalizing s with
  | zero => exact hs
  | succ n ih =>
    unfold sieveRun
    dsimp only
    split
    · exact hs
    split
    · exact hs
    have h1 {c : Prop} [Decidable c] : (if c then operError site 0x03 tag none s else s).memOk := .ite (operError_memOk hs) hs
    exact .ite (ih (State.onOper_memOk (operForce_memOk (operForce_memOk h1)))) (ih (State.onOper_memOk h1))

theorem sieveToken_memOk {n} (hs : s.memOk) : MaybeOk (sieveToken s n) := by
  unfold sieveToken
  dsimp only
  split
  · exact .none
  exact .ite .none (.some (sieveRun_memOk (State.onOper_memOk (takeFlight_memOk hs))))

/-! ### Ports -/

theorem freeOut_memOk {q} (hs : s.memOk) : (freeOut q s).memOk := .ite hs hs

theorem requestFault_memOk {code q} (hs : s.memOk) : (requestFault code q s).memOk := State.raiseError_memOk (freeOut_memOk hs)

theorem respond_memOk {site region g t} (hs : s.memOk) : (respond site region g t s).memOk := .ite hs hs

theorem takeNoted_memOk {m site ids} (hs : s.memOk) : (takeNoted m site ids s).memOk := hs

theorem serveRequest_memOk {site q} (hs : s.memOk) : (serveRequest site q s).memOk :=
  .ite (requestFault_memOk hs) (.ite (requestFault_memOk hs) (.ite hs hs))

theorem ordNext_memOk {site key n} (hs : s.memOk) : (ordNext site key n s).memOk := by
  induction n generalizing s with
  | zero => exact hs
  | succ n ih =>
    unfold ordNext
    dsimp only
    refine .ite hs ?_
    split
    · exact hs
    · exact .ite (requestFault_memOk (takeNoted_memOk (State.onOper_memOk hs)))
        (.ite (ih (serveRequest_memOk (State.onOper_memOk hs))) (serveRequest_memOk (State.onOper_memOk hs)))

theorem ordArrive_memOk {site q} (hs : s.memOk) : (ordArrive site q s).memOk := .ite (requestFault_memOk hs) (ordNext_memOk hs)

theorem ordDone_memOk {site q} (hs : s.memOk) : (ordDone site q s).memOk := .ite (ordNext_memOk hs) hs

theorem owePlace_memOk {site q ts} (hs : s.memOk) : (owePlace site q ts s).memOk := by
  unfold owePlace
  dsimp only
  split
  · exact hs
  split
  · exact hs
  exact freeOut_memOk hs

theorem requestDone_memOk {a q} (hs : s.memOk) : (requestDone a q s).memOk :=
  ordDone_memOk (.ite (State.raiseError_memOk (.foldl (fun h => respond_memOk h) (unpin_memOk (owePlace_memOk hs)))) (.foldl
    (fun h => respond_memOk h) (unpin_memOk (owePlace_memOk hs))))

theorem requestFails_memOk {a code q} (hs : s.memOk) : (requestFails a code q s).memOk := ordDone_memOk (requestFault_memOk hs)

theorem holdQueue_memOk {q d i level cause} (hs : s.memOk) : (holdQueue q d i level cause s).memOk := holdAccess_memOk hs

theorem markPush_memOk {n index} (hs : s.memOk) : (markPush n index s).memOk := .ite hs hs

theorem logQueue_memOk {q bad} (hs : s.memOk) : (logQueue q bad s).memOk := .ite hs hs

theorem serveQueue_memOk {q} {held : State} (hh : held.memOk) (hs : s.memOk) : MaybeOk (serveQueue q held s) := by
  unfold serveQueue
  dsimp only
  refine .ite (.some (requestFault_memOk hs)) (.ite (.ite .none ?push) (.ite (.ite .none ?pop)
    (.ite (.some (respond_memOk (respond_memOk hs))) ?peek)))
  case push =>
    split
    · exact .some (requestFault_memOk hs)
    · exact .some (holdQueue_memOk hh)
    · next pa _ =>
      have hw {bs qs} : State.memOk { writeHome pa bs s with queues := qs } := writeHome_memOk hs
      exact .some (respond_memOk (markPush_memOk hw))
  case pop =>
    split
    · exact .some (requestFault_memOk hs)
    · exact .some (holdQueue_memOk hh)
    · next pa _ =>
      have hr {qs} : State.memOk { (readHome pa 16 s).2 with queues := qs } := readHome_memOk hs
      exact .some (respond_memOk (respond_memOk (logQueue_memOk hr)))
  case peek =>
    split
    · exact .some (requestFault_memOk hs)
    · exact .some (holdQueue_memOk hh)
    · exact .some (respond_memOk (respond_memOk (logQueue_memOk (readHome_memOk hs))))

theorem fenceArrive_memOk {site q} (hs : s.memOk) : (fenceArrive site q s).memOk := .ite hs (.ite hs hs)

theorem fenceEnds_memOk {site n} (hs : s.memOk) : MaybeOk (fenceEnds s site n) := by
  unfold fenceEnds
  split
  · exact .none
  exact .ite .none (.some (respond_memOk hs))

theorem portRequest_memOk {n} (hs : s.memOk) : MaybeOk (portRequest s n) := by
  unfold portRequest
  dsimp only
  split
  · exact .none
  split
  · have hd := dropFlight_memOk (n := n) hs
    refine .ite (.ite .none (.map fun u e => ?_)) (.ite (.some (requestFault_memOk hd)) (.ite (.ite .none
      (.some (fenceArrive_memOk hd))) (.ite .none (.ite (.some (ordArrive_memOk hd)) (.some (serveRequest_memOk hd))))))
    have hu := serveQueue_memOk hs hd _ e
    exact .ite hu hu
  · exact .none

theorem transferCommand_memOk {code n} (hs : s.memOk) : MaybeOk (transferCommand code s n) := by
  unfold transferCommand
  dsimp only
  split
  · exact .none
  exact .ite .none (.some (operAccess_memOk (State.onOper_memOk (addAccess_memOk (takeNoted_memOk (takeFlight_memOk hs))))))

theorem onMove_memOk {site m m'} (hs : s.memOk) : (onMove site m m' s).memOk := hs

theorem endTransfer_memOk {site m status} (hs : s.memOk) : (endTransfer site m status s).memOk := transferDone_memOk hs

theorem nextPiece_memOk {site m} (hs : s.memOk) : (nextPiece site m s).memOk := .ite (.ite hs (endTransfer_memOk hs)) hs

theorem transferRange_memOk {site m} (hs : s.memOk) : (transferRange site m s).memOk := endTransfer_memOk (operError_memOk hs)

theorem startNvme_memOk {site m} (hs : s.memOk) : (startNvme site m s).memOk := by
  have hw {pa bs} : (writeHome pa bs { s with fresh := s.fresh + 1 }).memOk := writeHome_memOk hs
  exact .ite (endTransfer_memOk hs) (.ite (transferRange_memOk hs) (hw.of_writeHost rfl rfl))

theorem migrateNext_memOk {site m} (hs : s.memOk) : (migrateNext site m s).memOk := by
  unfold migrateNext
  dsimp only
  split
  · exact endTransfer_memOk hs
  split
  · exact hs
  exact onMove_memOk (.update (State.memOk.foldl (fun h => writeHome_memOk h) hs))

theorem startMigrate_memOk {site m} (hs : s.memOk) : (startMigrate site m s).memOk := by
  unfold startMigrate
  dsimp only
  split
  · exact endTransfer_memOk hs
  split
  · exact transferRange_memOk hs
  split
  · exact .ite (endTransfer_memOk hs) (migrateNext_memOk hs)
  exact endTransfer_memOk hs

theorem startTransfer_memOk {site m bs} (hs : s.memOk) : (startTransfer site m bs s).memOk :=
  .ite (endTransfer_memOk (operError_memOk hs)) (.ite (startMigrate_memOk hs) (.ite (startNvme_memOk hs) (.ite
    (transferRange_memOk hs) (.ite hs (nextPiece_memOk hs)))))

theorem transferStep_memOk {a} (hs : s.memOk) : (transferStep a s).memOk := by
  have hd : (s.dropAccesses (fun x => x.id == a.id)).memOk := hs
  have hh {m1 m2 dst} : (onMove a.oper m1 m2 { s.dropAccesses (fun x => x.id == a.id) with
      hostMem := Memory.writeBytes s.hostMem dst a.bytes }).memOk := hs.of_writeHost rfl rfl
  unfold transferStep
  dsimp only
  split
  · exact hd
  · exact .ite (startTransfer_memOk hd) (.ite (.ite hd hd) (.ite (migrateNext_memOk hd) (.ite (.ite (nextPiece_memOk hh) hd)
      (.ite (.ite (endTransfer_memOk hd) hd) (nextPiece_memOk hd)))))

theorem linkCompletion_memOk {n data} (hs : s.memOk) : MaybeOk (linkCompletion s n data) := by
  unfold linkCompletion
  dsimp only
  split
  · exact .none
  split
  · exact .none
  exact .ite .none (.ite (.some (endTransfer_memOk hs)) (.ite (.ite (.some (endTransfer_memOk hs)) (.some (.foldl (fun h => h)
    hs))) .none))

theorem nvmeEnds_memOk {n status} (hs : s.memOk) : MaybeOk (nvmeEnds s n status) := by
  have hw {g at' bs} : State.memOk { s with hostMem := Memory.writeBytes s.hostMem at' bs, modRegs := g } :=
    hs.of_writeHost rfl rfl
  unfold nvmeEnds
  dsimp only
  split
  · exact .none
  split
  · exact .none
  · generalize ({ s.modRegs with nqp := _ } : ModRegs) = g
    exact .ite .none (.some (.ite (endTransfer_memOk hw) (.ite (endTransfer_memOk (onMove_memOk hw)) (endTransfer_memOk hw))))

theorem driveAccess_memOk {q write addr data} (hs : s.memOk) : MaybeOk (driveAccess s q write addr data) := by
  unfold driveAccess
  dsimp only
  split
  · exact .none
  split
  · exact .none
  exact .some (.foldl (fun h => h) (.ite hs hs))

theorem forwardToken_memOk {n} (hs : s.memOk) : MaybeOk (forwardToken s n) := by
  unfold forwardToken
  dsimp only
  split
  · exact .none
  exact .ite .none (.ite (.some (sendNumbered_memOk (sinkReport_memOk (takeFlight_memOk hs)))) (.ite .none (.some
    (enterCaboose_memOk (sinkReport_memOk (takeFlight_memOk hs))))))

theorem receiveSlot_memOk {p module slot} (hs : s.memOk) : MaybeOk (receiveSlot p module slot s) := by
  unfold receiveSlot
  dsimp only
  split
  · exact .some hs
  split
  · exact .none
  split
  · exact .some hs
  refine .map fun t e => ?_
  have ht : t.memOk := operSend_memOk hs _ e
  exact ht

theorem takeSlot_memOk {module slot} (hs : s.memOk) : MaybeOk (takeSlot s module slot) := by
  unfold takeSlot
  split
  · exact .none
  split
  · exact .none
  refine .map fun t e => ?_
  have ht : t.memOk := receiveSlot_memOk hs _ e
  exact ht

theorem writeDone_memOk {a} (hs : s.memOk) : (writeDone a s).memOk :=
  .ite (keepAccess_memOk hs) (.ite (itemDone_memOk (elementDone_memOk (keepAccess_memOk hs))) (elementDone_memOk
    (keepAccess_memOk hs)))

theorem afterPerform_memOk {a} (hs : s.memOk) : (afterPerform a s).memOk := by
  unfold afterPerform
  split
  · exact requestDone_memOk hs
  split
  · exact transferStep_memOk hs
  split
  · exact hs
  split
  · exact keepAccess_memOk hs
  split
  · exact writeDone_memOk hs
  · exact .ite (indexRead_memOk hs) hs
  exact hs

theorem performAccess_memOk {a} (hs : s.memOk) : (performAccess a s).memOk :=
  afterPerform_memOk (State.onAccess_memOk (performMem_memOk hs))

/-! ### Tender -/

theorem State.fatalStop_memOk {cls die site} (hs : s.memOk) : (s.fatalStop cls die site).memOk := .ite hs hs

theorem elementFails_memOk {a code} (hs : s.memOk) : (elementFails a code s).memOk := by
  unfold elementFails
  dsimp only
  split
  · exact requestFails_memOk hs
  split
  · split
    · exact .ite (onMove_memOk (State.dropAccesses_memOk (operError_memOk hs))) (endTransfer_memOk (operError_memOk hs))
    exact hs
  exact .ite (operError_memOk hs) (.ite (operError_memOk hs) (.ite (operError_memOk hs) (.ite (issueNext_memOk (itemFault_memOk
    hs)) (itemFault_memOk hs))))

theorem takePin_memOk {a page sh pa} (hs : s.memOk) : (takePin a page sh pa s).memOk :=
  .ite (issueNext_memOk (State.onAccess_memOk (pinPage_memOk hs))) hs

theorem walkEnd_memOk {n} (hs : s.memOk) : MaybeOk (walkEnd s n) := by
  unfold walkEnd
  dsimp only
  split
  · exact .none
  split
  · exact .none
  split
  · exact .some (holdAccess_memOk hs)
  exact .ite (.some (elementFails_memOk (fillTlb_memOk hs))) (.ite (.some (elementFails_memOk (fillTlb_memOk hs))) (.some
    (takePin_memOk (fillTlb_memOk hs))))

theorem pinGrant_memOk {n} (hs : s.memOk) : MaybeOk (pinGrant s n) := by
  unfold pinGrant
  split
  · exact .none
  exact .ite .none (walkEnd_memOk hs)

theorem slotFreed_memOk {u} (hs : s.memOk) : MaybeOk (slotFreed s u) := by
  unfold slotFreed
  split
  · exact .none
  exact .ite (.some (startNext_memOk hs)) .none

theorem orderAccess_memOk {a} (hs : s.memOk) : (orderAccess a s).memOk := .ite hs (performAccess_memOk hs)

theorem tenderStep_memOk {n} (hs : s.memOk) : MaybeOk (tenderStep s n) := by
  unfold tenderStep
  dsimp only
  split
  · exact .none
  exact .ite (.ite (.some hs) (.some (orderAccess_memOk hs))) (.ite (.some (.update (performAccess_memOk hs))) (.ite (.some
    (afterPerform_memOk hs)) .none))

theorem filterEnd_memOk {n} (hs : s.memOk) : MaybeOk (filterEnd s n) := by
  unfold filterEnd
  split
  · exact .none
  exact .ite .none (.some (orderAccess_memOk hs))

theorem cxlTimeout_memOk {n} (hs : s.memOk) : MaybeOk (cxlTimeout s n) := by
  unfold cxlTimeout
  split
  · exact .none
  exact .ite .none (.ite (.some hs) (.some (State.fatalStop_memOk hs)))

theorem ignoreTres_memOk (hs : s.memOk) : (ignoreTres s).memOk := State.onRegs_memOk hs

theorem unhold_memOk {h} (hs : s.memOk) : (unhold h s).memOk := by
  unfold unhold
  dsimp only
  split <;> exact hs

theorem tresRetry_memOk {v} (hs : s.memOk) : (tresRetry v s).memOk := by
  unfold tresRetry
  dsimp only
  split
  · exact .ite (State.dropAccesses_memOk (unhold_memOk hs)) (State.onAccess_memOk (unhold_memOk hs))
  exact ignoreTres_memOk hs

theorem tresFail_memOk {v} (hs : s.memOk) : (tresFail v s).memOk := by
  unfold tresFail
  split
  · split
    · exact elementFails_memOk (unhold_memOk hs)
    exact unhold_memOk hs
  exact ignoreTres_memOk hs

theorem fqheadWrite_memOk {v} (hs : s.memOk) : (fqheadWrite v s).memOk :=
  drainHolds_memOk (drainRetire_memOk (State.onRegs_memOk hs))

theorem startRetire_memOk {ctx page} (hs : s.memOk) : (startRetire ctx page s).memOk := by
  unfold startRetire
  split
  · exact .ite hs hs
  exact hs

theorem startTinv_memOk {v} (hs : s.memOk) : (startTinv v s).memOk := .ite (startRetire_memOk hs) hs

theorem tinvWrite_memOk {v} (hs : s.memOk) : (tinvWrite v s).memOk := .ite (startTinv_memOk hs) hs

theorem endMigration_memOk {ctx page} (hs : s.memOk) : (endMigration ctx page s).memOk := by
  unfold endMigration
  dsimp only
  split
  · exact hs
  split
  · split
    · exact endTransfer_memOk hs
    exact hs
  exact hs

theorem invalEnds_memOk (hs : s.memOk) : MaybeOk (invalEnds s) := by
  unfold invalEnds
  dsimp only
  split
  · exact .none
  split
  · exact .none
  split
  · exact .some (startTinv_memOk (.update (State.memOk.ite (endMigration_memOk hs) hs)))
  exact .some (.ite (endMigration_memOk hs) hs)

theorem retireRecord_memOk {n} (hs : s.memOk) : MaybeOk (retireRecord s n) := by
  unfold retireRecord
  dsimp only
  split
  · exact .none
  exact .ite .none (.some (drainRetire_memOk hs))

/-! ### Region -/

theorem onRegionPes_memOk {k g} (hs : s.memOk) : (onRegionPes k g s).memOk := .foldl (fun h => h) hs

theorem onRegionOpers_memOk {k g} (hs : s.memOk) : (onRegionOpers k g s).memOk := hs

theorem resetNames_memOk {k} (hs : s.memOk) : (resetNames k s).memOk := .foldl (fun h => h) hs

theorem flushMatrix_memOk {k} (hs : s.memOk) : (flushMatrix k s).memOk := State.onMatrix_memOk (.ite (onRegionPes_memOk hs) hs)

theorem flushRegion_memOk {k} (hs : s.memOk) : (flushRegion k s).memOk :=
  resetNames_memOk (State.onRegion_memOk (State.onRegion_memOk (flushMatrix_memOk (onRegionOpers_memOk (onRegionPes_memOk
    (.foldl (fun h => h) (.foldl (fun h => h) hs)))))))

theorem flushByHost_memOk {r} (hs : s.memOk) : (flushByHost r s).memOk := .ite (State.onRegion_memOk (flushRegion_memOk hs)) hs

theorem haltCommand_memOk {r} (hs : s.memOk) : (haltCommand r s).memOk := .ite hs hs

theorem resumeRegion_memOk {k} (hs : s.memOk) : (resumeRegion k s).memOk := .ite (wakeOpers_memOk hs) hs

/-! ### Mark -/

theorem freeWaves_memOk {k w0} (hs : s.memOk) : (freeWaves k w0 s).memOk := hs

theorem takeMark_memOk {k} (hs : s.memOk) : (takeMark k s).memOk :=
  .ite (onRegionPes_memOk hs) (freeWaves_memOk (.update (onRegionPes_memOk hs)))

theorem firstMark_memOk {k} (hs : s.memOk) : (firstMark k s).memOk := .ite hs hs

theorem replayArea_memOk {k} (hs : s.memOk) : (replayArea k s).memOk :=
  .ite hs (.ite (.ite hs hs) (.ite (replayOverrun_memOk hs) hs))

/-! ### Loader -/

theorem registerImage_memOk (hs : s.memOk) : (registerImage s).memOk := by
  unfold registerImage
  dsimp only
  split
  · exact State.onRegs_memOk hs
  exact .update hs

theorem unregisterImage_memOk (hs : s.memOk) : (unregisterImage s).memOk :=
  .ite (State.refuseWrite_memOk (State.onRegs_memOk hs)) (.update hs)

theorem deliver_memOk {k c w} (hs : s.memOk) : (deliver k c w s).memOk := by
  unfold deliver
  dsimp only
  split
  · exact hs
  · exact hs
  · exact hs
  · exact hs
  · exact .ite hs hs
  exact hs

theorem deliverNext_memOk {k} (hs : s.memOk) : MaybeOk (deliverNext s k) := by
  unfold deliverNext
  split
  · exact .none
  split
  · exact .none
  split
  · exact .none
  exact .some (State.onRegion_memOk (deliver_memOk hs))

theorem releaseMatrix_memOk {k} (hs : s.memOk) : (releaseMatrix k s).memOk := .ite hs hs

theorem becomeResident_memOk {k} (hs : s.memOk) : MaybeOk (becomeResident s k) := by
  unfold becomeResident
  dsimp only
  split
  · exact .none
  exact .ite .none (.some (firstMark_memOk (resetNames_memOk (State.onRegion_memOk (releaseMatrix_memOk (.foldl (fun h => h)
    hs))))))

/-! ### Preempt -/

theorem evictRegion_memOk {k} (hs : s.memOk) : (evictRegion k s).memOk :=
  .update (onRegionPes_memOk (.foldl (fun h => h) (flushRegion_memOk hs)))

theorem hostPreempt_memOk {i mode} (hs : s.memOk) : (hostPreempt i mode s).memOk := by
  unfold hostPreempt
  split
  · exact .ite (State.refuseWrite_memOk hs) (State.onInst_memOk (.foldl (fun h => h) hs))
  exact State.refuseWrite_memOk hs

theorem hostResume_memOk {i} (hs : s.memOk) : (hostResume i s).memOk := by
  unfold hostResume
  split
  · exact .ite hs (State.refuseWrite_memOk hs)
  exact State.refuseWrite_memOk hs

theorem allParked_memOk {i} (hs : s.memOk) : (allParked s i).memOk := by
  unfold allParked
  split
  · exact .ite hs hs
  exact hs

theorem parkRegion_memOk {k} (hs : s.memOk) : (parkRegion k s).memOk :=
  allParked_memOk (State.onRegion_memOk (.update (State.memOk.ite (.foldl (fun h => h) (.ite (State.onMatrix_memOk
    (onRegionPes_memOk hs)) (onRegionPes_memOk hs))) (.ite (State.onMatrix_memOk (onRegionPes_memOk hs)) (onRegionPes_memOk
    hs)))))

theorem unpark_memOk {k} (hs : s.memOk) : (unpark k s).memOk := by
  unfold unpark
  dsimp only
  split
  · apply wakeOpers_memOk
    apply State.onRegion_memOk
    split
    · exact State.onMatrix_memOk (.update (State.memOk.foldl (fun h => h) hs))
    exact .update (State.memOk.foldl (fun h => h) hs)
  exact hs

theorem resumeInst_memOk {x gone} (hs : s.memOk) : (resumeInst x gone s).memOk :=
  State.onInst_memOk (.foldl (fun h => unpark_memOk h) (.foldl (fun h => evictRegion_memOk h) hs))

theorem instResume_memOk {i} (hs : s.memOk) : MaybeOk (instResume s i) := by
  unfold instResume
  split
  · exact .ite (.map fun _ _ => resumeInst_memOk hs) .none
  exact .none

theorem budgetExpires_memOk {i} (hs : s.memOk) : MaybeOk (budgetExpires s i) := by
  unfold budgetExpires
  dsimp only
  split
  · exact .none
  exact .ite .none (.ite (.some (.foldl (fun h => h) hs)) (.some (.update (State.memOk.foldl (fun h => unpark_memOk h) (.foldl
    (fun h => h) hs)))))

/-! ### Arbiter -/

theorem popLaunch_memOk {q} (hs : s.memOk) : (popLaunch q s).memOk := hs

theorem dropMalformed_memOk {q} (hs : s.memOk) : MaybeOk (dropMalformed s q) := by
  unfold dropMalformed
  split
  · exact .none
  exact .map fun _ _ => State.deviceReport_memOk hs

theorem firstSome_memOk {os : List (Option State)} (ho : ∀ o ∈ os, MaybeOk o) : MaybeOk (firstSome os) := by
  induction os with
  | nil => exact .none
  | cons o os ih =>
    cases o with
    | none => exact ih (fun o ho' => ho o (List.mem_cons_of_mem _ ho'))
    | some t => exact ho _ List.mem_cons_self

theorem firstSome_map_memOk {α : Type} {g : α → Option State} {xs : List α} (hg : ∀ x, MaybeOk (g x)) :
    MaybeOk (firstSome (xs.map g)) :=
  firstSome_memOk (List.forall_mem_map.2 fun x _ => hg x)

theorem preemptFor_memOk {l x} (hs : s.memOk) : (preemptFor l x s).memOk := .foldl (fun h => h) hs

theorem chooseInst_memOk {q n b} (hs : s.memOk) : (chooseInst q n b s).memOk := hs

theorem tryQueue_memOk {p q} (hs : s.memOk) : MaybeOk (tryQueue s p q) := by
  unfold tryQueue
  split
  · exact .none
  split
  · exact .none
  split
  · exact .none
  split
  · exact .none
  split
  · exact .some hs
  split
  · exact .none
  exact .ite (.some (chooseInst_memOk (.foldl (fun h => preemptFor_memOk h) hs))) .none

theorem tryPrio_memOk {p} (hs : s.memOk) : MaybeOk (tryPrio s p) := by
  have hr {xs : List Inst} : MaybeOk (firstSome (xs.map (fun x => instResume s x.num))) :=
    firstSome_map_memOk (fun _ => instResume_memOk hs)
  unfold tryPrio
  dsimp only
  split
  · next e => exact .some (hr _ e)
  · exact firstSome_map_memOk (fun _ => tryQueue_memOk hs)

theorem arbitrate_memOk (hs : s.memOk) : MaybeOk (arbitrate s) := by
  unfold arbitrate
  split
  · next e => exact .some (firstSome_map_memOk (fun _ => dropMalformed_memOk hs) _ e)
  · exact firstSome_map_memOk (fun _ => tryPrio_memOk hs)

theorem takeSites_memOk {l i} (hs : s.memOk) : (takeSites l i s).memOk := .foldl (fun h => .ite h h) hs

theorem placeRegion_memOk {x l i} (hs : s.memOk) : (placeRegion x l i s).memOk := by
  unfold placeRegion
  dsimp only
  split
  · exact hs
  split
  · exact hs
  exact State.onInst_memOk (State.onRegion_memOk (takeSites_memOk hs))

theorem shareBarriers_memOk {n} (hs : s.memOk) : (shareBarriers n s).memOk := by
  unfold shareBarriers
  split
  · exact .foldl (fun h => h) hs
  exact hs

theorem startInst_memOk {n} (hs : s.memOk) : MaybeOk (startInst s n) := by
  unfold startInst
  dsimp only
  split
  · exact .none
  split
  · exact .none
  split
  · exact .none
  exact .map fun _ _ => shareBarriers_memOk (State.onInst_memOk (.foldl (fun h => placeRegion_memOk h) (.foldl (fun h =>
    evictRegion_memOk h) hs)))

theorem writeVa_memOk {ctx ps bs} (hs : s.memOk) : MaybeOk (writeVa ctx ps bs s) := by
  induction ps generalizing bs s with
  | nil => exact .some hs
  | cons p ps ih =>
    unfold writeVa
    split
    · exact .ite (ih (writeHome_memOk hs)) .none
    · exact .none

theorem doneStore_memOk {x v} (hs : s.memOk) : (doneStore x v s).memOk := .ite hs ((writeVa_memOk hs).getD hs)

theorem instOver_memOk {x} (hs : s.memOk) : (instOver x s).memOk := State.onInst_memOk (.foldl (fun h => h) hs)

theorem endInst_memOk {n} (hs : s.memOk) : MaybeOk (endInst s n) := by
  unfold endInst
  split
  · exact .none
  exact .ite .none (.some (instOver_memOk (doneStore_memOk hs)))

theorem flushParked_memOk {k} (hs : s.memOk) : (flushParked k s).memOk := .update (flushRegion_memOk hs)

theorem abortInst_memOk {n tag} (hs : s.memOk) : (abortInst n tag s).memOk := by
  unfold abortInst
  dsimp only
  split
  · exact hs
  exact .ite hs (State.deviceReport_memOk (instOver_memOk (doneStore_memOk (.foldl (fun h => State.onRegion_memOk
    (flushParked_memOk h)) hs))))

theorem writeBlock_memOk {n} (hs : s.memOk) : MaybeOk (writeBlock s n) := by
  unfold writeBlock
  dsimp only
  split
  · exact .none
  split
  · exact .none
  split
  · exact .none
  split
  · exact .none
  refine .some ?_
  split
  · next t e =>
    have ht : t.memOk := MaybeOk.ite .none (writeVa_memOk hs) _ e
    exact ht
  exact abortInst_memOk hs

theorem setCounts_memOk {l toks k} (hs : s.memOk) : (setCounts l toks k s).memOk := .foldl (fun h => h) (.foldl (fun h => h) hs)

theorem launchRegion_memOk {l toks k} (hs : s.memOk) : (launchRegion l toks k s).memOk :=
  .foldl (fun h => armPass_memOk (acceptInput_memOk h)) (State.onRegion_memOk (.update (setCounts_memOk hs)))

theorem injectTokens_memOk {n} (hs : s.memOk) : MaybeOk (injectTokens s n) := by
  unfold injectTokens
  dsimp only
  split
  · exact .none
  split
  · exact .none
  exact .ite .none (.some (popLaunch_memOk (State.onInst_memOk (.foldl (fun h => launchRegion_memOk h) hs))))

theorem startGraceful_memOk {k serial} (hs : s.memOk) : (startGraceful k serial s).memOk :=
  .ite hs (.ite (.foldl (fun h => h) hs) hs)

/-! ### Rollback -/

theorem rollTile_memOk {x} (hs : s.memOk) : (rollTile x s).memOk := .foldl (fun h => readsAfterDrop_memOk h) hs

theorem rollBarriers_memOk {k old} (hs : s.memOk) : (rollBarriers k old s).memOk := releaseWaits_memOk hs

theorem regainSlot_memOk {x} (hs : s.memOk) : (regainSlot x s).memOk := .ite hs (.ite hs hs)

theorem dropCompared_memOk {k} (hs : s.memOk) : (dropCompared k s).memOk := .foldl (fun h => .ite h h) hs

theorem reissueReads_memOk {k} (hs : s.memOk) : (reissueReads k s).memOk := .foldl (fun h => h) hs

theorem goBack_memOk {k snap} (hs : s.memOk) : (goBack k snap s).memOk := by
  unfold goBack
  dsimp only
  apply rollBarriers_memOk
  split
  · exact .update (State.memOk.foldl (fun h => regainSlot_memOk h) (.foldl (fun h => h) (.foldl (fun h => rollTile_memOk h)
    (.foldl (fun h => h) (.foldl (fun h => undoAct_memOk h) (.update (reissueReads_memOk (dropCompared_memOk hs))))))))
  exact .update (State.memOk.ite (State.onMatrix_memOk (onRegionPes_memOk (.foldl (fun h => regainSlot_memOk h) (.foldl (fun h
    => h) (.foldl (fun h => rollTile_memOk h) (.foldl (fun h => h) (.foldl (fun h => undoAct_memOk h) (.update
    (reissueReads_memOk (dropCompared_memOk hs)))))))))) (.foldl (fun h => regainSlot_memOk h) (.foldl (fun h => h) (.foldl (fun
    h => rollTile_memOk h) (.foldl (fun h => h) (.foldl (fun h => undoAct_memOk h) (.update (reissueReads_memOk
    (dropCompared_memOk hs)))))))))

theorem strikeRegion_memOk {k} (hs : s.memOk) : (strikeRegion k s).memOk := by
  unfold strikeRegion
  dsimp only
  split
  · exact hs
  split
  · exact hs
  split
  · exact abortInst_memOk hs
  split
  · exact State.fatalStop_memOk hs
  split
  · exact abortInst_memOk hs
  exact State.onRegion_memOk (goBack_memOk hs)

theorem scrubTile_memOk {x} (hs : s.memOk) : (scrubTile x s).memOk := hs

theorem strike_memOk {die tile inj sensor} (hs : s.memOk) : (strike die tile inj sensor s).memOk :=
  .ite (.foldl (fun h => strikeRegion_memOk h) (scrubTile_memOk (State.deviceReport_memOk hs))) (.foldl (fun h =>
    strikeRegion_memOk h) (State.deviceReport_memOk hs))

theorem inject418_memOk {die} (hs : s.memOk) : (inject418 die s).memOk :=
  .ite (State.refuseWrite_memOk hs) (.foldl (fun h => strike_memOk h) (.foldl (fun h => strike_memOk h) hs))

theorem spendSlot_memOk {pos site} (hs : s.memOk) : (spendSlot pos site s).memOk := by
  unfold spendSlot
  dsimp only
  split <;> exact hs

theorem uncorrectable_memOk {e} (hs : s.memOk) : (uncorrectable e s).memOk := by
  unfold uncorrectable
  split
  · exact strikeRegion_memOk hs
  · exact .ite (abortInst_memOk hs) hs
  · exact .ite (poisonGranule_memOk hs) hs
  · exact .ite (spendSlot_memOk hs) hs
  exact State.fatalStop_memOk hs

theorem replayOne_memOk {k f} (hs : s.memOk) : (replayOne k s f).memOk := by
  unfold replayOne
  dsimp only
  apply State.post_memOk
  split
  · split
    · exact .ite hs hs
    exact hs
  exact hs

theorem replayAll_memOk {k} (hs : s.memOk) : (replayAll k s).memOk :=
  wakeOpers_memOk (s := State.onRegion _ k _) (State.memOk.foldl (fun h => replayOne_memOk h) hs)

/-! ### Compare -/

theorem suspectRegion_memOk {k} (hs : s.memOk) : (suspectRegion k s).memOk := .foldl (fun h => h) hs

theorem mismatch_memOk {site tag} (hs : s.memOk) : (mismatch site tag s).memOk := by
  unfold mismatch
  dsimp only
  split
  · split
    · exact State.onOper_memOk (abortInst_memOk (.foldl (fun h => suspectRegion_memOk h) (operError_memOk hs)))
    exact State.onOper_memOk (operError_memOk hs)
  exact State.onOper_memOk (.foldl (fun h => strikeRegion_memOk h) (operError_memOk hs))

theorem compareSend_memOk {site t} (hs : s.memOk) : (compareSend site t s).memOk := .ite hs hs

theorem compareTake_memOk {n} (hs : s.memOk) : MaybeOk (compareTake s n) := by
  unfold compareTake
  dsimp only
  split
  · exact .none
  split
  · split
    · exact .none
    split
    · exact .some (State.onOper_memOk (takeFlight_memOk hs))
    exact .ite (.some (compareSend_memOk (State.onOper_memOk (takeFlight_memOk hs)))) (.some (mismatch_memOk (State.onOper_memOk
      (takeFlight_memOk hs))))
  split
  · exact .none
  split
  · exact .some (State.onOper_memOk (takeFlight_memOk hs))
  exact .ite (.some (compareSend_memOk (State.onOper_memOk (takeFlight_memOk hs)))) (.some (mismatch_memOk (State.onOper_memOk
    (takeFlight_memOk hs))))

theorem compareExpires_memOk {x} (hs : s.memOk) : MaybeOk (compareExpires s x) := by
  unfold compareExpires
  dsimp only
  split
  · exact .none
  exact .ite .none (.some (mismatch_memOk hs))

/-! ### Debug -/

theorem debugStep_memOk {die v} (hs : s.memOk) : (debugStep die v s).memOk := .ite (State.refuseWrite_memOk hs) hs

theorem debugRead_memOk {die} (hs : s.memOk) : (debugRead die s).memOk := by
  unfold debugRead
  dsimp only
  split
  · exact hs
  exact .update (State.refuseWrite_memOk hs)

/-! ### Fatal -/

theorem writeDump_memOk (hs : s.memOk) : (writeDump s).memOk := by
  have hd {bs f g} : State.memOk { s with
      hostMem := Memory.writeBytes s.hostMem s.modRegs.dmpbase.toNat bs, fresh := f, modRegs := g } :=
    hs.of_writeHost rfl rfl
  exact State.raiseVector_memOk hd

theorem resetDie_memOk {die} (hs : s.memOk) : (resetDie die s).memOk :=
  .foldl (fun h => onRegionPes_memOk h) (.update (State.memOk.foldl (fun h => evictRegion_memOk h) hs))

theorem bootCommand_memOk {v} (hs : s.memOk) : (bootCommand v s).memOk :=
  .ite (State.refuseWrite_memOk hs) (.ite (resetDie_memOk hs) hs)

/-! ### Links -/

theorem receiveBeat_memOk {p bytes} (hs : s.memOk) : MaybeOk (receiveBeat p bytes s) :=
  .ite .none (.ite (.some (answerLink_memOk hs)) (.some hs))

theorem resendBeats_memOk {p} (hs : s.memOk) : MaybeOk (resendBeats p s) := .ite .none (.some hs)

theorem linkSilent_memOk {p} (hs : s.memOk) : MaybeOk (linkSilent p s) := .ite .none (.ite (.some hs) (.ite (.some hs) .none))

theorem lossCompletions_memOk {site} (hs : s.memOk) : (lossCompletions site s).memOk :=
  .foldl (fun h => .foldl (fun h => endTransfer_memOk h) h) (.foldl (fun h => endPass_memOk h) hs)

theorem linksGone_memOk {site} (hs : s.memOk) : (linksGone site s).memOk :=
  State.fatalStop_memOk (lossCompletions_memOk (State.raiseError_memOk hs))

theorem moveStream_memOk {p site} (hs : s.memOk) : (moveStream p site s).memOk := by
  unfold moveStream
  dsimp only
  split
  · exact hs
  exact linksGone_memOk hs

theorem loseLink_memOk {p} (hs : s.memOk) : MaybeOk (loseLink p s) :=
  .ite .none (.some (.foldl (fun h => .ite h (moveStream_memOk h)) (.ite (State.raiseVector_memOk (State.deviceReport_memOk hs))
    (State.deviceReport_memOk hs))))

theorem takeAck_memOk {x seq} (hs : s.memOk) : MaybeOk (takeAck x seq s) := by
  unfold takeAck
  dsimp only
  split
  · exact .none
  exact .ite .none (.some hs)

theorem sendAck_memOk {x} (hs : s.memOk) : MaybeOk (sendAck x s) := by
  unfold sendAck
  split
  · exact .none
  exact .ite .none (.some hs)

theorem trainLink_memOk {p major minor module port flight} (hs : s.memOk) :
    MaybeOk (trainLink p major minor module port flight s) :=
  .ite .none (.ite (.some (answerLink_memOk hs)) (.some hs))

theorem retrainLink_memOk {p} (hs : s.memOk) : (retrainLink p s).memOk := .ite hs hs

theorem enableLink_memOk {p on} (hs : s.memOk) : (enableLink p on s).memOk := .ite hs (.ite hs hs)

/-! ### HostIf -/

theorem negotiate_memOk {v} (hs : s.memOk) : (negotiate v s).memOk := .ite hs (State.onRegs_memOk hs)

theorem rqheadWrite_memOk {v} (hs : s.memOk) : (rqheadWrite v s).memOk := drainReports_memOk (State.onRegs_memOk hs)

theorem State.onQueue_memOk {q g} (hs : s.memOk) : (s.onQueue q g).memOk := hs

theorem queueHead_memOk {q v} (hs : s.memOk) : (queueHead q v s).memOk := .ite hs (.ite (State.refuseWrite_memOk hs) hs)

theorem queueTail_memOk {q v} (hs : s.memOk) : (queueTail q v s).memOk :=
  .ite hs (.ite (State.refuseWrite_memOk hs) (State.onQueue_memOk (.ite (markPush_memOk hs) hs)))

theorem markQueue_memOk {q v} (hs : s.memOk) : (markQueue q v s).memOk := .ite (markPush_memOk hs) hs

theorem queueSet_memOk {q cfg v} (hs : s.memOk) : (queueSet q cfg v s).memOk :=
  .ite (State.refuseWrite_memOk hs) (State.onQueue_memOk (.ite (markQueue_memOk hs) hs))

theorem windowToken_memOk {t} (hs : s.memOk) : (windowToken t s).memOk := by
  unfold windowToken
  split
  · exact hs
  exact .ite hs hs

theorem windowWrite_memOk {off len v} (hs : s.memOk) : (windowWrite off len v s).memOk :=
  .ite (State.deviceReport_memOk hs) (.ite hs (.ite (State.deviceReport_memOk hs) (windowToken_memOk hs)))

theorem readParts_memOk {ps} (hs : s.memOk) : (readParts ps s).2.memOk := by
  induction ps generalizing s with
  | nil => exact hs
  | cons p ps ih => exact ih (readHome_memOk hs)

theorem writeParts_memOk {ps bs} (hs : s.memOk) : (writeParts ps bs s).memOk := by
  induction ps generalizing bs s with
  | nil => exact hs
  | cons p ps ih => exact ih (writeHome_memOk hs)

theorem aperture_memOk {write off data} (hs : s.memOk) : (aperture write off data s).memOk :=
  .ite hs (.ite (.ite (State.refuseWrite_memOk hs) (.update (State.refuseWrite_memOk hs))) (.ite (writeParts_memOk hs) (.update
    (readParts_memOk hs))))

theorem rcmdWrite_memOk {k v} (hs : s.memOk) : (rcmdWrite k v s).memOk :=
  .ite (State.refuseWrite_memOk hs) (.ite (startGraceful_memOk hs) (.ite (flushByHost_memOk hs) (.ite (haltCommand_memOk hs)
    (.ite (resumeRegion_memOk hs) (.ite hs (.ite hs (State.refuseWrite_memOk hs)))))))

theorem recordWrite_memOk {k off v} (hs : s.memOk) : (recordWrite k off v s).memOk := .ite hs (.ite (rcmdWrite_memOk hs) hs)

theorem debugWrite_memOk {die off v} (hs : s.memOk) : (debugWrite die off v s).memOk := .ite (debugStep_memOk hs) (.ite hs hs)

theorem reliabilityWrite_memOk {die off v} (hs : s.memOk) : (reliabilityWrite die off v s).memOk :=
  .ite (.ite hs (State.refuseWrite_memOk hs)) (.ite (.ite (State.refuseWrite_memOk hs) (.ite (inject418_memOk hs) hs)) (.ite hs
    (.ite hs (.ite hs (.ite (.ite hs (State.refuseWrite_memOk hs)) hs)))))

theorem dieWrite_memOk {die off v} (hs : s.memOk) : (dieWrite die off v s).memOk :=
  .ite (recordWrite_memOk hs) (.ite (debugWrite_memOk hs) (reliabilityWrite_memOk hs))

theorem prcmdWrite_memOk {v} (hs : s.memOk) : (prcmdWrite v s).memOk :=
  .ite (hostPreempt_memOk hs) (.ite (hostResume_memOk hs) hs)

theorem imgcmdWrite_memOk {v} (hs : s.memOk) : (imgcmdWrite v s).memOk :=
  .ite (State.refuseWrite_memOk hs) (State.onRegs_memOk hs)

theorem moduleWrite_memOk {off v} (hs : s.memOk) : (moduleWrite off v s).memOk :=
  .ite (State.onRegs_memOk hs) (.ite (State.onRegs_memOk hs) (.ite (.ite (drainReports_memOk (State.onRegs_memOk hs))
    (State.refuseWrite_memOk hs)) (.ite (rqheadWrite_memOk hs) (.ite (State.onRegs_memOk hs) (.ite (State.onRegs_memOk hs) (.ite
    (State.onRegs_memOk hs) (.ite (prcmdWrite_memOk hs) (.ite (State.onRegs_memOk hs) (.ite (State.onRegs_memOk hs) (.ite
    (State.onRegs_memOk hs) (.ite (.ite (State.onRegs_memOk hs) (State.refuseWrite_memOk hs)) (.ite (bootCommand_memOk hs) (.ite
    (State.onRegs_memOk hs) (.ite (State.onRegs_memOk hs) (.ite (State.onRegs_memOk hs) (.ite (imgcmdWrite_memOk hs)
    hs))))))))))))))))

theorem pairWrite_memOk {n w v} (hs : s.memOk) : (pairWrite n w v s).memOk :=
  .ite (State.refuseWrite_memOk hs) (.ite (.ite (State.onRegs_memOk (State.onRegs_memOk hs)) (State.onRegs_memOk hs))
    (State.onRegs_memOk hs))

theorem tresWrite_memOk {v} (hs : s.memOk) : (tresWrite v s).memOk :=
  .ite (ignoreTres_memOk hs) (.ite (tresRetry_memOk hs) (.ite (tresFail_memOk hs) hs))

theorem translationWrite_memOk {off v} (hs : s.memOk) : (translationWrite off v s).memOk :=
  .ite (State.onRegs_memOk hs) (.ite (.ite hs (tinvWrite_memOk hs)) (.ite (State.onRegs_memOk hs) (.ite (.ite (drainHolds_memOk
    (drainRetire_memOk (State.onRegs_memOk hs))) (State.refuseWrite_memOk hs)) (.ite (fqheadWrite_memOk hs) (.ite
    (tresWrite_memOk hs) (.ite (State.onRegs_memOk hs) (.ite (pairWrite_memOk hs) hs)))))))

theorem queueWrite_memOk {off v} (hs : s.memOk) : (queueWrite off v s).memOk :=
  .ite (queueSet_memOk hs) (.ite (queueSet_memOk hs) (.ite (queueHead_memOk hs) (queueTail_memOk hs)))

theorem lctlWrite_memOk {p v} (hs : s.memOk) : (lctlWrite p v s).memOk :=
  .ite (retrainLink_memOk (enableLink_memOk hs)) (enableLink_memOk hs)

theorem barWrite_memOk {off v} (hs : s.memOk) : (barWrite off v s).memOk :=
  .ite hs (.ite (.ite (negotiate_memOk hs) hs) (.ite (moduleWrite_memOk hs) (.ite (translationWrite_memOk hs) (.ite hs (.ite
    (queueWrite_memOk hs) (.ite hs (.ite hs (.ite hs (.ite (dieWrite_memOk hs) (.ite hs (.ite (.ite (lctlWrite_memOk hs) hs)
    (.ite hs (.ite (aperture_memOk hs) hs)))))))))))))

end

/-! ### Every instruction, turn and step -/

/-- A step that does not stop leaves both memories in canonical form. -/
def OutcomeOk (o : Host.Outcome State Fault Refusal) : Prop := ∀ t, o = .next t → t.memOk

section
variable {s : State} {c : Prop} [Decidable c] {o p : Host.Outcome State Fault Refusal}

theorem OutcomeOk.next (hs : s.memOk) : OutcomeOk (.next s) := by
  rintro _ ⟨⟩
  exact hs

theorem OutcomeOk.fault {x} : OutcomeOk (.fault x) := nofun

theorem OutcomeOk.refused {x} : OutcomeOk (.refused x) := nofun

theorem OutcomeOk.ite (ho : OutcomeOk o) (hp : OutcomeOk p) : OutcomeOk (if c then o else p) := by
  split
  · exact ho
  · exact hp

theorem execSteer_memOk {f} (hs : s.memOk) : OutcomeOk (execSteer f s) :=
  .ite (.next hs) (.next hs)

theorem execMux_memOk {f} (hs : s.memOk) : OutcomeOk (execMux f s) :=
  .ite (.next hs) (.next hs)

theorem execSink_memOk {f} (hs : s.memOk) : OutcomeOk (execSink f s) :=
  .ite (.next (finishWith_memOk (State.sinkFirst_memOk hs))) (.next hs)

theorem execInvar_memOk {f} (hs : s.memOk) : OutcomeOk (execInvar f s) :=
  .ite (.next (finishWith_memOk (State.onPe_memOk hs))) (.next hs)

theorem execTagSet_memOk {f} (hs : s.memOk) : OutcomeOk (execTagSet f s) :=
  .ite (.next hs) (.next hs)

theorem execTagJoin_memOk {f} (hs : s.memOk) : OutcomeOk (execTagJoin f s) :=
  .ite (.next hs) (.next hs)

theorem execTrigger_memOk {f} (hs : s.memOk) : OutcomeOk (execTrigger f s) :=
  .ite (.next hs) (.next (finishWith_memOk (State.onRegion_memOk hs)))

theorem execBarArrive_memOk {f} (hs : s.memOk) : OutcomeOk (execBarArrive f s) :=
  .ite (.next hs) (.next hs)

theorem execBarWait_memOk {f} (hs : s.memOk) : OutcomeOk (execBarWait f s) :=
  .ite (.next hs) (.next (barrierTake_memOk hs))

theorem execReinject_memOk {f} (hs : s.memOk) : OutcomeOk (execReinject f s) := by
  unfold execReinject
  dsimp only
  split <;> exact .next (finishWith_memOk (State.onRegion_memOk hs))

theorem execCouple_memOk {f} (hs : s.memOk) : OutcomeOk (execCouple f s) :=
  .ite (.next hs) (.next hs)

theorem execReadyQueueEntry_memOk {x} (hs : s.memOk) : OutcomeOk (execReadyQueueEntry x s) := by
  refine .next ?_
  split
  · exact State.onPe_memOk hs
  · exact hs

theorem execCabooseRelease_memOk {r n} (hs : s.memOk) : OutcomeOk (execCabooseRelease r n s) := by
  refine .next ?_
  split
  · next e => exact wakeFull_memOk (releaseEffect_memOk hs _ e)
  · exact hs

theorem execGangedLaneTimeout_memOk {r n} (hs : s.memOk) : OutcomeOk (execGangedLaneTimeout r n s) := by
  refine .next ?_
  split
  · exact .ite ((arrive_memOk hs).getD hs) hs
  · exact hs

/-- Every instruction keeps the form: one that touches neither memory by unfolding, each other one by the lemma of its
function. -/
theorem exec_memOk (i : Instr) (hs : s.memOk) : OutcomeOk (exec i s) := by
  cases i with
  | steer => exact execSteer_memOk hs
  | mux => exact execMux_memOk hs
  | sink => exact execSink_memOk hs
  | invar => exact execInvar_memOk hs
  | wave => exact .next (finishWith_memOk (noteWave_memOk hs))
  | tagSet => exact execTagSet_memOk hs
  | tagJoin => exact execTagJoin_memOk hs
  | call => exact .next (enterFrame_memOk hs)
  | ret => exact .next (leaveFrame_memOk hs)
  | frameNew => exact .next (enterFrame_memOk hs)
  | frameFree => exact .next (leaveFrame_memOk hs)
  | acc => exact .next (accumulate_memOk hs)
  | accmax => exact .next (accumulate_memOk hs)
  | count => exact .next (countStep_memOk hs)
  | nwr => exact .next (sendName_memOk hs)
  | nrd => exact .next (sendName_memOk hs)
  | npeek => exact .next (sendName_memOk hs)
  | nrel => exact .next (sendName_memOk hs)
  | foldSet => exact .next (sendFold_memOk hs)
  | foldResize => exact .next (sendFold_memOk hs)
  | foldQ => exact .next (sendFold_memOk hs)
  | reqLd => exact .next (sendRequest_memOk hs)
  | reqSt => exact .next (sendRequest_memOk hs)
  | reqLdo => exact .next (sendRequest_memOk hs)
  | reqSto => exact .next (sendRequest_memOk hs)
  | atomAdd => exact .next (sendAtomic_memOk hs)
  | atomFadd => exact .next (sendRequest_memOk hs)
  | atomMin => exact .next (sendAtomic_memOk hs)
  | atomMax => exact .next (sendAtomic_memOk hs)
  | atomAnd => exact .next (sendAtomic_memOk hs)
  | atomOr => exact .next (sendAtomic_memOk hs)
  | atomXchg => exact .next (sendAtomic_memOk hs)
  | atomCas => exact .next (sendRequest_memOk hs)
  | trigger => exact execTrigger_memOk hs
  | barArrive => exact execBarArrive_memOk hs
  | barWait => exact execBarWait_memOk hs
  | reinject => exact execReinject_memOk hs
  | couple => exact execCouple_memOk hs
  | clk => exact .next (finish_memOk (keepClk_memOk hs))
  | mmMode => exact .next (modeForm_memOk hs)
  | mmWload => exact .next (wloadEffect_memOk hs)
  | mmWswap => exact .next (control_memOk hs)
  | mmRun => exact .next (startRun_memOk hs)
  | mmOrun => exact .next (startRun_memOk hs)
  | mmClr => exact .next (control_memOk hs)
  | mmDrain => exact .next (control_memOk hs)
  | mmMask => exact .next (control_memOk hs)
  | mmRowstat => exact .next (control_memOk hs)
  | mmScale => exact .next (control_memOk hs)
  | mmBias => exact .next (control_memOk hs)
  | tokenArrival => exact .next ((arrive_memOk hs).getD hs)
  | readyQueueEntry => exact execReadyQueueEntry_memOk hs
  | resultInjection => exact .next ((inject_memOk hs).getD hs)
  | couplingTokenArrival => exact .next ((coupleArrives_memOk hs).getD hs)
  | joinForward => exact .next ((joinGo_memOk hs).getD hs)
  | operatorCouplingForward => exact .next ((operJoin_memOk hs).getD hs)
  | squashTokenArrival => exact .next ((squashArrives_memOk hs).getD hs)
  | tagAdmission => exact .next ((tagAdmit_memOk hs).getD (tagRetire_memOk hs))
  | cabooseRelease => exact execCabooseRelease_memOk hs
  | stall => exact .next (.ite (raiseStall_memOk hs) hs)
  | faultEntryFreed => exact .next ((faultFreed_memOk hs).getD hs)
  | feedWord => exact .next ((feed_memOk hs).getD hs)
  | systolicStep => exact .next ((systolic_memOk hs).getD hs)
  | nameWordWrite => exact .next ((nameWrite_memOk hs).orHeld hs)
  | stalledWordRetry => exact .next ((retryWord_memOk hs).orHeld hs)
  | nameReadRequest => exact .next ((nameRead_memOk hs).orHeld hs)
  | requestForward => exact .next ((forwardRequest_memOk hs).orSelf hs)
  | foldSetApply => exact .next ((foldSet_memOk hs).orHeld hs)
  | foldResizeStart => exact .next ((resizeStart_memOk hs).orHeld hs)
  | foldResizeComplete => exact .next ((resizeDone_memOk hs).orSelf hs)
  | foldQueryServe => exact .next ((foldQuery_memOk hs).orSelf hs)
  | scrubWriteback => exact .next ((scrubBack_memOk hs).orSelf hs)
  | tileScrubComplete => exact .next (.ite hs hs)
  | arm => exact .next ((armCommand_memOk hs).orHeld hs)
  | rewind => exact .next ((rewindCommand_memOk hs).orHeld hs)
  | flush => exact .next ((flushCommand_memOk hs).orHeld hs)
  | status => exact .next ((statusCommand_memOk hs).orSelf hs)
  | gateOpen => exact .next ((openCommand_memOk hs).orSelf hs)
  | gateClose => exact .next ((closeCommand_memOk hs).orSelf hs)
  | copy => exact .next ((transferCommand_memOk hs).orHeld hs)
  | hostRead => exact .next ((transferCommand_memOk hs).orHeld hs)
  | hostWrite => exact .next ((transferCommand_memOk hs).orHeld hs)
  | nvmeRead => exact .next ((transferCommand_memOk hs).orHeld hs)
  | nvmeWrite => exact .next ((transferCommand_memOk hs).orHeld hs)
  | migrate => exact .next ((transferCommand_memOk hs).orHeld hs)
  | boundToken => exact .next ((bound_memOk hs).orHeld hs)
  | loadBaseToken => exact .next ((baseToken_memOk hs).orHeld hs)
  | elementDataReturn => exact .next ((elementReturn_memOk hs).orHeld hs)
  | passCompletion => exact .next ((passEnds_memOk hs).orHeld hs)
  | storeDataToken => exact .next ((storeToken_memOk hs).orHeld hs)
  | gatherItem => exact .next ((gatherToken_memOk hs).orHeld hs)
  | gatherMask => exact .next ((maskToken_memOk hs).orHeld hs)
  | scatterFiring => exact .next ((scatterToken_memOk hs).orHeld hs)
  | loopIteration => exact .next ((loopNext_memOk hs).orSelf hs)
  | gateData => exact .next ((gateToken_memOk hs).orSelf hs)
  | gateCompletion => exact .next ((gateComplete_memOk hs).orSelf hs)
  | lookupPosition => exact .next ((lookupToken_memOk hs).orHeld hs)
  | lookupEntryReturn => exact .next ((lookupReturn_memOk hs).orSelf hs)
  | reorderToken => exact .next ((reorderTake_memOk hs).orSelf hs)
  | decodeInput => exact .next ((decodeToken_memOk hs).orHeld hs)
  | sieveScore => exact .next ((sieveToken_memOk hs).orSelf hs)
  | compareToken => exact .next ((compareTake_memOk hs).orSelf hs)
  | compareTimeout => exact .next ((compareExpires_memOk hs).orSelf hs)
  | portRequest => exact .next ((portRequest_memOk hs).orHeld hs)
  | fenceComplete => exact .next ((fenceEnds_memOk hs).orSelf hs)
  | drawbarForward => exact .next ((forwardToken_memOk hs).orSelf hs)
  | drawbarReceive => exact .next ((takeSlot_memOk hs).orSelf hs)
  | tenderAccess => exact .next ((tenderStep_memOk hs).orHeld hs)
  | filterWaitEnd => exact .next ((filterEnd_memOk hs).orHeld hs)
  | translationWalkEnd => exact .next ((walkEnd_memOk hs).orHeld hs)
  | engineSlotFreed => exact .next ((slotFreed_memOk hs).orHeld hs)
  | pinGranted => exact .next ((pinGrant_memOk hs).orHeld hs)
  | pageRetireRecord => exact .next ((retireRecord_memOk hs).orSelf hs)
  | imageRegister => exact .next (.ite (registerImage_memOk hs) hs)
  | imageUnregister => exact .next (.ite (unregisterImage_memOk hs) hs)
  | launchArbitration => exact .next ((arbitrate_memOk hs).orSelf hs)
  | instanceStart => exact .next ((startInst_memOk hs).orSelf hs)
  | initialDataWrite => exact .next ((writeBlock_memOk hs).orSelf hs)
  | initialTokenInjection => exact .next ((injectTokens_memOk hs).orSelf hs)
  | instanceEnd => exact .next ((endInst_memOk hs).orSelf hs)
  | configWordDelivery => exact .next ((deliverNext_memOk hs).orSelf hs)
  | contextResident => exact .next ((becomeResident_memOk hs).orSelf hs)
  | regionDrained => exact .next (.ite hs hs)
  | park => exact .next (.ite (parkRegion_memOk hs) hs)
  | drainBudgetExpiry => exact .next ((budgetExpires_memOk hs).orSelf hs)
  | instanceResume => exact .next ((instResume_memOk hs).orSelf hs)
  | waveMark => exact .next (.ite (takeMark_memOk hs) (replayArea_memOk hs))
  | rollbackComplete => exact .next (.ite (replayAll_memOk hs) hs)
  | dumpWritten => exact .next (.ite (writeDump_memOk hs) hs)
  | invalidationComplete => exact .next ((invalEnds_memOk hs).orSelf hs)
  | retryRequest => exact .next ((resendBeats_memOk hs).orSelf hs)
  | linkSilenceTimeout => exact .next ((linkSilent_memOk hs).orSelf hs)
  | linkLoss => exact .next ((loseLink_memOk hs).orSelf hs)
  | streamAcknowledgement => exact .next ((takeAck_memOk hs).orSelf hs)
  | streamAckSend => exact .next ((sendAck_memOk hs).orSelf hs)
  | matchingEntryGranted => exact .next ((grantEntry_memOk hs).getD hs)
  | gangedLaneTimeout => exact execGangedLaneTimeout_memOk hs
  | scrubGranule => exact .next ((scrubRead_memOk hs).orSelf hs)
  | t2Patrol => exact .next (.ite hs hs)
  | nvmeCompletion => exact .next ((nvmeEnds_memOk hs).orSelf hs)
  | cxlWriteTimeout => exact .next ((cxlTimeout_memOk hs).orSelf hs)
  | gracefulReconfiguration => exact .next (.ite (startGraceful_memOk hs) hs)
  | regionFlush => exact .next (.ite (flushByHost_memOk hs) hs)
  | regionHalt => exact .next (.ite (haltCommand_memOk hs) hs)
  | regionResume => exact .next (.ite (resumeRegion_memOk hs) hs)
  | clearPoisonLog => exact .next (.ite hs hs)
  | clearStall => exact .next (.ite hs hs)
  | debugStep => exact .next (.ite (.ite (debugStep_memOk hs) hs) hs)
  | debugRead => exact .next (.ite hs (.ite hs (.ite (debugRead_memOk hs) hs)))
  | preemptDrainToWave => exact .next (.ite (hostPreempt_memOk hs) hs)
  | preemptForcedSave => exact .next (.ite (hostPreempt_memOk hs) hs)
  | preemptResume => exact .next (.ite (hostResume_memOk hs) hs)
  | strikeReport => exact .next (.ite hs (strike_memOk hs))
  | uncorrectableError => exact .next (.ite hs (uncorrectable_memOk hs))
  | injectStrike => exact .next (.ite (.ite (inject418_memOk hs) hs) hs)
  | sensorSelfTest => exact .next (.ite hs (.ite hs (State.fatalStop_memOk hs)))
  | fatalStop => exact .next (.ite (State.fatalStop_memOk hs) hs)
  | dieReset => exact .next (.ite (bootCommand_memOk hs) hs)
  | moduleReset => exact .next (.ite hs (State.fatalStop_memOk hs))
  | powerThrottle => exact .next (.ite hs (State.onRegs_memOk hs))
  | hifHandshake => exact .next (negotiate_memOk hs)
  | functionLevelReset => exact .next (.ite hs (State.onRegs_memOk hs))
  | tinvPage => exact .next (.ite (.ite (tinvWrite_memOk hs) hs) hs)
  | tinvContext => exact .next (.ite (.ite (tinvWrite_memOk hs) hs) hs)
  | tinvAll => exact .next (.ite (.ite (tinvWrite_memOk hs) hs) hs)
  | tresRetry => exact .next (.ite (.ite (tresRetry_memOk hs) hs) hs)
  | tresFail => exact .next (.ite (.ite (tresFail_memOk hs) hs) hs)
  | fqheadWrite => exact .next (.ite (fqheadWrite_memOk hs) hs)
  | rqheadWrite => exact .next (.ite (rqheadWrite_memOk hs) hs)
  | queueHeadWrite => exact .next (.ite (queueHead_memOk hs) hs)
  | queueTailWrite => exact .next (.ite (queueTail_memOk hs) hs)
  | tokenWindowWrite => exact .next (.ite (windowWrite_memOk hs) hs)
  | apertureAccess => exact .next (.ite (.ite (aperture_memOk hs) hs) (.ite hs (.ite hs (aperture_memOk hs))))
  | beatReceive => exact .next ((receiveBeat_memOk hs).orSelf hs)
  | linkTraining => exact .next ((trainLink_memOk hs).orSelf hs)
  | linkRetrain => exact .next (.ite (retrainLink_memOk hs) hs)
  | linkEnable => exact .next (.ite (enableLink_memOk hs) hs)
  | registerWrite => exact .next (.ite (negotiate_memOk hs) (.ite (barWrite_memOk hs) hs))
  | driveDataAccess => exact .next ((driveAccess_memOk hs).orSelf hs)
  | hostLinkCompletion => exact .next ((linkCompletion_memOk hs).orSelf hs)
  | _ => exact .next hs

theorem runFiring_memOk (hs : s.memOk) : OutcomeOk (runFiring s) := by
  unfold runFiring
  split
  · exact exec_memOk _ hs
  · exact .refused

theorem runIssue_memOk {x full} (hs : s.memOk) : OutcomeOk (runIssue x full s) := by
  unfold runIssue
  split
  · split
    · exact runFiring_memOk (State.issue_memOk hs)
    · exact .next hs
  · exact .fault

theorem runTurn_memOk {t} (hs : s.memOk) : OutcomeOk (runTurn t s) := by
  cases t with
  | tick die cycles => exact .next hs
  | issue x full => exact runIssue_memOk hs
  | event i => exact .ite (.next hs) (exec_memOk i hs)

theorem step_memOk (hs : s.memOk) : OutcomeOk (step s) := by
  have hagenda {ts} : State.memOk { s with agenda := ts } := hs
  unfold step
  split
  · exact runTurn_memOk hagenda
  split
  · exact runTurn_memOk hs
  · exact .next hs

end

/-- Settles O43: whatever turn a step takes, its function keeps the form (`step_memOk`). -/
theorem memoryKeepsItsForm : Obligations.MemoryKeepsItsForm := fun _ t hs e => step_memOk hs t e

end Sys2Proof.Machine
end

section
/-! What a host's write to a register, the token window or the memory aperture does (O59). -/

namespace Sys2Proof.Machine

section
variable {s : State} {v : Word}

theorem State.hostOpen_iff : s.hostOpen = true ↔ bit s.modRegs.hifact 16 = true ∧ s.fatal = false := by
  simp [State.hostOpen]

/-! ### Report queue and hardware queues -/

/-- With no record held back, a write of RQHEAD changes its registers alone. -/
theorem rqheadWrite_of_no_reports (h : s.reports = []) : rqheadWrite v s = s.onRegs (fun g => { g with
    rqhead := BitVec.ofNat 64 (field v 15 0), rqFull := g.rqFull && field v 15 0 == field g.rqhead 15 0 }) := by
  obtain ⟨⟩ := s
  cases h
  rfl

/-- How far a write of `v` moves a pointer of a queue. -/
def pointerMove (v pointer : Word) : Nat := (field v 31 0 + 2 ^ 32 - field pointer 31 0) % 2 ^ 32

/-- The host may take entries of a queue by its head, up to the entries there are. -/
def HeadMoves (r : QueueReg) (v : Word) : Prop :=
  bit r.cfg 10 = true ∧ 1 ≤ pointerMove v r.head ∧ pointerMove v r.head ≤ QueueReg.used r

/-- The host may add entries to a queue by its tail, up to the free ones. -/
def TailMoves (r : QueueReg) (v : Word) : Prop :=
  bit r.cfg 9 = true ∧ 1 ≤ pointerMove v r.tail ∧ pointerMove v r.tail + QueueReg.used r ≤ QueueReg.depth r

variable {q : Nat}

theorem queueHead_eq (hq : q < 256) : queueHead q v s =
    if bit (Map.get s.queues .zero q).cfg 8 && !(bit (Map.get s.queues .zero q).cfg 10 &&
      1 ≤ pointerMove v (Map.get s.queues .zero q).head &&
      pointerMove v (Map.get s.queues .zero q).head ≤ (Map.get s.queues .zero q).used) then s.refuseWrite
    else s.onQueue q (fun r => { r with head := BitVec.ofNat 64 (field v 31 0) }) :=
  if_neg (by omega)

theorem queueTail_eq (hq : q < 256) : queueTail q v s =
    if bit (Map.get s.queues .zero q).cfg 8 && !(bit (Map.get s.queues .zero q).cfg 9 &&
      1 ≤ pointerMove v (Map.get s.queues .zero q).tail &&
      pointerMove v (Map.get s.queues .zero q).tail + (Map.get s.queues .zero q).used ≤ (Map.get s.queues .zero q).depth)
    then s.refuseWrite
    else (if bit (Map.get s.queues .zero q).cfg 8 then markPush q (field (Map.get s.queues .zero q).tail 31 0) s else s).onQueue q
      (fun r => { r with tail := BitVec.ofNat 64 (field v 31 0) }) :=
  if_neg (by omega)

theorem queueHead_taken (hq : q < 256)
    (h : bit (Map.get s.queues .zero q).cfg 8 = false ∨ HeadMoves (Map.get s.queues .zero q) v) : queueHead q v s =
      s.onQueue q (fun r => { r with head := BitVec.ofNat 64 (field v 31 0) }) := by
  rw [queueHead_eq hq, if_neg]
  rcases h with h | ⟨hown, hmin, hmax⟩
  · simp [h]
  · simp [hown, hmin, hmax]

theorem queueHead_refused (hq : q < 256) (he : bit (Map.get s.queues .zero q).cfg 8 = true)
    (h : ¬HeadMoves (Map.get s.queues .zero q) v) : queueHead q v s = s.refuseWrite := by
  rw [queueHead_eq hq, if_pos]
  rw [HeadMoves, not_and_or, not_and_or] at h
  simpa [he, or_assoc] using h

theorem queueTail_taken (hq : q < 256)
    (h : bit (Map.get s.queues .zero q).cfg 8 = false ∨ TailMoves (Map.get s.queues .zero q) v) : queueTail q v s =
      (if bit (Map.get s.queues .zero q).cfg 8 then markPush q (field (Map.get s.queues .zero q).tail 31 0) s
        else s).onQueue q (fun r => { r with tail := BitVec.ofNat 64 (field v 31 0) }) := by
  rw [queueTail_eq hq, if_neg]
  rcases h with h | ⟨hown, hmin, hmax⟩
  · simp [h]
  · simp [hown, hmin, hmax]

theorem queueTail_refused (hq : q < 256) (he : bit (Map.get s.queues .zero q).cfg 8 = true)
    (h : ¬TailMoves (Map.get s.queues .zero q) v) : queueTail q v s = s.refuseWrite := by
  rw [queueTail_eq hq, if_pos]
  rw [TailMoves, not_and_or, not_and_or] at h
  simpa [he, or_assoc] using h

/-- A tail that moves marks a push to a launch queue, and sets the tail. -/
theorem onQueue_markPush (b : Bool) (index : Nat) (g : QueueReg → QueueReg) :
    (if b then markPush q index s else s).onQueue q g = { s with
      queues := Map.put s.queues q (g (Map.get s.queues .zero q))
      pushed := if b = true ∧ 192 ≤ q then s.pushed ++ [⟨q - 192, index, s.taken⟩] else s.pushed } := by
  cases b with
  | false => rfl
  | true =>
    by_cases hq : 192 ≤ q
    · simp [markPush, hq, State.onQueue, Map.alter]
    · simp [markPush, hq, State.onQueue, Map.alter]

/-! ### The token window -/

variable {off len k : Nat} {w : BitVec 128}

/-- The token that the 16 bytes written to the window spell. -/
def windowSays (w : BitVec 128) : Token :=
  Token.ofWords (BitVec.ofNat 64 (w.toNat % 2 ^ 64)) (BitVec.ofNat 64 (w.toNat / 2 ^ 64))

/-- The report of a window write that is refused: it carries the first word. -/
def windowRefused (w : BitVec 128) (s : State) : State := s.deviceReport 0xF2 id (some (BitVec.ofNat 64 (w.toNat % 2 ^ 64)))

theorem windowWrite_misaligned (h : len ≠ 16 ∨ off % 16 ≠ 0) : windowWrite off len w s = windowRefused w s :=
  if_pos (by simpa using h)

theorem windowWrite_bad (hoff : off % 16 = 0) (hin : off < 65536) (hb : windowBad s (windowSays w) = true) :
    windowWrite off 16 w s = windowRefused w s := by
  unfold windowWrite
  rw [if_neg (by simp [hoff]), if_neg (by omega)]
  exact if_pos hb

theorem windowWrite_good (hoff : off % 16 = 0) (hin : off < 65536) (hb : windowBad s (windowSays w) = false) :
    windowWrite off 16 w s = windowToken (windowSays w) s := by
  unfold windowWrite
  rw [if_neg (by simp [hoff]), if_neg (by omega)]
  exact if_neg ((Bool.not_eq_true _).mpr hb)

theorem windowToken_waits {t : Token} (hk : s.regionAt (Token.site t) t.ctx.toNat = some k) (hst : (s.region k).status ≠ 6) :
    windowToken t s = s.onRegion k (fun r => { r with launchQ := r.launchQ ++ [launchFlight s t] }) := by
  simp [windowToken, hk, hst]

theorem windowToken_parked {t : Token} (hk : s.regionAt (Token.site t) t.ctx.toNat = some k) (hst : (s.region k).status = 6) :
    windowToken t s = s.post (launchFlight s t) := by
  simp [windowToken, hk, hst]

end

/-! ### The memory aperture -/

section
variable {m : Memory} {s : State}

theorem Memory.readBytes_add (m : Memory) (a i j : Nat) :
    Memory.readBytes m a (i + j) = Memory.readBytes m a i ++ Memory.readBytes m (a + i) j := by
  induction i generalizing a with
  | zero => simp [Memory.readBytes]
  | succ i ih =>
    rw [Nat.add_right_comm, Memory.readBytes, ih, Memory.readBytes, List.cons_append, Nat.add_assoc a 1 i, Nat.add_comm 1 i]

theorem Memory.writeBytes_append (m : Memory) (a : Nat) (bs cs : List Byte) :
    Memory.writeBytes m a (bs ++ cs) = Memory.writeBytes (Memory.writeBytes m a bs) (a + bs.length) cs := by
  induction bs generalizing m a with
  | nil => rfl
  | cons b bs ih =>
    rw [List.cons_append, Memory.writeBytes, ih, Memory.writeBytes, List.length_cons, Nat.add_assoc a 1, Nat.add_comm 1]

/-- The parts follow one another from address `a` and hold `size` bytes in all. -/
def Consecutive (a size : Nat) : List (Nat × Nat) → Prop
  | [] => size = 0
  | (b, n) :: ps => b = a ∧ n ≤ size ∧ Consecutive (a + n) (size - n) ps

/-- The sectors that a range falls in, given enough of them. -/
theorem sectorParts_consecutive {n a size : Nat} (h : size = 0 ∨ a % 64 + size ≤ 64 * n) :
    Consecutive a size (sectorParts n a size) := by
  induction n generalizing a size with
  | zero =>
    change size = 0
    omega
  | succ n ih =>
    rw [sectorParts]
    split
    · assumption
    · exact ⟨rfl, by omega, ih (by omega)⟩

theorem readHome_of_no_migrations (h : s.migrations = []) (a n : Nat) : readHome a n s = (Memory.readBytes s.mem a n, s) := by
  simp [readHome, migrating, h]

theorem writeHome_of_no_migrations (h : s.migrations = []) (a : Nat) (bs : List Byte) :
    writeHome a bs s = mendRange a bs.length { s with mem := Memory.writeBytes s.mem a bs } := by
  simp [writeHome, migrating, migratedTo, h]

theorem readParts_of_no_migrations (h : s.migrations = []) {a size : Nat} {ps : List (Nat × Nat)}
    (hc : Consecutive a size ps) : readParts ps s = (Memory.readBytes s.mem a size, s) := by
  induction ps generalizing a size with
  | nil =>
    cases hc
    rfl
  | cons p ps ih =>
    obtain ⟨b, n⟩ := p
    obtain ⟨rfl, hn, hps⟩ := hc
    rw [readParts, readHome_of_no_migrations h, ih hps, ← Memory.readBytes_add, Nat.add_sub_cancel' hn]

theorem writeParts_of_no_migrations (h : s.migrations = []) {a : Nat} {bs : List Byte} {ps : List (Nat × Nat)}
    (hc : Consecutive a bs.length ps) :
    (writeParts ps bs s).mem = Memory.writeBytes s.mem a bs ∧ (writeParts ps bs s).regions = s.regions := by
  induction ps generalizing s a bs with
  | nil =>
    obtain rfl := List.eq_nil_of_length_eq_zero hc
    exact ⟨rfl, rfl⟩
  | cons p ps ih =>
    obtain ⟨b, n⟩ := p
    obtain ⟨rfl, hn, hps⟩ := hc
    have hlen : (bs.take n).length = n := List.length_take_of_le hn
    have hwrite := writeHome_of_no_migrations h b (bs.take n)
    have hnone : (writeHome b (bs.take n) s).migrations = [] := by rw [hwrite]; exact h
    obtain ⟨hmem, hregions⟩ := ih hnone (a := b + n) (bs := bs.drop n) (by simpa using hps)
    rw [writeParts, hmem, hregions, hwrite]
    refine ⟨?_, rfl⟩
    calc Memory.writeBytes (Memory.writeBytes s.mem b (bs.take n)) (b + n) (bs.drop n)
        = Memory.writeBytes s.mem b (bs.take n ++ bs.drop n) := by rw [Memory.writeBytes_append, hlen]
      _ = Memory.writeBytes s.mem b bs := by rw [List.take_append_drop]

variable {write : Bool} {off : Nat} {data : List Byte}

/-- The physical address of an offset in the aperture. -/
def apertureAddr (s : State) (off : Nat) : Nat := field s.modRegs.apbase 51 27 * 2 ^ 27 + off

/-- The sectors that an access through the aperture touches. -/
def apertureParts (s : State) (off : Nat) (data : List Byte) : List (Nat × Nat) :=
  sectorParts (data.length / 64 + 2) (apertureAddr s off) data.length

theorem apertureParts_consecutive : Consecutive (apertureAddr s off) data.length (apertureParts s off data) :=
  sectorParts_consecutive (.inr (by omega))

theorem aperture_mapped (hd : data ≠ []) (hin : off + data.length ≤ 2 ^ 27) (hlo : mapped (apertureAddr s off) = true)
    (hhi : mapped (apertureAddr s off + data.length - 1) = true) : aperture write off data s =
      if write then writeParts (apertureParts s off data) data s
      else { (readParts (apertureParts s off data) s).2 with hostBytes := (readParts (apertureParts s off data) s).1 } := by
  unfold aperture
  rw [if_neg (by simpa [hd] using hin)]
  exact if_neg (by simpa [apertureAddr] using ⟨hlo, hhi⟩)

theorem aperture_unmapped (hd : data ≠ []) (hin : off + data.length ≤ 2 ^ 27) (hlo : mapped (apertureAddr s off) = false) :
    aperture write off data s =
      if write then s.refuseWrite else { s.refuseWrite with hostBytes := List.replicate data.length 0xFF } := by
  unfold aperture
  rw [if_neg (by simpa [hd] using hin)]
  exact if_pos (by simp [apertureAddr] at hlo; simp [hlo])

theorem exec_apertureRead (ho : s.hostOpen = true) :
    exec (.apertureAccess false off data) s = .next (aperture false off data s) := by
  obtain ⟨hacc, hfatal⟩ := State.hostOpen_iff.1 ho
  simp [exec, execApertureAccess, hacc, hfatal]

theorem exec_apertureWrite (ho : s.hostOpen = true) :
    exec (.apertureAccess true off data) s = .next (aperture true off data s) :=
  congrArg Host.Outcome.next (hostEvent_open ho)

end

/-! ### Registers of BAR 0 -/

section
variable {s : State} {v : Word} {o : Nat}

theorem exec_registerWrite (ho : s.hostOpen = true) {off : Nat} (hoff : off ≠ 0x10) :
    exec (.registerWrite off v) s = .next (barWrite off v s) := by
  simp [exec, execRegisterWrite, hoff, hostEvent_open ho]

theorem barWrite_misaligned {off : Nat} (h : off % 8 ≠ 0) : barWrite off v s = s := if_pos (by simpa using h)

theorem barWrite_module (h : o < 0x1000) (h8 : o % 8 = 0) : barWrite (0x1000 + o) v s = moduleWrite o v s := by
  unfold barWrite
  rw [if_neg (by simp; omega), if_neg (by omega), if_pos (by omega), Nat.add_sub_cancel_left]

theorem barWrite_translation (h : o < 0x1000) (h8 : o % 8 = 0) : barWrite (0x2000 + o) v s = translationWrite o v s := by
  unfold barWrite
  rw [if_neg (by simp; omega), if_neg (by omega), if_neg (by omega), if_pos (by omega), Nat.add_sub_cancel_left]

theorem barWrite_queue (h : o < 0x2000) (h8 : o % 8 = 0) : barWrite (0x4000 + o) v s = queueWrite o v s := by
  unfold barWrite
  rw [if_neg (by simp; omega), if_neg (by omega), if_neg (by omega), if_neg (by omega), if_neg (by omega), if_pos (by omega),
    Nat.add_sub_cancel_left]

theorem barWrite_msix {i : Nat} (h : i < 512) : barWrite (0x8000 + 8 * i) v s = msixWrite i v s := by
  have hi : (0x8000 + 8 * i - 0x8000) / 8 = i := by omega
  unfold barWrite
  rw [if_neg (by simp), if_neg (by omega), if_neg (by omega), if_neg (by omega), if_neg (by omega), if_neg (by omega),
    if_neg (by omega), if_pos (by omega), hi]

theorem barWrite_die {d : Nat} (hd : d < 24) (h : o < 0x8000) (h8 : o % 8 = 0) :
    barWrite (0x100000 + 0x8000 * d + o) v s = dieWrite d o v s := by
  have hdie : (0x100000 + 0x8000 * d + o - 0x100000) / 0x8000 = d := by omega
  have hoff : (0x100000 + 0x8000 * d + o - 0x100000) % 0x8000 = o := by omega
  unfold barWrite
  rw [if_neg (by simp; omega), if_neg (by omega), if_neg (by omega), if_neg (by omega), if_neg (by omega), if_neg (by omega),
    if_neg (by omega), if_neg (by omega), if_neg (by omega), if_pos (by omega), hdie, hoff]

/-- A write of RCMD at the record of region `j` of a die. -/
theorem barWrite_rcmd {d j : Nat} (hd : d < 24) (hj : j < 64) :
    barWrite (0x100000 + 0x8000 * d + 256 * j + 8) v s = rcmdWrite (64 * d + j) v s := by
  have hregion : 64 * d + (256 * j + 8) / 256 = 64 * d + j := by omega
  have hrecord : (256 * j + 8) % 256 = 8 := by omega
  rw [Nat.add_assoc (_ + _), barWrite_die hd (by omega) (by omega), dieWrite, if_pos (by omega), hregion, hrecord]
  rfl

theorem barWrite_repmap {d : Nat} (hd : d < 24) (h : repmapOk v = false) :
    barWrite (0x100000 + 0x8000 * d + 0x6080) v s = s.refuseWrite := by
  rw [barWrite_die hd (by omega) (by omega)]
  simp [dieWrite, reliabilityWrite, h]

theorem translationWrite_troot {c : Nat} (hc : c < 8) : translationWrite (8 * c) v s = s.onRegs (fun g => { g with
    troot := Map.put g.troot c (BitVec.ofNat 64 (field v 0 0 + field v 51 18 * 2 ^ 18)) }) := by
  rw [translationWrite, if_pos (by omega), Nat.mul_div_cancel_left c (by omega)]

theorem queueWrite_head (q : Nat) : queueWrite (32 * q + 16) v s = queueHead q v s := by
  have hq : (32 * q + 16) / 32 = q := by omega
  unfold queueWrite
  rw [if_neg (by omega), if_neg (by omega), if_pos (by omega), hq]

theorem queueWrite_tail (q : Nat) : queueWrite (32 * q + 24) v s = queueTail q v s := by
  have hq : (32 * q + 24) / 32 = q := by omega
  unfold queueWrite
  rw [if_neg (by omega), if_neg (by omega), if_neg (by omega), hq]

theorem imgcmdWrite_taken (hidle : bit s.modRegs.imgstat 0 = false) (h : field v 1 0 = 1 ∨ field v 1 0 = 2) :
    imgcmdWrite v s = s.onRegs (fun g => { g with
      imgcmd := BitVec.ofNat 64 (field v 1 0), imgstat := setField g.imgstat 0 0 1 }) :=
  if_neg (by simp [hidle]; omega)

theorem imgcmdWrite_refused (h : field v 1 0 = 0 ∨ field v 1 0 = 3) : imgcmdWrite v s = s.refuseWrite :=
  if_pos (by rcases h with h | h <;> simp [h])

/-- RCMD with its reserved bits zero gives the command that its low bits name. -/
theorem rcmdWrite_eq {k : Nat} (h : field v 31 3 = 0) : rcmdWrite k v s =
    if field v 2 0 = 1 then startGraceful k (field v 63 32) s else if field v 2 0 = 2 then flushByHost k s
    else if field v 2 0 = 3 then haltCommand k s else if field v 2 0 = 4 then resumeRegion k s
    else if field v 2 0 = 5 then clearLog k s else if field v 2 0 = 6 then clearStall k s else s.refuseWrite :=
  if_neg (by simp [h])

/-- A write of RCMD is the instruction of its command. -/
theorem exec_rcmd (ho : s.hostOpen = true) {d j : Nat} {i : Instr} {g : State → State} (hd : d < 24) (hj : j < 64)
    (hi : exec i s = .next (hostEvent s g))
    (hg : rcmdWrite (64 * d + j) v s = g s) :
    exec (.registerWrite (0x100000 + 0x8000 * d + 256 * j + 8) v) s = exec i s := by
  rw [exec_registerWrite ho (by omega), barWrite_rcmd hd hj, hg, hi, hostEvent_open ho]

end

/-! ### The statement, part by part -/

section
variable {s : State} {v : Word}

theorem exec_moduleWrite (ho : s.hostOpen = true) {o : Nat} (h : o < 0x1000) (h8 : o % 8 = 0) :
    exec (.registerWrite (0x1000 + o) v) s = .next (moduleWrite o v s) := by
  rw [exec_registerWrite ho (by omega), barWrite_module h h8]

theorem exec_queueHeadWrite (ho : s.hostOpen = true) (q : Nat) : exec (.queueHeadWrite q v) s = .next (queueHead q v s) :=
  congrArg Host.Outcome.next (hostEvent_open ho)

theorem exec_queueTailWrite (ho : s.hostOpen = true) (q : Nat) : exec (.queueTailWrite q v) s = .next (queueTail q v s) :=
  congrArg Host.Outcome.next (hostEvent_open ho)

theorem exec_tokenWindowWrite (ho : s.hostOpen = true) (off len : Nat) (w : BitVec 128) :
    exec (.tokenWindowWrite off len w) s = .next (windowWrite off len w s) :=
  congrArg Host.Outcome.next (hostEvent_open ho)

end

/-- Settles O59: each host event is the function of its register (`exec_…`), BAR 0 is taken apart by the blocks it has
(`barWrite_…`), and an access of the aperture is one of its consecutive sectors. -/
theorem hostInterface : Obligations.HostInterface := by
  unfold Obligations.HostInterface
  refine ⟨fun s v ho => ⟨fun hr => ?rqhead, fun q hq => ⟨fun h => ?headTaken, fun he h => ?headRefused, fun h => ?tailTaken,
      fun he h => ?tailRefused⟩⟩,
    fun s off len w ho => ⟨fun h => ?misaligned, fun hl h8 hin hb => ?bad, fun hl h8 hin hb k hk hst => ?waits,
      fun hl h8 hin hb k hk hst => ?parked⟩,
    fun s off data hs ho hd hin => ⟨fun hlo hhi hm => ⟨?apertureRead, ?apertureWrite⟩,
      fun hlo => ⟨?unmappedWrite, ?unmappedRead⟩⟩,
    fun s off v => ⟨?handshake, fun ho => ⟨fun h => ?unaligned, ?modid, ?rqbase, ?apbase, ?psbase, ?dmpbase, ?imgaddr,
      ?imgcmd, ?imgcmdRefused, fun c hc => ?troot, fun q hq => ?head, fun q hq => ?tail, fun i hi => ?msix,
      fun d hd j hj => ?rcmd, fun d hd => ?repmap⟩⟩⟩
  case rqhead => exact congrArg Host.Outcome.next ((hostEvent_open ho).trans (rqheadWrite_of_no_reports hr))
  case headTaken => rw [exec_queueHeadWrite ho, queueHead_taken hq h]; rfl
  case headRefused => rw [exec_queueHeadWrite ho, queueHead_refused hq he h]
  case tailTaken => rw [exec_queueTailWrite ho, queueTail_taken hq h, onQueue_markPush]
  case tailRefused => rw [exec_queueTailWrite ho, queueTail_refused hq he h]
  case misaligned => rw [exec_tokenWindowWrite ho, windowWrite_misaligned h]; rfl
  case bad => rw [hl, exec_tokenWindowWrite ho, windowWrite_bad h8 hin hb]; rfl
  case waits => rw [hl, exec_tokenWindowWrite ho, windowWrite_good h8 hin hb, windowToken_waits (t := windowSays w) hk hst]; rfl
  case parked => rw [hl, exec_tokenWindowWrite ho, windowWrite_good h8 hin hb, windowToken_parked (t := windowSays w) hk hst]; rfl
  case apertureRead =>
    rw [exec_apertureRead ho, aperture_mapped hd hin hlo hhi, readParts_of_no_migrations hm apertureParts_consecutive]
    exact ⟨_, rfl, rfl, rfl⟩
  case apertureWrite =>
    obtain ⟨hmem, hregions⟩ := writeParts_of_no_migrations hm (apertureParts_consecutive (s := s) (off := off) (data := data))
    rw [exec_apertureWrite ho, aperture_mapped hd hin hlo hhi]
    refine ⟨_, rfl, fun i hi => ?_, fun a ha => ?_, hregions⟩
    · rw [if_pos rfl, hmem]
      exact (Memory.read_writeBytes_inside hs.1 _ i data hi).trans (by simp [hi])
    · rw [if_pos rfl, hmem]
      exact Memory.read_writeBytes_outside hs.1 _ a data ha
  case unmappedWrite => rw [exec_apertureWrite ho, aperture_unmapped hd hin hlo, if_pos rfl]
  case unmappedRead => rw [exec_apertureRead ho, aperture_unmapped hd hin hlo, if_neg Bool.false_ne_true]
  case handshake => rintro rfl; rfl
  case unaligned => rw [exec_registerWrite ho (by omega), barWrite_misaligned h]
  case modid => rintro rfl; exact exec_moduleWrite ho (o := 0x00) (by omega) rfl
  case rqbase => rintro rfl; exact exec_moduleWrite ho (o := 0x08) (by omega) rfl
  case apbase => rintro rfl; exact exec_moduleWrite ho (o := 0x30) (by omega) rfl
  case psbase => rintro rfl; exact exec_moduleWrite ho (o := 0x38) (by omega) rfl
  case dmpbase => rintro rfl; exact exec_moduleWrite ho (o := 0x58) (by omega) rfl
  case imgaddr => rintro rfl; exact exec_moduleWrite ho (o := 0x90) (by omega) rfl
  case imgcmd =>
    rintro rfl hidle h
    exact (exec_moduleWrite ho (o := 0xA8) (by omega) rfl).trans (congrArg _ (imgcmdWrite_taken hidle h))
  case imgcmdRefused =>
    rintro rfl h
    exact (exec_moduleWrite ho (o := 0xA8) (by omega) rfl).trans (congrArg _ (imgcmdWrite_refused h))
  case troot =>
    rintro rfl
    rw [exec_registerWrite ho (by omega), barWrite_translation (by omega) (by omega), translationWrite_troot hc]
  case head =>
    rintro rfl
    rw [exec_registerWrite ho (by omega), Nat.add_assoc, barWrite_queue (by omega) (by omega), queueWrite_head,
      exec_queueHeadWrite ho]
  case tail =>
    rintro rfl
    rw [exec_registerWrite ho (by omega), Nat.add_assoc, barWrite_queue (by omega) (by omega), queueWrite_tail,
      exec_queueTailWrite ho]
  case msix =>
    rintro rfl
    rw [exec_registerWrite ho (by omega), barWrite_msix hi]
    rfl
  case rcmd =>
    rintro rfl hz
    have hc := rcmdWrite_eq (s := s) (k := 64 * d + j) hz
    refine ⟨?_, ?_, ?_, ?_, ?_, ?_⟩ <;> exact fun h => exec_rcmd ho hd hj rfl (by simpa [h] using hc)
  case repmap =>
    rintro rfl h
    rw [exec_registerWrite ho (by omega), barWrite_repmap hd h]

end Sys2Proof.Machine
end

section
/-! A token's arrival at its resident station and the matched sets that it makes (O45). -/

namespace Sys2Proof.Machine

section
variable {s : State} {n k : Nat} {fl : Flight} {t : Token}

/-! ### From the network to the station -/

theorem headOfLane_some {net : List Flight} (h : headOfLane net n = some fl) : net[n]? = some fl := by
  unfold headOfLane at h
  split at h
  · cases h
  · next f hf =>
    split at h
    · cases h
    · rwa [← Option.some.inj h]

theorem Flight.cls_ne_response (h : fl.isAnswer = false) : fl.cls ≠ .response := by
  simp only [Flight.isAnswer, Bool.or_eq_false_iff, beq_eq_false_iff_ne] at h
  exact h.1

/-- Accepting a flight that answers no request takes it off the network and changes nothing else. -/
theorem dropFlight_of_not_isAnswer (h : headOfLane s.net n = some fl) (ha : fl.isAnswer = false) :
    dropFlight s n = { s with net := s.net.eraseIdx n } := by
  have hn := headOfLane_some h
  obtain ⟨hlt, -⟩ := List.getElem?_eq_some_iff.mp hn
  obtain ⟨-, -, hdrop⟩ := dropFlight_rest s n hlt
  exact hdrop (by simp [hn, Flight.cls_ne_response ha])

/-- The key of the site that a token names. -/
abbrev siteKey (t : Token) : Nat := Site.key (Token.site t)

/-- The PE that a token names. -/
abbrev State.peOf (s : State) (t : Token) : Pe := s.pe (siteKey t)

/-- The word of the station that a token names. -/
abbrev State.wordOf (s : State) (t : Token) : StationWord := (s.peOf t).word t.ctx.toNat t.station.toNat

/-- Flight `fl`, the first of its lane, brings token `t` from inside region `k` to a station that is resident there and
takes it: no error, control token, feed word, answer, diversion or squashed tag (R30, R92, R146, R219). -/
structure ComesToStation (s : State) (n k : Nat) (fl : Flight) (t : Token) : Prop where
  running  : s.fatal = false
  first    : headOfLane s.net n = some fl
  msg      : fl.msg = .token t
  atPe     : isPe (Token.site t) = true
  resident : (s.peOf t).ctxState t.ctx.toNat = 1
  taken    : stationBad (s.peOf t) t = none
  notCtl   : t.port ≠ .c
  notFeed  : feedSide s t = none
  region   : s.regionAt (Token.site t) t.ctx.toNat = some k
  inside   : fl.input = false
  noAnswer : fl.isAnswer = false
  alive    : isDead (s.region k) (siteKey t) t.station.toNat t.tag.toNat = false
  format   : (decodeFields (s.wordOf t)).lock = true → t.fmt = (decodeFields (s.wordOf t)).fmtOut

/-- A live token that is no answer and has the format of its station is matched there. -/
theorem tokenAtStation_eq_matchToken
    (halive : isDead (s.region k) (siteKey t) t.station.toNat t.tag.toNat = false) (hans : fl.isAnswer = false)
    (hfmt : (decodeFields (s.wordOf t)).lock = true → t.fmt = (decodeFields (s.wordOf t)).fmtOut) :
    tokenAtStation s (some k) fl t = matchToken s t := by
  have hreturn : (fl.cls == .response) = false := beq_eq_false_iff_ne.2 (Flight.cls_ne_response hans)
  have hdivert : ((decodeFields (s.wordOf t)).lock && t.port != .c && t.fmt != (decodeFields (s.wordOf t)).fmtOut) = false := by
    cases hlock : (decodeFields (s.wordOf t)).lock with
    | false => rfl
    | true => simp [hfmt hlock]
  simp only [tokenAtStation, halive, hreturn, hdivert, Bool.false_and, Bool.false_eq_true, if_false]

/-- A token from inside the region, at a resident PE whose station takes it, goes to that station. -/
theorem tokenAtPe_eq_tokenAtStation (hres : (s.peOf t).ctxState t.ctx.toNat = 1)
    (htaken : stationBad (s.peOf t) t = none) (hctl : t.port ≠ .c) (hfeed : feedSide s t = none)
    (hk : s.regionAt (Token.site t) t.ctx.toNat = some k) (hin : fl.input = false) (hans : fl.isAnswer = false) :
    tokenAtPe s fl t = tokenAtStation s (some k) fl t := by
  have hfifo : fifoOf s k fl t = none := by simp [fifoOf, hin]
  have hadm : answerAdmitted s k fl t = some s := by simp [answerAdmitted, hans]
  unfold tokenAtPe
  simp [hres, htaken, hctl, hfeed, hk, hin, hfifo, hadm, acceptInput_inside]

theorem ComesToStation.arrive_eq (h : ComesToStation s n k fl t) :
    arrive s n = matchToken { s with net := s.net.eraseIdx n } t := by
  obtain ⟨hrun, hfirst, hmsg, hpe, hres, htaken, hctl, hfeed, hk, hin, hans, halive, hfmt⟩ := h
  have hstep : arrive s n = tokenAtPe (dropFlight s n) fl t := by simp [arrive, hrun, hfirst, hmsg, hpe]
  rw [hstep, dropFlight_of_not_isAnswer hfirst hans]
  calc tokenAtPe { s with net := s.net.eraseIdx n } fl t
      = tokenAtStation { s with net := s.net.eraseIdx n } (some k) fl t :=
        tokenAtPe_eq_tokenAtStation hres htaken hctl hfeed hk hin hans
    _ = matchToken { s with net := s.net.eraseIdx n } t := tokenAtStation_eq_matchToken halive hans hfmt

/-- TOKEN_ARRIVAL, MATCHING_ENTRY_GRANTED and GANGED_LANE_TIMEOUT of a flight make one and the same arrival (R36, R219, R227). -/
theorem exec_arrival (hfirst : headOfLane s.net n = some fl) {x : Site} (hdst : fl.dst = Site.key x) (hpe : isPe x = true)
    (hholds : (s.region k).holdsPe (Site.ofKey (Site.key x)) = true) :
    ∀ i ∈ [Instr.tokenArrival n, .matchingEntryGranted x n, .gangedLaneTimeout k n],
      exec i s = .next ((arrive s n).getD s) := by
  have harrival : exec (.tokenArrival n) s = .next ((arrive s n).getD s) := rfl
  have hgranted : exec (.matchingEntryGranted x n) s = .next ((arrive s n).getD s) := by
    change execMatchingEntryGranted x n s = _
    simp [execMatchingEntryGranted, grantEntry, hfirst, hdst, hpe]
  have hganged : exec (.gangedLaneTimeout k n) s = .next ((arrive s n).getD s) := by
    change execGangedLaneTimeout k n s = _
    simp [execGangedLaneTimeout, hfirst, hdst, hholds]
  simp [harrival, hgranted, hganged]

end

/-! ### Matching at the station -/

section
variable {s : State} {t : Token} {o : OpInfo}

/-- The station that a token names, whose row of the opcode map is `o`, forms a set from it alone. -/
def State.formsAlone (s : State) (t : Token) (o : OpInfo) : Bool :=
  alone (s.peOf t) (decodeFields (s.wordOf t)) (wordOp (s.wordOf t)) t.ctx.toNat t.station.toNat o t.port

/-- The entries that wait at a token's station under its tag. -/
def State.waitingWith (s : State) (t : Token) : List Entry :=
  (s.peOf t).entries.filter
    (fun e => e.ctx == t.ctx.toNat && e.station == t.station.toNat && e.tag == t.tag.toNat)

/-- The tokens that wait at a token's station under its tag, and itself, each with its port. -/
def State.gathered (s : State) (t : Token) : List (Port × Token) :=
  (s.waitingWith t).map (fun e => (e.port, e.tok)) ++ [(t.port, t)]

/-- A set of the token's tag that already waits, marked, at its station. -/
def markedWith (t : Token) (r : Ready) : Prop :=
  r.ctx = t.ctx.toNat ∧ r.station = t.station.toNat ∧ r.tag = t.tag.toNat

/-- The set of a token alone at cycle `now`, which takes as many entries as R149 asks for, `m` of them of the shared pool. -/
def Pe.setAlone (p : Pe) (now : Nat) (t : Token) (m : Nat) : Ready :=
  ⟨t.ctx.toNat, t.station.toNat, t.tag.toNat, now, [t], entriesNeeded p t.ctx.toNat t.station.toNat t, m⟩

/-- The set that a token completes, which holds the entries of the tokens that waited for it. -/
def State.setCompleted (s : State) (t : Token) (o : OpInfo) : Ready :=
  ⟨t.ctx.toNat, t.station.toNat, t.tag.toNat, s.now t.die.toNat, orderToks (awaited o (decodeFields (s.wordOf t))) (s.gathered t),
    (s.waitingWith t).length, ((s.waitingWith t).filter Entry.shared).length⟩

/-- The PE without the entries that wait under the token's tag. -/
def Pe.withoutWaiting (p : Pe) (t : Token) : Pe :=
  { p with entries := p.entries.filter (fun e => !(e.ctx == t.ctx.toNat && e.station == t.station.toNat && e.tag == t.tag.toNat)) }

/-- Two changes of a PE that agree on it as it is are one. -/
theorem State.onPe_congr {x : Nat} {g g' : Pe → Pe} (h : g (s.pe x) = g' (s.pe x)) : s.onPe x g = s.onPe x g' :=
  congrArg (fun p => { s with pes := Map.put s.pes x p }) h

/-- A token that forms a set alone is matched when it has the entries that it needs and the ready queue is open, or its context
is stopped (R149, R219, log entry 98). -/
theorem matchToken_alone (ho : opInfo (wordOp (s.wordOf t)) = some o) (ha : s.formsAlone t o = true) :
    matchToken s t =
      if !(s.peOf t).queueOpen && !(s.stopped (siteKey t) t.ctx.toNat) then none
      else (grantMany (siteKey t) t.ctx.toNat t.station.toNat t.tag.toNat
        (entriesNeeded (s.peOf t) t.ctx.toNat t.station.toNat t) s).map
          (fun m => s.onPe (siteKey t) (fun p => p.matchedSet ((s.peOf t).setAlone (s.now t.die.toNat) t m))) := by
  unfold State.formsAlone at ha
  simp only [matchToken, ho, ha, if_true]
  rfl

/-- A token that needs others completes their set when it is the last, else takes an entry, where no token of its port and no set
of its tag waits (R219, R220). -/
theorem matchToken_joins (ho : opInfo (wordOp (s.wordOf t)) = some o) (ha : s.formsAlone t o = false)
    (hport : ∀ e ∈ s.waitingWith t, e.port ≠ t.port)
    (hmarked : ∀ r ∈ (s.peOf t).marked, ¬markedWith t r) :
    matchToken s t =
      if wordOp (s.wordOf t) != 0x186 &&
          (awaited o (decodeFields (s.wordOf t))).all (fun q => (s.gathered t).any (fun y => y.1 == q)) &&
          !((s.waitingWith t).any Entry.pending) then
        some (s.onPe (siteKey t) (fun p => (p.withoutWaiting t).matchedSet (s.setCompleted t o)))
      else (grant s (siteKey t) t.ctx.toNat t.station.toNat t.tag.toNat).map (fun pool =>
        s.onPe (siteKey t) (fun p => { p with
          entries := p.entries ++ [⟨t.ctx.toNat, t.station.toNat, t.tag.toNat, t.port, t, false, pool⟩] })) := by
  have hfree : ((s.waitingWith t).any (fun e => e.port == t.port && !(e.pending && t.fmt == e.tok.fmt)) ||
      (s.peOf t).marked.any
        (fun r => r.ctx == t.ctx.toNat && r.station == t.station.toNat && r.tag == t.tag.toNat)) = false := by
    simp only [Bool.or_eq_false_iff, List.any_eq_false]
    exact ⟨fun e he => by simp [hport e he], fun r hr => by simpa [markedWith, and_assoc] using hmarked r hr⟩
  unfold State.formsAlone at ha
  unfold State.waitingWith at hfree
  simp only [matchToken, ho, ha, hfree, Bool.false_eq_true, if_false]
  cases grant s (siteKey t) t.ctx.toNat t.station.toNat t.tag.toNat <;> rfl

theorem matchToken_alone_enters (ho : opInfo (wordOp (s.wordOf t)) = some o) (ha : s.formsAlone t o = true)
    (hroom : (s.peOf t).queueOpen = true ∨ s.stopped (siteKey t) t.ctx.toNat = true) {m : Nat}
    (hm : grantMany (siteKey t) t.ctx.toNat t.station.toNat t.tag.toNat
      (entriesNeeded (s.peOf t) t.ctx.toNat t.station.toNat t) s = some m) :
    matchToken s t = some (s.onPe (siteKey t) (fun p => p.matchedSet (p.setAlone (s.now t.die.toNat) t m))) := by
  rw [matchToken_alone ho ha, if_neg (by rcases hroom with h | h <;> simp [h]), hm]
  exact congrArg some (State.onPe_congr rfl)

theorem matchToken_alone_waits (ho : opInfo (wordOp (s.wordOf t)) = some o) (ha : s.formsAlone t o = true)
    (hfull : (s.peOf t).queueOpen = false)
    (hruns : s.stopped (siteKey t) t.ctx.toNat = false) : matchToken s t = none := by
  rw [matchToken_alone ho ha, if_pos (by simp [hfull, hruns])]

theorem matchToken_completes (ho : opInfo (wordOp (s.wordOf t)) = some o) (ha : s.formsAlone t o = false)
    (hmine : ∀ e ∈ s.waitingWith t, e.port ≠ t.port ∧ e.pending = false) (hop : wordOp (s.wordOf t) ≠ 0x186)
    (hmarked : ∀ r ∈ (s.peOf t).marked, ¬markedWith t r)
    (hall : ∀ q ∈ awaited o (decodeFields (s.wordOf t)), ∃ y ∈ s.gathered t, y.1 = q) :
    matchToken s t =
      some (s.onPe (siteKey t) (fun p => (p.withoutWaiting t).matchedSet (s.setCompleted t o))) := by
  have hports : (awaited o (decodeFields (s.wordOf t))).all (fun q => (s.gathered t).any (fun y => y.1 == q)) = true := by
    simpa only [List.all_eq_true, List.any_eq_true, beq_iff_eq] using hall
  have hpending : (s.waitingWith t).any Entry.pending = false :=
    List.any_eq_false.2 fun e he => by simp [(hmine e he).2]
  rw [matchToken_joins ho ha (fun e he => (hmine e he).1) hmarked, if_pos (by simp [hports, hpending, hop])]

theorem matchToken_takes_entry (ho : opInfo (wordOp (s.wordOf t)) = some o) (ha : s.formsAlone t o = false)
    (hport : ∀ e ∈ s.waitingWith t, e.port ≠ t.port)
    (hmarked : ∀ r ∈ (s.peOf t).marked, ¬markedWith t r)
    (hmissing : ∃ q ∈ awaited o (decodeFields (s.wordOf t)), ∀ y ∈ s.gathered t, y.1 ≠ q) {pool : Bool}
    (hgrant : grant s (siteKey t) t.ctx.toNat t.station.toNat t.tag.toNat = some pool) :
    matchToken s t = some (s.onPe (siteKey t) (fun p => { p with
      entries := p.entries ++ [⟨t.ctx.toNat, t.station.toNat, t.tag.toNat, t.port, t, false, pool⟩] })) := by
  have hports : (awaited o (decodeFields (s.wordOf t))).all (fun q => (s.gathered t).any (fun y => y.1 == q)) = false := by
    obtain ⟨q, hq, hy⟩ := hmissing
    exact List.all_eq_false.2 ⟨q, hq, by simpa only [List.any_eq_true, beq_iff_eq, not_exists, not_and] using hy⟩
  rw [matchToken_joins ho ha hport hmarked, if_neg (by simp [hports]), hgrant]
  rfl

end

/-! ### The ready queue and the entries of a sum -/

theorem Pe.queueOpen_iff (p : Pe) : p.queueOpen = true ↔ p.ready.length < 16 ∧ p.marked = [] := by
  simp [Pe.queueOpen]

theorem Pe.queueOpen_eq_false_iff (p : Pe) : p.queueOpen = false ↔ 16 ≤ p.ready.length ∨ p.marked ≠ [] := by
  rw [← Bool.not_eq_true, Pe.queueOpen_iff, not_and_or, Nat.not_lt]

theorem Pe.matchedSet_open {p : Pe} (h : p.queueOpen = true) (r : Ready) : p.matchedSet r = { p with ready := p.ready ++ [r] } :=
  if_pos h

theorem Pe.matchedSet_closed {p : Pe} (h : p.queueOpen = false) (r : Ready) :
    p.matchedSet r = { p with marked := p.marked ++ [r] } :=
  if_neg (by simp [h])

/-- With no contribution in a set of its PE, a sum is as far as its running value says. -/
theorem accAhead_of_no_sets {p : Pe} (hready : p.ready = []) (hmarked : p.marked = []) (c st tag : Nat) :
    accAhead p c st tag = (Map.find p.accum (accKey c st tag)).map (fun a => (a.next, a.waiting)) := by
  simp [accAhead, hready, hmarked]

theorem entriesNeeded_of_no_sets {p : Pe} {c st : Nat} {t : Token} (hacc : p.isAcc c st = true) (hready : p.ready = [])
    (hmarked : p.marked = []) :
    entriesNeeded p c st t = match Map.find p.accum (accKey c st t.tag.toNat) with
      | some a => if t.seq.toNat = a.next % 64 then 0 else 1
      | none => if t.seq = 0 then 1 else 2 := by
  unfold entriesNeeded
  rw [accAhead_of_no_sets hready hmarked]
  cases Map.find p.accum (accKey c st t.tag.toNat) <;> simp [hacc]

theorem Pe.enterReady_first {p : Pe} {now : Nat} {r : Ready} {rs : List Ready} (hmarked : p.marked = r :: rs)
    (hroom : p.ready.length < 16) (hcycle : p.nextEnter ≤ now) :
    p.enterReady now = some { p with ready := p.ready ++ [r], marked := rs, nextEnter := now + 1 } := by
  simp [Pe.enterReady, hmarked, hroom, hcycle]

theorem exec_readyQueueEntry {s : State} {x : Site} {p : Pe} (h : (s.pe (Site.key x)).enterReady (s.now x.die) = some p) :
    exec (.readyQueueEntry x) s = .next (s.onPe (Site.key x) (fun _ => p)) := by
  change execReadyQueueEntry x s = _
  simp [execReadyQueueEntry, h]

/-- Settles O45: the three arrivals are one (`exec_arrival`), which matches the token at its station (`ComesToStation.arrive_eq`),
and the match is split by what the token finds there (`matchToken_…`). -/
theorem arrivalAndMatching : Obligations.ArrivalAndMatching := by
  unfold Obligations.ArrivalAndMatching
  refine ⟨?arrival, fun p r => ⟨fun hlen hmarked => ?opened, fun h => ?closed⟩,
    fun p c st t hacc hready hmarked => entriesNeeded_of_no_sets hacc hready hmarked,
    fun s x r rs hmarked hroom hcycle => ?next⟩
  case opened => exact Pe.matchedSet_open (p.queueOpen_iff.2 ⟨hlen, hmarked⟩) r
  case closed => exact Pe.matchedSet_closed (p.queueOpen_eq_false_iff.2 h) r
  case next =>
    exact ⟨_, exec_readyQueueEntry (Pe.enterReady_first hmarked hroom hcycle), State.pe_onPe_self s _ _,
      fun k hk => State.pe_onPe_ne s _ hk, rfl⟩
  case arrival =>
    intro s n k fl t o x p c st tag w f u mine have' single goes hrun hfirst hmsg hdst hpe _ hres htaken ho hctl hfeed hk hholds
      hin hans halive hfmt
    have hcomes : ComesToStation s n k fl t :=
      ⟨hrun, hfirst, hmsg, hpe, hres, htaken, hctl, hfeed, hk, hin, hans, halive, hfmt⟩
    have hexec : ∀ i ∈ [Instr.tokenArrival n, .matchingEntryGranted x n, .gangedLaneTimeout k n],
        exec i s = .next ((matchToken u t).getD s) :=
      hcomes.arrive_eq ▸ exec_arrival hfirst hdst hpe hholds
    have hgoes : ∀ {g : Pe → Pe}, matchToken u t = some (u.onPe (Site.key x) g) → goes g := fun hg i hi => by
      rw [hexec i hi, hg, Option.getD_some]
    refine ⟨fun m hs hroom hm => ?alone, fun hs hfull hruns => ?waits, fun hs hmine hop hmarked hall => ?completes,
      fun pool hs hport hmarked hmissing hgrant => ?entry⟩
    case alone => exact hgoes (matchToken_alone_enters (s := u) ho hs (hroom.imp_left p.queueOpen_iff.2) hm)
    case waits =>
      intro i hi
      rw [hexec i hi, matchToken_alone_waits (s := u) ho hs (p.queueOpen_eq_false_iff.2 hfull) hruns, Option.getD_none]
    case completes => exact hgoes (matchToken_completes (s := u) ho hs hmine hop hmarked hall)
    case entry => exact hgoes (matchToken_takes_entry (s := u) ho hs hport hmarked hmissing hgrant)

end Sys2Proof.Machine
end

section
/-! Rounding is exact: the integer that `roundAt` counts is the one that the mode picks, a pattern's magnitude counts the values
of its format in rising order, and so the one rounding of `roundF` and its overflow are those of R46 and R47 (O6). -/

namespace Sys2Proof.Machine

/-! ### The integer that a mode picks -/

/-- The mode that rounds a negated value to the negated integer. -/
def Round.mirror : Round → Round
  | .rne => .rne
  | .rtz => .rtz
  | .rup => .rdn
  | .rdn => .rup

/-- A natural number with a sign. -/
def withNeg (neg : Bool) (n : ℕ) : ℤ := if neg then -n else n

@[simp] theorem withNeg_false (n : ℕ) : withNeg false n = n := rfl

@[simp] theorem withNeg_true (n : ℕ) : withNeg true n = -n := rfl

section
variable {mode : Round} {y : ℝ} {k : ℤ}

theorem IsRounding.neg (h : IsRounding (Round.mirror mode) y k) : IsRounding mode (-y) (-k) := by
  have habs : |-y - ((-k : ℤ) : ℝ)| = |y - k| := by rw [← abs_neg]; push_cast; ring_nf
  cases mode with
  | rne => exact ⟨habs ▸ h.1, fun he => (h.2 (habs ▸ he)).neg⟩
  | rtz => simpa [IsRounding, Round.mirror] using h
  | rup => obtain ⟨h1, h2⟩ := h; constructor <;> push_cast <;> linarith
  | rdn => obtain ⟨h1, h2⟩ := h; constructor <;> push_cast <;> linarith

/-- An integer is rounded to itself. -/
theorem isRounding_self (mode : Round) (k : ℤ) : IsRounding mode k k := by
  cases mode <;> simp [IsRounding, mul_self_nonneg]

/-- No mode moves a value of sign + by a whole unit. -/
theorem IsRounding.abs_sub_lt_one (h : IsRounding mode y k) (hy : 0 ≤ y) : |y - k| < 1 := by
  rw [abs_lt]
  cases mode with
  | rne => have := abs_le.1 h.1; constructor <;> linarith
  | rtz =>
    obtain ⟨h1, h2, h3⟩ := h
    rw [abs_of_nonneg hy] at h1 h2
    have := abs_le.1 h1
    rcases abs_cases (k : ℝ) with ⟨hk, -⟩ | ⟨hk, -⟩ <;> constructor <;> nlinarith
  | rup => obtain ⟨h1, h2⟩ := h; constructor <;> linarith
  | rdn => obtain ⟨h1, h2⟩ := h; constructor <;> linarith

/-- Rounding passes no integer. -/
theorem IsRounding.le_of_le (h : IsRounding mode y k) (hy : 0 ≤ y) {a : ℤ} (ha : y ≤ a) : k ≤ a := by
  have := abs_lt.1 (h.abs_sub_lt_one hy)
  have : (k : ℝ) < a + 1 := by linarith
  exact Int.lt_add_one_iff.1 (by exact_mod_cast this)

theorem IsRounding.ge_of_ge (h : IsRounding mode y k) (hy : 0 ≤ y) {a : ℤ} (ha : a ≤ y) : a ≤ k := by
  have := abs_lt.1 (h.abs_sub_lt_one hy)
  have : (a : ℝ) < k + 1 := by linarith
  exact Int.lt_add_one_iff.1 (by exact_mod_cast this)

end

theorem roundsUp_true (mode : Round) (sig rem sh : ℕ) :
    roundsUp mode true sig rem sh = roundsUp (Round.mirror mode) false sig rem sh := by
  cases mode <;> rfl

theorem roundAt_true (mode : Round) (m : ℕ) (e q : ℤ) :
    roundAt mode true m e q = roundAt (Round.mirror mode) false m e q := by
  simp only [roundAt, roundsUp_true]

/-- A value `a + ε` is rounded up to `a + 1`, not down to `a` (R46). -/
def GoesUp (mode : Round) (a : ℕ) (ε : ℝ) : Prop :=
  match mode with
  | .rne => 1 / 2 < ε ∨ ε = 1 / 2 ∧ a % 2 = 1
  | .rtz => False
  | .rup => 0 < ε
  | .rdn => False

theorem isRounding_up {mode : Round} {a : ℕ} {ε : ℝ} (h1 : ε < 1) (h : GoesUp mode a ε) :
    IsRounding mode (a + ε) ((a + 1 : ℕ) : ℤ) := by
  cases mode with
  | rne =>
    have habs : |a + ε - ((a + 1 : ℕ) : ℤ)| = 1 - ε := by
      push_cast; rw [show a + ε - (a + 1) = -(1 - ε) by ring, abs_neg, abs_of_nonneg (by linarith)]
    have hε : 1 / 2 ≤ ε := h.elim le_of_lt fun h => h.1.ge
    refine ⟨by rw [habs]; linarith, fun htie => ?_⟩
    obtain ⟨-, hodd⟩ := h.resolve_left (by rw [habs] at htie; linarith)
    exact_mod_cast (Nat.odd_iff.2 hodd).add_one
  | rtz => exact h.elim
  | rup =>
    have hε : 0 < ε := h
    constructor <;> push_cast <;> linarith
  | rdn => exact h.elim

theorem isRounding_down {mode : Round} {a : ℕ} {ε : ℝ} (h0 : 0 ≤ ε) (h1 : ε < 1) (h : ¬GoesUp mode a ε) :
    IsRounding mode (a + ε) ((a : ℕ) : ℤ) := by
  cases mode with
  | rne =>
    have habs : |a + ε - ((a : ℕ) : ℤ)| = ε := by push_cast; rw [add_sub_cancel_left, abs_of_nonneg h0]
    refine ⟨by rw [habs]; exact le_of_not_gt fun hgt => h (.inl hgt), fun htie => ?_⟩
    have heven : ¬a % 2 = 1 := fun hodd => h (.inr ⟨habs ▸ htie, hodd⟩)
    exact_mod_cast Nat.even_iff.2 (Nat.mod_two_ne_one.1 heven)
  | rtz =>
    have ha : (0 : ℝ) ≤ a := Nat.cast_nonneg a
    simp only [IsRounding, Int.cast_natCast, abs_of_nonneg ha, abs_of_nonneg (add_nonneg ha h0)]
    exact ⟨by linarith, by linarith, by positivity⟩
  | rup =>
    have hε : ε = 0 := le_antisymm (le_of_not_gt h) h0
    constructor <;> push_cast <;> linarith
  | rdn => constructor <;> push_cast <;> linarith

/-- What a division by `2^sh` leaves decides as R46 says. -/
theorem roundsUp_iff_goesUp (mode : Round) (a r sh : ℕ) :
    roundsUp mode false a r sh = true ↔ GoesUp mode a ((r : ℝ) / 2 ^ sh) := by
  have hd : (0 : ℝ) < 2 ^ sh := by positivity
  have hpos : 0 < r ↔ 0 < (r : ℝ) / 2 ^ sh := by rw [div_pos_iff_of_pos_right hd, Nat.cast_pos]
  have hhalf : 2 ^ sh < 2 * r ↔ 1 / 2 < (r : ℝ) / 2 ^ sh := by
    rw [lt_div_iff₀ hd, ← Nat.cast_lt (α := ℝ)]; push_cast; constructor <;> intro h <;> linarith
  have htie : 2 * r = 2 ^ sh ↔ (r : ℝ) / 2 ^ sh = 1 / 2 := by
    rw [div_eq_iff hd.ne', ← Nat.cast_inj (R := ℝ)]; push_cast; constructor <;> intro h <;> linarith
  cases mode <;> simp only [roundsUp, GoesUp, ← hhalf, ← htie, ← hpos] <;> simp

theorem isRounding_div (mode : Round) (m sh : ℕ) :
    IsRounding mode ((m : ℝ) / 2 ^ sh)
      ((if roundsUp mode false (m / 2 ^ sh) (m % 2 ^ sh) sh then m / 2 ^ sh + 1 else m / 2 ^ sh : ℕ) : ℤ) := by
  have hd : (0 : ℝ) < 2 ^ sh := by positivity
  have hsum : (m : ℝ) / 2 ^ sh = (m / 2 ^ sh : ℕ) + (m % 2 ^ sh : ℕ) / 2 ^ sh := by
    have : (m : ℝ) = 2 ^ sh * (m / 2 ^ sh : ℕ) + (m % 2 ^ sh : ℕ) := by exact_mod_cast (Nat.div_add_mod m (2 ^ sh)).symm
    rw [div_eq_iff hd.ne', this]; field_simp
  have h0 : 0 ≤ ((m % 2 ^ sh : ℕ) : ℝ) / 2 ^ sh := by positivity
  have h1 : ((m % 2 ^ sh : ℕ) : ℝ) / 2 ^ sh < 1 := by
    rw [div_lt_one hd]; exact_mod_cast Nat.mod_lt m (Nat.two_pow_pos sh)
  rw [hsum]
  split
  · next h => exact isRounding_up h1 ((roundsUp_iff_goesUp ..).1 h)
  · next h => exact isRounding_down h0 h1 fun hup => h ((roundsUp_iff_goesUp ..).2 hup)

/-- `roundAt` counts the units of `2^q` in the value as the mode rounds it (R46). -/
theorem roundAt_isRounding_pos (mode : Round) (m : ℕ) (e q : ℤ) :
    IsRounding mode ((m : ℝ) * 2 ^ (e - q)) (roundAt mode false m e q : ℕ) := by
  unfold roundAt
  split
  · next h =>
    have : (m : ℝ) * 2 ^ (e - q) = ((m * 2 ^ (e - q).toNat : ℕ) : ℤ) := by
      push_cast; rw [← zpow_natCast, Int.toNat_of_nonneg (by omega)]
    rw [this]
    exact isRounding_self mode _
  · next h =>
    have : (m : ℝ) * 2 ^ (e - q) = m / 2 ^ (q - e).toNat := by
      rw [← zpow_natCast, Int.toNat_of_nonneg (by omega), div_eq_mul_inv, ← zpow_neg, neg_sub]
    rw [this]
    exact isRounding_div mode m _

theorem FVal.rat_fin_cast (neg : Bool) (m : ℕ) (e : ℤ) :
    ((FVal.rat (.fin neg m e) : ℚ) : ℝ) = (if neg then -1 else 1) * (m * 2 ^ e) := by
  cases neg <;> simp [FVal.rat]

theorem roundAt_isRounding (mode : Round) (neg : Bool) (m : ℕ) (e q : ℤ) :
    IsRounding mode (((FVal.rat (.fin neg m e) : ℚ) : ℝ) / 2 ^ q) (withNeg neg (roundAt mode neg m e q)) := by
  have hval : ((m : ℝ) * 2 ^ e) / 2 ^ q = m * 2 ^ (e - q) := by rw [mul_div_assoc, zpow_sub₀ two_ne_zero]
  rw [FVal.rat_fin_cast, mul_div_assoc, hval]
  cases neg with
  | false => simpa using roundAt_isRounding_pos mode m e q
  | true =>
    rw [roundAt_true]
    simpa using (roundAt_isRounding_pos (Round.mirror mode) m e q).neg

/-! ### Magnitudes -/

/-- The exponent of a format's least unit (R42). -/
def minQ (f : Fmt) : ℤ := 1 - Fmt.bias f - Fmt.frac f

/-- The significand of a finite pattern without its sign (R43). -/
def magSig (f : Fmt) (mag : ℕ) : ℕ :=
  if mag / 2 ^ Fmt.frac f = 0 then mag % 2 ^ Fmt.frac f else 2 ^ Fmt.frac f + mag % 2 ^ Fmt.frac f

/-- The exponent of a finite pattern without its sign (R43). -/
def magExp (f : Fmt) (mag : ℕ) : ℤ :=
  if mag / 2 ^ Fmt.frac f = 0 then minQ f else (mag / 2 ^ Fmt.frac f : ℕ) - Fmt.bias f - Fmt.frac f

/-- The value of a pattern without its sign, as if the exponent range had no upper bound (R43, R47). -/
def magVal (f : Fmt) (mag : ℕ) : ℚ := magSig f mag * 2 ^ magExp f mag

/-- The magnitude that lies `r` units of `2^n` least units above the patterns of lower exponent: `r` runs through the fractions of
its exponent, and to the next exponent's first. -/
theorem magVal_units (f : Fmt) {n r : ℕ} (hr : r ≤ 2 ^ (Fmt.frac f + 1)) (hn : n = 0 ∨ 2 ^ Fmt.frac f ≤ r) :
    magVal f (n * 2 ^ Fmt.frac f + r) = r * 2 ^ (minQ f + n) := by
  have hF : 0 < 2 ^ Fmt.frac f := Nat.two_pow_pos _
  rw [pow_succ] at hr
  unfold magVal magSig magExp
  have hdiv : (n * 2 ^ Fmt.frac f + r) / 2 ^ Fmt.frac f = n + r / 2 ^ Fmt.frac f := by
    rw [Nat.add_comm, Nat.add_mul_div_right _ _ hF, Nat.add_comm]
  have hmod : (n * 2 ^ Fmt.frac f + r) % 2 ^ Fmt.frac f = r % 2 ^ Fmt.frac f := by
    rw [Nat.add_comm, Nat.add_mul_mod_self_right]
  rw [hdiv, hmod]
  rcases Nat.lt_or_ge r (2 ^ Fmt.frac f) with hlow | hhigh
  · have h0 : n = 0 := hn.resolve_right (by omega)
    simp [h0, Nat.div_eq_of_lt hlow, Nat.mod_eq_of_lt hlow]
  rcases hr.lt_or_eq with hlt | htop
  · have hd : r / 2 ^ Fmt.frac f = 1 := Nat.div_eq_of_lt_le (by omega) (by omega)
    have hm : 2 ^ Fmt.frac f + r % 2 ^ Fmt.frac f = r := by have := Nat.div_add_mod r (2 ^ Fmt.frac f); rw [hd] at this; omega
    rw [hd, if_neg (by omega), if_neg (by omega), hm]
    congr 2
    unfold minQ; push_cast; ring
  · have hd : r / 2 ^ Fmt.frac f = 2 := by rw [htop, Nat.mul_div_cancel_left _ hF]
    have hm : r % 2 ^ Fmt.frac f = 0 := by rw [htop, Nat.mul_mod_right]
    have he : ((n + 2 : ℕ) : ℤ) - Fmt.bias f - Fmt.frac f = minQ f + n + 1 := by unfold minQ; push_cast; ring
    rw [hd, if_neg (by omega), if_neg (by omega), hm, he, htop, zpow_add_one₀ two_ne_zero]
    push_cast; ring

/-- Every magnitude is so many units of its exponent. -/
theorem exists_units (F mag : ℕ) : ∃ n r, mag = n * 2 ^ F + r ∧ r < 2 ^ (F + 1) ∧ (n = 0 ∨ 2 ^ F ≤ r) := by
  have hmod := Nat.mod_lt mag (Nat.two_pow_pos F)
  have hsum := Nat.div_add_mod' mag (2 ^ F)
  rw [pow_succ]
  rcases Nat.eq_zero_or_pos (mag / 2 ^ F) with h0 | hpos
  · exact ⟨0, mag, by simp, by rw [h0] at hsum; omega, .inl rfl⟩
  · refine ⟨mag / 2 ^ F - 1, 2 ^ F + mag % 2 ^ F, ?_, by omega, .inr (by omega)⟩
    calc mag = (mag / 2 ^ F - 1 + 1) * 2 ^ F + mag % 2 ^ F := by rw [Nat.sub_add_cancel hpos, hsum]
      _ = _ := by ring

/-- The patterns of one sign lie in the order of their values. -/
theorem magVal_strictMono (f : Fmt) : StrictMono (magVal f) := by
  refine strictMono_nat_of_lt_succ fun mag => ?_
  obtain ⟨n, r, rfl, hr, hn⟩ := exists_units (Fmt.frac f) mag
  rw [magVal_units f hr.le hn, Nat.add_assoc, magVal_units f hr (hn.imp_right Nat.le_succ_of_le)]
  exact mul_lt_mul_of_pos_right (by exact_mod_cast r.lt_succ_self) (by positivity)

theorem magVal_nonneg (f : Fmt) (mag : ℕ) : 0 ≤ magVal f mag := by unfold magVal; positivity

/-! ### Patterns -/

section
variable {f : Fmt} {neg : Bool} {mag : ℕ}

theorem maxFinite_succ_lt_signBit (hf : Fmt.isFloat f = true) : Fmt.maxFinite f + 1 < signBit f := by
  revert hf
  cases f <;> decide

theorem two_pow_width (f : Fmt) : 2 ^ Fmt.width f = 2 * signBit f := by
  cases f <;> rfl

theorem withSign_div_signBit (h : mag < signBit f) : (withSign f neg mag / signBit f % 2 == 1) = neg := by
  have hs : 0 < signBit f := by omega
  cases neg with
  | false => simp [withSign, Nat.div_eq_of_lt h]
  | true => simp [withSign, Nat.add_div_left _ hs, Nat.div_eq_of_lt h]

theorem withSign_mod_signBit (h : mag < signBit f) : withSign f neg mag % signBit f = mag := by
  cases neg <;> simp [withSign, Nat.mod_eq_of_lt h]

theorem withSign_lt (h : mag < signBit f) : withSign f neg mag < 2 ^ Fmt.width f := by
  rw [two_pow_width]
  cases neg <;> simp only [withSign, if_true, Bool.false_eq_true, if_false] <;> omega

theorem signBit_le_withSign (h : mag < signBit f) : signBit f ≤ withSign f neg mag ↔ neg = true := by
  cases neg with
  | false => simp [withSign, h]
  | true => simp [withSign]

theorem decodeF_finite (hf : Fmt.isFloat f = true) (h : mag ≤ Fmt.maxFinite f) :
    decodeF f (withSign f neg mag) = .fin neg (magSig f mag) (magExp f mag) := by
  have hlt : mag < signBit f := lt_of_le_of_lt h (Nat.lt_of_succ_lt (maxFinite_succ_lt_signBit hf))
  simp only [decodeF, withSign_div_signBit hlt, withSign_mod_signBit hlt, if_neg (Nat.not_lt.2 h), magSig, magExp, minQ]
  split <;> rfl

theorem decodeF_inf (hf : Fmt.isFloat f = true) (hinf : f ≠ .e4m3) :
    decodeF f (withSign f neg (Fmt.maxFinite f + 1)) = .inf neg := by
  have hlt := maxFinite_succ_lt_signBit hf
  simp [decodeF, withSign_div_signBit hlt, withSign_mod_signBit hlt, Fmt.hasInf, hinf]

theorem rat_decodeF_finite (hf : Fmt.isFloat f = true) (h : mag ≤ Fmt.maxFinite f) :
    FVal.rat (decodeF f (withSign f neg mag)) = (if neg then -1 else 1) * magVal f mag := by
  rw [decodeF_finite hf h, FVal.rat, magVal, mul_assoc]

theorem top_eq_magVal (hf : Fmt.isFloat f = true) : Fmt.top f = magVal f (Fmt.maxFinite f) := by
  simpa [withSign, Fmt.top] using rat_decodeF_finite (neg := false) hf le_rfl

end

/-! ### The one rounding -/

section
variable {f : Fmt} {mode : Round} {m : ℕ} {e : ℤ}

/-- The binary logarithm of a significand places its value between two powers of two. -/
theorem zpow_log2_le (hm : 0 < m) (e : ℤ) : (2 : ℝ) ^ ((m.log2 : ℤ) + e) ≤ m * 2 ^ e := by
  rw [zpow_add₀ two_ne_zero, zpow_natCast]
  exact mul_le_mul_of_nonneg_right (by exact_mod_cast Nat.log2_self_le hm.ne') (by positivity)

theorem lt_zpow_log2_succ (m : ℕ) (e : ℤ) : (m : ℝ) * 2 ^ e < 2 ^ ((m.log2 : ℤ) + e + 1) := by
  rw [add_right_comm, zpow_add₀ two_ne_zero]
  exact mul_lt_mul_of_pos_right (by exact_mod_cast Nat.lt_log2_self) (by positivity)

theorem log_rat (neg : Bool) (hm : 0 < m) : Int.log 2 |((FVal.rat (.fin neg m e) : ℚ) : ℝ)| = m.log2 + e := by
  have habs : |((FVal.rat (.fin neg m e) : ℚ) : ℝ)| = m * 2 ^ e := by
    rw [FVal.rat_fin_cast]; cases neg <;> simp [abs_mul, abs_zpow]
  have hpos : 0 < (m : ℝ) * 2 ^ e := by positivity
  rw [habs]
  refine le_antisymm (Int.lt_add_one_iff.1 ?_) ?_
  · exact (Int.lt_zpow_iff_log_lt Nat.one_lt_two hpos).1 (by exact_mod_cast lt_zpow_log2_succ m e)
  · exact (Int.zpow_le_iff_le_log Nat.one_lt_two hpos).1 (by exact_mod_cast zpow_log2_le hm e)

/-- The exponent of the last place of a value in a format (R47). -/
def lastPlace (f : Fmt) (m : ℕ) (e : ℤ) : ℤ := max (minQ f) (m.log2 + e - Fmt.frac f)

/-- The pattern, without its sign, of a value rounded as if the exponent range had no upper bound. -/
def roundedMag (f : Fmt) (mode : Round) (neg : Bool) (m : ℕ) (e : ℤ) : ℕ :=
  (lastPlace f m e - minQ f).toNat * 2 ^ Fmt.frac f + roundAt mode neg m e (lastPlace f m e)

theorem roundF_of_pos (hm : 0 < m) (sat neg : Bool) :
    roundF f mode sat neg m e =
      if roundedMag f mode neg m e > Fmt.maxFinite f then overflowed f mode sat neg
      else ⟨withSign f neg (roundedMag f mode neg m e), none⟩ := by
  rw [roundF, if_neg hm.ne']; rfl

/-- A value rounded at its last place has at most one unit more than the fractions of its exponent, and at least the first of
them where the exponent is not the least. -/
theorem roundAt_lastPlace_bounds (hm : 0 < m) (neg : Bool) :
    roundAt mode neg m e (lastPlace f m e) ≤ 2 ^ (Fmt.frac f + 1) ∧
      (lastPlace f m e = minQ f ∨ 2 ^ Fmt.frac f ≤ roundAt mode neg m e (lastPlace f m e)) := by
  obtain ⟨md, hmd⟩ : ∃ md, roundAt mode neg m e (lastPlace f m e) = roundAt md false m e (lastPlace f m e) := by
    cases neg
    · exact ⟨mode, rfl⟩
    · exact ⟨_, roundAt_true ..⟩
  have hround := roundAt_isRounding_pos md m e (lastPlace f m e)
  have hnonneg : (0 : ℝ) ≤ m * 2 ^ (e - lastPlace f m e) := by positivity
  rw [hmd]
  constructor
  · have hle : (m : ℝ) * 2 ^ (e - lastPlace f m e) ≤ ((2 ^ (Fmt.frac f + 1) : ℕ) : ℤ) := by
      have hexp : (m.log2 : ℤ) + (e - lastPlace f m e) + 1 ≤ (Fmt.frac f + 1 : ℕ) := by unfold lastPlace; omega
      calc (m : ℝ) * 2 ^ (e - lastPlace f m e) ≤ 2 ^ ((m.log2 : ℤ) + (e - lastPlace f m e) + 1) :=
            (lt_zpow_log2_succ m _).le
        _ ≤ 2 ^ ((Fmt.frac f + 1 : ℕ) : ℤ) := zpow_le_zpow_right₀ one_le_two hexp
        _ = _ := by norm_cast
    exact_mod_cast hround.le_of_le hnonneg hle
  · refine or_iff_not_imp_left.2 fun hne => ?_
    have hge : ((2 ^ Fmt.frac f : ℕ) : ℤ) ≤ (m : ℝ) * 2 ^ (e - lastPlace f m e) := by
      have hexp : (Fmt.frac f : ℤ) = m.log2 + (e - lastPlace f m e) := by unfold lastPlace at hne ⊢; omega
      calc (((2 ^ Fmt.frac f : ℕ) : ℤ) : ℝ) = 2 ^ (Fmt.frac f : ℤ) := by norm_cast
        _ ≤ m * 2 ^ (e - lastPlace f m e) := hexp ▸ zpow_log2_le hm _
    exact_mod_cast hround.ge_of_ge hnonneg hge

/-- The rounded pattern stands for the rounded value. -/
theorem magVal_roundedMag (hm : 0 < m) (neg : Bool) :
    magVal f (roundedMag f mode neg m e) = roundAt mode neg m e (lastPlace f m e) * 2 ^ lastPlace f m e := by
  obtain ⟨hle, hge⟩ := roundAt_lastPlace_bounds (f := f) (mode := mode) (e := e) hm neg
  have hq : minQ f + (lastPlace f m e - minQ f).toNat = lastPlace f m e := by unfold lastPlace; omega
  rw [roundedMag, magVal_units f hle (hge.imp_left fun h => by rw [h, sub_self, Int.toNat_zero]), hq]

/-- What an overflow delivers where the table sends it to infinity (`toInf`) and where it does not. -/
theorem overflow_delivers (hf : Fmt.isFloat f = true) (sat neg toInf : Bool) :
    let r : LaneRes :=
      if sat || !toInf then ⟨withSign f neg (Fmt.maxFinite f), none⟩
      else if Fmt.hasInf f then ⟨withSign f neg (Fmt.maxFinite f + 1), some .overflow⟩
      else ⟨Fmt.nan f, some .overflow⟩
    if sat || !toInf then r = ⟨withSign f neg (Fmt.maxFinite f), none⟩
    else if f = .e4m3 then r = ⟨Fmt.nan f, some .overflow⟩
    else r.cause = some .overflow ∧ decodeF f r.bits = .inf neg := by
  by_cases hsat : (sat || !toInf) = true
  · simp only [hsat, if_true]
  by_cases h4 : f = .e4m3
  · simp [hsat, h4, Fmt.hasInf]
  · simp [hsat, h4, Fmt.hasInf, decodeF_inf hf h4]

theorem overflowed_row (hf : Fmt.isFloat f = true) (mode : Round) (sat neg : Bool) :
    OverflowRow f mode sat neg (overflowed f mode sat neg) := by
  cases mode <;> exact overflow_delivers hf sat neg _

theorem rat_neg_iff (hm : 0 < m) (neg : Bool) : ((FVal.rat (.fin neg m e) : ℚ) : ℝ) < 0 ↔ neg = true := by
  have hpos : 0 < (m : ℝ) * 2 ^ e := by positivity
  rw [FVal.rat_fin_cast]
  cases neg with
  | false => simpa using hpos.le
  | true => simpa using hpos

theorem roundF_rounded (hf : Fmt.isFloat f = true) (hm : 0 < m) (mode : Round) (sat neg : Bool) :
    Rounded f mode sat (((FVal.rat (.fin neg m e) : ℚ) : ℝ)) (roundF f mode sat neg m e) := by
  have hq : max (1 - (Fmt.bias f : ℤ) - Fmt.frac f)
      (Int.log 2 |((FVal.rat (.fin neg m e) : ℚ) : ℝ)| - Fmt.frac f) = lastPlace f m e := by rw [log_rat neg hm]; rfl
  unfold Rounded
  dsimp only
  rw [hq]
  have hval : (((withNeg neg (roundAt mode neg m e (lastPlace f m e)) : ℤ) : ℝ)) * 2 ^ lastPlace f m e =
      (if neg then -1 else 1) * (magVal f (roundedMag f mode neg m e) : ℝ) := by
    rw [magVal_roundedMag hm]; cases neg <;> simp
  have habs : |(((withNeg neg (roundAt mode neg m e (lastPlace f m e)) : ℤ) : ℝ)) * 2 ^ lastPlace f m e| =
      (magVal f (roundedMag f mode neg m e) : ℝ) := by
    have : (0 : ℝ) ≤ magVal f (roundedMag f mode neg m e) := by exact_mod_cast magVal_nonneg f _
    rw [hval]; cases neg <;> simpa using this
  refine ⟨_, roundAt_isRounding mode neg m e (lastPlace f m e), ?_, ?_⟩
  · intro h
    rw [habs, top_eq_magVal hf, Rat.cast_le, (magVal_strictMono f).le_iff_le] at h
    have hlt : roundedMag f mode neg m e < signBit f := lt_of_le_of_lt h (Nat.lt_of_succ_lt (maxFinite_succ_lt_signBit hf))
    rw [roundF_of_pos hm, if_neg (Nat.not_lt.2 h), hval]
    refine ⟨rfl, withSign_lt hlt, by simp [decodeF_finite hf h, FVal.finite], ?_, ?_⟩
    · rw [rat_decodeF_finite hf h]; cases neg <;> simp
    · rw [rat_neg_iff hm]; exact signBit_le_withSign hlt
  · intro h
    rw [habs, top_eq_magVal hf, Rat.cast_lt, (magVal_strictMono f).lt_iff_lt] at h
    have hneg : decide (((FVal.rat (.fin neg m e) : ℚ) : ℝ) < 0) = neg := by simp [rat_neg_iff hm]
    rw [roundF_of_pos hm, if_pos h, hneg]
    exact overflowed_row hf mode sat neg

end

/-- Settles O6: the value is rounded by `roundF_rounded`. -/
theorem roundingIsExact : Obligations.RoundingIsExact :=
  fun _ mode sat neg _ _ hf hm => roundF_rounded hf hm mode sat neg

end Sys2Proof.Machine
end

section
/-! Sums, products and the order of finite values are those of the numbers they stand for (O7). -/

namespace Sys2Proof.Machine

/-! ### Values at one exponent -/

/-- A finite value whose exponent is at least `q`. -/
def FVal.FinFrom (q : ℤ) (v : FVal) : Prop := ∃ neg m e, v = .fin neg m e ∧ q ≤ e

theorem FVal.exists_fin {v : FVal} (h : FVal.finite v = true) : ∃ neg m e, v = .fin neg m e := by
  cases v with
  | fin neg m e => exact ⟨neg, m, e, rfl⟩
  | nan => cases h
  | inf _ => cases h

/-- The least exponent is at most its bound and every exponent of the list. -/
theorem minExp_le (xs : List FVal) (q : ℤ) :
    minExp xs q ≤ q ∧ ∀ neg m e, FVal.fin neg m e ∈ xs → minExp xs q ≤ e := by
  induction xs generalizing q with
  | nil => exact ⟨le_rfl, fun _ _ _ h => absurd h List.not_mem_nil⟩
  | cons v xs ih =>
    cases v with
    | fin neg m e =>
      obtain ⟨hq, hxs⟩ := ih (min e q)
      refine ⟨hq.trans (min_le_right e q), fun neg' m' e' h => ?_⟩
      rcases List.mem_cons.1 h with heq | hmem
      · cases heq; exact hq.trans (min_le_left e q)
      · exact hxs neg' m' e' hmem
    | nan => exact ⟨(ih q).1, fun neg m e h => (ih q).2 neg m e (by simpa using h)⟩
    | inf _ => exact ⟨(ih q).1, fun neg m e h => (ih q).2 neg m e (by simpa using h)⟩

theorem finFrom_minExp {xs : List FVal} (q : ℤ) (h : xs.all FVal.finite = true) :
    ∀ v ∈ xs, FVal.FinFrom (minExp xs q) v := by
  intro v hv
  obtain ⟨neg, m, e, rfl⟩ := FVal.exists_fin (List.all_eq_true.1 h v hv)
  exact ⟨neg, m, e, rfl, (minExp_le xs q).2 neg m e hv⟩

/-- Scaling to an exponent that is not above its own loses nothing of a value. -/
theorem scaled_mul_zpow {q : ℤ} {v : FVal} (h : FVal.FinFrom q v) : (FVal.scaled q v : ℚ) * 2 ^ q = FVal.rat v := by
  obtain ⟨neg, m, e, rfl, hq⟩ := h
  have hpow : (2 : ℚ) ^ (e - q).toNat * 2 ^ q = 2 ^ e := by
    rw [← zpow_natCast, Int.toNat_of_nonneg (by omega), ← zpow_add₀ two_ne_zero, sub_add_cancel]
  cases neg <;> simp [FVal.scaled, FVal.rat, mul_assoc, hpow]

/-! ### Sums -/

theorem sumInt_scaled_mul_zpow {q : ℤ} {xs : List FVal} (h : ∀ v ∈ xs, FVal.FinFrom q v) :
    (sumInt (xs.map (FVal.scaled q)) : ℚ) * 2 ^ q = (xs.map FVal.rat).sum := by
  induction xs with
  | nil => simp [sumInt]
  | cons v xs ih =>
    obtain ⟨hv, hxs⟩ := List.forall_mem_cons.1 h
    simp [sumInt, add_mul, scaled_mul_zpow hv, ih hxs]

theorem not_mem_of_finite {xs : List FVal} (h : xs.all FVal.finite = true) {v : FVal} (hv : FVal.finite v = false) :
    v ∉ xs := fun hmem => by rw [List.all_eq_true.1 h v hmem] at hv; cases hv

/-- The sum of finite addends is finite: a zero of some sign, or the exact sum at the least exponent (R45, R62). -/
theorem sumF_of_finite (mode : Round) {xs : List FVal} (h : xs.all FVal.finite = true) :
    let s := sumInt (xs.map (FVal.scaled (minExp xs 0)))
    ∃ neg, sumF mode false xs = if s = 0 then (.fin neg 0 0, false) else (.fin (s < 0) s.natAbs (minExp xs 0), false) := by
  have hnan := not_mem_of_finite h (v := .nan) rfl
  have hpos := not_mem_of_finite h (v := .inf false) rfl
  have hneg := not_mem_of_finite h (v := .inf true) rfl
  by_cases hz : xs.all FVal.posZero = true
  · exact ⟨false, by simp [sumF, hnan, hpos, hneg, hz]⟩
  · exact ⟨xs.all FVal.negZero || mode == .rdn, by simp [sumF, hnan, hpos, hneg, hz]⟩

/-- An integer as sign and magnitude. -/
theorem rat_fin_natAbs (s q : ℤ) : FVal.rat (.fin (s < 0) s.natAbs q) = s * 2 ^ q := by
  rcases lt_or_ge s 0 with h | h
  · have : |(s : ℚ)| = -s := abs_of_nonpos (by exact_mod_cast h.le)
    simp [FVal.rat, h, this]
  · have : |(s : ℚ)| = s := abs_of_nonneg (by exact_mod_cast h)
    simp [FVal.rat, h, this]

theorem sumF_exact (mode : Round) {xs : List FVal} (h : xs.all FVal.finite = true) :
    FVal.finite (sumF mode false xs).1 = true ∧ (sumF mode false xs).2 = false ∧
      FVal.rat (sumF mode false xs).1 = (xs.map FVal.rat).sum := by
  obtain ⟨neg, hsum⟩ := sumF_of_finite mode h
  rw [hsum, ← sumInt_scaled_mul_zpow (finFrom_minExp 0 h)]
  split
  · next hz => simp [FVal.finite, FVal.rat, hz]
  · exact ⟨rfl, rfl, rat_fin_natAbs _ _⟩

/-! ### Products and order -/

theorem mul_exact {a b : FVal} (ha : FVal.finite a = true) (hb : FVal.finite b = true) :
    FVal.finite (FVal.mul a b).1 = true ∧ (FVal.mul a b).2 = false ∧
      FVal.rat (FVal.mul a b).1 = FVal.rat a * FVal.rat b := by
  obtain ⟨x, m, e, rfl⟩ := FVal.exists_fin ha
  obtain ⟨y, n, k, rfl⟩ := FVal.exists_fin hb
  have hsign : (if (x != y) = true then -1 else 1 : ℚ) = (if x then -1 else 1) * (if y then -1 else 1) := by
    cases x <;> cases y <;> simp
  refine ⟨rfl, rfl, ?_⟩
  simp only [FVal.mul, FVal.rat, hsign, zpow_add₀ (two_ne_zero (α := ℚ)), Nat.cast_mul]
  ring

theorem cmpF_exact {a b : FVal} (ha : FVal.finite a = true) (hb : FVal.finite b = true) :
    cmpF a b = compare (FVal.rat a) (FVal.rat b) := by
  have hfrom := finFrom_minExp (xs := [a, b]) 0 (by simp [ha, hb])
  have hpow : (0 : ℚ) < 2 ^ minExp [a, b] 0 := by positivity
  have hcmp : cmpF a b = compare (FVal.scaled (minExp [a, b] 0) a) (FVal.scaled (minExp [a, b] 0) b) := by
    obtain ⟨_, _, _, rfl⟩ := FVal.exists_fin ha
    obtain ⟨_, _, _, rfl⟩ := FVal.exists_fin hb
    rfl
  rw [hcmp, ← scaled_mul_zpow (hfrom a (by simp)), ← scaled_mul_zpow (hfrom b (by simp))]
  generalize FVal.scaled (minExp [a, b] 0) a = x, FVal.scaled (minExp [a, b] 0) b = y
  rcases lt_trichotomy x y with h | rfl | h
  · rw [compare_lt_iff_lt.2 h, eq_comm, compare_lt_iff_lt]
    exact mul_lt_mul_of_pos_right (by exact_mod_cast h) hpow
  · rw [compare_eq_iff_eq.2 rfl, compare_eq_iff_eq.2 rfl]
  · rw [compare_gt_iff_gt.2 h, eq_comm, compare_gt_iff_gt]
    exact mul_lt_mul_of_pos_right (by exact_mod_cast h) hpow

/-- Settles O7, by the exponents that all addends share (`sumF_exact`, `cmpF_exact`) and the product's own (`mul_exact`). -/
theorem sumsAndProductsAreExact : Obligations.SumsAndProductsAreExact :=
  ⟨fun mode _ h => sumF_exact mode h, fun _ _ => mul_exact, fun _ _ => cmpF_exact⟩

end Sys2Proof.Machine
end

section
/-! Conversion of one value follows the tables of R49 to R52 (O14). -/

namespace Sys2Proof.Machine

/-! ### Signed integers of a width -/

section
variable {w : ℕ} {x : ℤ}

theorem two_pow_eq_two_mul (hw : 0 < w) : 2 ^ w = 2 * 2 ^ (w - 1) := by
  rw [← pow_succ', Nat.sub_add_cancel hw]

theorem clampInt_eq {lo hi : ℤ} (h : lo ≤ hi) (x : ℤ) : clampInt lo hi x = max lo (min x hi) := by
  unfold clampInt
  split
  · omega
  · split <;> omega

theorem loS_le_hiS (w : ℕ) : loS w ≤ hiS w := by
  have := Nat.two_pow_pos (w - 1)
  unfold loS hiS; omega

theorem signed_mem_range (hw : 0 < w) (n : ℕ) : loS w ≤ signed w n ∧ signed w n ≤ hiS w := by
  have hlt := Nat.mod_lt n (Nat.two_pow_pos w)
  have htwo := two_pow_eq_two_mul hw
  unfold signed loS hiS
  split <;> omega

/-- A wrapped integer of the signed range reads as itself. -/
theorem signed_wrapNat (hw : 0 < w) (hlo : loS w ≤ x) (hhi : x ≤ hiS w) : signed w (wrapNat w x) = x := by
  have htwo := two_pow_eq_two_mul hw
  unfold loS at hlo
  unfold hiS at hhi
  rcases lt_or_ge x 0 with hneg | hpos
  · have hwrap : wrapNat w x = (x + (2 ^ w : ℕ)).toNat := by
      rw [wrapNat, ← Int.add_emod_right, Int.emod_eq_of_lt (by omega) (by omega)]
    rw [signed, hwrap, Nat.mod_eq_of_lt (by omega), if_neg (by omega)]
    omega
  · have hwrap : wrapNat w x = x.toNat := by rw [wrapNat, Int.emod_eq_of_lt hpos (by omega)]
    rw [signed, hwrap, Nat.mod_eq_of_lt (by omega), if_pos (by omega)]
    omega

/-- The low bits of a signed integer are those of its pattern. -/
theorem wrapNat_signed {n : ℕ} (h : n ≤ w) (v : ℕ) : wrapNat n (signed w v) = v % 2 ^ n := by
  have hdvd : ((2 ^ n : ℕ) : ℤ) ∣ (2 ^ w : ℕ) := by exact_mod_cast Nat.pow_dvd_pow 2 h
  have hmod : signed w v % (2 ^ n : ℕ) = ((v % 2 ^ w : ℕ) : ℤ) % (2 ^ n : ℕ) := by
    unfold signed
    split
    · rfl
    · rw [Int.sub_emod, Int.emod_eq_zero_of_dvd hdvd, sub_zero, Int.emod_emod]
  rw [wrapNat, hmod, ← Int.natCast_emod, Int.toNat_natCast, Nat.mod_mod_of_dvd _ (Nat.pow_dvd_pow 2 h)]

end

theorem fmt_width_pos (f : Fmt) : 0 < Fmt.width f := by cases f <;> decide

/-! ### To floating point -/

section
variable {h : Fmt} {mode : Round} {sat : Bool}

theorem deliverF_rounded (hh : Fmt.isFloat h = true) {v : FVal} (hv : FVal.finite v = true) (hne : FVal.rat v ≠ 0) :
    Rounded h mode sat ((FVal.rat v : ℚ) : ℝ) (deliverF h mode sat v) := by
  obtain ⟨neg, m, e, rfl⟩ := FVal.exists_fin hv
  have hm : 0 < m := Nat.pos_of_ne_zero fun h0 => hne (by simp [FVal.rat, h0])
  exact roundF_rounded hh hm mode sat neg

theorem deliverF_zero (neg : Bool) (e : ℤ) : deliverF h mode sat (.fin neg 0 e) = ⟨withSign h neg 0, none⟩ := rfl

theorem deliverF_inf (neg : Bool) : deliverF h mode sat (.inf neg) =
    if h = .e4m3 then ⟨Fmt.nan h, some .invalid⟩ else ⟨withSign h neg (Fmt.maxFinite h + 1), none⟩ := by
  by_cases h4 : h = .e4m3 <;> simp [deliverF, infF, Fmt.hasInf, h4]

theorem rat_ofInt (x : ℤ) : FVal.rat (.ofInt x) = x := by simpa [FVal.ofInt] using rat_fin_natAbs x 0

end

/-! ### From floating point to integers -/

section
variable {w : ℕ} {mode : Round} {sat : Bool}

theorem floatToInt_inf (hw : 0 < w) (neg : Bool) :
    (floatToInt w (loS w) (hiS w) mode sat (.inf neg)).cause = some .conversion ∧
      signed w (floatToInt w (loS w) (hiS w) mode sat (.inf neg)).bits = if neg then loS w else hiS w := by
  refine ⟨rfl, ?_⟩
  cases neg with
  | false => exact signed_wrapNat hw (loS_le_hiS w) le_rfl
  | true => exact signed_wrapNat hw le_rfl (loS_le_hiS w)

/-- What an integer `k` out of a float is delivered as: clamped to the range, and exceptional where it was outside it and `sat` is
0 (R51). -/
theorem floatToInt_fin (hw : 0 < w) (neg : Bool) (m : ℕ) (e : ℤ) :
    let r := floatToInt w (loS w) (hiS w) mode sat (.fin neg m e)
    let k := roundInt mode neg m e
    signed w r.bits = max (loS w) (min k (hiS w)) ∧
      r.cause = if sat = true ∨ (loS w ≤ k ∧ k ≤ hiS w) then none else some .conversion := by
  have hrange := loS_le_hiS w
  by_cases hin : loS w ≤ roundInt mode neg m e ∧ roundInt mode neg m e ≤ hiS w
  · obtain ⟨hlo, hhi⟩ := hin
    simp [floatToInt, hlo, hhi, signed_wrapNat hw]
  · have hout : (decide (loS w ≤ roundInt mode neg m e) && decide (roundInt mode neg m e ≤ hiS w)) = false := by
      rw [← Bool.decide_and, decide_eq_false hin]
    simp only [floatToInt, hout, Bool.false_eq_true, if_false, clampInt_eq hrange, hin, or_false]
    exact ⟨signed_wrapNat hw (by omega) (by omega), trivial⟩

theorem roundInt_isRounding (mode : Round) (neg : Bool) (m : ℕ) (e : ℤ) :
    IsRounding mode ((FVal.rat (.fin neg m e) : ℚ) : ℝ) (roundInt mode neg m e) := by
  have h := roundAt_isRounding mode neg m e 0
  rwa [zpow_zero, div_one] at h

end

/-! ### The conversions by kind -/

section
variable {g h : Fmt} {mode : Round} {sat : Bool} {x : ℕ}

/-- Between equal formats every pattern is kept, that of a NaN too (R49, log entry 97). -/
theorem convert_self (g : Fmt) (mode : Round) (sat : Bool) (x : ℕ) : convert g g mode sat x = ⟨x, none⟩ := if_pos rfl

theorem convert_float_float (hg : Fmt.isFloat g = true) (hh : Fmt.isFloat h = true) (hne : g ≠ h) :
    convert g h mode sat x = deliverF h mode sat (decodeF g x) := by
  simp [convert, hg, hh, hne]

theorem convert_float_int (hg : Fmt.isFloat g = true) (hh : Fmt.isFloat h = false) :
    convert g h mode sat x =
      floatToInt (Fmt.width h) (loS (Fmt.width h)) (hiS (Fmt.width h)) mode sat (decodeF g x) := by
  have hne : g ≠ h := fun he => by rw [he, hh] at hg; cases hg
  simp [convert, hg, hh, hne]

theorem convert_int_float (hg : Fmt.isFloat g = false) (hh : Fmt.isFloat h = true) :
    convert g h mode sat x = deliverF h mode sat (.ofInt (signed (Fmt.width g) x)) := by
  have hne : g ≠ h := fun he => by rw [he, hh] at hg; cases hg
  simp [convert, hg, hh, hne]

theorem convert_int_int (hg : Fmt.isFloat g = false) (hh : Fmt.isFloat h = false) (hne : g ≠ h) :
    convert g h mode sat x = ⟨wrapNat (Fmt.width h) (if sat then
      max (loS (Fmt.width h)) (min (signed (Fmt.width g) x) (hiS (Fmt.width h))) else signed (Fmt.width g) x), none⟩ := by
  cases sat <;> simp [convert, hg, hh, hne, clampInt_eq (loS_le_hiS _)]

theorem isNaN_iff : isNaN g x = true ↔ decodeF g x = .nan := beq_iff_eq

/-- I8 to I64 keeps the value, in either saturation (R52). -/
theorem convert_i8_i64 (mode : Round) (sat : Bool) (x : ℕ) :
    signed 64 (convert .i8 .i64 mode sat x).bits = signed 8 x ∧ (convert .i8 .i64 mode sat x).cause = none := by
  have hrange : loS 64 ≤ signed 8 x ∧ signed 8 x ≤ hiS 64 := by
    obtain ⟨hlo, hhi⟩ := signed_mem_range (w := 8) (by decide) x
    exact ⟨le_trans (by decide) hlo, le_trans hhi (by decide)⟩
  have hkept : (if sat then max (loS 64) (min (signed 8 x) (hiS 64)) else signed 8 x) = signed 8 x := by
    split <;> omega
  rw [convert_int_int rfl rfl (by decide)]
  simp only [Fmt.width, hkept]
  exact ⟨signed_wrapNat (by decide) hrange.1 hrange.2, trivial⟩

/-- I64 to I8 keeps the low byte, or clamps where `sat` is 1 (R52). -/
theorem convert_i64_i8 (mode : Round) (sat : Bool) (x : ℕ) :
    (convert .i64 .i8 mode sat x).cause = none ∧ (convert .i64 .i8 mode false x).bits = x % 2 ^ 8 ∧
      signed 8 (convert .i64 .i8 mode true x).bits = max (-128) (min (signed 64 x) 127) := by
  simp only [convert_int_int (g := .i64) (h := .i8) rfl rfl (by decide), Fmt.width]
  exact ⟨trivial, wrapNat_signed (by decide) x,
    signed_wrapNat (by decide) (le_max_left _ _) (max_le (by decide) (min_le_right _ _))⟩

end

/-- Settles O14: each kind of the table is `deliverF` or `floatToInt` of the source's value, or a wrapped integer
(`convert_float_float`, …), and those round and clamp as R50 to R52 say. -/
theorem conversionsFollowTheTable : Obligations.ConversionsFollowTheTable := by
  unfold Obligations.ConversionsFollowTheTable
  refine ⟨convert_self, fun g h mode sat x hg hh hne _ => ?floats, fun g h mode sat x hg hh hx => ?ints,
    fun g h mode sat x hg hh => ?toInts, fun mode sat x => ?integers⟩
  case floats =>
    rw [convert_float_float hg hh hne]
    refine ⟨deliverF_rounded hh, fun neg e he => ?_, fun hnan => ?_, fun neg he => ?_⟩
    · rw [he]; exact deliverF_zero neg e
    · rw [isNaN_iff.1 hnan]; rfl
    · rw [he]; exact deliverF_inf neg
  case ints =>
    have hrounded := deliverF_rounded (mode := mode) (sat := sat) hh (v := .ofInt (signed (Fmt.width g) x)) rfl
      (by rw [rat_ofInt]; exact_mod_cast hx)
    rw [rat_ofInt, Rat.cast_intCast] at hrounded
    rwa [convert_int_float hg hh]
  case toInts =>
    rw [convert_float_int hg hh]
    refine ⟨fun hnan => ?_, fun neg he => ?_, fun hfin => ?_⟩
    · rw [isNaN_iff.1 hnan]; rfl
    · rw [he]; exact floatToInt_inf (fmt_width_pos h) neg
    · obtain ⟨neg, m, e, he⟩ := FVal.exists_fin hfin
      rw [he]
      exact ⟨roundInt mode neg m e, roundInt_isRounding mode neg m e, floatToInt_fin (fmt_width_pos h) neg m e⟩
  case integers =>
    obtain ⟨hvalue, hcause⟩ := convert_i8_i64 mode sat x
    exact ⟨hvalue, hcause, convert_i64_i8 mode sat x⟩

end Sys2Proof.Machine
end

section
/-! A caboose release wakes the operators for whose accesses the caboose had no room (R401), and their accesses enter the same
caboose in the same step: it is then not what was there without the released effect, as the statement on releases says (O46). -/

namespace Sys2Proof.Machine

/-- A token for PE (0, 1, 1) that has left region 0. -/
def leavingFlight : Flight := ⟨0, 0, .data, Site.key ⟨0, 1, 1⟩, 0, .token Token.zero, 1, false, false⟩

/-- Its `i`th sending, an effect that entered at cycle 0. -/
def leavingEffect (i : ℕ) : Effect :=
  ⟨0, 0, Site.key ⟨0, 1, 1⟩, 0, 0, 0, ⟨Site.key ⟨0, 1, 1⟩, 0, 0, 0, 0, 0, i⟩, .send leavingFlight⟩

/-- A LOAD of region 0 that runs a pass of one element of 8 bytes and has not requested it. -/
def waitingLoad : Oper := { Oper.idle with region := 1, state := 2, sent := 1, counts := [1], pm := [(1, 3), (2, 8)] }

/-- Region 0 of 8 by 8 PEs with 63 of the 64 places of its caboose taken, the hold-back delay past, and the LOAD, whose element may
need two places, waiting for room. -/
def crowdedCaboose : State :=
  { State.reset with
    clocks := [(0, 48)]
    regions := [(0, { placedRegion with caboose := (List.range 63).map leavingEffect })]
    opers := [(Site.key ⟨0, 0, 5⟩, waitingLoad)] }

/-- The first effect may be released, and is new. -/
theorem leavingEffect_releasable :
    let s := retireTags crowdedCaboose 0
    (s.region 0).caboose[0]? = some (leavingEffect 0) ∧ releasable s 0 0 (leavingEffect 0) = true ∧
      (s.region 0).keyOut (leavingEffect 0).key = false := by decide +kernel

/-- With that release the caboose has room for the LOAD's element, whose access takes a place at its end. -/
theorem exec_cabooseRelease_crowded {t : State} (h : exec (.cabooseRelease 0 0) crowdedCaboose = .next t) :
    (t.region 0).caboose.length = 63 ∧ (t.region 0).caboose.getLast?.map Effect.act = some (.access 0) := by
  have hstep : exec (.cabooseRelease 0 0) crowdedCaboose =
    .next (((releaseEffect crowdedCaboose 0 0).map (wakeFull crowdedCaboose 0)).getD crowdedCaboose) := by
    change execCabooseRelease 0 0 crowdedCaboose = _
    unfold execCabooseRelease
    cases releaseEffect crowdedCaboose 0 0 <;> rfl
  rw [hstep] at h
  cases h
  decide +kernel

/-- Refutes O46: in `crowdedCaboose` the release of the first effect lets the LOAD request its element, whose access enters the
caboose at once (`exec_cabooseRelease_crowded`); 63 effects stand in it afterwards, not the 62 of the statement. -/
theorem not_resultsAndReleases : ¬ Obligations.ResultsAndReleases := by
  unfold Obligations.ResultsAndReleases
  rintro ⟨-, hreleases, -⟩
  obtain ⟨hfirst, hmay, hnew⟩ := leavingEffect_releasable
  obtain ⟨t, hexec, -, hcaboose, -⟩ := (hreleases crowdedCaboose 0 0 (leavingEffect 0) leavingFlight hfirst hmay rfl).1 hnew
  obtain ⟨hlength, -⟩ := exec_cabooseRelease_crowded hexec
  have herased : ((retireTags crowdedCaboose 0).region 0).caboose.length = 63 := by decide +kernel
  obtain ⟨hlt, -⟩ := List.getElem?_eq_some_iff.mp hfirst
  rw [hcaboose, List.length_eraseIdx_of_lt hlt, herased] at hlength
  exact absurd hlength (by decide)

end Sys2Proof.Machine
end

section
/-! Decoding gives back every encoded instruction (O36): each field of R71 stands in its own bits of the word, and the row of
its opcode makes the instruction again. -/

namespace Sys2Proof

open Sys2Proof.Machine

/-! ### The small codes -/

@[simp] theorem encodeBool_beq_one (b : Bool) : (encodeBool b == 1#1) = b := by cases b <;> rfl

@[simp] theorem Fmt.ofCode_code (g : Fmt) : Fmt.ofCode g.code = g := by cases g <;> rfl

@[simp] theorem Round.ofCode_code (m : Round) : Round.ofCode m.code = m := by cases m <;> rfl

@[simp] theorem Port.ofCode_code (q : Port) : Port.ofCode q.code = q := by cases q <;> rfl

/-! ### The fields of an encoded word -/

@[simp] theorem decodeTarget_encodeTarget (t : Target) : decodeTarget (encodeTarget t) = t := by
  unfold decodeTarget encodeTarget
  simp (disch := omega) only [BitVec.extractLsb'_append_eq_of_le, BitVec.extractLsb'_append_eq_of_add_le,
    BitVec.extractLsb'_eq_self, Nat.reduceSub, encodeBool_beq_one, Port.ofCode_code]

@[simp] theorem decodeOpcode_encodeWord (op : Nat) (f : Fields) : decodeOpcode (encodeWord op f) = op % 1024 := by
  unfold decodeOpcode encodeWord
  simp (disch := omega) only [BitVec.extractLsb'_append_eq_of_le, Nat.reduceSub, BitVec.extractLsb'_eq_self,
    BitVec.toNat_ofNat, Nat.reducePow]

@[simp] theorem decodeFields_encodeWord (op : Nat) (f : Fields) : decodeFields (encodeWord op f) = f := by
  unfold decodeFields encodeWord
  simp (disch := omega) only [BitVec.extractLsb'_append_eq_of_le, BitVec.extractLsb'_append_eq_of_add_le,
    BitVec.extractLsb'_eq_self, Nat.reduceSub, encodeBool_beq_one, Fmt.ofCode_code, Round.ofCode_code,
    decodeTarget_encodeTarget]

/-! ### The row of an opcode -/

/-- The conversion station apart, which shares the row of `cvt`, the row of an instruction's opcode makes the instruction. -/
theorem opcode_statement (i : Instr) : Laws.Opcode.Statement i := by
  intro op f h
  cases i <;> cases h
  case conversionStationFire => exact .inl ⟨rfl, rfl⟩
  all_goals exact .inr rfl

theorem opInfo_code {op : Nat} {o : OpInfo} (h : opInfo op = some o) : o.code = op := by
  simpa using List.find?_some h

theorem opInfo_mem {op : Nat} {o : OpInfo} (h : opInfo op = some o) : o ∈ opRows := List.mem_of_find?_eq_some h

/-- An assigned opcode is below group 7, so it fits its ten bits. -/
theorem opInfo_lt {op : Nat} {o : OpInfo} (h : opInfo op = some o) : op < 0x380 := by
  have hrows : ∀ r ∈ opRows, r.code < 0x380 := by decide +kernel
  exact opInfo_code h ▸ hrows o (opInfo_mem h)

/-- Of the two instructions with the opcode of `cvt`, SVC tells which it is (R91). -/
theorem svc_of_svcMatches {i : Instr} {f : Fields} (hi : i.svcMatches = true)
    (hrow : (opInfo 0x100).map (fun o => o.make f) = some i) : f.svc = false := by
  have hcvt : Instr.cvt f = i := Option.some.inj hrow
  subst hcvt
  simpa [Instr.svcMatches] using hi

/-- A word whose opcode and fields are those of an instruction decodes to it. -/
theorem decodeWord_encodeWord {i : Instr} {op : Nat} {f : Fields} (hi : i.svcMatches = true)
    (hc : codeOf i = some (op, f)) : decodeWord (encodeWord op f) = .ok i := by
  obtain ⟨rfl, rfl⟩ | hrow := opcode_statement i op f hc
  · have hsvc : f.svc = true := hi
    simp [decodeWord, hsvc]
  · obtain ⟨o, ho, hmake⟩ := Option.map_eq_some_iff.mp hrow
    have hlt := opInfo_lt ho
    have hmod : op % 1024 = op := Nat.mod_eq_of_lt (by omega)
    have hcvt : ¬(op = 0x100 ∧ f.svc = true) := by
      rintro ⟨rfl, hsvc⟩
      simp [svc_of_svcMatches hi hrow] at hsvc
    simp [decodeWord, hmod, hcvt, ho, hmake]

/-! ### The bytes of a word -/

/-- The 16 bytes of a word decode as the word does, with nothing left over (R6). -/
theorem decode_leBytes {w : StationWord} {i : Instr} (h : decodeWord w = .ok i) :
    decode (leBytes 16 w.toNat) = .ok (i, []) := by
  have htake : (leBytes 16 w.toNat).take 16 = leBytes 16 w.toNat := List.take_of_length_le (by simp)
  have hdrop : (leBytes 16 w.toNat).drop 16 = [] := List.drop_of_length_le (by simp)
  have hword : BitVec.ofNat 128 (leNat (leBytes 16 w.toNat)) = w := by
    rw [leNat_leBytes, Nat.mod_eq_of_lt (by simpa using w.isLt), BitVec.ofNat_toNat, BitVec.setWidth_eq]
  simp [decode, htake, hdrop, hword, h]

theorem decodeWord_of_encode {i : Instr} {w : StationWord} (hi : i.svcMatches = true) (he : encode i = some w) :
    decodeWord w = .ok i := by
  obtain ⟨⟨op, f⟩, hc, rfl⟩ := Option.map_eq_some_iff.mp he
  exact decodeWord_encodeWord hi hc

/-- Settles O36: the word of an instruction holds its opcode and fields apart, and the opcode's row makes it again; the bytes of
the word are the word. -/
theorem decodeOfEncode : Obligations.DecodeOfEncode :=
  ⟨fun _ _ hi he => decodeWord_of_encode hi he, fun _ => Option.map_eq_none_iff,
    fun _ _ hi he => decode_leBytes (decodeWord_of_encode hi he)⟩

/-- Settles O35: each word is the encoding of its instruction, so it decodes to it (`decodeWord_of_encode`). -/
theorem wordsOfTheSpec : Obligations.WordsOfTheSpec :=
  ⟨decodeWord_of_encode rfl rfl, decodeWord_of_encode rfl rfl, decodeWord_of_encode rfl rfl, decodeWord_of_encode rfl rfl,
    decodeWord_of_encode rfl rfl⟩

end Sys2Proof
end

section
/-! What a word that the loader accepts keeps (O38): the checks of R98 that the word passes, and the columns of the opcode map
by opcode. -/

namespace Sys2Proof.Machine

/-! ### Rows of the opcode map -/

/-- Groups 0 and 1 are those of integers and of floating point (R75). -/
theorem opRows_groups : ∀ r ∈ opRows,
    (r.code < 0x80 → r.fmts = .ints ∨ r.fmts = .i64) ∧ (0x80 ≤ r.code → r.code < 0x100 → r.fmts = .floats) := by
  decide +kernel

/-- The forms of R76. -/
theorem opRows_passing : ∀ r ∈ opRows, 0x180 ≤ r.code → r.code ≤ 0x18E → r.code ≠ 0x185 → r.code ≠ 0x18C →
    r.fmts = .passes ∧ r.lock = false := by
  decide +kernel

/-- The forms of group 0 that R113, R115 and R116 fix to I64. -/
theorem opRows_i64 : ∀ r ∈ opRows, r.code ∈ [0x1B, 0x1E, 0x20, 0x27, 0x28, 0x29, 0x2A] → r.fmts = .i64 := by
  decide +kernel

/-- The forms with a 32-bit reading (R77). -/
theorem opRows_w32 : ∀ r ∈ opRows, r.w32 = true →
    (r.code < 0x80 ∧ r.code ≠ 0x1E) ∨ (0x191 ≤ r.code ∧ r.code ≤ 0x193) ∨
    (0x20B ≤ r.code ∧ r.code ≤ 0x212 ∧ r.code ≠ 0x20C) := by
  decide +kernel

/-- `wave` alone opens a wave, and the tag forms take no tagop (R80). -/
theorem opRows_tags : ∀ r ∈ opRows,
    (r.tags = .wave ↔ r.code = 0x187) ∧ (0x188 ≤ r.code → r.code ≤ 0x18E → r.tags = .own) := by
  decide +kernel

/-- The forms of R115 have an aux16 of their own (R83). -/
theorem opRows_aux : ∀ r ∈ opRows, r.code ∈ [0x1E, 0x27, 0x28, 0x29, 0x2A] → r.aux = .own := by
  decide +kernel

theorem FmtClass.admits_floats (g : Fmt) : FmtClass.floats.admits g = Fmt.isFloat g := by cases g <;> rfl

/-! ### The checks that an accepted word passes -/

/-- No check of R98 on the word alone rejects the fields `f` with the opcode of row `o`. -/
structure Accepted (o : OpInfo) (f : Fields) : Prop where
  mem : o ∈ opRows
  fields : fieldsReserved o.code o f = false
  arity : arityBad o f = false
  imm : immIllegal o f = false
  range : immRange o.code f = false
  tri : triBad o f = false
  target : targetBad f = false
  port : portBad o.code f = false
  dup : targetDup f = false
  tagop : tagopBad o f = false
  reserve : reserveBad f = false
  format : formatBad o.code o f = false

/-- A check of R98 lets a word through where its rule is not broken and the later checks let it through. -/
theorem rejection_eq_none {c : Bool} {n : Nat} {r : Option Nat} :
    (if c = true then some n else r) = none ↔ c = false ∧ r = none := by
  cases c <;> simp

theorem accepted_of_wordReject {op : Nat} {f : Fields} (h : wordReject op f = none) :
    ∃ o, op = o.code ∧ opInfo op = some o ∧ Accepted o f := by
  unfold wordReject at h
  split at h
  · contradiction
  · rename_i o ho
    obtain rfl := opInfo_code ho
    simp only [rejection_eq_none] at h
    obtain ⟨hfields, harity, himm, hrange, htri, htarget, hport, hdup, htagop, hreserve, hformat, -⟩ := h
    exact ⟨o, rfl, ho, opInfo_mem ho, hfields, harity, himm, hrange, htri, htarget, hport, hdup, htagop, hreserve, hformat⟩

namespace Accepted

variable {o : OpInfo} {f : Fields}

/-! ### Arity and immediate (R72, R73) -/

theorem arity_count (h : Accepted o f) :
    f.arity.toNat = o.ports.count ∨ (f.arity = 0 ∧ (o.ports = .l ∨ o.ports = .lrImm)) := by
  have harity := h.arity
  unfold arityBad at harity
  split at harity
  · rename_i hzero
    simp only [Bool.not_eq_false', Bool.and_eq_true, Bool.or_eq_true, beq_iff_eq] at harity
    exact .inr ⟨hzero, harity.1⟩
  · exact .inl (by simpa using harity)

theorem imm_of_lrImm (h : Accepted o f) (hp : o.ports = .lrImm) : f.imm = true := by
  simpa [immIllegal, hp, PortList.rImm] using h.imm

theorem no_imm (h : Accepted o f) (hp : o.ports = .l ∨ o.ports = .lp) : f.imm = false := by
  rcases hp with hp | hp <;> simpa [immIllegal, hp, PortList.rImm, PortList.hasR] using h.imm

/-! ### Formats (R75 to R77) -/

theorem format_admitted (h : Accepted o f) :
    o.fmts.admits f.fmtOut = true ∧ (f.lock = true → o.lock = true) ∧ (f.w32 = true → f.fmtOut = .i64) ∧
    (o.fmts = .passes → f.round = .rne ∧ f.sat = false) := by
  have hformat := h.format
  simp only [formatBad, OpInfo.passing, Bool.or_eq_false_iff] at hformat
  obtain ⟨⟨⟨⟨hfmt, hlock⟩, hw32⟩, hpass⟩, -⟩ := hformat
  refine ⟨by simpa using hfmt, fun hl => by simpa [hl] using hlock, fun hw => by simpa [hw] using hw32, fun hp => ?_⟩
  simpa [hp] using hpass

theorem format_int (h : Accepted o f) (hc : o.code < 0x80) : f.fmtOut = .i64 ∨ f.fmtOut = .i8 := by
  obtain ⟨hadmits, -⟩ := h.format_admitted
  obtain ⟨hints, -⟩ := opRows_groups o h.mem
  rcases hints hc with hf | hf
  · simpa [hf, FmtClass.admits] using hadmits
  · exact .inl (by simpa [hf, FmtClass.admits] using hadmits)

theorem format_float (h : Accepted o f) (h1 : 0x80 ≤ o.code) (h2 : o.code < 0x100) : Fmt.isFloat f.fmtOut = true := by
  obtain ⟨hadmits, -⟩ := h.format_admitted
  obtain ⟨-, hfloats⟩ := opRows_groups o h.mem
  rwa [hfloats h1 h2, FmtClass.admits_floats] at hadmits

theorem format_passing (h : Accepted o f) (h1 : 0x180 ≤ o.code) (h2 : o.code ≤ 0x18E) (hconst : o.code ≠ 0x185)
    (hsquash : o.code ≠ 0x18C) : f.fmtOut = .f64 ∧ f.round = .rne ∧ f.sat = false ∧ f.lock = false := by
  obtain ⟨hadmits, hlock, -, hpass⟩ := h.format_admitted
  obtain ⟨hf, hl⟩ := opRows_passing o h.mem h1 h2 hconst hsquash
  obtain ⟨hround, hsat⟩ := hpass hf
  exact ⟨by simpa [hf, FmtClass.admits] using hadmits, hround, hsat, by simpa [hl] using hlock⟩

theorem format_i64 (h : Accepted o f) (hc : o.code ∈ [0x1B, 0x1E, 0x20, 0x27, 0x28, 0x29, 0x2A]) : f.fmtOut = .i64 := by
  obtain ⟨hadmits, -⟩ := h.format_admitted
  simpa [opRows_i64 o h.mem hc, FmtClass.admits] using hadmits

/-! ### Reserved fields, imm16 and absent targets (R77, R82, R83, R85) -/

theorem fields_kept (h : Accepted o f) :
    (f.w32 = true → o.w32 = true) ∧ auxOk o.code o f = true ∧
    (f.imm16 ≠ 0 → f.imm = true ∨ f.tagop = 4 ∨ f.tri = true) ∧ Target.zeroed f.a = true ∧ Target.zeroed f.b = true := by
  have hfields := h.fields
  simp only [fieldsReserved, Bool.or_eq_false_iff] at hfields
  obtain ⟨⟨⟨⟨⟨⟨⟨⟨-, hw32⟩, -⟩, haux⟩, himm16⟩, hzeroed⟩, -⟩, -⟩, -⟩ := hfields
  simp only [Bool.not_eq_false', Bool.and_eq_true] at haux hzeroed
  refine ⟨fun hw => by simpa [hw] using hw32, haux, fun hne => ?_, hzeroed⟩
  by_contra hno
  simp only [not_or, Bool.not_eq_true] at hno
  obtain ⟨himm, htag, htri⟩ := hno
  have hnext : f.imm16 ≠ 0 → f.tagop = 4 := by simpa [himm, htri] using himm16
  exact htag (hnext hne)

theorem w32_form (h : Accepted o f) (hw : f.w32 = true) : f.fmtOut = .i64 ∧
    ((o.code < 0x80 ∧ o.code ≠ 0x1E) ∨ (0x191 ≤ o.code ∧ o.code ≤ 0x193) ∨
      (0x20B ≤ o.code ∧ o.code ≤ 0x212 ∧ o.code ≠ 0x20C)) := by
  obtain ⟨-, -, hfmt, -⟩ := h.format_admitted
  obtain ⟨hrow, -⟩ := h.fields_kept
  exact ⟨hfmt hw, opRows_w32 o h.mem (hrow hw)⟩

theorem imm16_used (h : Accepted o f) (hne : f.imm16 ≠ 0) : f.imm = true ∨ f.tagop.toNat = 4 ∨ f.tri = true := by
  obtain ⟨-, -, huse, -⟩ := h.fields_kept
  simpa [BitVec.toNat_eq] using huse hne

theorem absent_zero (h : Accepted o f) : ∀ g ∈ [f.a, f.b], g.valid = false →
    g.die = 0 ∧ g.row = 0 ∧ g.col = 0 ∧ g.station = 0 ∧ g.port = .l := by
  obtain ⟨-, -, -, ha, hb⟩ := h.fields_kept
  have hzeroed : ∀ g ∈ [f.a, f.b], Target.zeroed g = true := by simp [ha, hb]
  intro g hg hv
  simpa [Target.zeroed, hv, and_assoc] using hzeroed g hg

theorem auxOwn_kept (h : Accepted o f) (hc : o.code ∈ [0x1E, 0x27, 0x28, 0x29, 0x2A]) : auxOwn o.code f = true := by
  obtain ⟨-, haux, -⟩ := h.fields_kept
  simpa [auxOk, opRows_aux o h.mem hc] using haux

/-- The limits of R115 on aux16. -/
theorem aux_limits (h : Accepted o f) :
    (o.code = 0x27 ∨ o.code = 0x28 → f.aux16.toNat < Fields.width f) ∧
    (o.code = 0x29 ∨ o.code = 0x2A →
      f.aux16.toNat < 4096 ∧ f.aux16.toNat % 64 + (f.aux16.toNat / 64 + 1) ≤ Fields.width f) ∧
    (o.code = 0x1E → f.aux16.toNat < 8) := by
  refine ⟨fun hc => ?narrow, fun hc => ?bitField, fun hc => ?lea⟩
  case narrow =>
    have hown : f.aux16.toNat < 64 ∧ f.aux16.toNat < Fields.width f := by
      rcases hc with hc | hc <;> simpa [auxOwn, hc] using h.auxOwn_kept (by simp [hc])
    exact hown.2
  case bitField =>
    have hown : f.aux16.toNat < 4096 ∧ f.aux16.toNat % 64 + f.aux16.toNat / 64 + 1 ≤ Fields.width f := by
      rcases hc with hc | hc <;> simpa [auxOwn, hc] using h.auxOwn_kept (by simp [hc])
    omega
  case lea => simpa [auxOwn, hc] using h.auxOwn_kept (by simp [hc])

/-! ### tagop, reservation and the third target (R80, R81, R87) -/

theorem tagop_cases (h : Accepted o f) :
    (o.tags = .wave ∧ f.tagop.toNat = 3) ∨ (o.tags = .own ∧ f.tagop.toNat = 0) ∨
    (o.tags = .plain ∧ f.tagop.toNat ≠ 3 ∧ f.tagop.toNat ≤ 8 ∧
      (5 ≤ f.tagop.toNat → f.tri = false ∧ 1 ≤ f.aux16.toNat % 16)) := by
  have htagop := h.tagop
  cases ht : o.tags with
  | wave => simpa [tagopBad, ht] using htagop
  | own => simpa [tagopBad, ht] using htagop
  | plain =>
    simp only [tagopBad, ht, Bool.or_eq_false_iff] at htagop
    obtain ⟨⟨hne, hle⟩, hshift⟩ := htagop
    have hle : f.tagop.toNat ≤ 8 := by simpa [Nat.lt_succ_iff] using hle
    refine .inr (.inr ⟨rfl, by simpa using hne, hle, fun h5 => ?_⟩)
    obtain ⟨⟨-, htri⟩, hlow, -⟩ :
        (o.aux = .free ∧ f.tri = false) ∧ 1 ≤ f.aux16.toNat % 16 ∧ f.aux16.toNat % 16 ≤ 15 := by
      simpa [h5, hle, Fields.shift, field] using hshift
    exact ⟨htri, hlow⟩

/-- `wave` alone carries tagop 3, and the tag forms carry none. -/
theorem tagop_form (h : Accepted o f) :
    (f.tagop.toNat = 3 ↔ o.code = 0x187) ∧ f.tagop.toNat ≤ 8 ∧
    (0x188 ≤ o.code → o.code ≤ 0x18E → f.tagop.toNat = 0) ∧
    (5 ≤ f.tagop.toNat → f.tri = false ∧ 1 ≤ f.aux16.toNat % 16) := by
  obtain ⟨hwave, hown⟩ := opRows_tags o h.mem
  obtain ⟨htags, ht⟩ | ⟨htags, ht⟩ | ⟨htags, hne, hle, hshift⟩ := h.tagop_cases
  · have hcode := hwave.mp htags
    exact ⟨by simp [ht, hcode], by omega, by omega, by omega⟩
  · have hcode : o.code ≠ 0x187 := fun hc => by simp [hwave.mpr hc] at htags
    exact ⟨by simp [ht, hcode], by omega, by omega, by omega⟩
  · have hcode : o.code ≠ 0x187 := fun hc => by simp [hwave.mpr hc] at htags
    exact ⟨by simp [hne, hcode], hle, fun h1 h2 => by simp [hown h1 h2] at htags, hshift⟩

theorem reserve_kept (h : Accepted o f) :
    max 1 (awaitCount f - 1) ≤ f.reserve.toNat + 1 ∧ (f.lock = true → awaitCount f ≤ f.reserve.toNat + 1) := by
  have hreserve := h.reserve
  simp only [reserveBad, Bool.or_eq_false_iff, decide_eq_false_iff_not, Bool.and_eq_false_iff] at hreserve
  obtain ⟨hmin, hlock⟩ := hreserve
  exact ⟨by omega, fun hl => by simpa [hl] using hlock⟩

theorem tri_kept (h : Accepted o f) :
    ¬(f.imm = true ∧ f.tri = true) ∧ (f.tagop.toNat = 4 → f.imm = false ∧ f.tri = false) ∧
    (f.tri = true → f.tagop.toNat ≤ 2 ∧ (Fields.targetC f).valid = true) := by
  have htri := h.tri
  simp only [triBad, Bool.or_eq_false_iff] at htri
  obtain ⟨⟨himm, hnext⟩, hthird⟩ := htri
  refine ⟨by simpa using himm, fun h4 => ?_, fun ht => ?_⟩
  · simpa [BitVec.toNat_eq, h4] using hnext
  · obtain ⟨⟨-, htag⟩, hvalid⟩ : (o.aux = .free ∧ (f.tagop.toNat = 0 ∨ f.tagop.toNat = 1 ∨ f.tagop.toNat = 2)) ∧
        (Fields.targetC f).valid = true := by
      simpa [ht, BitVec.toNat_eq, or_iff_not_imp_left] using hthird
    exact ⟨by omega, hvalid⟩

/-! ### Valid targets (R86) -/

theorem target_exists (h : Accepted o f) : ∀ g ∈ Fields.targets f, g.valid = true →
    placeExists (Target.site g) g.station.toNat = true := by
  intro g hg hv
  have htarget := List.any_eq_false.mp h.target g hg
  simpa [hv] using htarget

theorem targets_differ (h : Accepted o f) :
    (f.a.valid = true → f.a ≠ f.b ∧ f.a ≠ Fields.targetC f) ∧ (f.b.valid = true → f.b ≠ Fields.targetC f) := by
  have hdup := h.dup
  simp only [targetDup, Bool.or_eq_false_iff] at hdup
  obtain ⟨⟨hab, hac⟩, hbc⟩ := hdup
  exact ⟨fun ha => by simpa [ha] using And.intro hab hac, fun hb => by simpa [hb] using hbc⟩

end Accepted

/-- Settles O38: each clause is what one check of R98 leaves, or a check read with the columns of the opcode's row. -/
theorem acceptedWords : Obligations.AcceptedWords := by
  intro op f haccept
  obtain ⟨o, rfl, hrow, h⟩ := accepted_of_wordReject haccept
  obtain ⟨hwave, hle, hnone, hshift⟩ := h.tagop_form
  obtain ⟨hboth, hnext, hthird⟩ := h.tri_kept
  obtain ⟨hleft, hright⟩ := h.targets_differ
  obtain ⟨hext, hfield, hscale⟩ := h.aux_limits
  simp only [Fields.width, beq_iff_eq] at hext hfield
  exact ⟨⟨o, hrow, h.arity_count, h.imm_of_lrImm, h.no_imm⟩, h.format_int, h.format_float, h.format_passing, h.w32_form,
    hwave, hle, hnone, hshift, h.reserve_kept, h.imm16_used, hboth, hnext, hthird, h.absent_zero, h.target_exists,
    hleft, hright, h.format_i64, hext, hfield, hscale⟩

end Sys2Proof.Machine
end

section
/-! A step runs the head of the agenda, or the turn that the fixed order picks (O39). -/

namespace Sys2Proof.Machine

section
variable {s : State} {t : Turn} {ts : List Turn} {x : Site} {full : List Nat} {e : Ready} {i : Instr}

theorem step_turn (h : s.agenda = t :: ts) : step s = runTurn t { s with agenda := ts } := by
  simp only [step, h]

theorem step_next (h : s.agenda = []) (hn : s.nextTurn = some t) : step s = runTurn t s := by
  simp only [step, h, hn]

theorem step_tick (h : s.agenda = []) (hn : s.nextTurn = none) : step s = .next s.tickAll := by
  simp only [step, h, hn]

/-- A PE whose entry `e` issues: the entry leaves the ready queue, and the selector remembers its context and the next cycle
(R223). -/
def Pe.afterIssue (p : Pe) (e : Ready) (next : Nat) : Pe :=
  { p with ready := p.ready.erase e, lastCtx := e.ctx, nextIssue := next }

@[simp] theorem Pe.word_afterIssue (p : Pe) (e : Ready) (next c st : Nat) :
    (p.afterIssue e next).word c st = p.word c st := rfl

theorem pe_issue (s : State) (k : Nat) (e : Ready) :
    (s.issue k e).pe k = (s.pe k).afterIssue e (s.now (Site.ofKey k).die + 1) := by
  unfold State.issue
  split <;> exact State.pe_onPe_self s k (fun p => p.afterIssue e (s.now (Site.ofKey k).die + 1))

/-- The word that a firing runs is its station's, which the issue leaves as it was. -/
theorem firingWord_issue (s : State) (k : Nat) (e : Ready) :
    (s.issue k e).firingWord = (s.pe k).word e.ctx e.station := by
  have hfiring : (s.issue k e).firing = ⟨k, e.ctx, e.station, e.tag, e.matched, e.toks, e.entries, e.shared⟩ := rfl
  simp [State.firingWord, hfiring, pe_issue]

theorem runIssue_ok (hx : isPe x = true) (hp : s.pick (Site.key x) full = some e)
    (hw : decodeWord ((s.pe (Site.key x)).word e.ctx e.station) = .ok i) :
    runIssue x full s = exec i (s.issue (Site.key x) e) := by
  simp only [runIssue, hx, hp, if_true, runFiring, firingWord_issue, hw]

theorem runIssue_undecodable {d : DecodeError} (hx : isPe x = true) (hp : s.pick (Site.key x) full = some e)
    (hw : decodeWord ((s.pe (Site.key x)).word e.ctx e.station) = .error d) :
    runIssue x full s = .refused .undecodable := by
  simp only [runIssue, hx, hp, if_true, runFiring, firingWord_issue, hw]

theorem runIssue_idle (hx : isPe x = true) (hp : s.pick (Site.key x) full = none) : runIssue x full s = .next s := by
  simp only [runIssue, hx, hp, if_true]

theorem runTurn_event (h : s.fatal = false ∨ afterFatal i = true) : runTurn (.event i) s = exec i s := by
  have hlive : (s.fatal && !afterFatal i) = false := by
    rcases h with h | h <;> simp [h]
  simp [runTurn, hlive]

/-- After a fatal error a step that R422 does not leave does nothing. -/
theorem runTurn_event_fatal (hs : s.fatal = true) (hi : afterFatal i = false) : runTurn (.event i) s = .next s := by
  simp [runTurn, hs, hi]

end

/-- Settles O39: the step takes the agenda's head (`step_turn`), and an issue decodes the word that stood in the station before
it (`firingWord_issue`). -/
theorem stepRunsDecoded : Obligations.StepRunsDecoded := by
  refine ⟨?issue, ?undecodable, ?idle, ?event, ?tick, ?fixedOrder⟩
  case issue =>
    intro s x full ts e i h hx hp hw
    rw [step_turn h]
    exact runIssue_ok hx hp hw
  case undecodable =>
    intro s x full ts e d h hx hp hw
    rw [step_turn h]
    exact runIssue_undecodable hx hp hw
  case idle =>
    intro s x full ts h hx hp
    rw [step_turn h]
    exact runIssue_idle hx hp
  case event =>
    intro s i ts h
    rw [step_turn h]
    exact ⟨fun hlive => runTurn_event hlive, fun hs hi => runTurn_event_fatal hs hi⟩
  case tick =>
    intro s d n ts h
    exact step_turn h
  case fixedOrder =>
    intro s h
    cases hn : s.nextTurn with
    | some t => exact step_next h hn
    | none => exact step_tick h hn

end Sys2Proof.Machine
end

section
/-! The conversion station answers a diversion request (O18). -/

namespace Sys2Proof.Machine

/-- Settles O18: the firing's one result is the converted token, in the response class (`pushResult_leaves`). -/
theorem conversionStation : Obligations.ConversionStation := by
  intro f s u v htoks
  refine ⟨_, rfl, ?_⟩
  have hleaves := pushResult_leaves 0x100 f false (causeNum (convertedToken s).2)
    [.token (convertedToken s).1 .response] s
  simpa [convertedToken, htoks] using hleaves

end Sys2Proof.Machine
end

section
/-! A quotient and a root are rounded once (O11, O12): the model rounds twice the floor of a scaled value plus one bit for
what the floor cut off, and from two places above that bit on no rounding tells the two numbers apart. -/

namespace Sys2Proof.Machine

/-! ### What a rounding sees of a number -/

/-- `y` and `y'` lie alike to every half of an integer: between the same two, or both at one. -/
def SameHalves (y y' : ℝ) : Prop := ∀ j : ℤ, ((j : ℝ) ≤ 2 * y ↔ (j : ℝ) ≤ 2 * y') ∧ (2 * y ≤ j ↔ 2 * y' ≤ j)

namespace SameHalves

variable {y y' : ℝ}

theorem le_iff (h : SameHalves y y') (j : ℤ) : (j : ℝ) ≤ y ↔ (j : ℝ) ≤ y' := by
  simpa using (h (2 * j)).1

theorem ge_iff (h : SameHalves y y') (j : ℤ) : y ≤ j ↔ y' ≤ j := by
  simpa using (h (2 * j)).2

theorem neg (h : SameHalves y y') : SameHalves (-y) (-y') := fun j => by
  obtain ⟨hle, hge⟩ := h (-j)
  push_cast at hle hge
  simp only [mul_neg, neg_le, le_neg, hle, hge, and_self]

/-- Every mode rounds both to one integer (R46). -/
theorem isRounding_iff (h : SameHalves y y') (mode : Round) (k : ℤ) : IsRounding mode y k ↔ IsRounding mode y' k := by
  cases mode with
  | rne =>
    have hdist : ∀ y : ℝ, |y - k| ≤ 1 / 2 ↔ ((2 * k - 1 : ℤ) : ℝ) ≤ 2 * y ∧ 2 * y ≤ ((2 * k + 1 : ℤ) : ℝ) := fun y => by
      rw [abs_le]; push_cast; constructor <;> rintro ⟨_, _⟩ <;> constructor <;> linarith
    have htie : ∀ y : ℝ, |y - k| = 1 / 2 ↔ |y - k| ≤ 1 / 2 ∧
        (2 * y ≤ ((2 * k - 1 : ℤ) : ℝ) ∨ ((2 * k + 1 : ℤ) : ℝ) ≤ 2 * y) := fun y => by
      rw [le_antisymm_iff, le_abs]; push_cast
      refine and_congr_right fun _ => ?_
      rw [or_comm]
      refine or_congr ?_ ?_ <;> constructor <;> intro <;> linarith
    simp only [IsRounding, htie, hdist, (h _).1, (h _).2]
  | rtz =>
    have habs : ((|k| : ℤ) : ℝ) = |(k : ℝ)| := Int.cast_abs
    have hlt : ∀ y : ℝ, |y| < |(k : ℝ)| + 1 ↔
        ¬y ≤ ((-(|k| + 1) : ℤ) : ℝ) ∧ ¬((|k| + 1 : ℤ) : ℝ) ≤ y := fun y => by
      rw [abs_lt, not_le, not_le]; push_cast; rfl
    have hle : ∀ y : ℝ, |(k : ℝ)| ≤ |y| ↔ ((|k| : ℤ) : ℝ) ≤ y ∨ y ≤ ((-|k| : ℤ) : ℝ) := fun y => by
      rw [le_abs, le_neg]; push_cast; rfl
    have hsign : ∀ y : ℝ, 0 ≤ (k : ℝ) * y ↔ 0 ≤ k ∧ ((0 : ℤ) : ℝ) ≤ y ∨ k ≤ 0 ∧ y ≤ ((0 : ℤ) : ℝ) := fun y => by
      rw [mul_nonneg_iff]; push_cast; simp
    simp only [IsRounding, hlt, hle, hsign, h.le_iff, h.ge_iff]
  | rup =>
    have hlt : ∀ y : ℝ, (k : ℝ) - 1 < y ↔ ¬y ≤ ((k - 1 : ℤ) : ℝ) := fun y => by push_cast; rw [not_le]
    simp only [IsRounding, hlt, h.ge_iff]
  | rdn =>
    have hlt : ∀ y : ℝ, y < (k : ℝ) + 1 ↔ ¬((k + 1 : ℤ) : ℝ) ≤ y := fun y => by push_cast; rw [not_le]
    simp only [IsRounding, hlt, h.le_iff]

end SameHalves

/-- Of a number its rounding sees the binary logarithm, the sign and the place among the halves of the last place (R47). -/
theorem Rounded.congr {f : Fmt} {mode : Round} {sat : Bool} {x x' : ℝ} {r : LaneRes} (hlog : Int.log 2 |x'| = Int.log 2 |x|)
    (hneg : x' < 0 ↔ x < 0)
    (hhalves : ∀ q : ℤ, Int.log 2 |x| - Fmt.frac f ≤ q → SameHalves (x / 2 ^ q) (x' / 2 ^ q))
    (h : Rounded f mode sat x r) : Rounded f mode sat x' r := by
  unfold Rounded at h ⊢
  dsimp only at h ⊢
  simp only [hlog, hneg]
  obtain ⟨k, hk, hrest⟩ := h
  exact ⟨k, ((hhalves _ (le_max_right _ _)).isRounding_iff mode k).1 hk, hrest⟩

/-! ### A floor and what it cut off -/

/-- `n` is twice the floor of `z`, plus 1 where `z` is no integer: `n / 2` lies to every integer as `z` does. -/
def Sticky (z : ℝ) (n : ℕ) : Prop := ∀ j : ℤ, ((j : ℝ) ≤ z ↔ 2 * j ≤ n) ∧ (z ≤ j ↔ (n : ℤ) ≤ 2 * j)

theorem sticky_of_floor {n : ℕ} {z : ℝ} {exact : Prop} [Decidable exact] (hle : n ≤ z) (hlt : z < n + 1)
    (hexact : exact ↔ z = n) : Sticky z (2 * n + if exact then 0 else 1) := by
  intro j
  have hfloor : ⌊z⌋ = n := Int.floor_eq_iff.2 ⟨by exact_mod_cast hle, by exact_mod_cast hlt⟩
  rw [← Int.le_floor, hfloor]
  by_cases h : exact
  · rw [if_pos h, hexact.1 h]
    norm_cast
    omega
  · have hne : (n : ℝ) < z := lt_of_le_of_ne hle fun he => h (hexact.2 he.symm)
    have hge : z ≤ j ↔ (n : ℤ) < j :=
      ⟨fun hz => by exact_mod_cast hne.trans_le hz,
        fun hj => hlt.le.trans (by exact_mod_cast Int.add_one_le_iff.2 hj)⟩
    rw [if_neg h, hge]
    omega

section
variable {z : ℝ} {n : ℕ} (h : Sticky z n)
include h

/-- At two places or more above the last bit of `n` the two lie alike to every half. -/
theorem Sticky.sameHalves {e q : ℤ} (hq : e + 1 ≤ q) : SameHalves (n * 2 ^ (e - 1) / 2 ^ q) (z * 2 ^ e / 2 ^ q) := by
  intro j
  obtain ⟨c, rfl⟩ : ∃ c : ℕ, q = e + 1 + c := ⟨(q - e - 1).toNat, by omega⟩
  have hc : (0 : ℝ) < 2 ^ c := by positivity
  have hz : 2 * (z * 2 ^ e / 2 ^ (e + 1 + (c : ℤ))) = z / 2 ^ c := by
    rw [zpow_add₀ two_ne_zero, zpow_add₀ two_ne_zero, zpow_natCast]; field_simp
  have hn : 2 * ((n : ℝ) * 2 ^ (e - 1) / 2 ^ (e + 1 + (c : ℤ))) = n / 2 / 2 ^ c := by
    rw [zpow_add₀ two_ne_zero, zpow_add₀ two_ne_zero, zpow_sub₀ two_ne_zero, zpow_natCast]; field_simp
  obtain ⟨hle, hge⟩ := h (j * 2 ^ c)
  push_cast at hle hge
  rw [hz, hn, le_div_iff₀ hc, le_div_iff₀ hc, div_le_iff₀ hc, div_le_iff₀ hc, hle, hge,
    le_div_iff₀ two_pos, div_le_iff₀ two_pos, mul_comm _ (2 : ℝ)]
  norm_cast

/-- Both have one binary logarithm. -/
theorem Sticky.log_eq (hn : 2 ≤ n) (e : ℤ) : Int.log 2 (z * 2 ^ e) = n.log2 + (e - 1) := by
  have hlog : 1 ≤ n.log2 := (Nat.le_log2 (by omega)).2 (by omega)
  obtain ⟨b, hb⟩ : ∃ b, n.log2 = b + 1 := ⟨n.log2 - 1, by omega⟩
  have hlow : 2 ^ (b + 1) ≤ n := hb ▸ Nat.log2_self_le (by omega)
  have hhigh : n < 2 ^ (b + 2) := by have := Nat.lt_log2_self (n := n); rwa [hb] at this
  have hzlow : (2 : ℝ) ^ b ≤ z := by
    have := (h (2 ^ b)).1.2 (by rw [pow_succ] at hlow; exact_mod_cast (mul_comm _ _).trans_le hlow)
    exact_mod_cast this
  have hzhigh : z < (2 : ℝ) ^ (b + 1) := by
    refine lt_of_not_ge fun hge => ?_
    have : (2 : ℤ) * 2 ^ (b + 1) ≤ n := (h (2 ^ (b + 1))).1.1 (by exact_mod_cast hge)
    rw [pow_succ] at hhigh
    exact absurd this (by rw [mul_comm]; exact_mod_cast Nat.not_le.2 hhigh)
  have hpos : 0 < z * 2 ^ e := mul_pos (lt_of_lt_of_le (by positivity) hzlow) (by positivity)
  have he : (n.log2 : ℤ) + (e - 1) = b + e := by rw [hb]; push_cast; ring
  rw [he]
  refine le_antisymm (Int.lt_add_one_iff.1 ?_) ?_
  · refine (Int.lt_zpow_iff_log_lt Nat.one_lt_two hpos).1 ?_
    push_cast
    rw [add_right_comm, zpow_add₀ two_ne_zero]
    exact mul_lt_mul_of_pos_right (by exact_mod_cast hzhigh) (by positivity)
  · refine (Int.zpow_le_iff_le_log Nat.one_lt_two hpos).1 ?_
    push_cast
    rw [zpow_add₀ two_ne_zero, zpow_natCast]
    exact mul_le_mul_of_nonneg_right hzlow (by positivity)

/-- Where two more bits are kept than the format has, `n` rounds as the value does that it stands for. -/
theorem Sticky.rounded {f : Fmt} (hf : Fmt.isFloat f = true) (hn : 2 ^ (Fmt.frac f + 2) ≤ n) (mode : Round) (sat neg : Bool)
    (e : ℤ) : Rounded f mode sat ((if neg then -1 else 1) * (z * 2 ^ e)) (roundF f mode sat neg n (e - 1)) := by
  have hpow : 4 ≤ 2 ^ (Fmt.frac f + 2) := by rw [pow_add]; have := Nat.two_pow_pos (Fmt.frac f); omega
  have hlog2 : Fmt.frac f + 2 ≤ n.log2 := (Nat.le_log2 (by omega)).2 hn
  have hz : 0 < z := lt_of_lt_of_le (by norm_num) ((h 1).1.2 (by omega))
  have hx : 0 < z * 2 ^ e := by positivity
  have habs : |(if neg then -1 else 1) * (z * 2 ^ e)| = z * 2 ^ e := by
    cases neg <;> simp [abs_of_pos hz]
  refine (roundF_rounded hf (by omega) mode sat neg).congr ?_ ?_ ?_
  · rw [log_rat neg (by omega), habs, h.log_eq (by omega)]
  · rw [rat_neg_iff (by omega)]
    cases neg with
    | false => simpa using hx.le
    | true => simpa using hx
  · intro q hq
    rw [log_rat neg (by omega)] at hq
    have hsame := h.sameHalves (e := e) (q := q) (by omega)
    rw [FVal.rat_fin_cast, mul_div_assoc, mul_div_assoc (if neg then -1 else 1)]
    cases neg with
    | false => simpa using hsame
    | true => simpa using hsame.neg

end

/-! ### Quotients -/

theorem sticky_div (a : ℕ) {d : ℕ} (hd : 0 < d) : Sticky ((a : ℝ) / d) (2 * (a / d) + if a % d = 0 then 0 else 1) := by
  have hd' : (d : ℝ) ≠ 0 := by exact_mod_cast hd.ne'
  refine sticky_of_floor Nat.cast_div_le ?_ ?_
  · rw [← Nat.floor_div_eq_div (K := ℝ)]
    exact Nat.lt_floor_add_one _
  · rw [div_eq_iff hd', ← Nat.dvd_iff_mod_eq_zero, Nat.dvd_iff_div_mul_eq, eq_comm]
    norm_cast

/-- The quotient is taken to 69 bits or more, and no format keeps more than 53. -/
theorem two_pow_le_ratio (f : Fmt) {a d : ℕ} (ha : 0 < a) (hd : 0 < d) :
    2 ^ (Fmt.frac f + 2) ≤ a * 2 ^ (d.log2 + 70) / d := by
  have hfrac : Fmt.frac f + 2 ≤ 69 := by cases f <;> decide
  refine (Nat.pow_le_pow_right two_pos hfrac).trans ((Nat.le_div_iff_mul_le hd).2 ?_)
  calc 2 ^ 69 * d ≤ 2 ^ 69 * 2 ^ (d.log2 + 1) := Nat.mul_le_mul_left _ Nat.lt_log2_self.le
    _ = 2 ^ (d.log2 + 70) := by rw [← pow_add]; congr 1; omega
    _ ≤ a * 2 ^ (d.log2 + 70) := Nat.le_mul_of_pos_left _ ha

theorem roundRatio_rounded {f : Fmt} (hf : Fmt.isFloat f = true) {a d : ℕ} (ha : 0 < a) (hd : 0 < d) (mode : Round)
    (sat neg : Bool) (e : ℤ) :
    Rounded f mode sat ((if neg then -1 else 1) * ((a : ℝ) / d * 2 ^ e)) (roundRatio f mode sat neg a d e) := by
  have hbits := two_pow_le_ratio f ha hd
  have h := (sticky_div (a * 2 ^ (d.log2 + 70)) hd).rounded hf (by omega) mode sat neg (e - (d.log2 + 70 : ℕ))
  have hval : ((a * 2 ^ (d.log2 + 70) : ℕ) : ℝ) / d * 2 ^ (e - (d.log2 + 70 : ℕ)) = (a : ℝ) / d * 2 ^ e := by
    rw [zpow_sub₀ two_ne_zero, zpow_natCast]; push_cast; field_simp
  rwa [hval] at h

/-- Settles O11: the quotient is the floor of a scaled one with a bit for the rest (`sticky_div`), which round alike. -/
theorem quotientsAreRoundedOnce : Obligations.QuotientsAreRoundedOnce := by
  intro g mode sat a b hg ha hb hane hbne
  obtain ⟨x, m, e, rfl⟩ := FVal.exists_fin ha
  obtain ⟨y, n, k, rfl⟩ := FVal.exists_fin hb
  have hm : m ≠ 0 := fun h => hane (by simp [FVal.rat, h])
  have hn : n ≠ 0 := fun h => hbne (by simp [FVal.rat, h])
  have hval : ((FVal.rat (.fin x m e) / FVal.rat (.fin y n k) : ℚ) : ℝ) =
      (if x != y then -1 else 1) * ((m : ℝ) / n * 2 ^ (e - k)) := by
    rw [Rat.cast_div, FVal.rat_fin_cast, FVal.rat_fin_cast, zpow_sub₀ two_ne_zero, mul_div_mul_comm, mul_div_mul_comm]
    congr 1
    cases x <;> cases y <;> norm_num
  rw [hval]
  simpa only [divF, if_neg hm, if_neg hn] using
    roundRatio_rounded hg (Nat.pos_of_ne_zero hm) (Nat.pos_of_ne_zero hn) mode sat (x != y) (e - k)

/-! ### Roots -/

/-- The bits found so far and the rest: the root lies below the next candidate of the higher bits. -/
theorem isqrt_spec (k : ℕ) {n r : ℕ} (hle : r * r ≤ n) (hlt : n < (r + 2 ^ k) * (r + 2 ^ k)) :
    isqrt k n r * isqrt k n r ≤ n ∧ n < (isqrt k n r + 1) * (isqrt k n r + 1) := by
  induction k generalizing r with
  | zero => exact ⟨hle, hlt⟩
  | succ k ih =>
    unfold isqrt
    split
    · next h => exact ih h (by rwa [Nat.add_assoc, ← Nat.two_mul, ← pow_succ'])
    · next h => exact ih hle (Nat.lt_of_not_le h)

theorem isqrt_eq_sqrt {k n : ℕ} (h : n < 4 ^ k) : isqrt k n 0 = Nat.sqrt n := by
  have hlt : n < (0 + 2 ^ k) * (0 + 2 ^ k) := by rwa [Nat.zero_add, ← Nat.mul_pow]
  obtain ⟨hlow, hhigh⟩ := isqrt_spec k (Nat.zero_le n) hlt
  exact Nat.eq_sqrt.2 ⟨hlow, hhigh⟩

theorem sticky_sqrt (n : ℕ) : Sticky (Real.sqrt n) (2 * Nat.sqrt n + if Nat.sqrt n * Nat.sqrt n = n then 0 else 1) := by
  refine sticky_of_floor Real.nat_sqrt_le_real_sqrt ?_ ?_
  · exact Real.real_sqrt_lt_nat_sqrt_succ
  · rw [Real.sqrt_eq_iff_mul_self_eq (Nat.cast_nonneg _) (Nat.cast_nonneg _)]
    norm_cast
    exact eq_comm

/-- The significand of a finite pattern has at most one bit more than the fraction (R43). -/
theorem significand_lt {f : Fmt} {a : ℕ} {neg : Bool} {m : ℕ} {e : ℤ} (h : decodeF f a = .fin neg m e) :
    m < 2 ^ (Fmt.frac f + 1) := by
  have hfrac := Nat.mod_lt (a % signBit f) (Nat.two_pow_pos (Fmt.frac f))
  rw [pow_succ]
  unfold decodeF at h
  dsimp only at h
  split at h
  · split at h <;> cases h
  · split at h <;> cases h <;> omega

/-- A power of four passes through the root as a power of two. -/
theorem sqrt_mul_two_zpow (m s : ℕ) {e c : ℤ} (he : e = s + 2 * c) :
    Real.sqrt ((m : ℝ) * 2 ^ e) = Real.sqrt ((m * 2 ^ s : ℕ) : ℝ) * 2 ^ c := by
  have hsq : ((2 : ℝ) ^ (2 * c)) = (2 ^ c) ^ 2 := by rw [two_mul, zpow_add₀ two_ne_zero, sq]
  have hval : (m : ℝ) * 2 ^ e = ((m * 2 ^ s : ℕ) : ℝ) * (2 ^ c) ^ 2 := by
    rw [he, zpow_add₀ two_ne_zero, zpow_natCast, hsq, ← mul_assoc]; push_cast; rfl
  rw [hval, Real.sqrt_mul (Nat.cast_nonneg _), Real.sqrt_sq (by positivity)]

theorem sqrtF_rounded {f : Fmt} (hf : Fmt.isFloat f = true) {m : ℕ} (hm : 0 < m) (hlt : m < 2 ^ (Fmt.frac f + 1))
    (mode : Round) (sat : Bool) (e : ℤ) :
    Rounded f mode sat (Real.sqrt ((m : ℝ) * 2 ^ e)) (sqrtF f mode sat (.fin false m e)) := by
  have hfrac : Fmt.frac f + 2 ≤ 54 := by cases f <;> decide
  obtain ⟨s, c, hs, hsval, hc⟩ : ∃ (s : ℕ) (c : ℤ), e = s + 2 * c ∧ s = (if e % 2 = 0 then 140 else 141) ∧
      c = (e - (if e % 2 = 0 then 140 else 141)) / 2 := ⟨_, _, by split <;> omega, rfl, rfl⟩
  have hs140 : 140 ≤ s ∧ s ≤ 141 := by split at hsval <;> omega
  have hroot : isqrt 100 (m * 2 ^ s) 0 = Nat.sqrt (m * 2 ^ s) := by
    refine isqrt_eq_sqrt ?_
    calc m * 2 ^ s < 2 ^ (Fmt.frac f + 1) * 2 ^ s := Nat.mul_lt_mul_of_pos_right hlt (Nat.two_pow_pos s)
      _ = 2 ^ (Fmt.frac f + 1 + s) := (pow_add ..).symm
      _ ≤ 2 ^ 200 := Nat.pow_le_pow_right two_pos (by omega)
      _ = 4 ^ 100 := by norm_num
  have hbits : 2 ^ (Fmt.frac f + 2) ≤ Nat.sqrt (m * 2 ^ s) := by
    refine Nat.le_sqrt.2 ?_
    rw [← pow_add]
    exact (Nat.pow_le_pow_right two_pos (by omega)).trans (Nat.le_mul_of_pos_left _ hm)
  have h := (sticky_sqrt (m * 2 ^ s)).rounded hf (by omega) mode sat false c
  rw [← sqrt_mul_two_zpow m s hs, if_neg Bool.false_ne_true, one_mul] at h
  simpa only [sqrtF, if_neg hm.ne', if_neg Bool.false_ne_true, ← hsval, ← hc, hroot] using h

/-- Settles O12: the root is the floor of a scaled one with a bit for the rest (`sticky_sqrt`), which round alike. -/
theorem rootsAreRoundedOnce : Obligations.RootsAreRoundedOnce := by
  intro g mode sat a hg _ hfin hpos
  obtain ⟨neg, m, e, he⟩ := FVal.exists_fin hfin
  have hlt := significand_lt he
  rw [he] at hpos ⊢
  have hm : 0 < m := Nat.pos_of_ne_zero fun h => by simp [FVal.rat, h] at hpos
  have hneg : neg = false := by
    have := (rat_neg_iff (e := e) hm neg).not.1 (not_lt.2 (by exact_mod_cast hpos.le))
    simpa using this
  subst hneg
  rw [FVal.rat_fin_cast]
  simpa using sqrtF_rounded hg hm hlt mode sat e

end Sys2Proof.Machine
end

section
/-! The values of group 0 forms (R108): a form's lane function on numbers is a function of w-bit patterns, and the form delivers
that function of every lane. -/

namespace Sys2Proof.Machine

/-! ### Patterns and the numbers they read as -/

section
variable {w : ℕ}

theorem signed_eq_toInt_ofNat (hw : 0 < w) (n : ℕ) : signed w n = (BitVec.ofNat w n).toInt := by
  have htwo := two_pow_eq_two_mul hw
  rw [BitVec.toInt_eq_toNat_cond, BitVec.toNat_ofNat, signed]
  split <;> split <;> omega

theorem signed_toNat (hw : 0 < w) (a : BitVec w) : signed w a.toNat = a.toInt := by
  rw [signed_eq_toInt_ofNat hw, BitVec.ofNat_toNat, BitVec.setWidth_eq]

theorem wrapNat_eq_toNat_ofInt (w : ℕ) (x : ℤ) : wrapNat w x = (BitVec.ofInt w x).toNat := (BitVec.toNat_ofInt x).symm

end

section
variable (f : Fields)

@[simp] theorem signed_width_toNat (a : BitVec (Fields.width f)) : signed (Fields.width f) a.toNat = a.toInt :=
  signed_toNat (width_pos f) a

/-- fit_s on numbers and on patterns (R108). -/
theorem fitS_eq_fitSigned (x : ℤ) : fitS (Fields.width f) f.sat x = (fitSigned f x).toNat := by
  unfold fitS fitSigned
  rw [wrapNat_eq_toNat_ofInt, clampInt_eq (loS_le_hiS _), loS, hiS]
  push_cast
  rfl

/-- fit_u on numbers and on patterns (R108). -/
theorem fitU_eq_fitUnsigned (x : ℤ) : fitU (Fields.width f) x = (fitUnsigned f x).toNat := by
  have hpos := Nat.two_pow_pos (Fields.width f)
  have hcast : ((2 ^ Fields.width f : ℕ) : ℤ) = 2 ^ Fields.width f := by push_cast; rfl
  unfold fitU fitUnsigned
  rw [clampInt_eq (by omega), BitVec.toNat_ofInt, ← hcast, Int.emod_eq_of_lt (by omega) (by omega)]

end

/-! ### Causes -/

@[simp] theorem minCause_none_right (c : Option Cause) : minCause c none = c := by cases c <;> rfl

theorem causeOf_eq_none {xs : List LaneRes} (h : ∀ r ∈ xs, r.cause = none) : causeOf xs = none := by
  induction xs with
  | nil => rfl
  | cons r rs ih =>
    obtain ⟨hr, hrs⟩ := List.forall_mem_cons.1 h
    rw [causeOf, hr, ih hrs]; rfl

/-- Where one cause alone can arise, it arises where some lane has it. -/
theorem causeOf_map_ite {α : Type} (x : α → LaneRes) (p : α → Bool) (c : Cause) (xs : List α)
    (h : ∀ a, (x a).cause = if p a then some c else none) :
    causeOf (xs.map x) = if xs.any p then some c else none := by
  induction xs with
  | nil => rfl
  | cons a xs ih =>
    rw [List.map_cons, causeOf, h, ih, List.any_cons]
    cases p a <;> cases xs.any p <;> simp [minCause]

/-! ### Payloads and forms -/

theorem finish_delivers_of_eq {op : ℕ} {f : Fields} {u v : Value} {s : State} (h : u = v) :
    Delivers op f v s (finish op f u s) := h ▸ finish_delivers op f u s

/-- The payload of one result per lane of the format. -/
theorem intPayload_lanes (f : Fields) {x : ℕ → ℕ} {y : ℕ → BitVec (Fields.width f)}
    (h : ∀ k, x k % 2 ^ Fields.width f = (y k).toNat) :
    intPayload f ((List.range (Fmt.lanes f.fmtOut)).map x) = intWord f y := by
  refine intPayload_range f _ y (fun h8 => by simp [h8, Fmt.lanes]) (fun _ => ?_) (fun k hk => ?_)
  · cases f.fmtOut <;> simp [Fmt.lanes]
  · rw [List.length_map, List.length_range] at hk
    simpa [hk] using h k

theorem intLanes_prepare_length (f : Fields) (t : Token) :
    (intLanes f (prepare f.fmtOut f t)).length = Fmt.lanes f.fmtOut := by rw [intLanes_length, prepare_length]

theorem intLanes_prepareR_length (op : ℕ) (f : Fields) (s : State) :
    (intLanes f (prepareR op f.fmtOut f s)).length = Fmt.lanes f.fmtOut := by rw [intLanes_length, prepareR_length]

/-- A form whose meaning is `finish` of a lane function of one w-bit operand. -/
theorem oneInt_of {op : ℕ} {i : Fields → Instr} {h : (f : Fields) → BitVec (Fields.width f) → BitVec (Fields.width f)}
    (g : Fields → ℕ → ℕ → ℕ) (he : ∀ f s, exec (i f) s = .next (finish op f (intOne f s (g f)) s))
    (hg : ∀ (f : Fields) (a : BitVec (Fields.width f)), g f (Fields.width f) a.toNat % 2 ^ Fields.width f = (h f a).toNat) :
    OneInt op i h := by
  intro f s
  have hval : intOne f s (g f) =
      ⟨intWord f (fun k => h f (wLane _ (leftOf f s) k)), f.fmtOut, (leftOf f s).cause, (leftOf f s).converted⟩ := by
    unfold intOne
    dsimp only
    rw [map_range _ _ 0 _ (intLanes_prepare_length f _), intPayload_lanes f (fun k => ?_)]
    · rfl
    · rw [intLanes_getD]; exact hg f _
  exact ⟨_, he f s, finish_delivers_of_eq hval⟩

/-- A form whose meaning is `finish` of a lane function of two w-bit operands that fails where the second is 0 (R110). -/
theorem divides_of {op : ℕ} {i : Fields → Instr} {h : IntFn2} (g : Fields → ℕ → ℕ → ℕ → LaneRes)
    (he : ∀ f s, exec (i f) s = .next (finish op f (intTwoC op f s (g f)) s))
    (hg : ∀ (f : Fields) (a b : BitVec (Fields.width f)),
      g f (Fields.width f) a.toNat b.toNat = ⟨(h f a b).toNat, if b == 0 then some .invalid else none⟩) :
    Divides op i h := by
  intro f s
  have hval : intTwoC op f s (g f) =
      ⟨intWord f (fun k => h f (wLane _ (leftOf f s) k) (wLane _ (rightOf op f s) k)), f.fmtOut,
        minCause (minCause (leftOf f s).cause (rightOf op f s).cause)
          (if (List.range (Fmt.lanes f.fmtOut)).any (fun k => wLane (Fields.width f) (rightOf op f s) k == 0)
           then some .invalid else none),
        (leftOf f s).converted || (rightOf op f s).converted⟩ := by
    unfold intTwoC
    dsimp only
    rw [zipWith_range _ _ _ 0 0 _ (intLanes_prepare_length f _) (intLanes_prepareR_length op f s)]
    simp only [intLanes_getD, hg]
    rw [causeOf_map_ite _ _ .invalid _ (fun k => rfl), List.map_map, Function.comp_def,
      intPayload_lanes f (fun k => BitVec.toNat_mod_cancel _)]
    rfl
  exact ⟨_, he f s, finish_delivers_of_eq hval⟩

end Sys2Proof.Machine
end

section
/-! The arithmetic, division and comparison forms of group 0 (O1, O2, O5). -/

namespace Sys2Proof.Machine

/-! ### Lane functions -/

section
variable {w : ℕ} (a b : BitVec w)

/-- A signed quotient by a power of two is rounded toward minus infinity. -/
theorem wrapNat_fdiv_two_pow (x : ℤ) (n : ℕ) :
    wrapNat w (Int.fdiv x ((2 ^ n : ℕ) : ℤ)) = (BitVec.ofInt w (x / 2 ^ n)).toNat := by
  rw [Int.fdiv_eq_ediv_of_nonneg _ (Int.natCast_nonneg _), wrapNat_eq_toNat_ofInt]
  push_cast
  rfl

/-- Where equal keys belong to equal results, a choice by ≤ is one by <. -/
theorem ite_le_eq_ite_lt {ι β : Type} [LinearOrder ι] {u v : ι} {x y : β} (h : u = v → x = y) :
    (if u ≤ v then x else y) = if u < v then x else y := by
  rcases lt_trichotomy u v with hlt | heq | hgt
  · rw [if_pos hlt.le, if_pos hlt]
  · rw [h heq, ite_self, ite_self]
  · rw [if_neg hgt.not_ge, if_neg hgt.not_gt]

/-- A truth value as a lane (R114). -/
theorem ite_mod_eq_toNat {c d : Prop} [Decidable c] [Decidable d] (h : c ↔ d) :
    (if c then 1 else 0) % 2 ^ w = (if d then 1 else 0 : BitVec w).toNat := by
  by_cases hd : d <;> simp [hd, h]

/-- A division delivers one result where the divisor is 0, with cause invalid, and another where it is not (R110). -/
theorem zeroDivisor_eq (b x y : BitVec w) :
    (if b.toNat = 0 then ⟨x.toNat, some .invalid⟩ else ⟨y.toNat, none⟩ : LaneRes) =
      ⟨(if b = 0 then x else y).toNat, if b == 0 then some .invalid else none⟩ := by
  have hzero : b.toNat = 0 ↔ b = 0 := by rw [← BitVec.toNat_inj]; simp
  by_cases hb : b = 0
  · rw [if_pos (hzero.2 hb), if_pos hb, if_pos (by simpa using hb)]
  · rw [if_neg (hzero.not.2 hb), if_neg hb, if_neg (by simpa using hb)]

theorem tmod_eq_sub_mul_tdiv : wrapNat w (Int.tmod a.toInt b.toInt) =
    (BitVec.ofInt w (a.toInt - b.toInt * a.toInt.tdiv b.toInt)).toNat := by
  rw [Int.tmod_def, wrapNat_eq_toNat_ofInt]

theorem umod_eq_sub_mul_udiv : a.toNat % b.toNat = (a - b * (a / b)).toNat := by
  have hsum : a = a % b + b * (a / b) := BitVec.eq_of_toNat_eq (by simp [Nat.mod_add_div])
  rw [BitVec.sub_eq_iff_eq_add.2 hsum, BitVec.toNat_umod]

end

/-- Settles O1: each form's lane function is that of its table on w-bit patterns (`twoInts_of`), by the reading of the
patterns (`signed_width_toNat`) and the two fits. -/
theorem integerArithmetic : Obligations.IntegerArithmetic := by
  refine ⟨twoInts_of _ (fun _ _ => rfl) fun f a b => ?add, twoInts_of _ (fun _ _ => rfl) fun f a b => ?sub,
    twoInts_of _ (fun _ _ => rfl) fun f a b => ?mul, twoInts_of _ (fun _ _ => rfl) fun f a b => ?mulh,
    twoInts_of _ (fun _ _ => rfl) fun f a b => ?mulhu, twoInts_of _ (fun _ _ => rfl) fun f a b => ?and,
    twoInts_of _ (fun _ _ => rfl) fun f a b => ?or, twoInts_of _ (fun _ _ => rfl) fun f a b => ?xor,
    twoInts_of _ (fun _ _ => rfl) fun f a b => ?andn, twoInts_of _ (fun _ _ => rfl) fun f a b => ?min,
    twoInts_of _ (fun _ _ => rfl) fun f a b => ?max, twoInts_of _ (fun _ _ => rfl) fun f a b => ?minu,
    twoInts_of _ (fun _ _ => rfl) fun f a b => ?maxu, twoInts_of _ (fun _ _ => rfl) fun f a b => ?addsat,
    twoInts_of _ (fun _ _ => rfl) fun f a b => ?subsat⟩
  case add | sub | mul => simp [fitS_eq_fitSigned]
  case mulh => rw [signed_width_toNat, signed_width_toNat, wrapNat_fdiv_two_pow, BitVec.toNat_mod_cancel]
  case mulhu => simp
  case and => rw [← BitVec.toNat_and, BitVec.toNat_mod_cancel]
  case or => rw [← BitVec.toNat_or, BitVec.toNat_mod_cancel]
  case xor => rw [← BitVec.toNat_xor, BitVec.toNat_mod_cancel]
  case andn => rw [← BitVec.toNat_not, ← BitVec.toNat_and, BitVec.toNat_mod_cancel]
  case min | max =>
    rw [signed_width_toNat, signed_width_toNat, ite_le_eq_ite_lt fun h => by rw [BitVec.eq_of_toInt_eq h], ← apply_ite BitVec.toNat,
      BitVec.toNat_mod_cancel]
  case minu | maxu => rw [ite_le_eq_ite_lt fun h => by rw [h], ← apply_ite BitVec.toNat, BitVec.toNat_mod_cancel]
  case addsat | subsat => simp [fitU_eq_fitUnsigned]

/-- Settles O2: a zero divisor gives the borderline result and the one cause that can arise (`zeroDivisor_eq`); the quotients
and remainders are those of the readings. -/
theorem integerDivision : Obligations.IntegerDivision := by
  refine ⟨divides_of _ (fun _ _ => rfl) fun f a b => ?div, divides_of _ (fun _ _ => rfl) fun f a b => ?divu,
    divides_of _ (fun _ _ => rfl) fun f a b => ?rem, divides_of _ (fun _ _ => rfl) fun f a b => ?remu⟩
  case div =>
    rw [divLane, signed_width_toNat, signed_width_toNat, fitS_eq_fitSigned, ← BitVec.toNat_allOnes]
    exact zeroDivisor_eq b _ _
  case divu =>
    rw [divuLane, ← BitVec.toNat_udiv, ← BitVec.toNat_allOnes]
    exact zeroDivisor_eq b _ _
  case rem =>
    rw [remLane, signed_width_toNat, signed_width_toNat, tmod_eq_sub_mul_tdiv]
    exact zeroDivisor_eq b _ _
  case remu =>
    rw [remuLane, umod_eq_sub_mul_udiv]
    exact zeroDivisor_eq b _ _

/-- Settles O5: each relation of the table on the patterns is that of their readings. -/
theorem integerComparison : Obligations.IntegerComparison := by
  refine ⟨twoInts_of _ (fun _ _ => rfl) fun f a b => ?eq, twoInts_of _ (fun _ _ => rfl) fun f a b => ?ne,
    twoInts_of _ (fun _ _ => rfl) fun f a b => ?lt, twoInts_of _ (fun _ _ => rfl) fun f a b => ?le,
    twoInts_of _ (fun _ _ => rfl) fun f a b => ?ltu, twoInts_of _ (fun _ _ => rfl) fun f a b => ?leu⟩
  case eq => exact ite_mod_eq_toNat BitVec.toNat_inj
  case ne => simpa only [ne_eq, ite_not] using ite_mod_eq_toNat (not_congr BitVec.toNat_inj)
  case lt => simp only [signed_width_toNat]; exact ite_mod_eq_toNat BitVec.slt_iff_toInt_lt.symm
  case le => simp only [signed_width_toNat]; exact ite_mod_eq_toNat BitVec.sle_iff_toInt_le.symm
  case ltu => exact ite_mod_eq_toNat BitVec.ult_iff_toNat_lt.symm
  case leu => exact ite_mod_eq_toNat BitVec.ule_iff_toNat_le.symm

end Sys2Proof.Machine
end

section
/-! Multiply-add and the dot product of bytes fit one exact sum (O4). -/

namespace Sys2Proof.Machine

/-! ### One result lane and zeros -/

theorem packNat_cons_zeros (w x n : ℕ) : packNat w (x :: List.replicate n 0) = packNat w [x] := by
  have hzero : packNat w (List.replicate n 0) = 0 := by
    induction n with
    | zero => rfl
    | succ n ih => simp [List.replicate_succ, packNat, ih]
  simp [packNat, hzero]

/-- A lone lane 0 is the payload whose other lanes are 0. -/
theorem packLanes_lane_zero (g : Fmt) (x : ℕ) :
    packLanes g ((List.range (Fmt.lanes g)).map (fun k => if k = 0 then x else 0)) = packLanes g [x] := by
  obtain ⟨n, hn⟩ : ∃ n, Fmt.lanes g = n + 1 := ⟨Fmt.lanes g - 1, by cases g <;> rfl⟩
  have hlist : (List.range (n + 1)).map (fun k => if k = 0 then x else 0) = x :: List.replicate n 0 := by
    rw [List.range_succ_eq_map, List.map_cons, List.map_map, if_pos rfl]
    simp [Function.comp_def, List.map_const']
  rw [packLanes, packLanes, hn, hlist, packNat_cons_zeros]

theorem intPayload_lane_zero (f : Fields) (y : BitVec (Fields.width f)) :
    intPayload f [y.toNat] = intWord f (fun k => if k = 0 then y else 0) := by
  by_cases h8 : f.fmtOut = .i8
  · simp only [intPayload, intWord, h8, beq_self_eq_true, if_true]
    rw [← packLanes_lane_zero]
    simp only [apply_ite BitVec.toNat, Fmt.lanes]
    rfl
  · refine intPayload_range f _ _ (fun h => absurd h h8) (fun _ => Nat.one_pos) (fun k hk => ?_)
    obtain rfl : k = 0 := Nat.lt_one_iff.1 hk
    exact BitVec.toNat_mod_cancel y

/-! ### The exact sums -/

theorem sumInt_eq_sum (xs : List ℤ) : sumInt xs = xs.sum := by
  induction xs with
  | nil => rfl
  | cons x xs ih => rw [sumInt, ih, List.sum_cons]

theorem intThree_value (op : ℕ) (f : Fields) (s : State) (g : ℕ → ℕ → ℕ → ℕ → ℕ)
    (h : BitVec (Fields.width f) → BitVec (Fields.width f) → BitVec (Fields.width f) → BitVec (Fields.width f))
    (hg : ∀ a b c : BitVec (Fields.width f), g (Fields.width f) a.toNat b.toNat c.toNat = (h a b c).toNat) :
    intThree op f s g =
      ⟨intWord f (fun k => h (wLane _ (leftOf f s) k) (wLane _ (rightOf op f s) k) (wLane _ (thirdOf f s) k)), f.fmtOut,
        minCause (minCause (leftOf f s).cause (rightOf op f s).cause) (thirdOf f s).cause,
        (leftOf f s).converted || (rightOf op f s).converted || (thirdOf f s).converted⟩ := by
  unfold intThree
  dsimp only
  rw [zipWith_range _ _ _ 0 0 _ (intLanes_prepare_length f _) (intLanes_prepareR_length op f s),
    ← List.map_id (intLanes f (prepare f.fmtOut f (opP f s))),
    map_range _ _ 0 _ (intLanes_prepare_length f _), List.zipWith_map, List.zipWith_self]
  simp only [intLanes_getD, hg, id]
  rw [intPayload_lanes f (fun k => BitVec.toNat_mod_cancel _)]
  rfl

/-- Products of paired signed bytes, summed. -/
theorem sumInt_products (l r : Prepared) (hl : l.lanes.length = 8) (hr : r.lanes.length = 8) :
    sumInt (List.zipWith (fun a b => signed 8 a * signed 8 b) l.lanes r.lanes) =
      ((List.range 8).map (fun i => (wLane 8 l i).toInt * (wLane 8 r i).toInt)).sum := by
  rw [sumInt_eq_sum, zipWith_range _ _ _ 0 0 8 hl hr]
  simp only [signed_eq_toInt_ofNat (w := 8) (by decide), wLane]

theorem dot8Value_eq (f : Fields) (s : State) :
    let l := prepare .i8 f (opL f s)
    let r := prepareR 0x020 .i8 f s
    let c := thirdOf f s
    dot8Value f s =
      ⟨intWord f (fun k => if k = 0 then fitSigned f ((wLane (Fields.width f) c 0).toInt +
          ((List.range 8).map (fun i => (wLane 8 l i).toInt * (wLane 8 r i).toInt)).sum) else 0), f.fmtOut,
        minCause (minCause l.cause r.cause) c.cause, l.converted || r.converted || c.converted⟩ := by
  intro l r c
  have hsum := sumInt_products l r (prepare_length _ _ _) (prepareR_length _ _ _ _)
  have haddend : signed (Fields.width f) (c.lanes.getD 0 0) = (wLane (Fields.width f) c 0).toInt :=
    signed_eq_toInt_ofNat (width_pos f) _
  rw [← hsum, ← haddend, ← intPayload_lane_zero, ← fitS_eq_fitSigned]
  rfl

/-- Settles O4: `mad` fits the sum of its lanes' readings (`intThree_value`), `dot8` the one sum in lane 0 (`dot8Value_eq`); the
loader rejects a `dot8` of another format (`Accepted.format_i64`). -/
theorem integerMultiplyAdd : Obligations.IntegerMultiplyAdd := by
  refine ⟨fun f s => ⟨_, rfl, ?mad⟩, fun f s => ⟨_, rfl, ?dot8⟩, fun f haccept => ?format⟩
  case mad =>
    exact finish_delivers_of_eq (intThree_value 0x01F f s _ (fun a b c => fitSigned f (a.toInt * b.toInt + c.toInt))
      (fun a b c => by simp [fitS_eq_fitSigned]))
  case dot8 =>
    exact finish_delivers_of_eq (dot8Value_eq f s)
  case format =>
    obtain ⟨o, hop, -, h⟩ := accepted_of_wordReject haccept
    exact h.format_i64 (hop ▸ by decide)

end Sys2Proof.Machine
end

section
/-! Shifts, counts, byte order and bit fields of group 0 (O3). -/

namespace Sys2Proof.Machine

/-! ### Shifts and the rotate (R111) -/

section
variable {w : ℕ} (a b : BitVec w)

/-- Past twice the width a left shift wraps to 0, and is beyond the range in the sign of its operand. -/
theorem fitS_shift_min (hw : 0 < w) (sat : Bool) (x : ℤ) (n : ℕ) :
    fitS w sat (x * ((2 ^ min n (2 * w) : ℕ) : ℤ)) = fitS w sat (x * 2 ^ n) := by
  rcases Nat.le_total n (2 * w) with hn | hn
  · rw [min_eq_left hn]; push_cast; rfl
  rw [min_eq_right hn]
  have hwrap : ∀ k, w ≤ k → wrapNat w (x * 2 ^ k) = 0 := fun k hk => by
    have hdvd : (2 ^ w : ℤ) ∣ x * 2 ^ k := Dvd.dvd.mul_left (pow_dvd_pow 2 hk) x
    rw [wrapNat]; push_cast
    rw [Int.emod_eq_zero_of_dvd hdvd]; rfl
  have hclamp : ∀ k, w ≤ k → clampInt (loS w) (hiS w) (x * 2 ^ k) =
      if x = 0 then 0 else if x < 0 then loS w else hiS w := fun k hk => by
    have hpow : (2 : ℤ) ^ (w - 1) ≤ 2 ^ k := pow_le_pow_right₀ (by norm_num) (by omega)
    have hpos : (0 : ℤ) < 2 ^ (w - 1) := by positivity
    have hcast : ((2 ^ (w - 1) : ℕ) : ℤ) = 2 ^ (w - 1) := by push_cast; rfl
    unfold clampInt loS hiS
    rw [hcast]
    rcases lt_trichotomy x 0 with hx | rfl | hx
    · have hlow : x * 2 ^ k ≤ -2 ^ k := by nlinarith
      generalize x * 2 ^ k = y at hlow ⊢
      rw [if_neg hx.ne, if_pos hx]
      split <;> omega
    · rw [zero_mul, if_pos rfl, if_neg (by omega), if_neg (by omega)]
    · have hhigh : 2 ^ k ≤ x * 2 ^ k := by nlinarith
      generalize x * 2 ^ k = y at hhigh ⊢
      rw [if_neg hx.ne', if_neg hx.not_gt, if_neg (by omega), if_pos (by omega)]
  cases sat with
  | false =>
    simp only [fitS, Bool.false_eq_true, if_false]
    push_cast
    rw [hwrap _ (by omega), hwrap _ (by omega)]
  | true =>
    simp only [fitS, if_true]
    push_cast
    rw [hclamp _ (by omega), hclamp _ (by omega)]

theorem ushiftRight_min : a.toNat / 2 ^ min b.toNat w = (a >>> b.toNat).toNat := by
  rw [BitVec.toNat_ushiftRight, Nat.shiftRight_eq_div_pow]
  rcases Nat.le_total b.toNat w with hn | hn
  · rw [min_eq_left hn]
  · rw [min_eq_right hn, Nat.div_eq_of_lt a.isLt,
      Nat.div_eq_of_lt (a.isLt.trans_le (Nat.pow_le_pow_right two_pos hn))]

/-- Past the width an arithmetic shift leaves the sign alone. -/
theorem sraLane_eq (n : ℕ) : wrapNat w (Int.fdiv a.toInt ((2 ^ min n w : ℕ) : ℤ)) = (a.sshiftRight n).toNat := by
  rw [wrapNat_fdiv_two_pow, BitVec.sshiftRight_eq, Int.shiftRight_eq_div_pow]
  push_cast
  congr 2
  rcases Nat.le_total n w with hn | hn
  · rw [min_eq_left hn]
  rw [min_eq_right hn]
  have hsign : ∀ k, w ≤ k → a.toInt / 2 ^ k = if a.toInt < 0 then -1 else 0 := fun k hk => by
    have hpow : (2 : ℤ) ^ (w - 1) ≤ 2 ^ k := pow_le_pow_right₀ (by norm_num) (by omega)
    have hlow := BitVec.le_toInt (x := a)
    have hhigh := BitVec.toInt_lt (x := a)
    split
    · exact Int.ediv_eq_neg_one_of_neg_of_le (by omega) (by omega)
    · exact Int.ediv_eq_zero_of_lt (by omega) (by omega)
  rw [hsign w le_rfl, hsign n hn]

theorem rotlLane_eq (hw : 0 < w) (n : ℕ) : rotlLane w a.toNat n = (a.rotateLeft (n % w)).toNat := by
  rw [rotlLane, BitVec.toNat_rotateLeft, Nat.mod_mod, Nat.shiftLeft_eq, Nat.shiftRight_eq_div_pow]
  have hk := Nat.mod_lt n hw
  have hsplit : 2 ^ w = 2 ^ (w - n % w) * 2 ^ (n % w) := by rw [← pow_add, Nat.sub_add_cancel hk.le]
  have hlow : a.toNat / 2 ^ (w - n % w) < 2 ^ (n % w) := Nat.div_lt_of_lt_mul (hsplit ▸ a.isLt)
  rw [hsplit, Nat.mul_mod_mul_right, Nat.mul_comm _ (2 ^ (n % w)), Nat.two_pow_add_eq_or_of_lt hlow]

end

/-! ### Counts and byte order (R112) -/

/-- The numbers before the first at which `p` fails, if it fails below `n`, else all below `n`. -/
theorem length_takeWhile_range {p : ℕ → Bool} {k n : ℕ} (hkn : k ≤ n) (hbefore : ∀ i < k, p i = true)
    (hat : k < n → p k = false) : ((List.range n).takeWhile p).length = k := by
  obtain ⟨d, rfl⟩ := Nat.exists_eq_add_of_le hkn
  rw [List.range_add, List.takeWhile_append_of_pos (fun i hi => hbefore i (List.mem_range.1 hi)), List.length_append,
    List.length_range]
  cases d with
  | zero => simp
  | succ d => simp [List.range_succ_eq_map, hat (by omega)]

theorem clzLane_eq {w : ℕ} (a : BitVec w) :
    clzLane w a.toNat = ((List.range w).takeWhile (fun i => !a.getMsbD i)).length := by
  symm
  have hbit : ∀ i < w, a.getMsbD i = a.toNat.testBit (w - 1 - i) := fun i hi => by
    simp [BitVec.getMsbD_eq_getLsbD, hi, BitVec.testBit_toNat]
  by_cases h0 : a.toNat = 0
  · rw [clzLane, if_pos h0]
    exact length_takeWhile_range le_rfl (fun i hi => by simp [hbit i hi, h0]) (fun h => absurd h (lt_irrefl w))
  have hlog : a.toNat.log2 < w := (Nat.log2_lt h0).2 a.isLt
  rw [clzLane, if_neg h0]
  refine length_takeWhile_range (by omega) (fun i hi => ?_) (fun _ => ?_)
  · rw [hbit i (by omega), Nat.testBit_lt_two_pow ((Nat.log2_lt h0).1 (by omega))]; rfl
  · rw [hbit _ (by omega), show w - 1 - (w - 1 - a.toNat.log2) = a.toNat.log2 by omega, Nat.testBit_log2 h0]; rfl

theorem ctzBits_eq (n a : ℕ) : ctzBits n a = ((List.range n).takeWhile (fun i => !a.testBit i)).length := by
  induction n generalizing a with
  | zero => rfl
  | succ n ih =>
    rw [ctzBits, ih, List.range_succ_eq_map, List.takeWhile_cons, List.takeWhile_map, Nat.testBit_zero]
    by_cases h : a % 2 = 1 <;> simp [h, Function.comp_def, Nat.testBit_succ]

theorem popBits_eq (n a : ℕ) : popBits n a = ((List.range n).filter (fun i => a.testBit i)).length := by
  induction n generalizing a with
  | zero => rfl
  | succ n ih =>
    rw [popBits, ih, List.range_succ_eq_map, List.filter_cons, List.filter_map, Nat.testBit_zero]
    rcases Nat.mod_two_eq_zero_or_one a with h | h <;> simp [h, Function.comp_def, Nat.testBit_succ, Nat.add_comm]

theorem leNat_append_singleton (bs : List Byte) (b : Byte) : leNat (bs ++ [b]) = leNat bs + 256 ^ bs.length * b.toNat := by
  induction bs with
  | nil => simp [leNat]
  | cons c cs ih => simp only [List.cons_append, leNat, ih, List.length_cons, pow_succ]; ring

/-- Byte `k` of the swapped number is byte `n - 1 - k` of the number. -/
theorem swapBytes_eq (n a : ℕ) :
    swapBytes n a = leNat ((List.range n).map (fun k => BitVec.ofNat 8 (a / 256 ^ (n - 1 - k)))) := by
  induction n generalizing a with
  | zero => rfl
  | succ n ih =>
    have hhigh : (List.range n).map (fun k => BitVec.ofNat 8 (a / 256 ^ (n + 1 - 1 - k))) =
        (List.range n).map (fun k => BitVec.ofNat 8 (a / 256 / 256 ^ (n - 1 - k))) := by
      refine List.map_congr_left fun k hk => ?_
      have hk := List.mem_range.1 hk
      rw [Nat.div_div_eq_div_mul, ← pow_succ', show n - 1 - k + 1 = n + 1 - 1 - k by omega]
    rw [swapBytes, ih, List.range_succ, List.map_append, List.map_singleton, leNat_append_singleton, hhigh]
    simp [Nat.add_comm, Nat.mul_comm]

theorem eight_dvd_width (f : Fields) : 8 ∣ Fields.width f := by
  unfold Fields.width
  split
  · decide
  · split <;> decide

theorem swapBytes_lane (f : Fields) (a : BitVec (Fields.width f)) :
    swapBytes (Fields.width f / 8) a.toNat = leNat ((List.range (Fields.width f / 8)).map (fun k =>
      a.extractLsb' (Fields.width f - 8 - 8 * k) 8)) := by
  have hdvd := eight_dvd_width f
  rw [swapBytes_eq]
  congr 1
  refine List.map_congr_left fun k hk => ?_
  have hk := List.mem_range.1 hk
  have hpos : Fields.width f - 8 - 8 * k = 8 * (Fields.width f / 8 - 1 - k) := by omega
  rw [BitVec.extractLsb', Nat.shiftRight_eq_div_pow, hpos, pow_mul]
  norm_num

/-! ### Bit fields (R115) -/

section
variable {w : ℕ} (a b : BitVec w)

theorem sextLane_eq (c : ℕ) : sextLane w c a.toNat = ((a.setWidth (c + 1)).signExtend w).toNat := by
  rw [sextLane, signed_eq_toInt_ofNat c.succ_pos, BitVec.ofNat_toNat, wrapNat_eq_toNat_ofInt, BitVec.signExtend]

theorem bextLane_eq (pos len : ℕ) :
    a.toNat / 2 ^ pos % 2 ^ len % 2 ^ w = (((a >>> pos).setWidth len).setWidth w).toNat := by
  simp [Nat.shiftRight_eq_div_pow]

/-- A bit of a number whose field of `len` bits at `pos` is replaced by the low bits of another. -/
theorem testBit_binsLane (pos len a b i : ℕ) : (binsLane pos len a b).testBit i =
    if i < pos then a.testBit i else if i - pos < len then b.testBit (i - pos) else a.testBit i := by
  have ha : a = 2 ^ pos * (2 ^ len * (a / 2 ^ pos / 2 ^ len) + a / 2 ^ pos % 2 ^ len) + a % 2 ^ pos := by
    rw [Nat.div_add_mod, Nat.div_add_mod]
  have hbins : binsLane pos len a b = 2 ^ pos * (2 ^ len * (a / 2 ^ pos / 2 ^ len) + b % 2 ^ len) + a % 2 ^ pos := by
    have hsub : a - a / 2 ^ pos % 2 ^ len * 2 ^ pos = 2 ^ pos * (2 ^ len * (a / 2 ^ pos / 2 ^ len)) + a % 2 ^ pos := by
      refine Nat.sub_eq_of_eq_add ?_
      calc a = _ := ha
        _ = _ := by ring
    rw [binsLane, hsub]; ring
  rw [hbins, Nat.testBit_two_pow_mul_add _ (Nat.mod_lt _ (Nat.two_pow_pos _)),
    Nat.testBit_two_pow_mul_add _ (Nat.mod_lt _ (Nat.two_pow_pos _)), Nat.testBit_mod_two_pow, Nat.testBit_mod_two_pow,
    Nat.testBit_div_two_pow, Nat.testBit_div_two_pow]
  by_cases hpos : i < pos
  · simp [hpos]
  · by_cases hlen : i - pos < len
    · simp [hpos, hlen]
    · simp only [hpos, hlen, if_false]
      congr 1; omega

theorem binsLane_eq (pos len : ℕ) :
    let m : BitVec w := BitVec.ofNat _ (2 ^ len - 1)
    binsLane pos len a.toNat b.toNat % 2 ^ w = ((a &&& ~~~(m <<< pos)) ||| ((b &&& m) <<< pos)).toNat := by
  intro m
  rw [← BitVec.toNat_ofNat]
  congr 1
  refine BitVec.eq_of_getLsbD_eq fun i hi => ?_
  have hm : m.getLsbD (i - pos) = decide (i - pos < len) := by
    simp only [m, BitVec.getLsbD_ofNat, Nat.testBit_two_pow_sub_one]
    simp [show i - pos < w by omega]
  simp only [BitVec.getLsbD_ofNat, testBit_binsLane, BitVec.getLsbD_or, BitVec.getLsbD_and, BitVec.getLsbD_not,
    BitVec.getLsbD_shiftLeft, hm, hi, decide_true, Bool.true_and, BitVec.testBit_toNat]
  by_cases hpos : i < pos
  · simp [hpos]
  · by_cases hlen : i - pos < len <;> simp [hpos, hlen]

theorem leaLane_eq (k : ℕ) : (a.toNat + b.toNat * 2 ^ k) % 2 ^ w = (a + b <<< k).toNat := by
  simp [Nat.shiftLeft_eq]

end

/-- Settles O3: the lane functions of the shifts, the counts and the bit fields are the operations on patterns that the tables
of R111, R112 and R115 name. -/
theorem integerBits : Obligations.IntegerBits := by
  refine ⟨⟨twoInts_of _ (fun _ _ => rfl) fun f a b => ?shl, twoInts_of _ (fun _ _ => rfl) fun f a b => ?shr,
      twoInts_of _ (fun _ _ => rfl) fun f a b => ?sra, twoInts_of _ (fun _ _ => rfl) fun f a b => ?rotl⟩,
    ⟨oneInt_of _ (fun _ _ => rfl) fun f a => ?not, oneInt_of _ (fun _ _ => rfl) fun f a => ?abs,
      oneInt_of _ (fun _ _ => rfl) fun f a => ?neg, oneInt_of _ (fun _ _ => rfl) fun f a => ?clz,
      oneInt_of _ (fun _ _ => rfl) fun f a => ?ctz, oneInt_of _ (fun _ _ => rfl) fun f a => ?popc,
      oneInt_of _ (fun _ _ => rfl) fun f a => ?bswap⟩,
    oneInt_of _ (fun _ _ => rfl) fun f a => ?sext, oneInt_of _ (fun _ _ => rfl) fun f a => ?zext,
    oneInt_of _ (fun _ _ => rfl) fun f a => ?bext, twoInts_of _ (fun _ _ => rfl) fun f a b => ?bins,
    twoInts_of _ (fun _ _ => rfl) fun f a b => ?lea⟩
  case shl => rw [shlLane, signed_width_toNat, fitS_shift_min (width_pos f), fitS_eq_fitSigned, BitVec.toNat_mod_cancel]
  case shr => rw [ushiftRight_min, BitVec.toNat_mod_cancel]
  case sra => rw [sraLane, signed_width_toNat, sraLane_eq, BitVec.toNat_mod_cancel]
  case rotl => rw [rotlLane_eq a (width_pos f), BitVec.toNat_mod_cancel]
  case not => rw [← BitVec.toNat_not, BitVec.toNat_mod_cancel]
  case abs => rw [signed_width_toNat, Int.natCast_natAbs, fitS_eq_fitSigned, BitVec.toNat_mod_cancel]
  case neg => rw [signed_width_toNat, fitS_eq_fitSigned, BitVec.toNat_mod_cancel]
  case clz => rw [clzLane_eq, BitVec.toNat_ofNat]
  case ctz => rw [ctzBits_eq, BitVec.toNat_ofNat]; rfl
  case popc => rw [popBits_eq, BitVec.toNat_ofNat]; rfl
  case bswap => rw [swapBytes_lane, BitVec.toNat_ofNat]
  case sext => rw [sextLane_eq, BitVec.toNat_mod_cancel]
  case zext => simp
  case bext => exact bextLane_eq a _ _
  case bins => exact binsLane_eq a b _ _
  case lea => rw [leaLane_eq, BitVec.toNat_mod_cancel]

end Sys2Proof.Machine
end

section
/-! The arithmetic, order, sign, comparison, quotient and root forms of group 1 (O8, O9, O10): one lane function each. -/

namespace Sys2Proof.Machine

/-! ### Values lane by lane -/

theorem packNat_map_mod (w : ℕ) (xs : List ℕ) : packNat w (xs.map (· % 2 ^ w)) = packNat w xs := by
  induction xs with
  | nil => rfl
  | cons x xs ih => rw [List.map_cons, packNat, packNat, ih, Nat.mod_mod]

/-- A payload keeps of each lane the bits of its width. -/
theorem packLanes_congr (g : Fmt) {α : Type} {x y : α → ℕ} {l : List α}
    (h : ∀ a ∈ l, x a % 2 ^ Fmt.width g = y a % 2 ^ Fmt.width g) : packLanes g (l.map x) = packLanes g (l.map y) := by
  rw [packLanes, packLanes, ← packNat_map_mod, ← packNat_map_mod _ (l.map y), List.map_map, List.map_map]
  congr 2
  exact List.map_congr_left h

theorem causeOf_map_congr {α : Type} {x y : α → LaneRes} (h : ∀ a, (x a).cause = (y a).cause) (l : List α) :
    causeOf (l.map x) = causeOf (l.map y) := by
  induction l with
  | nil => rfl
  | cons a l ih => rw [List.map_cons, List.map_cons, causeOf, causeOf, h, ih]

theorem floatValue_congr (f : Fields) (ps : List Prepared) {x y : ℕ → LaneRes}
    (hbits : ∀ k, (x k).bits % 2 ^ Fmt.width f.fmtOut = (y k).bits % 2 ^ Fmt.width f.fmtOut)
    (hcause : ∀ k, (x k).cause = (y k).cause) : floatValue f ps x = floatValue f ps y := by
  unfold floatValue
  dsimp only
  rw [causeOf_map_congr hcause, List.map_map, List.map_map, Function.comp_def, Function.comp_def,
    packLanes_congr f.fmtOut fun k _ => hbits k]

/-- A form whose meaning is `finish` of a lane function of one operand, where the patterns agree in the bits of a lane. -/
theorem oneFloat_of_mod {op : ℕ} {i : Fields → Instr} {h : Fields → ℕ → LaneRes} (g : Fields → ℕ → LaneRes)
    (he : ∀ f s, exec (i f) s = .next (finish op f (fltOne f s (g f)) s))
    (hbits : ∀ f a, (g f a).bits % 2 ^ Fmt.width f.fmtOut = (h f a).bits % 2 ^ Fmt.width f.fmtOut)
    (hcause : ∀ f a, (g f a).cause = (h f a).cause) : OneFloat op i h := by
  intro f s
  have hval : fltOne f s (g f) = floatValue f [leftOf f s] (fun k => h f ((leftOf f s).lanes.getD k 0)) :=
    (fltOne_value f s (g f)).trans (floatValue_congr f _ (fun _ => hbits f _) fun _ => hcause f _)
  exact ⟨_, he f s, finish_delivers_of_eq hval⟩

/-! ### Lane functions -/

section
variable (f : Fields) (g : Fmt) (a b : ℕ)

theorem mulLane_eq : mulLane f a b =
    (let p := FVal.mul (decodeF f.fmtOut a) (decodeF f.fmtOut b)
     if p.2 then invalidF f.fmtOut else deliverF f.fmtOut f.round f.sat p.1) := by
  unfold mulLane
  obtain ⟨v, bad⟩ := FVal.mul (decodeF f.fmtOut a) (decodeF f.fmtOut b)
  cases bad <;> rfl

theorem belowF_eq : belowF g a b = (cmpF (decodeF g a) (decodeF g b) == .lt ||
    (cmpF (decodeF g a) (decodeF g b) == .eq && a / signBit g % 2 == 1)) := by
  unfold belowF
  cases cmpF (decodeF g a) (decodeF g b) <;> rfl

/-- `fmin` and `fmax` (R119): NaN where an operand is NaN, else the lower or the higher one. -/
theorem minMaxLane_nan (max : Bool) : minMaxLane g false max a b =
    ⟨if isNaN g a || isNaN g b then Fmt.nan g else if belowF g a b then cond max b a else cond max a b, none⟩ := by
  unfold minMaxLane
  cases isNaN g a <;> cases isNaN g b <;> cases belowF g a b <;> cases max <;> rfl

/-- `fminn` and `fmaxn` (R119): a number is preferred to NaN. -/
theorem minMaxLane_number (max : Bool) : minMaxLane g true max a b =
    ⟨if isNaN g a then (if isNaN g b then Fmt.nan g else b) else if isNaN g b then a
      else if belowF g a b then cond max b a else cond max a b, none⟩ := by
  unfold minMaxLane
  cases isNaN g a <;> cases isNaN g b <;> cases belowF g a b <;> cases max <;> rfl

/-- A relation of two lanes (R121) holds where neither is NaN and their order is of it. -/
theorem relLane_eq {p : Ordering → Bool} {q : Ordering → Prop} [DecidablePred q] (h : ∀ o, p o = true ↔ q o) :
    relLane g p a b = ⟨if isNaN g a = false ∧ isNaN g b = false ∧ q (cmpF (decodeF g a) (decodeF g b)) then oneOf g else 0,
      none⟩ := by
  simp only [relLane, Bool.and_eq_true, Bool.not_eq_true', and_assoc, h]

/-- Adding the top bit of a lane inverts it. -/
theorem add_two_pow_mod_eq_xor {n : ℕ} (hn : 0 < n) :
    (a + 2 ^ (n - 1)) % 2 ^ n = (a ^^^ 2 ^ (n - 1)) % 2 ^ n := by
  refine Nat.eq_of_testBit_eq fun i => ?_
  rw [Nat.testBit_mod_two_pow, Nat.testBit_mod_two_pow, Nat.testBit_xor, Nat.add_comm]
  rcases lt_trichotomy i (n - 1) with hi | rfl | hi
  · rw [Nat.testBit_two_pow_add_gt hi, Nat.testBit_two_pow_of_ne hi.ne', Bool.xor_false]
  · rw [Nat.testBit_two_pow_add_eq, Nat.testBit_two_pow_self, Bool.xor_true]
  · rw [decide_eq_false (by omega), Bool.false_and, Bool.false_and]

end

/-- Settles O8: each lane function is that of the table as it stands; a product's 0 × ∞ is told by `mulLane_eq`. -/
theorem floatArithmetic : Obligations.FloatArithmetic :=
  ⟨twoFloats_of _ (fun _ _ => rfl) fun _ _ _ => rfl, twoFloats_of _ (fun _ _ => rfl) fun _ _ _ => rfl,
    twoFloats_of _ (fun _ _ => rfl) fun f a b => mulLane_eq f a b, threeFloats_of _ (fun _ _ => rfl) fun _ _ _ _ => rfl,
    threeFloats_of _ (fun _ _ => rfl) fun _ _ _ _ => rfl, threeFloats_of _ (fun _ _ => rfl) fun _ _ _ _ => rfl⟩

/-- Settles O9: the choices of R119 by the cases of `minMaxLane`, the sign forms of R120 on the top bit of a lane, and the
relations of R121 (`relLane_eq`). -/
theorem floatOrderAndSigns : Obligations.FloatOrderAndSigns := by
  refine ⟨⟨twoFloats_of _ (fun _ _ => rfl) fun f a b => ?min, twoFloats_of _ (fun _ _ => rfl) fun f a b => ?max,
      twoFloats_of _ (fun _ _ => rfl) fun f a b => ?minn, twoFloats_of _ (fun _ _ => rfl) fun f a b => ?maxn⟩,
    ⟨oneFloat_of _ (fun _ _ => rfl) fun f a => rfl,
      oneFloat_of_mod _ (fun _ _ => rfl) (fun f a => ?neg) fun _ _ => rfl,
      twoFloats_of _ (fun _ _ => rfl) fun f a b => rfl⟩,
    twoFloats_of _ (fun _ _ => rfl) fun f a b => relLane_eq (q := (· = .eq)) _ a b fun o => ?eq,
    twoFloats_of _ (fun _ _ => rfl) fun f a b => relLane_eq (q := (· = .lt)) _ a b fun o => ?lt,
    twoFloats_of _ (fun _ _ => rfl) fun f a b => relLane_eq (q := (· ≠ .gt)) _ a b fun o => ?le,
    twoFloats_of _ (fun _ _ => rfl) fun f a b => ?un, by decide⟩
  case min | max => rw [minMaxLane_nan, belowF_eq]; rfl
  case minn | maxn => rw [minMaxLane_number, belowF_eq]; rfl
  case neg =>
    dsimp only
    rw [← two_pow_width, Nat.mod_mod]
    exact add_two_pow_mod_eq_xor a (fmt_width_pos f.fmtOut)
  case eq | lt => exact beq_iff_eq
  case le => exact bne_iff_ne
  case un => simp only [Bool.or_eq_true]

/-- Settles O10: the forms deliver `divF`, `rsqrtF` and `sqrtF` of each lane, and these decide the special operands before they
round. -/
theorem floatQuotientsAndRoots : Obligations.FloatQuotientsAndRoots := by
  refine ⟨oneFloat_of _ (fun _ _ => rfl) fun _ _ => rfl, oneFloat_of _ (fun _ _ => rfl) fun _ _ => rfl,
    oneFloat_of _ (fun _ _ => rfl) fun _ _ => rfl, twoFloats_of _ (fun _ _ => rfl) fun _ _ _ => rfl,
    fun g mode sat x y m n e k hm hn => ⟨rfl, rfl, ?_, rfl, rfl, rfl, ?_, rfl, rfl, rfl, ?_⟩⟩
  · simp only [divF, if_neg hm.ne', if_true]
  · simp only [rsqrtF, if_neg hm.ne', if_true]
  · simp only [sqrtF, if_neg hm.ne', if_true]

end Sys2Proof.Machine
end

section
/-! The special forms of group 1 (O13): exact powers of two, integral values, scaling and classes. -/

namespace Sys2Proof.Machine

/-! ### Powers of two (R123) -/

section
variable {g : Fmt} {mode : Round} {sat neg : Bool} {bits : ℕ}

/-- A natural number below 4096 as `m × 2^k` is in the range where `exp2F` works in fixed point, and there it is exact. -/
theorem exp2F_natural {n m : ℕ} {k : ℤ} (hn : 0 < n) (hlt : n < 4096) (hk : -400 ≤ k) (hval : (n : ℚ) = m * (2 : ℚ) ^ k) :
    exp2F g mode sat bits (.fin neg m k) = roundF g mode sat false 1 (if neg then -n else n) := by
  have hm : 0 < m := Nat.pos_of_ne_zero fun h => by simp [h] at hval; omega
  have hrat : FVal.rat (.fin false m k) = FVal.rat (.fin false n 0) := by simp [FVal.rat, ← hval]
  have hlog : (m.log2 : ℤ) + k = n.log2 + 0 := by rw [← log_rat false hm, ← log_rat false hn, hrat]
  have hlog12 : n.log2 < 12 := (Nat.log2_lt hn.ne').2 hlt
  have hfix : m * 2 ^ (k + fixBits).toNat = n * 2 ^ fixBits := by
    have hpow : ((2 : ℚ) ^ (k + fixBits).toNat) = 2 ^ k * 2 ^ fixBits := by
      rw [← zpow_natCast, Int.toNat_of_nonneg (by unfold fixBits; omega), zpow_add₀ two_ne_zero, zpow_natCast]
    have : ((m * 2 ^ (k + fixBits).toNat : ℕ) : ℚ) = (n * 2 ^ fixBits : ℕ) := by
      push_cast; rw [hpow, hval, mul_assoc]
    exact_mod_cast this
  have hpos : 0 < 2 ^ fixBits := Nat.two_pow_pos _
  simp only [exp2F, hfix, Nat.mul_div_cancel _ hpos, Nat.mul_mod_left, if_true]
  rw [if_neg hm.ne', if_neg (by omega), if_neg (by omega)]

theorem log2F_two_pow (b : ℕ) (e : ℤ) : log2F g mode sat bits (.fin false (2 ^ b) e) =
    roundF g mode sat (decide (e + b < 0)) (e + b).natAbs 0 := by
  simp only [log2F, Nat.log2_two_pow, if_true, Bool.false_eq_true, if_false]
  rw [if_neg (Nat.two_pow_pos b).ne']

end

/-! ### Finite patterns taken apart (R43) -/

section
variable {f : Fmt} {a mag : ℕ}

/-- A pattern is a magnitude with a sign. -/
theorem withSign_mod_signBit_eq (h : a < 2 ^ Fmt.width f) : withSign f (decide (signBit f ≤ a)) (a % signBit f) = a := by
  rw [two_pow_width] at h
  unfold withSign
  by_cases hs : signBit f ≤ a
  · rw [Nat.mod_eq_sub_mod hs, Nat.mod_eq_of_lt (by omega)]
    simp [hs]
  · simp [hs, Nat.mod_eq_of_lt (Nat.lt_of_not_le hs)]

theorem mag_le_of_finite (h : FVal.finite (decodeF f a) = true) : a % signBit f ≤ Fmt.maxFinite f := by
  by_contra hgt
  simp only [decodeF, if_pos (Nat.lt_of_not_le hgt)] at h
  split at h <;> cases h

/-- A finite pattern by its sign and magnitude. -/
theorem exists_withSign_of_finite (ha : a < 2 ^ Fmt.width f) (hfin : FVal.finite (decodeF f a) = true) :
    ∃ neg mag, a = withSign f neg mag ∧ mag ≤ Fmt.maxFinite f :=
  ⟨_, _, (withSign_mod_signBit_eq ha).symm, mag_le_of_finite hfin⟩

theorem magSig_lt (f : Fmt) (mag : ℕ) : magSig f mag < 2 ^ (Fmt.frac f + 1) := by
  have := Nat.mod_lt mag (Nat.two_pow_pos (Fmt.frac f))
  unfold magSig
  rw [pow_succ]
  split <;> omega

theorem magSig_of_lt (h : mag < 2 ^ Fmt.frac f) : magSig f mag = mag := by
  rw [magSig, if_pos (Nat.div_eq_of_lt h), Nat.mod_eq_of_lt h]

theorem le_magSig (h : 2 ^ Fmt.frac f ≤ mag) : 2 ^ Fmt.frac f ≤ magSig f mag := by
  have hdiv : mag / 2 ^ Fmt.frac f ≠ 0 := (Nat.div_pos h (Nat.two_pow_pos _)).ne'
  rw [magSig, if_neg hdiv]
  exact Nat.le_add_right _ _

theorem minQ_le_magExp (f : Fmt) (mag : ℕ) : minQ f ≤ magExp f mag := by
  unfold magExp minQ
  generalize mag / 2 ^ Fmt.frac f = d
  split <;> omega

/-- The parameters of the six formats, as far as overflow and underflow need them (R42). -/
theorem format_bounds (hf : Fmt.isFloat f = true) : Fmt.frac f ≤ 52 ∧ -1074 ≤ minQ f ∧ minQ f ≤ 0 ∧
    Fmt.maxFinite f < 2048 * 2 ^ Fmt.frac f ∧ 2 ^ Fmt.frac f ≤ Fmt.maxFinite f ∧ 0 ≤ magExp f (Fmt.maxFinite f) := by
  revert hf
  cases f <;> decide

theorem magExp_le (hf : Fmt.isFloat f = true) (h : mag ≤ Fmt.maxFinite f) : magExp f mag ≤ 2048 := by
  obtain ⟨-, -, hminQ, hmax, -⟩ := format_bounds hf
  have hdiv : mag / 2 ^ Fmt.frac f < 2048 := Nat.div_lt_of_lt_mul (by rw [Nat.mul_comm]; omega)
  unfold magExp
  generalize mag / 2 ^ Fmt.frac f = d at hdiv ⊢
  unfold minQ at hminQ ⊢
  split <;> omega

end

/-! ### Exact results -/

section
variable {f : Fmt} {mode : Round} {sat neg : Bool}

theorem IsRounding.eq_of_natCast {n : ℕ} {k : ℤ} (h : IsRounding mode (n : ℝ) k) : k = n := by
  have hlt : |(n : ℤ) - k| < 1 := by exact_mod_cast h.abs_sub_lt_one (Nat.cast_nonneg n)
  have := Int.abs_lt_one_iff.1 hlt
  omega

theorem roundAt_eq_of_exact {m n : ℕ} {e q : ℤ} (h : (m : ℝ) * 2 ^ (e - q) = n) : roundAt mode neg m e q = n := by
  have hpos : ∀ mode, roundAt mode false m e q = n := fun mode => by
    have := roundAt_isRounding_pos mode m e q
    rw [h] at this
    exact_mod_cast this.eq_of_natCast
  cases neg with
  | false => exact hpos mode
  | true => rw [roundAt_true]; exact hpos _

/-- A natural number that is a multiple of its last place and no greater than the greatest finite value is delivered as it is. -/
theorem roundF_natural (hf : Fmt.isFloat f = true) {n j : ℕ} (hj : (n : ℝ) * 2 ^ (0 - lastPlace f n 0) = j)
    (htop : (n : ℚ) ≤ Fmt.top f) :
    ∃ mag ≤ Fmt.maxFinite f, roundF f mode sat neg n 0 = ⟨withSign f neg mag, none⟩ ∧ magVal f mag = n := by
  rcases Nat.eq_zero_or_pos n with rfl | hn
  · exact ⟨0, Nat.zero_le _, rfl, by simp [magVal, magSig]⟩
  have hval : magVal f (roundedMag f mode neg n 0) = n := by
    have hreal : ((magVal f (roundedMag f mode neg n 0) : ℚ) : ℝ) = n := by
      rw [magVal_roundedMag hn, roundAt_eq_of_exact hj]
      push_cast
      rw [← hj, zero_sub, mul_assoc, ← zpow_add₀ two_ne_zero, neg_add_cancel, zpow_zero, mul_one]
    exact_mod_cast hreal
  have hmag : roundedMag f mode neg n 0 ≤ Fmt.maxFinite f := by
    rwa [← (magVal_strictMono f).le_iff_le, hval, ← top_eq_magVal hf]
  exact ⟨_, hmag, by rw [roundF_of_pos hn, if_neg (Nat.not_lt.2 hmag)], hval⟩

/-! ### Integral values (R125) -/

/-- The greatest finite value is an integer. -/
theorem exists_top_eq (hf : Fmt.isFloat f = true) : ∃ t : ℕ, Fmt.top f = t := by
  obtain ⟨-, -, -, -, -, hexp⟩ := format_bounds hf
  obtain ⟨c, hc⟩ := Int.eq_ofNat_of_zero_le hexp
  exact ⟨magSig f (Fmt.maxFinite f) * 2 ^ c, by rw [top_eq_magVal hf, magVal, hc, zpow_natCast]; push_cast; rfl⟩

theorem roundAt_le {m b : ℕ} {e : ℤ} (h : (m : ℝ) * 2 ^ e ≤ b) : roundAt mode neg m e 0 ≤ b := by
  have hpos : ∀ mode, roundAt mode false m e 0 ≤ b := fun mode => by
    have hround := roundAt_isRounding_pos mode m e 0
    rw [sub_zero] at hround
    exact_mod_cast hround.le_of_le (by positivity) (a := b) (by exact_mod_cast h)
  cases neg with
  | false => exact hpos mode
  | true => rw [roundAt_true]; exact hpos _

theorem log2_le_of_lt {n b : ℕ} (h : n < 2 ^ (b + 1)) : n.log2 ≤ b := by
  rcases Nat.eq_zero_or_pos n with rfl | hn
  · exact Nat.zero_le b
  · exact Nat.lt_succ_iff.1 ((Nat.log2_lt hn.ne').2 h)

/-- A multiple of 2^c has no bit below a last place that is not above 2^c. -/
theorem exists_units_of_lastPlace_le {u c : ℕ} (h : lastPlace f (u * 2 ^ c) 0 ≤ c) :
    ∃ j : ℕ, ((u * 2 ^ c : ℕ) : ℝ) * 2 ^ (0 - lastPlace f (u * 2 ^ c) 0) = j := by
  generalize lastPlace f (u * 2 ^ c) 0 = q at h ⊢
  refine ⟨u * 2 ^ (c - q).toNat, ?_⟩
  push_cast
  rw [mul_assoc, ← zpow_natCast, ← zpow_natCast, ← zpow_add₀ two_ne_zero, Int.toNat_of_nonneg (by omega), zero_sub,
    sub_eq_add_neg]

/-- The integer that a mode picks for a finite pattern is a multiple of its own last place: a value with bits below 1 is too small
to have a last place above 1, and one without is taken as it is. -/
theorem roundAt_zero_multiple (hf : Fmt.isFloat f = true) {m : ℕ} {e : ℤ} (hm : m < 2 ^ (Fmt.frac f + 1)) :
    ∃ j : ℕ, ((roundAt mode neg m e 0 : ℕ) : ℝ) * 2 ^ (0 - lastPlace f (roundAt mode neg m e 0) 0) = j := by
  obtain ⟨-, -, hminQ, -⟩ := format_bounds hf
  rcases lt_or_ge e 0 with hneg | hpos
  · have hle : roundAt mode neg m e 0 ≤ 2 ^ Fmt.frac f := by
      refine roundAt_le ?_
      have hhalf : (2 : ℝ) ^ e ≤ 2 ^ (-1 : ℤ) := zpow_le_zpow_right₀ one_le_two (by omega)
      have hm' : (m : ℝ) ≤ 2 ^ (Fmt.frac f + 1) := by exact_mod_cast hm.le
      calc (m : ℝ) * 2 ^ e ≤ 2 ^ (Fmt.frac f + 1) * 2 ^ (-1 : ℤ) := by gcongr
        _ = ((2 ^ Fmt.frac f : ℕ) : ℝ) := by rw [pow_succ, zpow_neg_one, mul_inv_cancel_right₀ two_ne_zero]; push_cast; rfl
    have hlog := log2_le_of_lt (hle.trans_lt (Nat.pow_lt_pow_right one_lt_two (Nat.lt_succ_self _)))
    have h := exists_units_of_lastPlace_le (f := f) (u := roundAt mode neg m e 0) (c := 0)
      (by rw [pow_zero, mul_one]; unfold lastPlace; omega)
    rwa [pow_zero, mul_one] at h
  · obtain ⟨c, rfl⟩ := Int.eq_ofNat_of_zero_le hpos
    have hexact : roundAt mode neg m c 0 = m * 2 ^ c := roundAt_eq_of_exact (by simp)
    have hlog := log2_le_of_lt (n := m * 2 ^ c) (b := Fmt.frac f + c)
      (by rw [Nat.add_right_comm, pow_add]; exact Nat.mul_lt_mul_of_pos_right hm (Nat.two_pow_pos c))
    rw [hexact]
    exact exists_units_of_lastPlace_le (by unfold lastPlace; omega)

theorem integralLane_spec (hf : Fmt.isFloat f = true) {a : ℕ} (ha : a < 2 ^ Fmt.width f)
    (hfin : FVal.finite (decodeF f a) = true) :
    (integralLane f mode a).cause = none ∧ (signBit f ≤ (integralLane f mode a).bits ↔ signBit f ≤ a) ∧
      ∃ k : ℤ, IsRounding mode ((FVal.rat (decodeF f a) : ℚ) : ℝ) k ∧
        FVal.rat (decodeF f (integralLane f mode a).bits) = k := by
  obtain ⟨neg, mag, rfl, hmag⟩ := exists_withSign_of_finite ha hfin
  obtain ⟨j, hj⟩ := roundAt_zero_multiple (mode := mode) (neg := neg) hf (e := magExp f mag) (magSig_lt f mag)
  have htop : ((roundAt mode neg (magSig f mag) (magExp f mag) 0 : ℕ) : ℚ) ≤ Fmt.top f := by
    obtain ⟨t, ht⟩ := exists_top_eq hf
    rw [ht]
    have hle : magVal f mag ≤ t := by rw [← ht, top_eq_magVal hf]; exact (magVal_strictMono f).monotone hmag
    have hle' : ((magVal f mag : ℚ) : ℝ) ≤ ((t : ℚ) : ℝ) := Rat.cast_le.2 hle
    rw [magVal] at hle'
    push_cast at hle'
    exact_mod_cast roundAt_le hle'
  obtain ⟨mag', hmag', hround, hval⟩ := roundF_natural (mode := .rtz) (sat := false) (neg := neg) hf hj htop
  have hlane : integralLane f mode (withSign f neg mag) = ⟨withSign f neg mag', none⟩ := by
    rw [integralLane, decodeF_finite hf hmag]
    exact hround
  have hlt : ∀ {m : ℕ}, m ≤ Fmt.maxFinite f → m < signBit f := fun h =>
    lt_of_le_of_lt h (Nat.lt_of_succ_lt (maxFinite_succ_lt_signBit hf))
  rw [hlane, decodeF_finite hf hmag]
  refine ⟨rfl, by rw [signBit_le_withSign (hlt hmag), signBit_le_withSign (hlt hmag')], _,
    roundInt_isRounding mode neg _ _, ?_⟩
  rw [rat_decodeF_finite hf hmag', hval, roundInt]
  cases neg <;> simp

end

/-! ### Scaling (R124) -/

section
variable {f : Fmt} {mode : Round} {sat neg : Bool} {m : ℕ} {e : ℤ}

theorem roundF_huge (hf : Fmt.isFloat f = true) (hm : 0 < m) (he : 4096 ≤ e) :
    roundF f mode sat neg m e = overflowed f mode sat neg := by
  obtain ⟨hfrac, -, hminQ, hmax, -⟩ := format_bounds hf
  have hunits : 2048 ≤ (lastPlace f m e - minQ f).toNat := by unfold lastPlace; omega
  have hmag : Fmt.maxFinite f < roundedMag f mode neg m e :=
    hmax.trans_le ((Nat.mul_le_mul_right _ hunits).trans (Nat.le_add_right _ _))
  rw [roundF_of_pos hm, if_pos hmag]

/-- Of a rest below a half the sign and the mode alone say whether it is rounded up (R46). -/
theorem roundsUp_tiny {sh : ℕ} (hm : 0 < m) (hlt : 2 * m < 2 ^ sh) :
    roundsUp mode neg 0 m sh = roundsUp mode neg 0 1 2 := by
  cases mode <;> simp [roundsUp, hm, hlt.not_gt]

/-- A significand of the format so far below its least unit is delivered as 0 or as the least pattern. -/
theorem roundF_tiny (hf : Fmt.isFloat f = true) (hm : 0 < m) (hlt : m < 2 ^ (Fmt.frac f + 1)) (he : e ≤ -4096) :
    roundF f mode sat neg m e = ⟨withSign f neg (if roundsUp mode neg 0 1 2 then 1 else 0), none⟩ := by
  obtain ⟨hfrac, hminQ, -, hmax, hge, -⟩ := format_bounds hf
  have hlog : m.log2 < Fmt.frac f + 1 := (Nat.log2_lt hm.ne').2 hlt
  have hlast : lastPlace f m e = minQ f := by unfold lastPlace; omega
  have hsh : 2 * m < 2 ^ (minQ f - e).toNat :=
    calc 2 * m < 2 * 2 ^ (Fmt.frac f + 1) := by omega
      _ = 2 ^ (Fmt.frac f + 2) := (pow_succ' 2 _).symm
      _ ≤ 2 ^ (minQ f - e).toNat := Nat.pow_le_pow_right two_pos (by omega)
  have hround : roundAt mode neg m e (minQ f) = if roundsUp mode neg 0 1 2 then 1 else 0 := by
    rw [roundAt, if_neg (by omega)]
    dsimp only
    rw [Nat.div_eq_of_lt (by omega), Nat.mod_eq_of_lt (by omega), roundsUp_tiny hm hsh]
  have hmag : roundedMag f mode neg m e = if roundsUp mode neg 0 1 2 then 1 else 0 := by
    rw [roundedMag, hlast, sub_self, Int.toNat_zero, Nat.zero_mul, Nat.zero_add, hround]
  have hmax1 : 1 ≤ Fmt.maxFinite f := (Nat.one_le_two_pow).trans hge
  rw [roundF_of_pos hm, hmag, if_neg (by split <;> omega)]

/-- Past ±20000 a scale acts as 20000 does: either everything overflows, or everything is below the least unit. -/
theorem roundF_clamped_scale (hf : Fmt.isFloat f = true) (hm : 0 < m) (hlt : m < 2 ^ (Fmt.frac f + 1)) (hlow : minQ f ≤ e)
    (hhigh : e ≤ 2048) (n : ℤ) :
    roundF f mode sat neg m (e + clampInt (-20000) 20000 n) = roundF f mode sat neg m (e + n) := by
  obtain ⟨-, hminQ, -⟩ := format_bounds hf
  unfold clampInt
  split
  · rw [roundF_tiny hf hm hlt (by omega), roundF_tiny hf hm hlt (by omega)]
  · split
    · rw [roundF_huge hf hm (by omega), roundF_huge hf hm (by omega)]
    · rfl

end

theorem scaleLane_rounded {f : Fields} (hf : Fmt.isFloat f.fmtOut = true) {a : ℕ} (ha : a < 2 ^ Fmt.width f.fmtOut)
    (hfin : FVal.finite (decodeF f.fmtOut a) = true) (hne : FVal.rat (decodeF f.fmtOut a) ≠ 0) (n : ℤ) :
    Rounded f.fmtOut f.round f.sat (((FVal.rat (decodeF f.fmtOut a) * (2 : ℚ) ^ n : ℚ) : ℝ)) (scaleLane f n a) := by
  obtain ⟨neg, mag, rfl, hmag⟩ := exists_withSign_of_finite ha hfin
  rw [decodeF_finite hf hmag] at hne ⊢
  have hm : 0 < magSig f.fmtOut mag := Nat.pos_of_ne_zero fun h => hne (by simp [FVal.rat, h])
  have hval : FVal.rat (.fin neg (magSig f.fmtOut mag) (magExp f.fmtOut mag)) * (2 : ℚ) ^ n =
      FVal.rat (.fin neg (magSig f.fmtOut mag) (magExp f.fmtOut mag + n)) := by
    rw [FVal.rat, FVal.rat, zpow_add₀ two_ne_zero, mul_assoc]
  rw [hval, scaleLane, decodeF_finite hf hmag]
  dsimp only
  rw [if_neg hm.ne', roundF_clamped_scale hf hm (magSig_lt _ _) (minQ_le_magExp _ _) (magExp_le hf hmag)]
  exact roundF_rounded hf hm _ _ neg

/-! ### Classes (R126) -/

section
variable {g : Fmt} (hg : Fmt.isFloat g = true)
include hg

theorem classLane_finite {neg : Bool} {mag : ℕ} (h : mag ≤ Fmt.maxFinite g) : classLane g (withSign g neg mag) =
    if mag = 0 then (if neg then 3 else 4)
    else if mag < 2 ^ Fmt.frac g then (if neg then 2 else 5)
    else if neg then 1 else 6 := by
  rw [classLane, decodeF_finite hg h]
  dsimp only
  rcases Nat.lt_or_ge mag (2 ^ Fmt.frac g) with hlt | hge
  · rw [magSig_of_lt hlt]
  · have hsig := le_magSig hge
    have hpos := Nat.two_pow_pos (Fmt.frac g)
    have hsig0 : magSig g mag ≠ 0 := by omega
    have hmag0 : mag ≠ 0 := by omega
    simp only [hsig0, hmag0, hsig.not_gt, hge.not_gt, if_false]

theorem classLane_spec {a : ℕ} (ha : a < 2 ^ Fmt.width g) :
    let neg := decide (signBit g ≤ a)
    let mag := a % signBit g
    (mag = 0 → classLane g a = if neg then 3 else 4) ∧
    (0 < mag → mag < 2 ^ Fmt.frac g → classLane g a = if neg then 2 else 5) ∧
    (2 ^ Fmt.frac g ≤ mag → mag ≤ Fmt.maxFinite g → classLane g a = if neg then 1 else 6) ∧
    (g ≠ .e4m3 → mag = Fmt.maxFinite g + 1 → classLane g a = if neg then 0 else 7) ∧
    (isNaN g a = true → classLane g a = 8) := by
  intro neg mag
  obtain ⟨-, -, -, -, hnormal, -⟩ := format_bounds hg
  have hpattern : withSign g neg mag = a := withSign_mod_signBit_eq ha
  have hfinite := fun h => hpattern ▸ classLane_finite hg (neg := neg) (mag := mag) h
  refine ⟨fun hzero => ?_, fun hpos hlt => ?_, fun hge hle => ?_, fun h4 hinf => ?_, fun hnan => ?_⟩
  · rw [hfinite (by omega), if_pos hzero]
  · rw [hfinite (by omega), if_neg hpos.ne', if_pos hlt]
  · rw [hfinite hle, if_neg (by have := Nat.two_pow_pos (Fmt.frac g); omega), if_neg (Nat.not_lt.2 hge)]
  · rw [← hpattern, hinf, classLane, decodeF_inf hg h4]
  · rw [classLane, isNaN_iff.1 hnan]

end

/-! ### The forms -/

theorem fscaleValue_eq (f : Fields) (s : State) :
    let r := prepareR 0x097 .i64 f s
    fscaleValue f s = floatValue f [leftOf f s, r]
      (fun k => scaleLane f (wLane 64 r 0).toInt ((leftOf f s).lanes.getD k 0)) := by
  intro r
  have hn : signed 64 (r.lanes.getD 0 0) = (wLane 64 r 0).toInt := signed_eq_toInt_ofNat (by decide) _
  unfold fscaleValue floatValue
  dsimp only
  rw [map_range _ _ 0 _ (prepare_length _ _ _), hn]
  simp [minCause, leftOf, r]

theorem fclassValue_eq (f : Fields) (s : State) : fclassValue f s =
    ⟨packLanes .i8 ((List.range (Fmt.lanes f.fmtOut)).map (fun k => classLane f.fmtOut ((leftOf f s).lanes.getD k 0))), .i8,
      (leftOf f s).cause, (leftOf f s).converted⟩ := by
  unfold fclassValue
  dsimp only
  rw [map_range _ _ 0 _ (prepare_length _ _ _)]
  rfl

/-- Settles O13: the special operands by the cases of `exp2F` and `log2F`; the integer of a rounding form is exact
(`integralLane_spec`), a scaled value is rounded once (`scaleLane_rounded`), and the classes by magnitude (`classLane_spec`). -/
theorem floatSpecialForms : Obligations.FloatSpecialForms := by
  refine ⟨⟨oneFloat_of _ (fun _ _ => rfl) fun _ _ => rfl, oneFloat_of _ (fun _ _ => rfl) fun _ _ => rfl,
    fun f s => ⟨_, rfl, ?scale⟩,
    oneFloat_of _ (fun _ _ => rfl) fun _ _ => rfl, oneFloat_of _ (fun _ _ => rfl) fun _ _ => rfl,
    oneFloat_of _ (fun _ _ => rfl) fun _ _ => rfl, oneFloat_of _ (fun _ _ => rfl) fun _ _ => rfl,
    fun f s => ⟨_, rfl, ?classes⟩,
    fun g mode sat neg bits n e hn hlt => ⟨rfl, rfl, rfl, fun m k hk hval => exp2F_natural hn hlt hk hval, rfl, rfl, rfl,
      ?log, fun b => log2F_two_pow b e⟩⟩,
    fun g mode a hg ha hfin => integralLane_spec hg ha hfin, fun f a n hf ha hfin hne => scaleLane_rounded hf ha hfin hne n,
    fun g a hg ha => classLane_spec hg ha⟩
  case scale => exact finish_delivers_of_eq (fscaleValue_eq f s)
  case classes => exact finish_delivers_of_eq (fclassValue_eq f s)
  case log => simp only [log2F, if_neg hn.ne', if_true]

end Sys2Proof.Machine
end

section
/-! Conversion, lane and reduction forms of group 2 (O15, O16, O17). -/

namespace Sys2Proof.Machine

/-! ### Conversion forms (R127, R129) -/

/-- A value taken lane by lane from tokens as tagged has no cause of a preparation. -/
theorem laneValue_eq (f : Fields) (g : ℕ → LaneRes) : laneValue f g = floatValue f [] g := rfl

/-- An unsigned integer result (R127), clamped or wrapped where it comes from an integer. -/
theorem cvtILane_eq (f : Fields) (g : Fmt) (x : ℕ) : cvtILane f g x =
    if Fmt.isFloat g then floatToInt (Fmt.width f.fmtOut) 0 (2 ^ Fmt.width f.fmtOut - 1) f.round f.sat (decodeF g x)
    else ⟨if f.sat then (max 0 (min (signed (Fmt.width g) x) (2 ^ Fmt.width f.fmtOut - 1))).toNat
      else x % 2 ^ Fmt.width f.fmtOut, none⟩ := by
  have hcast : ((2 ^ Fmt.width f.fmtOut : ℕ) : ℤ) = 2 ^ Fmt.width f.fmtOut := by push_cast; rfl
  have hpos := Nat.two_pow_pos (Fmt.width f.fmtOut)
  rw [cvtILane, clampInt_eq (by omega), hcast]
  cases f.sat <;> rfl

/-- Settles O15: each form is its lane function of the operands as tagged (`laneValue_eq`), and `retag` passes the payload on. -/
theorem conversionForms : Obligations.ConversionForms := by
  unfold Obligations.ConversionForms
  intro from' cv
  refine ⟨fun f s => ⟨_, rfl, finish_delivers_of_eq (laneValue_eq f _)⟩, fun f s => ⟨_, rfl, ?unsigned⟩,
    fun f s => ⟨_, rfl, finish_delivers_of_eq (laneValue_eq f _)⟩, fun f s => ⟨_, rfl, finish_delivers 0x103 f _ s⟩,
    fun f s => ⟨_, rfl, finish_delivers 0x104 f (packValue f s) s⟩,
    fun f s => ⟨_, rfl, finish_delivers_of_eq (laneValue_eq f _)⟩, fun f s => ⟨_, rfl, finish_delivers_of_eq (laneValue_eq f _)⟩⟩
  case unsigned =>
    simp only [← cvtILane_eq]
    exact finish_delivers_of_eq (laneValue_eq f _)

/-! ### Lane forms (R130, R131) -/

section
variable (f : Fields) (s : State)

/-- The value of a form of one prepared operand whose own lanes raise no cause. -/
theorem lanesValue_of_no_cause (g : List ℕ → List LaneRes) (h : ∀ r ∈ g (leftOf f s).lanes, r.cause = none) :
    lanesValue f s g = ⟨packLanes f.fmtOut ((g (leftOf f s).lanes).map LaneRes.bits), f.fmtOut, (leftOf f s).cause,
      (leftOf f s).converted⟩ := by
  unfold lanesValue leftOf at *
  dsimp only
  rw [causeOf_eq_none h, minCause_none_right]

theorem shufValue_eq :
    let sel := fun i => field (opR 0x107 f s).payload (8 * i + 7) (8 * i)
    shufValue f s = ⟨packLanes f.fmtOut ((List.range (Fmt.lanes f.fmtOut)).map (fun i =>
        if 128 ≤ sel i ∨ Fmt.lanes f.fmtOut ≤ sel i % 128 then 0 else (leftOf f s).lanes.getD (sel i % 8) 0)),
      f.fmtOut, (leftOf f s).cause, (leftOf f s).converted⟩ := by
  simp only [shufValue, Bool.or_eq_true, decide_eq_true_eq]
  rfl

theorem bcastValue_eq : lanesValue f s (fun xs => List.replicate (Fmt.lanes f.fmtOut) ⟨xs.getD (f.aux16.toNat % 8) 0, none⟩) =
    ⟨packLanes f.fmtOut ((List.range (Fmt.lanes f.fmtOut)).map (fun _ => (leftOf f s).lanes.getD (f.aux16.toNat % 8) 0)),
      f.fmtOut, (leftOf f s).cause, (leftOf f s).converted⟩ := by
  rw [lanesValue_of_no_cause f s _ fun r hr => by rw [List.eq_of_mem_replicate hr], List.map_replicate, List.map_const',
    List.length_range]

theorem lextValue_eq : lanesValue f s (fun xs => [⟨xs.getD (f.aux16.toNat % 8) 0, none⟩]) =
    ⟨packLanes f.fmtOut ((List.range (Fmt.lanes f.fmtOut)).map (fun i =>
        if i = 0 then (leftOf f s).lanes.getD (f.aux16.toNat % 8) 0 else 0)),
      f.fmtOut, (leftOf f s).cause, (leftOf f s).converted⟩ := by
  rw [lanesValue_of_no_cause f s _ fun r hr => by rw [List.mem_singleton.1 hr], packLanes_lane_zero]
  rfl

/-- A list with one place replaced, as a list over its positions. -/
theorem set_eq_map_range {xs : List ℕ} {n : ℕ} (hn : xs.length = n) (k x : ℕ) :
    xs.set k x = (List.range n).map (fun i => if i = k then x else xs.getD i 0) := by
  apply List.ext_getElem
  · simp [hn]
  · intro i h1 h2
    have hi : i < xs.length := by simpa using h1
    simp [List.getElem_set, hi, eq_comm]

theorem linsValue_eq : linsValue f s = ⟨packLanes f.fmtOut ((List.range (Fmt.lanes f.fmtOut)).map (fun i =>
      if i = f.aux16.toNat % 8 then (rightOf 0x10A f s).lanes.getD 0 0 else (leftOf f s).lanes.getD i 0)), f.fmtOut,
    minCause (leftOf f s).cause (rightOf 0x10A f s).cause, (leftOf f s).converted || (rightOf 0x10A f s).converted⟩ := by
  unfold linsValue
  dsimp only
  rw [set_eq_map_range (prepare_length _ _ _)]
  rfl

end

/-- Settles O16: `shuf` and `lins` by position (`shufValue_eq`, `linsValue_eq`); `bcast` and `lext` raise no cause of their own. -/
theorem laneForms : Obligations.LaneForms := by
  unfold Obligations.LaneForms
  intro got l
  refine ⟨fun f s => ⟨_, rfl, ?shuf⟩, fun f s => ⟨_, rfl, ?bcast⟩, fun f s => ⟨_, rfl, ?lext⟩, fun f s => ⟨_, rfl, ?lins⟩⟩
  case shuf => exact finish_delivers_of_eq (shufValue_eq f s)
  case bcast => exact finish_delivers_of_eq (bcastValue_eq f s)
  case lext => exact finish_delivers_of_eq (lextValue_eq f s)
  case lins => exact finish_delivers_of_eq (linsValue_eq f s)

/-! ### Reductions (R132, R133) -/

/-- The lanes of an operand prepared in fmt_out that the mask enables. -/
theorem maskLanes_eq (f : Fields) {xs : List ℕ} (h : xs.length = Fmt.lanes f.fmtOut) : maskLanes f xs =
    ((List.range (Fmt.lanes f.fmtOut)).filter (fun i => bit f.aux16 i)).map (fun i => xs.getD i 0) := by
  rw [maskLanes, h]

theorem maskLanes_leftOf (f : Fields) (s : State) : maskLanes f (leftOf f s).lanes =
    ((List.range (Fmt.lanes f.fmtOut)).filter (fun i => bit f.aux16 i)).map (fun i => (leftOf f s).lanes.getD i 0) :=
  maskLanes_eq f (prepare_length _ _ _)

theorem maskLanes_rightOf (op : ℕ) (f : Fields) (s : State) : maskLanes f (rightOf op f s).lanes =
    ((List.range (Fmt.lanes f.fmtOut)).filter (fun i => bit f.aux16 i)).map (fun i => (rightOf op f s).lanes.getD i 0) :=
  maskLanes_eq f (prepareR_length _ _ _ _)

theorem hsumLane_eq (f : Fields) (xs : List ℕ) : hsumLane f xs =
    if Fmt.isFloat f.fmtOut then sumTo f.fmtOut f.round f.sat false (xs.map (decodeF f.fmtOut))
    else ⟨fitS (Fmt.width f.fmtOut) f.sat ((xs.map (signed (Fmt.width f.fmtOut))).sum), none⟩ := by
  rw [hsumLane, sumInt_eq_sum]

/-- A form that delivers one result of its prepared lanes in lane 0. -/
theorem lanesValue_singleton (f : Fields) (s : State) (x : List ℕ → LaneRes) : lanesValue f s (fun xs => [x xs]) =
    ⟨packLanes f.fmtOut [(x (leftOf f s).lanes).bits], f.fmtOut, minCause (leftOf f s).cause (x (leftOf f s).lanes).cause,
      (leftOf f s).converted⟩ := by
  simp [lanesValue, leftOf, causeOf]

theorem foldLanes_cons (g : ℕ → ℕ → ℕ) (x : ℕ) {xs : List ℕ} (h : xs ≠ []) : foldLanes g (x :: xs) = g x (foldLanes g xs) := by
  obtain ⟨y, ys, rfl⟩ := List.exists_cons_of_ne_nil h
  rfl

section
variable {g : Fmt} (a b : ℕ)

theorem pickLane_int (hg : Fmt.isFloat g = false) (max : Bool) : pickLane g max a b =
    if (signed (Fmt.width g) a ≤ signed (Fmt.width g) b) == max then b else a := by
  simp [pickLane, hg]

theorem pickLane_float (hg : Fmt.isFloat g = true) (max : Bool) : pickLane g max a b = (minMaxLane g false max a b).bits := by
  simp [pickLane, hg]

end

/-- Settles O17: the reductions deliver one result of the enabled lanes (`lanesValue_singleton`, `maskLanes_eq`). -/
theorem reductionForms : Obligations.ReductionForms := by
  unfold Obligations.ReductionForms
  intro on
  refine ⟨fun f s => ⟨_, rfl, ?hsum⟩, fun f s => ⟨_, rfl, ?hmax⟩, fun f s => ⟨_, rfl, ?hmin⟩, fun f s => ⟨_, rfl, ?fdot⟩,
    fun g x xs h => foldLanes_cons g x h, fun g a b hg => ?ints, fun g a b m hg => pickLane_float a b hg m⟩
  case hsum =>
    refine finish_delivers_of_eq ?_
    rw [lanesValue_singleton, maskLanes_leftOf, hsumLane_eq]
  case hmax | hmin =>
    refine finish_delivers_of_eq ?_
    rw [lanesValue_singleton, maskLanes_leftOf, minCause_none_right]
  case fdot =>
    refine finish_delivers_of_eq ?_
    rw [fdotValue, ← leftOf, ← rightOf, maskLanes_leftOf, maskLanes_rightOf]
  case ints =>
    rw [pickLane_int a b hg, pickLane_int a b hg]
    by_cases h : signed (Fmt.width g) a ≤ signed (Fmt.width g) b <;> simp [h]

end Sys2Proof.Machine
end

section
/-! Group 3, dataflow control and tags (O19 to O23): each form's meaning splits as its rule does, and every branch is one of the
shared endings of a firing. -/

namespace Sys2Proof.Machine

section
variable {f : Fields} {s : State}

/-! ### steer, mux, merge, fan and sink -/

theorem ite_bne_zero {α : Type} (w : Word) (a b : α) : (if (w != 0) = true then a else b) = if w = 0 then b else a := by
  by_cases h : w = 0 <;> simp [h]

/-- The key under which a region remembers the firing of a sink (R60). -/
def State.fireKey (s : State) : Nat × Nat × Nat := (member s.firing.site s.firing.station, s.firing.ctx, s.firing.tag)

/-- A sink reports a poisoned token of a (ctx, tag) that its region has not reported, and remembers it (R60). -/
theorem exec_sink_first (hp : (opL f s).poison = true) (hk : s.fireKey ∉ (s.region (s.fireRegion.getD 0)).reported) :
    exec (.sink f) s = .next (finishWith 0x184 f
      [.error (sinkRecord (s.region (s.fireRegion.getD 0)) (s.fireRec 0x03)) none false]
      (s.onRegion (s.fireRegion.getD 0) (fun r => { r with reported := r.reported ++ [s.fireKey] }))) := by
  change execSink f s = _
  unfold State.fireKey at hk ⊢
  simp [execSink, State.sinkFirst, hp, hk]

theorem exec_sink_silent (h : (opL f s).poison = false ∨ s.fireKey ∈ (s.region (s.fireRegion.getD 0)).reported) :
    exec (.sink f) s = .next (finishWith 0x184 f [] s) := by
  change execSink f s = _
  unfold State.fireKey at h
  cases hp : (opL f s).poison with
  | false => simp [execSink, hp]
  | true => simp [execSink, State.sinkFirst, hp, h.resolve_left (by simp [hp])]

end

/-- Settles O19: a poisoned P reports, anything else passes the chosen token on, and a sink speaks once of each poisoned
(ctx, tag) (`exec_sink_first`, `exec_sink_silent`). -/
theorem steeringAndSinks : Obligations.SteeringAndSinks := by
  unfold Obligations.SteeringAndSinks
  refine ⟨⟨fun f s => ?steer, fun f s => ?mux, fun f s => ⟨_, rfl, finishPass_passes _ f _ s⟩,
    fun f s => ⟨_, rfl, finishPass_passes _ f _ s⟩⟩, fun f s => ?sink⟩
  case steer =>
    by_cases hp : (tokR f s).poison = true
    · exact ⟨_, if_pos hp, by rw [if_pos hp]; exact finishReport_reports 0x180 f s⟩
    · refine ⟨_, if_neg hp, ?_⟩
      rw [if_neg hp, ← ite_bne_zero]
      exact finishWith_leaves 0x180 f _ s
  case mux =>
    by_cases hp : (opP f s).poison = true
    · exact ⟨_, if_pos hp, by rw [if_pos hp]; exact finishReport_reports 0x182 f s⟩
    · refine ⟨_, if_neg hp, ?_⟩
      rw [if_neg hp, ← ite_bne_zero]
      exact finishPass_passes 0x182 f _ s
  case sink =>
    by_cases h : (opL f s).poison = false ∨ s.fireKey ∈ (s.region (s.fireRegion.getD 0)).reported
    · exact ⟨_, exec_sink_silent h, (if_pos h).mpr (finishWith_leaves 0x184 f _ s)⟩
    · obtain ⟨hp, hk⟩ := not_or.mp h
      exact ⟨_, exec_sink_first (by simpa using hp) hk, (if_neg h).mpr (finishWith_leaves 0x184 f _ _)⟩

/-! ### const and invar -/

/-- Settles O20: an `invar` splits on the port of its token and on its immediate. -/
theorem constantsAndHeldValues : Obligations.ConstantsAndHeldValues := by
  unfold Obligations.ConstantsAndHeldValues
  refine ⟨fun f s => ⟨_, rfl, finish_delivers 0x185 f _ s⟩, fun f s hr => ?replace, fun f s hl himm => ?held, fun f s hl himm => ?imm⟩
  case replace => exact ⟨_, if_pos (beq_iff_eq.mpr hr), finishWith_leaves 0x186 f [] _⟩
  case held =>
    refine ⟨_, if_neg (by simpa using hl), ?_⟩
    have hheld : heldValue f s = Map.get (s.pe s.firing.site).invar ⟨0, .i64, false⟩ (stKey s.firing.ctx s.firing.station) := by
      simp [heldValue, himm]
    rw [hheld]
    exact finishWith_leaves 0x186 f _ s
  case imm =>
    refine ⟨_, if_neg (by simpa using hl), ?_⟩
    have hheld : heldValue f s = ⟨(immToken 0x186 f).payload, (immToken 0x186 f).fmt, false⟩ := by simp [heldValue, himm]
    rw [hheld, Bool.or_false]
    exact finishWith_leaves 0x186 f _ s

/-! ### Tag forms, wave and squash -/

theorem noteWave_of_region {s : State} {k : Nat} (hk : s.fireRegion = some k) : noteWave s =
    s.onRegion k (fun r => { r with lastWave := some (s.firing.site, s.firing.station, s.firing.tag) }) := by
  simp [noteWave, hk]

/-- Settles O21: the tag forms emit L `retagged`, where no poison of R reports instead. -/
theorem tagWaveAndSquash : Obligations.TagWaveAndSquash := by
  unfold Obligations.TagWaveAndSquash
  refine ⟨⟨fun f s => ?set, fun f s => ⟨_, rfl, finishWith_leaves 0x189 f _ s⟩, fun f s => ⟨_, rfl, finishWith_leaves 0x18A f _ s⟩,
    fun f s => ?join⟩, fun f s k hk => ?wave, fun f s => ⟨_, rfl, finishWith_leaves 0x18C f _ s⟩⟩
  case set =>
    by_cases hp : (opR 0x188 f s).poison = true
    · exact ⟨_, if_pos hp, by rw [if_pos hp]; exact finishReport_reports 0x188 f s⟩
    · refine ⟨_, if_neg hp, ?_⟩
      rw [if_neg hp]
      exact finishWith_leaves 0x188 f _ s
  case join =>
    by_cases hp : (opR 0x18B f s).poison = true
    · exact ⟨_, if_pos hp, by rw [if_pos hp]; exact finishReport_reports 0x18B f s⟩
    · refine ⟨_, if_neg hp, ?_⟩
      rw [if_neg hp, ite_bne_zero]
      by_cases hz : (opR 0x18B f s).payload = 0
      · rw [if_pos hz, if_pos hz]
        exact finishWith_leaves 0x18B f [] s
      · rw [if_neg hz, if_neg hz]
        exact finishWith_leaves 0x18B f _ s
  case wave =>
    refine ⟨_, rfl, ?_⟩
    rw [← noteWave_of_region hk]
    exact finishWith_leaves 0x187 f _ _

/-! ### Frames -/

/-- The frame found is free and in the pool, and every lower one is taken. -/
theorem freeFrame_spec {n t g : Nat} {m : Map Frame} (h : freeFrame n m t = some g) :
    t ≤ g ∧ g < t + n ∧ Map.find m g = none ∧ ∀ i, t ≤ i → i < g → (Map.find m i).isSome = true := by
  induction n generalizing t with
  | zero => simp [freeFrame] at h
  | succ n ih =>
    cases hf : Map.find m t with
    | none =>
      simp only [freeFrame, hf, Option.some.injEq] at h
      subst h
      exact ⟨le_rfl, by omega, hf, fun i h1 h2 => by omega⟩
    | some v =>
      simp only [freeFrame, hf] at h
      obtain ⟨hlo, hhi, hfree, hbelow⟩ := ih h
      refine ⟨by omega, by omega, hfree, fun i h1 h2 => ?_⟩
      rcases Nat.eq_or_lt_of_le h1 with rfl | hlt
      · simp [hf]
      · exact hbelow i hlt h2

section
variable {op p : Nat} {ret : BitVec 32} {f : Fields} {s : State} {dest : Frame → Target}

theorem enterFrame_none (h : s.fireReg.frameFree p = none) : enterFrame op p ret f s = requeue s := by simp [enterFrame, h]

theorem enterFrame_some {g : Nat} (h : s.fireReg.frameFree p = some g) : enterFrame op p ret f s =
    finishWith op f (emitTo f.a (retagged op f s (emitTag f g))) (s.onRegion (s.fireRegion.getD 0) (fun r => { r with
      frames := Map.put r.frames g ⟨s.firing.tag, (fireSeq f s).toNat, ret, member s.firing.site s.firing.station⟩ })) := by
  simp [enterFrame, h]

theorem leaveFrame_poisoned (hp : (opL f s).poison = true) : leaveFrame op dest f s = finishReport op f s := by
  simp [leaveFrame, hp]

theorem leaveFrame_none (hp : ¬(opL f s).poison = true) (h : Map.find s.fireReg.frames s.firing.tag = none) :
    leaveFrame op dest f s = finishFault op f 0x13 s := by
  simp [leaveFrame, hp, h]

theorem leaveFrame_some (hp : ¬(opL f s).poison = true) {fr : Frame} (h : Map.find s.fireReg.frames s.firing.tag = some fr) :
    leaveFrame op dest f s =
      finishWith op f (emitTo (dest fr) { retagged op f s (emitTag f fr.tag) with seq := BitVec.ofNat 6 fr.seq })
        (s.onRegion (s.fireRegion.getD 0) (fun r => { r with frames := Map.del r.frames s.firing.tag })) := by
  simp [leaveFrame, hp, h]

end

/-- Settles O22: entering splits on the free frame of the pool, leaving on the poison of L and on the frame in use. -/
theorem frames : Obligations.Frames := by
  unfold Obligations.Frames
  intro enter leave
  have henter : ∀ op p ret f s, enter op p ret f s (enterFrame op p ret f s) := by
    intro op p ret f s
    cases h : s.fireReg.frameFree p with
    | none => simp only [enter, h]; exact enterFrame_none h
    | some g => simp only [enter, h, enterFrame_some h]; exact finishWith_leaves op f _ _
  have hleave : ∀ op dest f s, leave op dest f s (leaveFrame op dest f s) := by
    intro op dest f s
    by_cases hp : (opL f s).poison = true
    · simp only [leave, if_pos hp, leaveFrame_poisoned hp]; exact finishReport_reports op f s
    · cases h : Map.find s.fireReg.frames s.firing.tag with
      | none => simp only [leave, if_neg hp, h, leaveFrame_none hp h]; exact finishFault_faults op f 0x13 s
      | some fr => simp only [leave, if_neg hp, h, leaveFrame_some hp h]; exact finishWith_leaves op f _ _
  refine ⟨fun f s => ⟨_, rfl, henter _ _ _ f s⟩, fun f s => ⟨_, rfl, henter _ _ _ f s⟩, fun f s => ⟨_, rfl, hleave _ _ f s⟩,
    fun f s => ⟨_, rfl, hleave _ _ f s⟩, fun r p n base g hpool hfree => ?_⟩
  simp only [Region.frameFree, hpool] at hfree
  exact freeFrame_spec hfree

/-! ### acc, accmax and count -/

section
variable {f : Fields} {m : Bool} {s : State} {u : Token} {a : Accum}

@[simp] theorem joinWaiting_waiting (s : State) (u : Token) (a : Option Accum) :
    (joinWaiting s u a).waiting = (a.getD Accum.zero).waiting ++ [u] := rfl

theorem joinWaiting_some : joinWaiting s u (some a) = { a with
    waiting := a.waiting ++ [u]
    pooled := if 0 < s.firing.entries ∧ 0 < s.firing.shared then a.pooled ++ [u.seq.toNat] else a.pooled } := by
  simp [joinWaiting]

theorem joinWaiting_none : joinWaiting s u none = { Accum.zero with
    waiting := [u]
    shared := decide (0 < s.firing.shared ∧ s.firing.shared = s.firing.entries)
    pooled := if 1 < s.firing.entries ∧ 0 < s.firing.shared then [u.seq.toNat] else [] } := by
  simp [joinWaiting, Accum.zero, Bool.decide_and, Bool.beq_eq_decide_eq]

theorem addWaiting_none {n : Nat} {c : Option Cause} (h : a.waiting.find? (fun w => w.seq.toNat == a.next % 64) = none) :
    addWaiting f m (n + 1) a c = (a, c, false) := by
  simp [addWaiting, h]

theorem addWaiting_some {n : Nat} {c : Option Cause} {w : Token}
    (h : a.waiting.find? (fun w => w.seq.toNat == a.next % 64) = some w) :
    addWaiting f m (n + 1) a c =
      let r := addContribution f m { a with waiting := a.waiting.erase w, pooled := a.pooled.erase w.seq.toNat } w
      if w.ends.getLsbD 0 then (r.1, minCause c r.2, true) else addWaiting f m n r.1 (minCause c r.2) := by
  simp [addWaiting, h]

end

section
variable (op : Nat) (f : Fields) (m : Bool) (s : State)

/-- The key of the firing's running value. -/
def State.fireAcc (s : State) : Nat := accKey s.firing.ctx s.firing.station s.firing.tag

/-- The running value after the firing's contribution has joined it and those in turn are added (R65, R149). -/
def contributed : Accum × Option Cause × Bool :=
  let a := Map.find (s.pe s.firing.site).accum s.fireAcc
  addWaiting f m ((a.getD Accum.zero).waiting.length + 1) (joinWaiting s (opL f s) a) none

variable {op f m s}

theorem accumulate_clash
    (h : ((Map.get (s.pe s.firing.site).accum Accum.zero s.fireAcc).waiting.any (fun w => w.seq == (opL f s).seq)) = true) :
    accumulate op m f s = finishFault op f 0x16 s := if_pos h

theorem accumulate_joins
    (h : ¬((Map.get (s.pe s.firing.site).accum Accum.zero s.fireAcc).waiting.any (fun w => w.seq == (opL f s).seq)) = true) :
    accumulate op m f s =
      let r := contributed f m s
      let conv := (prepare f.fmtOut f (opL f s)).converted
      if r.2.2 then pushResult op f conv (causeNum r.2.1)
        (emitAll f { emitted op f s r.1.value f.fmtOut r.1.poison with seq := 0, ends := r.1.ends })
        (s.onPe s.firing.site (fun p => { p with accum := Map.del p.accum s.fireAcc }))
      else pushResult op f conv (causeNum r.2.1) []
        (s.onPe s.firing.site (fun p => { p with accum := Map.put p.accum s.fireAcc r.1 })) := by
  refine (if_neg h).trans ?_
  simp only [joinWaiting_waiting, List.length_append, List.length_singleton]
  rfl

/-- A count counts on, or is emitted and cleared, as its contribution carries E0 (R150). -/
theorem countStep_eq : countStep f s =
    let a := Map.get (s.pe s.firing.site).accum Accum.zero s.fireAcc
    let v : Word := BitVec.ofInt 64 (signed (Fields.width f) (fitS (Fields.width f) f.sat (signed (Fields.width f) a.value.toNat + 1)))
    let p := a.poison || (opL f s).poison
    if (opL f s).ends.getLsbD 0 then finishWith 0x193 f (emitAll f (emitted 0x193 f s v .i64 p))
      (s.onPe s.firing.site (fun q => { q with accum := Map.del q.accum s.fireAcc }))
    else finishWith 0x193 f []
      (s.onPe s.firing.site (fun q => { q with accum := Map.put q.accum s.fireAcc ⟨v, a.next + 1, true, p, 0, [], a.shared, []⟩ })) := by
  simp only [countStep, wrapNat_eq_toNat_ofInt, BitVec.ofNat_toNat, BitVec.setWidth_eq]
  rfl

end

/-- Settles O23: a contribution clashes, ends its sum or joins it (`accumulate_clash`, `accumulate_joins`); `addWaiting` and
`joinWaiting` are given by their cases. -/
theorem accumulationAndCounting : Obligations.AccumulationAndCounting := by
  unfold Obligations.AccumulationAndCounting
  refine ⟨?accs, fun f s => ⟨_, rfl, ?count⟩⟩
  case accs =>
    intro acc
    have hacc : ∀ op m i, (∀ f s, exec (i f) s = .next (accumulate op m f s)) → acc op m i := by
      intro op m i hi f s
      refine ⟨_, hi f s, ?_⟩
      intro u k a r
      by_cases hclash : (a.waiting.any (fun w => w.seq == u.seq)) = true
      · rw [if_pos hclash, accumulate_clash hclash]
        exact finishFault_faults op f 0x16 s
      · rw [if_neg hclash, accumulate_joins hclash]
        by_cases hwhole : r.2.2 = true
        · rw [if_pos hwhole]
          exact (congrArg _ (if_pos hwhole)).mpr (pushResult_leaves op f _ _ _ _)
        · rw [if_neg hwhole]
          exact (congrArg _ (if_neg hwhole)).mpr (pushResult_leaves op f _ _ _ _)
    refine ⟨hacc _ _ _ fun f s => rfl, hacc _ _ _ fun f s => rfl, fun f m n a c => ⟨addWaiting_none, fun w => addWaiting_some⟩,
      fun s u a => ?joins⟩
    intro z j
    refine ⟨rfl, fun ha => ?later, fun ha => ?first⟩
    case later =>
      obtain ⟨b, rfl⟩ := Option.isSome_iff_exists.mp ha
      simp only [j, z, joinWaiting_some]
      exact ⟨rfl, rfl⟩
    case first =>
      subst ha
      simp [j, joinWaiting_none]
  case count =>
    intro u k a w v
    rw [countStep_eq]
    by_cases hend : u.ends.getLsbD 0 = true
    · rw [if_pos hend]
      exact (congrArg _ (if_pos hend)).mpr (finishWith_leaves 0x193 f _ _)
    · rw [if_neg hend]
      exact (congrArg _ (if_neg hend)).mpr (finishWith_leaves 0x193 f _ _)

end Sys2Proof.Machine
end

section
/-! Groups 4 and 5 as a PE sends them: names, requests, queues, fences and system forms, trap, report and reinject (O24, O26, O27,
O29, O30), and the taking of an error (O41). -/

namespace Sys2Proof.Machine

/-! ### Name forms -/

section
variable {op : Nat} {f : Fields} {conv : Bool} {cause : Option Cause} {m : Msg} {s : State}

theorem sendName_of_place {p : Nat × Nat} (h : (fireDesc f s).place s.firing.tag = some p) : sendName op f conv cause m s =
    pushResult op f conv (causeNum cause) [.msg m s.fireSite.die (2 * ((fireDesc f s).first + p.1 % (fireDesc f s).tiles) + 1)
      (fireDesc f s).gridCol] s := by
  simp [sendName, h, Desc.tileOf]

theorem sendName_of_no_place (h : (fireDesc f s).place s.firing.tag = none) :
    sendName op f conv cause m s = finishFault op f 0x07 s := by
  simp [sendName, h]

end

/-- Settles O24: a name form sends its message where its name has a place (`sendName_of_place`), and else faults. -/
theorem nameForms : Obligations.NameForms := by
  unfold Obligations.NameForms
  refine ⟨?forms, fun d tag n k sl g => ⟨rfl, rfl⟩⟩
  intro desc tile asks
  have hsends : ∀ op (f : Fields) (s : State) conv cause m (p : Nat × Nat), (desc f s).place s.firing.tag = some p →
      Leaves op f conv (causeNum cause) (tile f s p.1 m) s (sendName op f conv cause m s) := by
    intro op f s conv cause m p hp
    rw [sendName_of_place hp]
    exact pushResult_leaves op f conv _ _ s
  have hfaults : ∀ op (f : Fields) (s : State) conv cause m, (desc f s).place s.firing.tag = none →
      FaultsWith op f 0x07 s (sendName op f conv cause m s) := by
    intro op f s conv cause m hp
    rw [sendName_of_no_place hp]
    exact finishFault_faults op f 0x07 s
  refine ⟨fun f s p hp => ⟨⟨_, rfl, hsends _ f s _ _ _ p hp⟩, ⟨_, rfl, hsends _ f s _ none _ p hp⟩, ⟨_, rfl, hsends _ f s _ none _ p hp⟩,
    ⟨_, rfl, hsends _ f s _ none _ p hp⟩⟩, fun f s hp => ⟨⟨_, rfl, hfaults _ f s _ _ _ hp⟩, ⟨_, rfl, hfaults _ f s _ _ _ hp⟩,
    ⟨_, rfl, hfaults _ f s _ _ _ hp⟩, ⟨_, rfl, hfaults _ f s _ _ _ hp⟩⟩⟩

/-! ### Request, atomic and queue forms -/

section
variable {op : Nat} {f : Fields} {conv : Bool} {cause : Option Cause} {data cmp : Word} {poison : Bool} {s : State}

/-- A request whose address is not poisoned goes to the PORT at target A, and is counted as outstanding (R158). -/
theorem sendRequest_leaves (h : (opL f s).poison = false) : Leaves op f conv (causeNum cause)
    [.msg (.port (requestOf op f s data cmp (poison || cause.isSome))) f.a.die.toNat f.a.row.toNat f.a.col.toNat] (countOut s)
    (sendRequest op f conv cause data cmp poison s) := by
  rw [show sendRequest op f conv cause data cmp poison s = _ from if_neg (by simp [h])]
  exact pushResult_leaves op f conv _ _ _

theorem sendRequest_poisoned (h : (opL f s).poison = true) : Reports op f s (sendRequest op f conv cause data cmp poison s) := by
  rw [show sendRequest op f conv cause data cmp poison s = _ from if_pos h]
  exact finishReport_reports op f s

end

/-- Settles O26: a request form is `sendRequest` of its data, its comparand and their poison, a queue form `sendQueue`. -/
theorem requestAndQueueForms : Obligations.RequestAndQueueForms := by
  unfold Obligations.RequestAndQueueForms
  refine ⟨?requests, ?queues⟩
  case requests =>
    intro asks counted reads writes
    have hreads : ∀ op (f : Fields) (s : State), (opL f s).poison = false →
        reads op f s (sendRequest op f false none 0 0 false s) := fun op f s h => sendRequest_leaves (cause := none) h
    have hwrites : ∀ op (f : Fields) (s : State), (opL f s).poison = false →
        writes op f s (sendAtomic op f s) := by
      intro op f s h
      have hw := sendRequest_leaves (op := op) (conv := false) (cause := none) (data := (opR op f s).payload) (cmp := 0)
        (poison := (opR op f s).poison) h
      rwa [Option.isSome_none, Bool.or_false] at hw
    refine ⟨fun f s h => ⟨⟨_, rfl, hreads _ f s h⟩, ⟨_, rfl, hwrites _ f s h⟩, ⟨_, rfl, hreads _ f s h⟩, ⟨_, rfl, hwrites _ f s h⟩,
      ⟨_, rfl, hwrites _ f s h⟩, ⟨_, rfl, sendRequest_leaves h⟩, ⟨_, rfl, hwrites _ f s h⟩, ⟨_, rfl, hwrites _ f s h⟩, ⟨_, rfl, hwrites _ f s h⟩,
      ⟨_, rfl, hwrites _ f s h⟩, ⟨_, rfl, hwrites _ f s h⟩, _, rfl, ?cas⟩, fun f s h => ?poisoned⟩
    case cas =>
      have hc := sendRequest_leaves (op := 0x212) (conv := false) (cause := none) (data := (opR 0x212 f s).payload)
        (cmp := (opP f s).payload) (poison := (opR 0x212 f s).poison || (opP f s).poison) h
      rwa [Option.isSome_none, Bool.or_false] at hc
    case poisoned =>
      exact ⟨⟨_, rfl, sendRequest_poisoned h⟩, ⟨_, rfl, sendRequest_poisoned h⟩, ⟨_, rfl, sendRequest_poisoned h⟩,
        ⟨_, rfl, sendRequest_poisoned h⟩, ⟨_, rfl, sendRequest_poisoned h⟩, ⟨_, rfl, sendRequest_poisoned h⟩,
        ⟨_, rfl, sendRequest_poisoned h⟩, ⟨_, rfl, sendRequest_poisoned h⟩, ⟨_, rfl, sendRequest_poisoned h⟩,
        ⟨_, rfl, sendRequest_poisoned h⟩, ⟨_, rfl, sendRequest_poisoned h⟩, ⟨_, rfl, sendRequest_poisoned h⟩⟩
  case queues =>
    intro msg
    refine ⟨fun f s hl hr => ⟨_, rfl, ?push⟩, fun f s h => ⟨_, rfl, ?bad⟩, fun f s => ⟨_, rfl, finishWith_leaves 0x214 f _ s⟩,
      fun f s => ⟨_, rfl, finishWith_leaves 0x215 f _ s⟩⟩
    case push =>
      rw [hl, hr]
      exact finishWith_leaves 0x213 f _ s
    case bad =>
      have hbad : ((opL f s).poison || (opR 0x213 f s).poison) = true := by simpa using h
      rw [hbad]
      exact finishWith_leaves 0x213 f _ s

/-! ### fence, trigger, halt and the system forms -/

section
variable {s : State}

theorem clkValue_fresh
    (h : s.fireReg.clkReplay.find? (fun x => x.1 == member s.firing.site s.firing.station && x.2.1 == s.firing.tag) = none) :
    clkValue s = BitVec.ofNat 64 (s.now s.fireSite.die) := by
  simp [clkValue, h]

theorem keepClk_of_region {k : Nat} (hk : s.fireRegion = some k) : keepClk s = s.onRegion k (fun g => { g with
    clkKept := g.clkKept ++ [(member s.firing.site s.firing.station, s.firing.tag, clkValue s)]
    clkReplay := g.clkReplay.erase (member s.firing.site s.firing.station, s.firing.tag, clkValue s) }) := by
  simp [keepClk, hk]

end

/-- Settles O27: `trigger` splits on what its region has triggered, `couple` on the poison of L, and `clk` is `finish` of the value
read in the state that `keepClk` leaves. -/
theorem systemAndFences : Obligations.SystemAndFences := by
  unfold Obligations.SystemAndFences
  refine ⟨⟨fun f s => ⟨_, rfl, finishWith_leaves 0x280 f _ s⟩, fun f s h => ⟨_, if_neg (by simp [h]), finishWith_leaves 0x281 f _ _⟩,
    fun f s h => ⟨_, if_pos h, finishWith_leaves 0x281 f _ s⟩, fun f s => ⟨_, rfl, finishWith_leaves 0x28C f _ s⟩⟩,
    fun f s => ⟨_, rfl, ?ptest⟩, fun f s => ⟨_, rfl, finishPass_passes 0x288 f _ s⟩,
    fun f s h => ⟨_, if_pos h, finishReport_reports 0x289 f s⟩,
    fun f s h => ⟨_, if_neg (by simp [h]), ?couple⟩, fun f s => ⟨_, rfl, finish_delivers 0x28A f _ s⟩,
    fun f s k hk hfresh => ⟨_, rfl, ?clk⟩, fun f s => ⟨_, rfl, finishPass_passes 0x28D f _ s⟩,
    fun f s => ⟨_, rfl, finishPass_passes 0x28E f _ s⟩⟩
  case ptest =>
    have hone : BitVec.ofNat 64 (one (opL f s).poison) = if (opL f s).poison then 1 else 0 := by cases (opL f s).poison <;> rfl
    rw [hone]
    exact finishWith_leaves 0x287 f _ s
  case couple =>
    have harg : field (opL f s).payload 31 0 = (opL f s).payload.toNat % 2 ^ 32 := rfl
    rw [harg]
    exact finishWith_leaves 0x289 f _ s
  case clk =>
    refine ⟨keepClk s, ?_, ?_⟩
    · rw [← clkValue_fresh hfresh]
      exact finish_delivers 0x28B f _ _
    · rw [keepClk_of_region hk, ← clkValue_fresh hfresh]
      exact ⟨rfl, rfl, rfl, by simp, fun j hj => State.region_onRegion_ne s _ hj⟩

/-! ### trap, report and reinject -/

/-- Settles O29: both forms are `finishWith` of an error or of an effect. -/
theorem trapAndReport : Obligations.TrapAndReport := by
  unfold Obligations.TrapAndReport
  exact ⟨fun f s => ⟨_, rfl, finishWith_leaves 0x284 f _ s⟩, fun f s => ⟨_, rfl, finishWith_leaves 0x285 f _ s⟩⟩

section
variable {f : Fields} {s : State}

theorem exec_reinject_entry (hfresh : s.fireReg.refree.find? (fun x => x.1 == s.firing.tag) = none) {e : Saved}
    (h : Map.find s.fireReg.faults s.firing.tag = some e) :
    exec (.reinject f) s = .next (finishWith 0x286 f
      (let w := { e.token with payload := (opL f s).payload, fmt := (opL f s).fmt, poison := (opL f s).poison }
       if f.arity != 0 && e.hasDst then [.token w (Token.cls w)] else [])
      (s.onRegion (s.fireRegion.getD 0) (fun g => { g with
        faults := Map.del g.faults s.firing.tag
        freed := g.freed ++ [(s.firing.tag, e)]
        refree := g.refree.erase (s.firing.tag, e) }))) := by
  change execReinject f s = _
  simp [execReinject, hfresh, h]

theorem exec_reinject_no_entry (hfresh : s.fireReg.refree.find? (fun x => x.1 == s.firing.tag) = none)
    (h : Map.find s.fireReg.faults s.firing.tag = none) :
    exec (.reinject f) s = .next (finishWith 0x286 f []
      (s.onRegion (s.fireRegion.getD 0) (fun g => { g with reinjects := g.reinjects + 1 }))) := by
  change execReinject f s = _
  simp [execReinject, hfresh, h]

end

/-- Settles O30: `reinject` splits on the entry that its tag names, and on whether anything is to be sent. -/
theorem reinject : Obligations.Reinject := by
  unfold Obligations.Reinject
  intro freed fresh
  refine ⟨fun f s e hf he harity hdst => ⟨_, exec_reinject_entry hf he, ?sends⟩,
    fun f s e hf he hnone => ⟨_, exec_reinject_entry hf he, ?frees⟩,
    fun f s hf he => ⟨_, exec_reinject_no_entry hf he, finishWith_leaves 0x286 f [] _⟩⟩
  case sends =>
    rw [if_pos (by simpa [hdst] using harity)]
    exact finishWith_leaves 0x286 f _ _
  case frees =>
    rw [if_neg (by rcases hnone with h | h <;> simp [h])]
    exact finishWith_leaves 0x286 f [] _

/-! ### Taking an error -/

theorem freeFault_eq_none_iff {n k : Nat} {m : Map Saved} :
    freeFault n m k = none ↔ ∀ i, k ≤ i → i < k + n → (Map.find m i).isSome = true := by
  induction n generalizing k with
  | zero => exact iff_of_true rfl fun i h1 h2 => by omega
  | succ n ih =>
    cases hf : Map.find m k with
    | none =>
      simp only [freeFault, hf, reduceCtorEq, false_iff]
      exact fun h => by simpa [hf] using h k le_rfl (by omega)
    | some v =>
      simp only [freeFault, hf, ih]
      refine ⟨fun h i h1 h2 => ?_, fun h i h1 h2 => h i (by omega) (by omega)⟩
      rcases Nat.eq_or_lt_of_le h1 with rfl | hlt
      · simp [hf]
      · exact h i hlt (by omega)

theorem freeFault_of_lower_used {n k e : Nat} {m : Map Saved} (hk : k ≤ e) (hn : e < k + n) (he : Map.find m e = none)
    (hlow : ∀ i, k ≤ i → i < e → (Map.find m i).isSome = true) : freeFault n m k = some e := by
  cases h : freeFault n m k with
  | none => simpa [he] using freeFault_eq_none_iff.mp h e hk hn
  | some g =>
    obtain ⟨hkg, -, hg, hused⟩ := freeFault_spec h
    rcases Nat.lt_trichotomy g e with hlt | rfl | hgt
    · simpa [hg] using hlow g hkg hlt
    · rfl
    · simpa [he] using hused e hk hgt

@[simp] theorem State.region_post (s : State) (fl : Flight) (k : Nat) : (s.post fl).region k = s.region k := rfl

section
variable {s : State} {region h : Nat} {r : ErrRec} {saved : Option Token} {hasDst : Bool}

theorem raiseError_no_handler (hh : s.handlerOf region = none) : s.raiseError region r saved hasDst = s.report 0 r r.payload := by
  simp [State.raiseError, hh]

theorem raiseError_report_kind (hh : s.handlerOf region = some h) (hk : faultKind r.code = false) :
    s.raiseError region r saved hasDst = { s with
      net := s.net ++ [errorFlight (s.region h) (s.handlerSite (s.region h)) r 0xFFFF] } := by
  simp [State.raiseError, State.post, hh, hk]

theorem raiseError_free_entry (hh : s.handlerOf region = some h) (hk : faultKind r.code = true) {e : Nat}
    (he : freeFault 64 (s.region h).faults 0 = some e) : s.raiseError region r saved hasDst =
      (s.onRegion h (fun g => { g with faults := Map.put g.faults e ⟨saved.getD Token.zero, hasDst⟩ })).post
        (errorFlight (s.region h) (s.handlerSite (s.region h)) r e) := by
  simp [State.raiseError, hh, hk, he]

theorem raiseError_full (hh : s.handlerOf region = some h) (hk : faultKind r.code = true)
    (he : freeFault 64 (s.region h).faults 0 = none) : s.raiseError region r saved hasDst =
      s.onRegion h (fun g => { g with faultWait := g.faultWait ++ [⟨r, ⟨saved.getD Token.zero, hasDst⟩⟩] }) := by
  simp [State.raiseError, hh, hk, he]

end

/-- Settles O41: the four ways in which an error is taken, with the entry that `freeFault` finds. -/
theorem takingAnError : Obligations.TakingAnError := by
  unfold Obligations.TakingAnError
  refine fun s region r saved hasDst => ⟨raiseError_no_handler, fun h hh => ?_⟩
  intro go u
  refine ⟨raiseError_report_kind hh, fun e hk hlt hfree hlow => ?entry, fun hk hall => ?waits⟩
  case entry =>
    have he : freeFault 64 (s.region h).faults 0 = some e :=
      freeFault_of_lower_used e.zero_le (by omega) hfree fun i _ hi => hlow i hi
    have hu : u = _ := raiseError_free_entry hh hk he
    rw [hu]
    exact ⟨by simp, rfl, fun e' hne => by simp [Map.find_put_ne _ _ hne], rfl, rfl, rfl,
      fun k hne => by simp [State.region_onRegion_ne s _ hne]⟩
  case waits =>
    have he : freeFault 64 (s.region h).faults 0 = none := freeFault_eq_none_iff.mpr fun i _ hi => hall i (by omega)
    have hu : u = _ := raiseError_full hh hk he
    rw [hu]
    exact ⟨by simp, rfl⟩

end Sys2Proof.Machine
end

section
/-! Stalls, freed fault entries, feed words and systolic steps (O47). -/

namespace Sys2Proof.Machine

/-- Accepting a flight that is no response takes it off the network and changes nothing else (R158). -/
theorem dropFlight_of_ne_response {s : State} {n : Nat} {fl : Flight} (h : headOfLane s.net n = some fl) (hc : fl.cls ≠ .response) :
    dropFlight s n = { s with net := s.net.eraseIdx n } := by
  have hn := headOfLane_some h
  obtain ⟨hlt, -⟩ := List.getElem?_eq_some_iff.mp hn
  obtain ⟨-, -, hdrop⟩ := dropFlight_rest s n hlt
  exact hdrop (by simp [hn, hc])

/-! ### Stalls and freed entries -/

theorem exec_stall_due {s : State} {k : Nat} (h : stallDue s k = true) : exec (.stall k) s = .next (raiseStall s k) := by
  change execStall k s = _
  simp [execStall, h]

theorem exec_faultEntryFreed {s : State} {h e : Nat} {w : FaultWait} {ws : List FaultWait} (hw : (s.region h).faultWait = w :: ws)
    (he : freeFault 64 (s.region h).faults 0 = some e) : exec (.faultEntryFreed h) s =
      .next ((s.onRegion h (fun g => { g with faults := Map.put g.faults e w.saved, faultWait := ws })).post
        (errorFlight (s.region h) (s.handlerSite (s.region h)) w.origin e)) := by
  change execFaultEntryFreed h s = _
  simp [execFaultEntryFreed, faultFreed, hw, he]

/-! ### Feeding rows -/

theorem feedToken_taken {t : Token} {side : Nat} {s : State} {rows : List Row}
    (h : feedRow (if side = 1 then (s.pe (siteKey t)).west else (s.pe (siteKey t)).north) t = .taken rows) :
    feedToken t side s = some (s.onPe (siteKey t) (fun p => if side = 1 then { p with west := rows } else { p with north := rows }),
      false) := by
  simp only [feedToken, h]

/-- A word of a live tag from inside the region, of which its assembler takes, joins its row (R177). -/
theorem exec_feedWord_taken {s : State} {n k side : Nat} {fl : Flight} {t : Token} {rows : List Row}
    (hfirst : headOfLane s.net n = some fl) (hmsg : fl.msg = .token t) (hin : fl.input = false) (hcls : fl.cls ≠ .response)
    (hres : (s.pe (siteKey t)).ctxState t.ctx.toNat = 1) (hside : feedSide s t = some (k, side))
    (halive : isDead (s.region k) (siteKey t) t.station.toNat t.tag.toNat = false)
    (hrow : feedRow (if side = 1 then (s.pe (siteKey t)).west else (s.pe (siteKey t)).north) t = .taken rows) :
    exec (.feedWord n) s = .next (({ s with net := s.net.eraseIdx n } : State).onPe (siteKey t) (fun p =>
      if side = 1 then { p with west := rows } else { p with north := rows })) := by
  have htoken := feedToken_taken (s := { s with net := s.net.eraseIdx n }) hrow
  change execFeedWord n s = _
  simp [execFeedWord, feed, hfirst, hmsg, hside, hres, hin, halive, fifoOf, dropFlight_of_ne_response hfirst hcls, htoken,
    acceptInput_inside]

/-- The eighth word of a row, with E0, completes it (R177). -/
theorem feedRow_eighth {rows : List Row} {t : Token} {r : Row}
    (hrow : rows.find? (fun r => !r.done && r.tag == t.tag.toNat && r.seq == t.seq.toNat) = some r)
    (hnone : rows.any (fun r => r.done && r.tag == t.tag.toNat && r.seq == t.seq.toNat) = false) (hlen : r.words.length = 7)
    (hend : t.ends.getLsbD 0 = true) (hroom : (rows.filter Row.done).length < 4) :
    feedRow rows t = .taken (rows.filter (fun q => q.done || q.tag != t.tag.toNat || q.seq != t.seq.toNat) ++
      [⟨r.tag, r.seq, r.words ++ [t.payload], r.poison || t.poison, true⟩]) := by
  have hopen : (rows.any (fun r => r.done && r.tag == t.tag.toNat && r.seq == t.seq.toNat) || 4 ≤ (rows.filter Row.done).length) = false := by
    simp [hnone, hroom]
  simp only [feedRow, hopen, hrow, Option.getD_some, hend, List.length_append, hlen, List.length_singleton]
  rfl

/-! ### Systolic steps -/

section
variable {s : State} {x : Site} {k : Nat} {q : MatOp} {qs : List MatOp}

/-- The pass that a run goes on with, if one is left (R182). -/
def MatOp.next (q : MatOp) : Option Nat := nextPass q.mask (field q.r.payload 29 24) (field q.r.payload 23 16) 65 q.pass

variable (hq : (s.matrix (Site.key x)).queue = q :: qs) (hk : s.regionAt x q.ctx = some k)
include hq hk

theorem systolic_form (h3 : q.op ≠ 0x303) (h4 : q.op ≠ 0x304) :
    systolic x s = some (ctlEffect q.op q.fields (refire (Site.key x) q (popMat (Site.key x) s))) := by
  simp [systolic, hq, hk, h3, h4]

theorem systolic_begins (hop : q.op = 0x303 ∨ q.op = 0x304) (hs : q.started = false) :
    systolic x s = some (beginRun q.op q.fields (refire (Site.key x) q (popMat (Site.key x) s))) := by
  simp [systolic, hq, hk, hop, hs]

theorem systolic_ends (hop : q.op = 0x303 ∨ q.op = 0x304) (hs : q.started = true) (hn : q.next = none) :
    systolic x s = some (endRun (Site.key x) q (s.region k) s) := by
  unfold MatOp.next at hn
  simp [systolic, hq, hk, hop, hs, hn]

theorem systolic_ws (hop : q.op = 0x303) (hs : q.started = true) {g : Nat} (hn : q.next = some g) :
    systolic x s = wsStep (Site.key x) k q g (s.region k) s := by
  unfold MatOp.next at hn
  simp [systolic, hq, hk, hop, hs, hn]

end

theorem loopAdmits_rest {region ctx : Nat} {ts : List Token} {s u : State} (h : loopAdmits region ctx ts s = some u) :
    { u with regions := s.regions } = s := by
  induction ts generalizing s with
  | nil => cases h; rfl
  | cons t ts ih =>
    simp only [loopAdmits] at h
    split at h
    · exact ih h
    · split at h
      · exact ih h
      · split at h
        · exact congrArg (fun v : State => { v with regions := s.regions }) (ih h)
        · cases h

theorem logSteps_rest (region site station ctx tag : Nat) (cs : List (Nat × Option Cause)) (s : State) :
    { logSteps region site station ctx tag cs s with regions := s.regions } = s := by
  unfold logSteps
  induction cs generalizing s with
  | nil => rfl
  | cons c cs ih =>
    rw [List.foldl_cons]
    split
    · exact ih s
    · exact congrArg (fun v : State => { v with regions := s.regions }) (ih _)

/-- The flight in which a column result enters loopback (R189). -/
def loopFlight (station region : Nat) (t : Token) : Flight :=
  ⟨Site.key (Token.site t), station, .data, Site.key (Token.site t), Token.lane t, .token t, region + 1, false, false⟩

theorem foldl_loopBack {α : Type} (station region : Nat) (f : α → Token) (xs : List α) (s : State) :
    xs.foldl (fun s o => loopBack station region (f o) s) s = { s with net := s.net ++ xs.map (fun o => loopFlight station region (f o)) } := by
  rw [← foldl_post, List.foldl_map]
  rfl

theorem foldl_onPe_rest {α : Type} (f : α → Nat) (g : Pe → Pe) (xs : List α) (s : State) :
    { xs.foldl (fun s a => s.onPe (f a) g) s with pes := s.pes } = s := by
  simpa only [List.foldl_map] using foldPe_rest g (xs.map f) s

section
variable (s : State) (x : Nat) (q : MatOp) (g : Nat) (r : Region)

/-- The column results of the step that a WS run makes in pass `g`. -/
def MatOp.outs : List (Token × List (Option Cause)) :=
  wsRow s r (s.matrix x) { q with pass := g } ((q.emitTag + g) % 65536) q.step (field q.r.payload 15 0) (field q.l.payload 6 0)

/-- A run after its step in pass `g`: on to the next row, or after the last one to the next pass (R182, R183). -/
def MatOp.stepped : MatOp :=
  if q.step + 1 < field q.l.payload 6 0 then { q with pass := g, step := q.step + 1, last := stepAt s q r + 1 }
  else { q with pass := g + 1, step := 0, passes := q.passes + 1, last := stepAt s q r + 1 }

variable {s x q g r}

/-- A WS step whose rows are assembled, and whose results' tags are live or admitted, sends the column results and goes on (R189). -/
theorem wsStep_sends {k : Nat}
    (hrows : ∀ i < field q.r.payload 15 0, (findRow (s.pe (Site.key (r.peAt i 0))).west ((q.emitTag + g) % 65536) q.step).isSome)
    (hadmits : (loopAdmits k q.ctx ((q.outs s x g r).map Prod.fst) s).isSome = true) :
    ∃ t, wsStep x k q g r s = some t ∧ t.net = s.net ++ (q.outs s x g r).map (fun o => loopFlight q.station k o.1) ∧
      (t.matrix x).queue = q.stepped s g r :: (s.matrix x).queue.drop 1 := by
  obtain ⟨u, hu⟩ := Option.isSome_iff_exists.mp hadmits
  have hall : (List.range (field q.r.payload 15 0)).all
      (fun k => (findRow (s.pe (Site.key (r.peAt k 0))).west ((q.emitTag + g) % 65536) q.step).isSome) = true := by
    simpa using hrows
  have hu' : loopAdmits k q.ctx (List.map Prod.fst (wsRow s r (s.matrix x) { q with pass := g } ((q.emitTag + g) % 65536) q.step
    (field q.r.payload 15 0) (field q.l.payload 6 0))) s = some u := hu
  unfold wsStep
  simp only [hall, if_true, hu', foldl_loopBack]
  refine ⟨_, rfl, ?net, ?queue⟩
  case net =>
    have hadmit := congrArg State.net (loopAdmits_rest hu)
    have hdrop := congrArg State.net (foldl_onPe_rest (fun k => Site.key (r.peAt k 0))
      (fun p => { p with west := dropRow p.west ((q.emitTag + g) % 65536) q.step }) (List.range (field q.r.payload 15 0)) u)
    exact congrArg (· ++ _) ((congrArg State.net (logSteps_rest ..)).trans (hdrop.trans hadmit))
  case queue =>
    have hadmit := congrArg State.matrices (loopAdmits_rest hu)
    have hdrop := congrArg State.matrices (foldl_onPe_rest (fun k => Site.key (r.peAt k 0))
      (fun p => { p with west := dropRow p.west ((q.emitTag + g) % 65536) q.step }) (List.range (field q.r.payload 15 0)) u)
    rw [setHead, State.matrix_onMatrix_self]
    refine congrArg₂ List.cons rfl ?_
    exact congrArg (fun m : Map Matrix => (Map.get m Matrix.clear x).queue.drop 1)
      ((congrArg State.matrices (logSteps_rest ..)).trans (hdrop.trans hadmit))

end

theorem exec_systolicStep {x : Site} {s t : State} (h : systolic x s = some t) : exec (.systolicStep x) s = .next t := by
  change execSystolicStep x s = _
  simp [execSystolicStep, h]

/-- Settles O47: each step is given by its cases; a systolic step splits on the head of the controller's line (`systolic_form`,
`systolic_begins`, `systolic_ends`, `systolic_ws`). -/
theorem monitorBufferAndArray : Obligations.MonitorBufferAndArray := by
  unfold Obligations.MonitorBufferAndArray
  refine ⟨fun s k h => ⟨_, exec_stall_due h, rfl⟩, fun s h e w ws hw he => ⟨_, exec_faultEntryFreed hw he, ?freed⟩,
    fun s n k side fl t rows hfirst hmsg hin hcls hres hside halive hrow =>
      exec_feedWord_taken hfirst hmsg hin hcls hres hside halive hrow,
    fun rows t r hrow hnone hlen hend hroom => feedRow_eighth hrow hnone hlen hend hroom, ?array⟩
  case freed => exact ⟨by simp, by simp, rfl⟩
  case array =>
    intro s x k q qs hq hk u next
    refine ⟨fun h3 h4 => ⟨_, exec_systolicStep (systolic_form hq hk h3 h4), rfl⟩,
      fun hop hs => ⟨_, exec_systolicStep (systolic_begins hq hk hop hs), rfl⟩,
      fun hop hs hn => ⟨_, exec_systolicStep (systolic_ends hq hk hop hs hn), rfl⟩, fun g hop hs hn => ?ws⟩
    intro pt cnt steps outs fin hadmits hrows
    obtain ⟨t, ht, hnet, hqueue⟩ := wsStep_sends (x := Site.key x) hrows hadmits
    refine ⟨t, exec_systolicStep ((systolic_ws hq hk hop hs hn).trans ht), hnet, ?_⟩
    rw [hqueue, hq]
    rfl

end Sys2Proof.Machine
end

section
/-! Name words at their tile (R256, R404): a word from a tile's station 3 counts as an answer (`Flight.isAnswer`), so it takes the
place of a kept response that equals it, and the region's record does not grow. -/

namespace Sys2Proof.Machine

/-- The tile at (0, 1, 17). -/
def echoSite : Nat := Site.key ⟨0, 1, 17⟩

/-- A statement of I64 with names of two words, one reader, extent 16 and modulus 4, in one tile of column 17. -/
def echoDesc : Desc := ⟨0x40040006, 15, 0x0001000100010004, 0xF0⟩

/-- A word for the name with tag 1 of that statement. -/
def echoWord : NameWord := ⟨0, 0, 1, 9, false, none, 0, 0, false, false, Token.zero⟩

/-- The word from station 3 of the tile at (0, 3, 17), as the region's record keeps it with `input` as given. -/
def echoInput (input : Bool) : Flight :=
  ⟨Site.key ⟨0, 3, 17⟩, 3, .request, echoSite, echoSite * 2048 + 8, .word echoWord, 0, input, false⟩

/-- A tile of region 0 with one of the two words of its slot 1 written. -/
def echoTile : Tile :=
  { Tile.clear with owner := 1, descs := [(descKey 0 0, echoDesc)], slots := [(1, ⟨0, 1, 0, 1, 1, 1, 0⟩)] }

/-- The region of the tile, which keeps a response that equals the word. -/
def echoRegion : Region := { placedRegion with inputs := [(0, 0, echoInput false)] }

/-- The word is on its way to the tile from outside the region. -/
def echoState : State :=
  { State.reset with regions := [(0, echoRegion)], tiles := [(echoSite, echoTile)], net := [echoInput false] }

/-- What region 0 keeps after the word has landed: the one record, with the word itself in the response's place. -/
theorem echoState_region :
    (match exec (.nameWordWrite 0) echoState with
      | .next v => some ((v.region 0).inputs, (v.region 0).unprot)
      | _ => none) = some ([(0, 0, echoInput true)], false) := by decide +kernel

/-- No load of `echoState` has a handler, so no fault buffer is full. -/
theorem echoState_buffers (k : Nat) : handlerFull echoState k 0x01 = false := by
  have hhandler : Region.handler echoRegion = false := by decide +kernel
  have hnone : echoState.handlerOf k = none := by simp [State.handlerOf, State.findRegion, echoState, hhandler]
  simp [handlerFull, hnone]

/-- Refutes O49: in `echoState` the landed word replaces the kept response, so the region stays protected and its record has one entry,
where the fourth clause wants it unprotected or the word appended, whatever the undo log answers. -/
theorem not_tileWords : ¬ Obligations.TileWords := by
  unfold Obligations.TileWords
  rintro ⟨-, -, -, hland, -⟩
  obtain ⟨hwrite, -, -⟩ := hland echoState 0 1 0 (echoInput false) echoWord (putWord echoDesc 1 echoWord true echoTile)
    (by decide +kernel) echoState_buffers (by decide +kernel) rfl rfl (by decide +kernel) (by decide +kernel) (by decide +kernel)
    (by decide +kernel) (by decide +kernel)
  obtain ⟨v, hv, -, -, -, -, hkept, -, -⟩ := hwrite (by decide +kernel) (by decide +kernel) (by decide +kernel) (by decide +kernel) rfl
    (by decide +kernel)
  have hregion := echoState_region
  rw [hv] at hregion
  obtain ⟨hinputs, hunprot⟩ := Prod.mk.inj (Option.some.inj hregion)
  have happend := hkept 0 (by decide +kernel) (by decide +kernel) (by decide +kernel) (by decide +kernel)
  split at happend
  next => exact absurd (happend.symm.trans hunprot) (by decide)
  next =>
    obtain ⟨hgrown, -⟩ := happend
    have hlength : (echoState.region 0).inputs.length + 1 = 1 :=
      List.length_append.symm.trans (congrArg List.length (hgrown.symm.trans hinputs))
    exact absurd hlength (by decide +kernel)

end Sys2Proof.Machine
end

section
/-! Coupling tokens, draining and squashes (R333 to R337, R146). -/

namespace Sys2Proof.Machine

theorem Map.rises_of_pairwise {α : Type} {m : Map α} {lo : Nat} (h : m.Pairwise (fun a b => a.1 < b.1)) (hlo : ∀ kv ∈ m, lo ≤ kv.1) :
    Map.Rises lo m := by
  induction m generalizing lo with
  | nil => trivial
  | cons kv m ih =>
    obtain ⟨hhead, htail⟩ := List.pairwise_cons.mp h
    exact ⟨hlo kv (by simp), ih htail hhead⟩

theorem State.pe_onRegion (s : State) (k : Nat) (g : Region → Region) (x : Nat) : (s.onRegion k g).pe x = s.pe x := rfl

theorem State.oper_onRegion (s : State) (k : Nat) (g : Region → Region) (x : Nat) : (s.onRegion k g).oper x = s.oper x := rfl

theorem Site.ofKey_key {x : Site} (hrow : x.row < 128) (hcol : x.col < 256) : Site.ofKey (Site.key x) = x := by
  obtain ⟨die, row, col⟩ := x
  simp only [Site.ofKey, Site.key, Site.mk.injEq] at *
  omega

theorem Token.ofKey_siteKey (t : Token) : Site.ofKey (siteKey t) = Token.site t :=
  Site.ofKey_key t.row.isLt t.col.isLt

/-! ### Coupling tokens that arrive -/

section
variable {s : State} {n k : Nat} {fl : Flight} {t : Token}

/-- A coupling token is counted at its station or operator (R335). -/
def countCoupling (t : Token) (s : State) : State :=
  if isPe (Token.site t) then
    s.onPe (siteKey t) (fun p => { p with joins := Map.alter p.joins 0 (stKey t.ctx.toNat t.station.toNat) (fun n => n + 1) })
  else s.onOper (siteKey t) (fun o => { o with joins := o.joins + 1 })

/-- What a coupling token that is counted or discarded now leaves: its region under the serial, and its join counted under that serial
(R334, R335). -/
def coupled (s : State) (k : Nat) (t : Token) : State :=
  let v := serialTake (s.region k) (field t.payload 31 0)
  if v.2 then countCoupling t (s.onRegion k (fun _ => v.1)) else s.onRegion k (fun _ => v.1)

theorem exec_couplingTokenArrival (h : headOfLane s.net n = some fl) (hm : fl.msg = .token t) (hin : fl.input = false) (hcls : fl.cls ≠ .response)
    (hport : t.port = .c) (hkind : ctlKind t = 1) (hbad : ctlBad t = none) (hfirst : couplesFirst s k t = false)
    (hoper : operState s (siteKey t) t = .open ∨ operState s (siteKey t) t = .drained)
    (hctx : isPe (Token.site t) = true → (s.pe (siteKey t)).ctxState t.ctx.toNat = 1) (hk : s.regionAt (Token.site t) t.ctx.toNat = some k) :
    exec (.couplingTokenArrival n) s = .next (coupled { s with net := s.net.eraseIdx n } k t) := by
  have hpe : (isPe (Token.site t) && (s.pe (siteKey t)).ctxState t.ctx.toNat != 1) = false := by
    cases hp : isPe (Token.site t)
    · rfl
    · simp [hctx hp]
  have hmeets : (operState s (siteKey t) t == .open || operState s (siteKey t) t == .drained) = true := by
    obtain ho | ho := hoper <;> rw [ho] <;> rfl
  have hat : coupleFlightAt s n = some (fl, t, k) := by
    simp [coupleFlightAt, h, hm, hport, hkind, hbad, hpe, hmeets, hk, hin]
  change Host.Outcome.next ((coupleArrives s n).getD s) = _
  simp only [coupleArrives, hat, hfirst, hin, acceptInput_inside _ k hin, dropFlight_of_ne_response h hcls]
  cases hv : (serialTake (State.region { s with net := s.net.eraseIdx n } k) (field t.payload 31 0)).2
  case false => simp [coupled, hv]
  case true => by_cases hp : isPe (Token.site t) = true <;> simp [coupled, countCoupling, hv, hp, siteKey]

theorem serialTake_set {r : Region} {v : Nat} (h : r.serialSet = true) : serialTake r v = (r, r.serial.toNat == v) := by simp [serialTake, h]

theorem serialTake_unset {r : Region} {v : Nat} (h : r.serialSet = false) : serialTake r v =
    ({ r with serial := BitVec.ofNat 64 v, serialSet := true, status := if r.status = 2 then 3 else r.status }, true) := by
  simp [serialTake, h]

theorem countCoupling_rest (t : Token) (s : State) : { countCoupling t s with pes := s.pes, opers := s.opers } = s := by
  unfold countCoupling
  split_ifs <;> rfl

theorem countCoupling_joins (t : Token) (s : State) :
    if isPe (Token.site t) then ((countCoupling t s).pe (siteKey t)).joins =
      Map.alter (s.pe (siteKey t)).joins 0 (stKey t.ctx.toNat t.station.toNat) (fun n => n + 1)
    else ((countCoupling t s).oper (siteKey t)).joins = (s.oper (siteKey t)).joins + 1 := by
  unfold countCoupling
  split_ifs
  · rw [State.pe_onPe_self]
  · rw [State.oper_onOper_self]

/-- A coupling token changes its region's record and what it counts at. -/
theorem coupled_rest : { coupled s k t with pes := s.pes, opers := s.opers } =
    s.onRegion k (fun _ => (serialTake (s.region k) (field t.payload 31 0)).1) := by
  simp only [coupled]
  split_ifs
  · exact countCoupling_rest t (s.onRegion k _)
  · rfl

theorem coupled_net : (coupled s k t).net = s.net := by
  have h := congrArg State.net (coupled_rest (s := s) (k := k) (t := t))
  exact h

theorem coupled_mem : (coupled s k t).mem = s.mem := by
  have h := congrArg State.mem (coupled_rest (s := s) (k := k) (t := t))
  exact h

theorem coupled_region : (coupled s k t).region k = (serialTake (s.region k) (field t.payload 31 0)).1 :=
  (congrArg (fun u : State => u.region k) coupled_rest).trans (s.region_onRegion_self k _)

theorem coupled_discards (h : (serialTake (s.region k) (field t.payload 31 0)).2 = false) (x : Nat) :
    (coupled s k t).pe x = s.pe x ∧ (coupled s k t).oper x = s.oper x := by
  simp only [coupled, h]
  exact ⟨rfl, rfl⟩

theorem coupled_counts (h : (serialTake (s.region k) (field t.payload 31 0)).2 = true) :
    if isPe (Token.site t) then ((coupled s k t).pe (siteKey t)).joins =
      Map.alter (s.pe (siteKey t)).joins 0 (stKey t.ctx.toNat t.station.toNat) (fun n => n + 1)
    else ((coupled s k t).oper (siteKey t)).joins = (s.oper (siteKey t)).joins + 1 := by
  simp only [coupled, h, if_true]
  exact countCoupling_joins t (s.onRegion k _)

end

/-! ### Joins that forward -/

theorem regionAt_onOper {s : State} {k : Nat} {g : Oper → Oper} (hg : ∀ o, (g o).region = o.region) {x : Site} {c j : Nat}
    (ht : isTile x = false) (h : s.regionAt x c = some j) : (s.onOper k g).regionAt x c = some j := by
  unfold State.regionAt at *
  by_cases hp : isPe x = true
  · simp only [hp, if_true] at *
    exact h
  · simp only [hp, ht, Bool.false_eq_true, if_false, State.onOper, Map.alter, Map.find_put] at h ⊢
    split_ifs with hx
    · subst hx
      cases ho : Map.find s.opers (Site.key x) with
      | none => simp [ho] at h
      | some o => simpa [Map.get, ho, hg] using h
    · exact h

/-- Coupling tokens to targets inside the region go at once (R337). -/
theorem forwardCouple_inside {site st ctx k : Nat} {serial : Word} {gs : List Target} {s : State}
    (h : ∀ g ∈ gs, s.regionAt (Target.site g) ctx = some k) : forwardCouple site st ctx k serial gs s =
      { s with net := s.net ++ gs.map (fun g => (coupleFlight site st ctx k serial g).2) } := by
  induction gs generalizing s with
  | nil => simp [forwardCouple]
  | cons g gs ih =>
    have hg : inRegion s (some k) (Target.site g) ctx = true := by simp [inRegion, h g (by simp)]
    have hrest : ∀ q ∈ gs, (s.post (coupleFlight site st ctx k serial g).2).regionAt (Target.site q) ctx = some k :=
      fun q hq => h q (by simp [hq])
    simp only [forwardCouple, hg, if_true]
    rw [ih hrest]
    simp [State.post]

/-- The record of a region that a join of `m` has forwarded for lies where it lay. -/
theorem sameArea_drainedTo (m : Nat) (r : Region) : Region.sameArea r { r with drainedTo := m :: r.drainedTo } := ⟨rfl, rfl⟩

section
variable {s : State} {x : Site} {c st k : Nat}

theorem joinTargets_of_word (h1 : wordOp ((s.pe (Site.key x)).word c st) ≠ 0x187) (h2 : wordOp ((s.pe (Site.key x)).word c st) ≠ 0x303) :
    joinTargets s k (Site.key x) c st = validTargets (decodeFields ((s.pe (Site.key x)).word c st)) := by
  simp [joinTargets, columnTargets, h1, h2]

/-- The state in which a station's coupling token goes out (R335). -/
def State.stationJoined (s : State) (x : Site) (c st k : Nat) : State :=
  let op := wordOp ((s.pe (Site.key x)).word c st)
  (s.onPe (Site.key x) (fun p => { p with
    forwarded := stKey c st :: p.forwarded
    invar := if op = 0x186 then Map.del p.invar (stKey c st) else p.invar })).onRegion k (fun r => { r with
      drainedTo := member (Site.key x) st :: r.drainedTo })

theorem stationJoined_pe : (s.stationJoined x c st k).pe (Site.key x) = { s.pe (Site.key x) with
    forwarded := stKey c st :: (s.pe (Site.key x)).forwarded
    invar := if wordOp ((s.pe (Site.key x)).word c st) = 0x186 then Map.del (s.pe (Site.key x)).invar (stKey c st)
      else (s.pe (Site.key x)).invar } :=
  (State.pe_onRegion (s.onPe (Site.key x) _) k _ _).trans (s.pe_onPe_self (Site.key x) _)

theorem stationJoined_region : (s.stationJoined x c st k).region k =
    { s.region k with drainedTo := member (Site.key x) st :: (s.region k).drainedTo } :=
  State.region_onRegion_self (s.onPe (Site.key x) _) k _

theorem exec_joinForward (hk : s.regionAt x c = some k) (hh : (s.region k).halted = false) (hj : joinReady s k (Site.key x) c st = true)
    (h1 : wordOp ((s.pe (Site.key x)).word c st) ≠ 0x187) (h2 : wordOp ((s.pe (Site.key x)).word c st) ≠ 0x303)
    (hroom : cabooseRoom s (some k) (validTargets (decodeFields ((s.pe (Site.key x)).word c st))).length = true)
    (hin : ∀ g ∈ validTargets (decodeFields ((s.pe (Site.key x)).word c st)), isTile (Target.site g) = false ∧
      s.regionAt (Target.site g) c = some k) :
    exec (.joinForward x c st) s = .next { s.stationJoined x c st k with
      net := s.net ++ (validTargets (decodeFields ((s.pe (Site.key x)).word c st))).map (fun g =>
        (coupleFlight (Site.key x) st c k (s.region k).serial g).2) } := by
  have hgo : joinGo s x c st = some (forwardCouple (Site.key x) st c k (s.region k).serial
      (validTargets (decodeFields ((s.pe (Site.key x)).word c st))) (s.stationJoined x c st k)) := by
    simp [joinGo, hk, hh, hj, joinTargets_of_word h1 h2, hroom, State.stationJoined]
  have hat : ∀ g ∈ validTargets (decodeFields ((s.pe (Site.key x)).word c st)),
      (s.stationJoined x c st k).regionAt (Target.site g) c = some k := by
    intro g hg
    obtain ⟨htile, hregion⟩ := hin g hg
    exact regionAt_onRegion (s.onPe (Site.key x) _) (fun r => sameArea_drainedTo _ r) htile hregion
  change Host.Outcome.next ((joinGo s x c st).getD s) = _
  rw [hgo, Option.getD_some, forwardCouple_inside hat]
  rfl

/-- The state in which an operator's coupling token goes out (R336). -/
def State.operJoined (s : State) (x : Site) (k : Nat) : State :=
  (s.onOper (Site.key x) (fun o => { o with
    forwarded := true, state := 0, arms := [], held := if o.kind = 5 ∨ o.kind = 7 then [] else o.held })).onRegion k (fun r => { r with
      drainedTo := member (Site.key x) 0 :: r.drainedTo })

theorem operJoined_oper : (s.operJoined x k).oper (Site.key x) = { s.oper (Site.key x) with
    forwarded := true, state := 0, arms := []
    held := if (s.oper (Site.key x)).kind = 5 ∨ (s.oper (Site.key x)).kind = 7 then [] else (s.oper (Site.key x)).held } :=
  (State.oper_onRegion (s.onOper (Site.key x) _) k _ _).trans (s.oper_onOper_self (Site.key x) _)

theorem operJoined_region : (s.operJoined x k).region k =
    { s.region k with drainedTo := member (Site.key x) 0 :: (s.region k).drainedTo } :=
  State.region_onRegion_self (s.onOper (Site.key x) _) k _

theorem exec_operatorCouplingForward (hr : (s.oper (Site.key x)).region = k + 1) (hh : (s.region k).halted = false)
    (hj : operJoinReady s (Site.key x) = true) (h5 : (s.oper (Site.key x)).kind ≠ 5) (h7 : (s.oper (Site.key x)).kind ≠ 7)
    (hroom : cabooseRoom s (some k) 4 = true)
    (hin : ∀ g ∈ (operTargets (s.oper (Site.key x))).filter Target.valid, isTile (Target.site g) = false ∧
      s.regionAt (Target.site g) (operCtx (s.oper (Site.key x))) = some k) :
    exec (.operatorCouplingForward x) s = .next { s.operJoined x k with
      net := s.net ++ ((operTargets (s.oper (Site.key x))).filter Target.valid).map (fun g =>
        (coupleFlight (Site.key x) 0 (operCtx (s.oper (Site.key x))) k (s.region k).serial g).2) } := by
  have hjoin : operJoin s x = some (forwardCouple (Site.key x) 0 (operCtx (s.oper (Site.key x))) k (s.region k).serial
      ((operTargets (s.oper (Site.key x))).filter Target.valid) (s.operJoined x k)) := by
    simp [operJoin, hr, hh, hj, h5, h7, hroom, State.operJoined]
  have hat : ∀ g ∈ (operTargets (s.oper (Site.key x))).filter Target.valid,
      (s.operJoined x k).regionAt (Target.site g) (operCtx (s.oper (Site.key x))) = some k := by
    intro g hg
    obtain ⟨htile, hregion⟩ := hin g hg
    refine regionAt_onRegion _ (fun r => sameArea_drainedTo _ r) htile (regionAt_onOper ?_ htile hregion)
    exact fun _ => rfl
  change Host.Outcome.next ((operJoin s x).getD s) = _
  rw [hjoin, Option.getD_some, forwardCouple_inside hat]
  rfl

/-- What a join that holds says of its operator (R336). -/
theorem operJoinReady_holds {y : Nat} (h : operJoinReady s y = true) :
    (s.region ((s.oper y).region - 1)).serialSet = true ∧ (s.oper y).forwarded = false ∧ max 1 (s.oper y).fanin ≤ (s.oper y).joins ∧
    ((s.oper y).state = 0 ∨ (s.oper y).state = 4) ∧ (s.oper y).moves = [] ∧ (s.oper y).out = [] ∧ (s.oper y).fences = [] ∧
    (∀ d ∈ (s.oper y).doms, d.2.waiting = []) ∧ ∀ a ∈ s.accesses, ¬(a.oper = y ∧ a.phase < 5) := by
  simp only [operJoinReady, portBusy, Bool.and_eq_true, Bool.or_eq_true, Bool.not_eq_true', Bool.or_eq_false_iff, decide_eq_true_eq,
    beq_iff_eq, List.isEmpty_iff, List.any_eq_false, Bool.not_eq_false', Bool.not_eq_false] at h
  obtain ⟨⟨⟨⟨⟨⟨⟨⟨⟨⟨⟨⟨⟨hserial, hforwarded⟩, hjoins⟩, hstate⟩, hmoves⟩, -⟩, hout⟩, -⟩, -⟩, -⟩, -⟩, hbusy⟩, haccess⟩, -⟩ := h
  obtain ⟨⟨hdoms, hfences⟩, -⟩ := hbusy
  exact ⟨hserial, hforwarded, hjoins, hstate, hmoves, hout, hfences, hdoms, haccess⟩

end

/-! ### Draining -/

/-- The state in which a region's drain has begun under a serial (R334). -/
def State.draining (s : State) (k : Nat) (serial : Word) : State :=
  s.onRegion k (fun r => { r with serial := serial, serialSet := true, status := 3 })

theorem draining_region {s : State} {k : Nat} {serial : Word} :
    (s.draining k serial).region k = { s.region k with serial := serial, serialSet := true, status := 3 } := by
  simp [State.draining]

theorem exec_gracefulReconfiguration {s : State} {k : Nat} {v : Word} (ho : s.hostOpen = true) (h2 : (s.region k).status = 2)
    (hs : (s.region k).serialSet = false) (hq : (s.region k).launchQ = []) :
    exec (.gracefulReconfiguration k v) s = .next { s.draining k (BitVec.ofNat 64 (field v 63 32)) with
      net := s.net ++ (couplingDests s k).map (fun g => { (coupleFlight (Site.key ⟨24, 0, 0⟩) 0 (s.region k).ctx k
        (BitVec.ofNat 64 (field v 63 32)) g).2 with cls := .control, region := 0, input := true }) } := by
  change Host.Outcome.next (hostEvent s (startGraceful k (field v 63 32))) = _
  rw [hostEvent_open ho]
  simp only [startGraceful, h2, hs, hq, foldl_post]
  rfl

theorem exec_regionDrained {s : State} {k : Nat} (hf : s.fatal = false) (hd : drainedNow s k = true) :
    exec (.regionDrained k) s = .next (s.onRegion k (fun g => { g with status := 4 })) := by
  change Host.Outcome.next (if s.fatal || !drainedNow s k then s else _) = _
  simp [hf, hd]

/-! ### Squashes -/

theorem operState_of_not_isOper {s : State} {x : Nat} (t : Token) (h : isOper (Site.ofKey x) = false) : operState s x t = .open := by
  simp [operState, h]

/-- A squash token that reaches a `wave` acts on the live tags of its loop, and is counted for a tag that is not live (R146). -/
theorem exec_squashTokenArrival {s : State} {n k di : Nat} {fl : Flight} {t : Token} (h : headOfLane s.net n = some fl)
    (hm : fl.msg = .token t) (hin : fl.input = false) (hcls : fl.cls ≠ .response) (hport : t.port = .c) (hkind : ctlKind t = 2)
    (hbad : ctlBad t = none) (hpe : isPe (Token.site t) = true) (hoper : isOper (Token.site t) = false)
    (hctx : (s.pe (siteKey t)).ctxState t.ctx.toNat = 1) (hop : wordOp ((s.pe (siteKey t)).word t.ctx.toNat t.station.toNat) = 0x187)
    (hk : s.regionAt (Token.site t) t.ctx.toNat = some k)
    (hdi : (s.region k).domainOf (member (siteKey t) t.station.toNat) = some di) :
    exec (.squashTokenArrival n) s = .next (squashAct k di (field t.payload 15 0) { s with net := s.net.eraseIdx n }) := by
  have hopen : operState s (siteKey t) t = .open := operState_of_not_isOper t (by rw [Token.ofKey_siteKey, hoper])
  have hdi' : (State.region { s with net := s.net.eraseIdx n } k).domainOf (member (siteKey t) t.station.toNat) = some di := hdi
  change Host.Outcome.next ((squashArrives s n).getD s) = _
  simp [squashArrives, h, hm, hport, hkind, hbad, hpe, hoper, hctx, hop, hopen, hk, hin, acceptInput_inside, dropFlight_of_ne_response h hcls, hdi']

theorem squashAct_of_not_live {k di i : Nat} {s : State} (h : ((s.region k).domains.getD di Domain.none).isLive i = false) :
    squashAct k di i s = s.onRegion k (fun r => { r with squashes := r.squashes + 1 }) :=
  if_pos (by rw [h]; rfl)

theorem mem_purgePe_entries {d : Domain} {c site : Nat} {dead : Nat → Bool} {p : Pe} {e : Entry} : e ∈ (purgePe d c site dead p).entries ↔
    e ∈ p.entries ∧ ¬(e.ctx = c ∧ member site e.station ∈ d.members ∧ dead e.tag = true) := by
  simp only [purgePe, List.mem_filter, Bool.not_eq_true', ← Bool.not_eq_true, Bool.and_eq_true, beq_iff_eq, List.contains_iff_mem, and_assoc]

/-- Settles O48: each event is given by its step lemma; what a coupling token changes splits on whether the serial is set. -/
theorem couplingAndSquash : Obligations.CouplingAndSquash := by
  unfold Obligations.CouplingAndSquash
  refine ⟨?coupling, ?join, ?operJoin, fun s x => operJoinReady_holds, ?graceful, fun s k => exec_regionDrained, ?squash,
    fun d c site dead p e => mem_purgePe_entries⟩
  case coupling =>
    intro s n k fl t x v h hm hin hcls hport hkind hbad hfirst hoper hctx hk
    refine ⟨_, exec_couplingTokenArrival h hm hin hcls hport hkind hbad hfirst hoper hctx hk, coupled_net, coupled_mem, ?_⟩
    have hregion := coupled_region (s := { s with net := s.net.eraseIdx n }) (k := k) (t := t)
    rw [hregion]
    cases hset : (s.region k).serialSet
    case false =>
      have htake := serialTake_unset (v := field t.payload 31 0) hset
      exact ⟨congrArg (fun p => p.1.serialSet) htake, nofun,
        fun _ => ⟨congrArg (fun p => p.1.serial) htake, congrArg (fun p => p.1.status) htake⟩, nofun,
        fun _ => coupled_counts (congrArg Prod.snd htake)⟩
    case true =>
      have htake := serialTake_set (v := field t.payload 31 0) hset
      refine ⟨(congrArg (fun p => p.1.serialSet) htake).trans hset, fun _ => congrArg Prod.fst htake, nofun,
        fun _ hne => coupled_discards ?differ _, fun hsame => coupled_counts ?same⟩
      case differ => exact (congrArg Prod.snd htake).trans (beq_eq_false_iff_ne.mpr hne)
      case same => exact (congrArg Prod.snd htake).trans (beq_iff_eq.mpr (hsame.resolve_left nofun))
  case join =>
    intro s x c st k p f hk hh hj h1 h2 hroom hin
    refine ⟨_, exec_joinForward hk hh hj h1 h2 hroom hin, ?forwarded, ?drained, rfl, fun hinvar hsorted => ?held⟩
    case forwarded => exact congrArg Pe.forwarded (stationJoined_pe (k := k))
    case drained => exact congrArg Region.drainedTo stationJoined_region
    case held =>
      have hrises : Map.Rises 0 p.invar := Map.rises_of_pairwise hsorted (by simp)
      refine (congrArg (fun q : Pe => Map.find q.invar (stKey c st)) (stationJoined_pe (k := k))).trans ?_
      change Map.find (if _ then Map.del p.invar (stKey c st) else p.invar) (stKey c st) = none
      rw [if_pos hinvar, Map.find_del hrises, if_pos rfl]
  case operJoin =>
    intro s x k o hr hh hj h5 h7 hroom hin
    refine ⟨_, exec_operatorCouplingForward hr hh hj h5 h7 hroom hin, congrArg Oper.forwarded (operJoined_oper (k := k)),
      congrArg Oper.state (operJoined_oper (k := k)), congrArg Region.drainedTo operJoined_region, rfl⟩
  case graceful =>
    intro s k v ho h2 hs hq
    refine ⟨_, exec_gracefulReconfiguration ho h2 hs hq, congrArg Region.status draining_region, congrArg Region.serialSet draining_region,
      congrArg Region.serial draining_region, rfl⟩
  case squash =>
    intro s n k di fl t x i u h hm hin hcls hport hkind hbad hpe hoper hctx hop hk hdi
    rw [exec_squashTokenArrival h hm hin hcls hport hkind hbad hpe hoper hctx hop hk hdi]
    split_ifs with hlive
    · rfl
    · exact congrArg _ (squashAct_of_not_live (Bool.eq_false_iff.mpr hlive))

end Sys2Proof.Machine
end

section
/-! PORTs, hardware queues and transfers (R158 to R164, R213 to R215, R280, R366, R368). -/

namespace Sys2Proof.Machine

/-! ### Events that may fault -/

/-- No step faults into a full buffer where no buffer is full (R140). -/
theorem faultHeld_of_room {s : State} (t : State) (h : ∀ k, handlerFull s k 0x01 = false) : faultHeld s t = false := by
  simp [faultHeld, h]

theorem orHeld_some {s t : State} {r : Option State} (hf : s.fatal = false) (h : ∀ k, handlerFull s k 0x01 = false) (hr : r = some t) :
    s.orHeld r = t := by
  simp [State.orHeld, hr, hf, faultHeld_of_room t h]

theorem dropFlight_of_port {s : State} {n : Nat} {fl : Flight} {q : PortReq} (h : headOfLane s.net n = some fl) (hm : fl.msg = .port q) :
    dropFlight s n = { s with net := s.net.eraseIdx n } := by
  simp [dropFlight, headOfLane_some h, settleOwed, hm]

/-! ### What leaves the accesses as they are -/

section
variable (s : State)

theorem report_accesses (kind : Nat) (r : ErrRec) (w : Word) : (s.report kind r w).accesses = s.accesses := by
  simp only [State.report, State.putReport]
  split_ifs <;> rfl

theorem raiseError_accesses (k : Nat) (r : ErrRec) (saved : Option Token) (b : Bool) : (s.raiseError k r saved b).accesses = s.accesses := by
  unfold State.raiseError
  split
  next => exact report_accesses s 0 r r.payload
  next h _ =>
    simp only []
    split
    next => split <;> rfl
    next => rfl

theorem freeOut_accesses (q : PortReq) : (freeOut q s).accesses = s.accesses := by
  unfold freeOut
  split <;> rfl

theorem requestFault_accesses (code : Nat) (q : PortReq) : (requestFault code q s).accesses = s.accesses :=
  (raiseError_accesses _ _ _ _ _).trans (freeOut_accesses s q)

theorem respond_accesses (site region : Nat) (g : Target) (t : Token) : (respond site region g t s).accesses = s.accesses := by
  unfold respond
  split <;> rfl

theorem markPush_accesses (n index : Nat) : (markPush n index s).accesses = s.accesses := by
  unfold markPush
  split <;> rfl

theorem logQueue_accesses (q : PortReq) (bad : Bool) : (logQueue q bad s).accesses = s.accesses := by
  unfold logQueue
  split <;> rfl

theorem writeHome_accesses (pa : Nat) (bs : List Byte) : (writeHome pa bs s).accesses = s.accesses := by
  simp only [writeHome]
  split
  next => split <;> rfl
  next => split <;> rfl
  next => rfl

theorem putFault_accesses (ws : List Word) : (s.putFault ws).accesses = s.accesses := by
  simp only [State.putFault]
  split <;> rfl

end

theorem drainHolds_accesses (hs : List Hold) (s : State) : (drainHolds hs s).accesses = s.accesses := by
  induction hs generalizing s with
  | nil => rfl
  | cons h hs ih =>
    unfold drainHolds
    split
    · exact ih s
    · split
      · exact (ih _).trans (putFault_accesses s h.words)
      · rfl

/-! ### Requests at a PORT -/

section
variable {s : State} {n : Nat} {fl : Flight} {q : PortReq}

theorem exec_portRequest {t : State} (hf : s.fatal = false) (hh : ∀ k, handlerFull s k 0x01 = false) (h : portRequest s n = some t) :
    exec (.portRequest n) s = .next t :=
  congrArg Host.Outcome.next (orHeld_some hf hh h)

theorem portRequest_serves (h : headOfLane s.net n = some fl) (hm : fl.msg = .port q) (hlo : 0x207 ≤ q.op) (hhi : q.op ≤ 0x212)
    (hkind : (s.oper fl.dst).kind = 11) (hout : portOut s fl.dst < field (Map.get (s.oper fl.dst).pm 0 4) 8 0)
    (hfence : fenced (s.oper fl.dst) q.region = false) (hbusy : forwardBusy s (s.oper fl.dst) q = false)
    (hahead : portAhead s n fl (fun p => p.op == 0x280) = false) :
    portRequest s n = some (if q.op = 0x209 ∨ q.op = 0x20A then ordArrive fl.dst q (Without s n) else serveRequest fl.dst q (Without s n)) := by
  have hqueue : ¬(0x213 ≤ q.op ∧ q.op ≤ 0x215) := by omega
  have hmarker : q.op ≠ 0x280 := by omega
  by_cases hordered : q.op = 0x209 ∨ q.op = 0x20A
  · simpa [portRequest, h, hm, hqueue, hkind, hmarker, hfence, hbusy, hahead, hordered] using hout
  · simpa [portRequest, h, hm, hqueue, hkind, hmarker, hfence, hbusy, hahead, hordered] using hout

theorem portRequest_not_port (h : headOfLane s.net n = some fl) (hm : fl.msg = .port q) (hop : q.op ≤ 0x212 ∨ q.op = 0x280)
    (hkind : (s.oper fl.dst).kind ≠ 11) :
    portRequest s n = some (requestFault 0x02 q (takeNoted (.port q) fl.dst [] (Without s n))) := by
  have hqueue : ¬(0x213 ≤ q.op ∧ q.op ≤ 0x215) := by omega
  simp [portRequest, h, hm, hqueue, hkind]

theorem portRequest_fence (h : headOfLane s.net n = some fl) (hm : fl.msg = .port q) (hop : q.op = 0x280)
    (hkind : (s.oper fl.dst).kind = 11) (hahead : portAhead s n fl throughPort = false) :
    portRequest s n = some (fenceArrive fl.dst q (Without s n)) := by
  simp [portRequest, h, hm, hop, hkind, hahead]

theorem portRequest_queue {t : State} (h : headOfLane s.net n = some fl) (hm : fl.msg = .port q) (hlo : 0x213 ≤ q.op) (hhi : q.op ≤ 0x215)
    (hheld : queueHeld s q = false) (ht : serveQueue q s (Without s n) = some t) :
    portRequest s n = some (if queueHeld t q then t else takeNoted (.port q) fl.dst [] t) := by
  simp [portRequest, h, hm, hlo, hhi, hheld, ht]

/-- A marker that no note of its fence stands for joins the fences (R280). -/
theorem fenceArrive_joins {site : Nat} (hsite : q.site ≠ 0) (hnew : ∀ f ∈ (s.oper site).fences, f.req = q → f.arrived = true) :
    fenceArrive site q s = s.onOper site (fun o => { o with fences := o.fences ++ [{ fenceOf s site q with arrived := true }] }) := by
  have hnone : (s.oper site).fences.any (fun f => f.req == q && !f.arrived) = false := by
    simpa using hnew
  simp [fenceArrive, hsite, hnone]

/-- A marker whose fence was noted on its way marks the note as arrived (R280). -/
theorem fenceArrive_marks {site : Nat} (hsite : q.site ≠ 0) (hnoted : ∃ f ∈ (s.oper site).fences, f.req = q ∧ f.arrived = false) :
    fenceArrive site q s = s.onOper site (fun o => { o with
      fences := updFirst (fun f => f.req == q && !f.arrived) (fun f => { f with arrived := true }) o.fences }) := by
  have hsome : (s.oper site).fences.any (fun f => f.req == q && !f.arrived) = true := by
    simpa using hnoted
  simp [fenceArrive, hsite, hsome]

theorem serveRequest_bounds (site : Nat) (h : 2 ^ 57 ≤ q.addr.toNat) :
    serveRequest site q s = requestFault 0x0A q (takeNoted (.port q) site [] s) :=
  if_pos h

theorem serveRequest_unaligned (site : Nat) (h : q.addr.toNat < 2 ^ 57) (hm : q.addr.toNat % requestSize q ≠ 0) :
    serveRequest site q s = requestFault 0x11 q (takeNoted (.port q) site [] s) :=
  (if_neg (Nat.not_le.mpr h)).trans (if_pos (by simpa using hm))

/-- The access that a request makes at the PORT of a site (R159, R160, R276). -/
def requestAccess (s : State) (site : Nat) (q : PortReq) : Access :=
  let o := s.oper site
  let va := if sectorRead q then q.addr.toNat / 64 * 64 else q.addr.toNat
  let n := if sectorRead q then 64 else requestSize q
  let isLoad := q.op == 0x207 || q.op == 0x209
  let isStore := q.op == 0x208 || q.op == 0x20A
  let fw := if bit (Map.get o.pm 0 0) 3 && isLoad then forwarded s o q va n else ([], [])
  { Access.none with
    kind := if isLoad then .read else if isStore then .write else .atomic
    op := q.op, oper := site, region := q.region + 1, ctx := q.token.ctx.toNat, unit := servingUnit s site
    stream := requestStream q, va := BitVec.ofNat 64 va, size := n
    data := if isStore then leBytes n q.data.toNat else fw.1
    cmp := fw.2, tag := q.token.tag.toNat, seq := q.token.seq.toNat, req := some q }

/-- A request form through a PORT whose checks hold makes its access, and changes besides only what stands at operators and in regions
(R159, R214). -/
theorem serveRequest_makes (site : Nat) (h : q.addr.toNat < 2 ^ 57) (hm : q.addr.toNat % requestSize q = 0) :
    { serveRequest site q s with opers := s.opers, regions := s.regions } = addAccess (requestAccess s site q) s := by
  have hbounds : ¬2 ^ 57 ≤ q.addr.toNat := Nat.not_le.mpr h
  have haligned : ¬(q.addr.toNat % requestSize q != 0) = true := by simpa using hm
  unfold serveRequest
  simp only [if_neg hbounds, if_neg haligned]
  split <;> rfl

theorem requestAccess_kind (s : State) (site : Nat) (q : PortReq) : (q.op = 0x207 ∨ q.op = 0x209 → (requestAccess s site q).kind = .read) ∧
    (q.op = 0x208 ∨ q.op = 0x20A → (requestAccess s site q).kind = .write ∧
      (requestAccess s site q).data = leBytes (requestAccess s site q).size q.data.toNat) ∧
    (0x20B ≤ q.op → (requestAccess s site q).kind = .atomic) := by
  refine ⟨fun h => ?_, fun h => ?_, fun h => ?_⟩
  · obtain h | h := h <;> simp [requestAccess, h]
  · obtain h | h := h <;> simp [requestAccess, h]
  · have : q.op ≠ 0x207 ∧ q.op ≠ 0x208 ∧ q.op ≠ 0x209 ∧ q.op ≠ 0x20A := by omega
    simp [requestAccess, this]

theorem serveRequest_access (site : Nat) (h : q.addr.toNat < 2 ^ 57) (hm : q.addr.toNat % requestSize q = 0) :
    (serveRequest site q s).accesses = s.accesses ++ [{ requestAccess s site q with id := s.nextAcc }] ∧
    (serveRequest site q s).mem = s.mem ∧ (serveRequest site q s).net = s.net := by
  have hmakes := serveRequest_makes (s := s) site h hm
  have haccesses := congrArg State.accesses hmakes
  have hmem := congrArg State.mem hmakes
  have hnet := congrArg State.net hmakes
  exact ⟨haccesses, hmem, hnet⟩

end

/-! ### Hardware queues -/

theorem queueHeld_of_accesses {s t : State} {q : PortReq} (h : t.accesses = s.accesses) : queueHeld t q = queueHeld s q := by
  rw [queueHeld, queueHeld, h]

/-- A queue form that a translation fault holds stands among the accesses (R360). -/
theorem queueHeld_holdQueue (q : PortReq) (d : QueueReg) (i level cause : Nat) (s : State) :
    queueHeld (holdQueue q d i level cause s) q = true := by
  have haccesses : ∃ a ∈ (holdQueue q d i level cause s).accesses, a.req = some q ∧ a.op = q.op := by
    simp only [holdQueue, holdAccess, raiseError_accesses, drainHolds_accesses]
    simp only [State.onOper, State.onAccess, addAccess, List.map_append, List.map_cons, List.map_nil, if_true, beq_self_eq_true]
    exact ⟨_, List.mem_append_right _ (List.mem_singleton.mpr rfl), rfl, rfl⟩
  obtain ⟨a, ha, hreq, hop⟩ := haccesses
  simp only [queueHeld, List.any_eq_true]
  exact ⟨a, ha, by simp [hreq, hop]⟩

section
variable {q : PortReq} {held v : State} {d : QueueReg} (hd : Map.get v.queues QueueReg.zero (q.aux % 256) = d)
include hd

theorem serveQueue_barred (h : bit d.cfg 8 = false ∨ bit d.cfg (if q.op = 0x213 then 9 else 10) = true) :
    serveQueue q held v = some (requestFault 0x14 q v) := by
  subst hd
  refine if_pos ?_
  obtain h | h := h
  · simp [h]
  · rw [apply_ite (bit _)] at h
    simp [h]

variable (hopen : bit d.cfg 8 = true) (hbar : bit d.cfg (if q.op = 0x213 then 9 else 10) = false)
include hopen hbar

theorem serveQueue_denied (hlo : 0x213 ≤ q.op) (hhi : q.op ≤ 0x215)
    (hroom : if q.op = 0x213 then d.used < d.depth else d.used ≠ 0)
    (hplace : (if q.op = 0x213 then queuePa v d (field d.tail 31 0) true else queuePa v d (field d.head 31 0) false) = .denied) :
    serveQueue q held v = some (requestFault 0x09 q v) := by
  obtain hop | hop | hop : q.op = 0x213 ∨ q.op = 0x214 ∨ q.op = 0x215 := by omega
  all_goals
    simp only [hop] at hbar hroom hplace
    simp_all [serveQueue]

theorem serveQueue_faults (hlo : 0x213 ≤ q.op) (hhi : q.op ≤ 0x215)
    (hroom : if q.op = 0x213 then d.used < d.depth else d.used ≠ 0) {level cause : Nat}
    (hplace : (if q.op = 0x213 then queuePa v d (field d.tail 31 0) true else queuePa v d (field d.head 31 0) false) = .fault level cause) :
    serveQueue q held v = some (holdQueue q d (if q.op = 0x213 then field d.tail 31 0 else field d.head 31 0) level cause held) := by
  obtain hop | hop | hop : q.op = 0x213 ∨ q.op = 0x214 ∨ q.op = 0x215 := by omega
  all_goals
    simp only [hop] at hbar hroom hplace
    simp_all [serveQueue]

variable {pa : Nat} {bytes : List Byte} {bad : Bool}

theorem serveQueue_push (hop : q.op = 0x213) (hroom : d.used < d.depth) (hplace : queuePa v d (field d.tail 31 0) true = .at pa) :
    serveQueue q held v = some (respond (Site.key ⟨24, 0, 0⟩) 0 q.targetA { q.token with payload := 0 }
      (markPush (q.aux % 256) (field d.tail 31 0) { writeHome pa (leBytes 8 q.addr.toNat ++ leBytes 8 q.data.toNat) v with
        queues := Map.put v.queues (q.aux % 256) { d with tail := BitVec.ofNat 64 ((field d.tail 31 0 + 1) % 2 ^ 32) } })) := by
  simp only [hop] at hbar
  simp_all [serveQueue]

theorem serveQueue_pop (hop : q.op = 0x214) (hroom : d.used ≠ 0) (hplace : queuePa v d (field d.head 31 0) false = .at pa)
    (hmove : migrating v pa = none) (hbytes : Memory.readBytes v.mem pa 16 = bytes) (hbad : rangePoisoned v pa 16 = bad) :
    let word := fun (bs : List Byte) => { q.token with payload := BitVec.ofNat 64 (leNat bs), poison := q.token.poison || bad }
    serveQueue q held v = some (respond (Site.key ⟨24, 0, 0⟩) 0 q.targetB (word (bytes.drop 8))
      (respond (Site.key ⟨24, 0, 0⟩) 0 q.targetA (word (bytes.take 8)) (logQueue q bad
        { v with queues := Map.put v.queues (q.aux % 256) { d with head := BitVec.ofNat 64 ((field d.head 31 0 + 1) % 2 ^ 32) } }))) := by
  simp only [hop] at hbar
  simp_all [serveQueue, readHome]

theorem serveQueue_peek_empty (hop : q.op = 0x215) (hempty : d.used = 0) :
    serveQueue q held v = some (respond (Site.key ⟨24, 0, 0⟩) 0 q.targetB { q.token with payload := 0 }
      (respond (Site.key ⟨24, 0, 0⟩) 0 q.targetA { q.token with payload := 0, fmt := .i64 } v)) := by
  simp only [hop] at hbar
  simp_all [serveQueue]

theorem serveQueue_peek (hop : q.op = 0x215) (hroom : d.used ≠ 0) (hplace : queuePa v d (field d.head 31 0) false = .at pa)
    (hmove : migrating v pa = none) (hbytes : Memory.readBytes v.mem pa 8 = bytes) (hbad : rangePoisoned v pa 8 = bad) :
    serveQueue q held v = some (respond (Site.key ⟨24, 0, 0⟩) 0 q.targetB { q.token with
        payload := BitVec.ofNat 64 (leNat bytes), poison := q.token.poison || bad }
      (respond (Site.key ⟨24, 0, 0⟩) 0 q.targetA { q.token with payload := BitVec.ofNat 64 d.used, fmt := .i64 } (logQueue q bad v))) := by
  simp only [hop] at hbar
  simp_all [serveQueue, readHome]

end

/-- A queue form that is served and not held: its message has been taken up (R163). -/
theorem exec_portRequest_served {s t : State} {n : Nat} {fl : Flight} {q : PortReq} (hf : s.fatal = false)
    (hh : ∀ k, handlerFull s k 0x01 = false) (h : headOfLane s.net n = some fl) (hm : fl.msg = .port q) (hlo : 0x213 ≤ q.op)
    (hhi : q.op ≤ 0x215) (hheld : queueHeld s q = false) (ht : serveQueue q s (Without s n) = some t) (haccesses : t.accesses = s.accesses) :
    exec (.portRequest n) s = .next (takeNoted (.port q) fl.dst [] t) := by
  refine exec_portRequest hf hh ((portRequest_queue h hm hlo hhi hheld ht).trans ?_)
  simp [(queueHeld_of_accesses haccesses).trans hheld]

/-- A queue form that a translation fault holds waits (R360). -/
theorem exec_portRequest_held {s : State} {n : Nat} {fl : Flight} {q : PortReq} {d : QueueReg} {i level cause : Nat} (hf : s.fatal = false)
    (hh : ∀ k, handlerFull s k 0x01 = false) (h : headOfLane s.net n = some fl) (hm : fl.msg = .port q) (hlo : 0x213 ≤ q.op)
    (hhi : q.op ≤ 0x215) (hheld : queueHeld s q = false) (ht : serveQueue q s (Without s n) = some (holdQueue q d i level cause s)) :
    exec (.portRequest n) s = .next (holdQueue q d i level cause s) := by
  refine exec_portRequest hf hh ((portRequest_queue h hm hlo hhi hheld ht).trans ?_)
  simp [queueHeld_holdQueue]

theorem atomicNew_cases (q : PortReq) (old : Nat) :
    let w := 8 * atomicSize q
    let v := q.data.toNat % 2 ^ w
    (q.op = 0x20B → atomicNew q old = ((old + v) % 2 ^ w, none)) ∧
    (q.op = 0x20C → let r := sumTo q.fmt q.round q.sat false [decodeF q.fmt old, decodeF q.fmt v]
      atomicNew q old = (r.bits, r.cause)) ∧
    (q.op = 0x20D → atomicNew q old = (if signed w v < signed w old then v else old, none)) ∧
    (q.op = 0x20E → atomicNew q old = (if signed w old < signed w v then v else old, none)) ∧
    (q.op = 0x20F → atomicNew q old = (Nat.land old v, none)) ∧ (q.op = 0x210 → atomicNew q old = (Nat.lor old v, none)) ∧
    (q.op = 0x211 → atomicNew q old = (v, none)) ∧
    (q.op = 0x212 → atomicNew q old = (if old = q.cmp.toNat % 2 ^ w then v else old, none)) := by
  refine ⟨fun h => ?_, fun h => ?_, fun h => ?_, fun h => ?_, fun h => ?_, fun h => ?_, fun h => ?_, fun h => ?_⟩
  all_goals simp [atomicNew, h]

theorem markPush_launch {n index : Nat} {s : State} :
    (n < 192 → markPush n index s = s) ∧ (192 ≤ n → markPush n index s = { s with pushed := s.pushed ++ [⟨n - 192, index, s.taken⟩] }) :=
  ⟨fun h => if_neg (Nat.not_le.mpr h), fun h => if_pos h⟩

end Sys2Proof.Machine
end

section
/-! Fences, transfers and their completions (R164, R215, R280, R366, R368). -/

namespace Sys2Proof.Machine

theorem Map.get_mapValues {α : Type} (f : α → α) (m : Map α) {d : α} (hd : f d = d) (k : Nat) :
    Map.get (m.map (fun kv => (kv.1, f kv.2))) d k = f (Map.get m d k) := by
  induction m with
  | nil => exact hd.symm
  | cons kv m ih =>
    simp only [Map.get, List.map_cons, Map.find] at ih ⊢
    split
    · rfl
    · exact ih

/-! ### Fences and responses -/

theorem fenceEnds_complete {s : State} {site n : Nat} {f : FenceWait} (hn : (s.oper site).fences[n]? = some f) (harrived : f.arrived = true)
    (hcovered : ∀ a ∈ s.accesses, a.id ∈ f.covered → 5 ≤ a.phase) (hahead : ∀ g ∈ f.ahead, aheadOpen s g = false) :
    fenceEnds s site n = some (respond site (s.oper site).region f.req.targetB f.req.token
      (s.onOper site (fun o => { o with fences := o.fences.eraseIdx n }))) := by
  have hnone : f.ahead.any (aheadOpen s) = false := by simpa using hahead
  simpa [fenceEnds, hn, harrived, hnone] using hcovered

theorem respond_valid {site region : Nat} {g : Target} {t : Token} {s : State} (h : g.valid = true) : respond site region g t s = { s with
    net := s.net ++ [⟨site, 0, .response, Site.key (Token.site (Token.toTarget t g)), Token.lane (Token.toTarget t g),
      .token (Token.toTarget t g), region, true, false⟩] } := by
  simp [respond, h, State.post]

theorem respond_invalid {site region : Nat} {g : Target} {t : Token} {s : State} (h : g.valid = false) : respond site region g t s = s := by
  simp [respond, h]

/-! ### Transfer commands -/

/-- Taking up a message changes the fences of an operator alone (R280). -/
theorem takeNoted_oper (m : Msg) (site : Nat) (ids : List Nat) (s : State) (x : Nat) :
    ∃ fences, (takeNoted m site ids s).oper x = { s.oper x with fences := fences } :=
  ⟨_, Map.get_mapValues (fun o : Oper => { o with fences := o.fences.map _ }) s.opers rfl x⟩

/-- Accepting a flight changes what an operator is owed alone (R158). -/
theorem dropFlight_oper (s : State) (n x : Nat) : ∃ owed, (dropFlight s n).oper x = { s.oper x with owed := owed } := by
  unfold dropFlight
  split
  next => exact ⟨_, rfl⟩
  next f _ =>
    simp only []
    split
    next =>
      unfold settleOwed
      split
      next =>
        split
        next o _ =>
          by_cases hx : x = f.site
          · subst hx
            exact ⟨_, State.oper_onOper_self _ _ _⟩
          · exact ⟨_, State.oper_onOper_ne _ _ hx⟩
        next => exact ⟨_, rfl⟩
      next => exact ⟨_, rfl⟩
    next => exact ⟨_, rfl⟩

theorem sectorParts_sector (n f : Nat) : sectorParts (n + 2) (f * 64) 64 = [(f * 64, 64)] := by
  simp [sectorParts]

section
variable {site k op elem tag seq f : Nat} {tok : Option Token} {s : State}

/-- The read that an operator makes of one sector, waiting in the caboose (R156, R276). -/
def sectorAccess (s : State) (site op elem tag seq f : Nat) (tok : Option Token) : Access :=
  { Access.none with
    id := s.nextAcc, op := op, oper := site, region := (s.oper site).region, ctx := operCtx (s.oper site), unit := servingUnit s site
    stream := 2 * site, va := BitVec.ofNat 64 (f * 64), size := 64, phase := 6, elem := elem, tag := tag, seq := seq, tok := tok }

theorem operAccess_sector_rest (hr : (s.oper site).region = k + 1) :
    { operAccess site .read op elem tag seq (f * 64) 64 [] [] tok s with pes := s.pes, regions := s.regions } =
      addAccess (sectorAccess s site op elem tag seq f tok) s := by
  simp only [operAccess, sectorParts_sector, List.foldl_cons, List.foldl_nil, hr, Nat.add_one_ne_zero, if_false]
  simp [sectorAccess, addAccess, enterCaboose, hr, State.onPe, State.onRegion, Access.none]

theorem operAccess_sector (hr : (s.oper site).region = k + 1) :
    (operAccess site .read op elem tag seq (f * 64) 64 [] [] tok s).accesses = s.accesses ++ [sectorAccess s site op elem tag seq f tok] ∧
    (operAccess site .read op elem tag seq (f * 64) 64 [] [] tok s).opers = s.opers ∧
    (operAccess site .read op elem tag seq (f * 64) 64 [] [] tok s).net = s.net ∧
    (operAccess site .read op elem tag seq (f * 64) 64 [] [] tok s).mem = s.mem := by
  have hrest := operAccess_sector_rest (op := op) (elem := elem) (tag := tag) (seq := seq) (f := f) (tok := tok) hr
  have haccesses := congrArg State.accesses hrest
  have hopers := congrArg State.opers hrest
  have hnet := congrArg State.net hrest
  have hmem := congrArg State.mem hrest
  exact ⟨haccesses, hopers, hnet, hmem⟩

end

/-- The transfer that a command begins (R215). -/
def newTransfer (s : State) (site code : Nat) (t : Token) : Transfer :=
  ⟨s.nextAcc, code, t.tag.toNat, 0, 0, 0, 0, t.tag.toNat, 0, 0, 0, 0, 0, operCtx (s.oper site), t, servingUnit s site, []⟩

/-- The entry that stands for the transfer among the accesses (R215). -/
def transferEntry (s : State) (site code : Nat) (t : Token) : Access :=
  { Access.none with
    id := s.nextAcc, op := code, oper := site, region := (s.oper site).region, ctx := operCtx (s.oper site), phase := 4
    stream := 2 * site, tag := t.tag.toNat }

/-- The state in which a command has been taken up. -/
def commandTaken (s : State) (n : Nat) (fl : Flight) : State := takeNoted fl.msg fl.dst [s.nextAcc] (Without s n)

/-- The state in which a command's transfer and its entry stand, and its descriptor is still to be read (R215). -/
def commandBegun (s : State) (n code : Nat) (fl : Flight) (t : Token) : State :=
  (addAccess (transferEntry s fl.dst code t) (commandTaken s n fl)).onOper fl.dst (fun o => { o with
    moves := o.moves ++ [newTransfer s fl.dst code t] })

section
variable {s : State} {n k code : Nat} {fl : Flight} {t : Token}

theorem commandTaken_rest (h : headOfLane s.net n = some fl) : (commandTaken s n fl).net = s.net.eraseIdx n ∧
    (commandTaken s n fl).mem = s.mem ∧ (commandTaken s n fl).accesses = s.accesses ∧ (commandTaken s n fl).nextAcc = s.nextAcc := by
  obtain ⟨hlt, -⟩ := List.getElem?_eq_some_iff.mp (headOfLane_some h)
  obtain ⟨hnet, hrest, -⟩ := dropFlight_rest s n hlt
  have hmem := congrArg State.mem hrest
  have haccesses := congrArg State.accesses hrest
  have hnext := congrArg State.nextAcc hrest
  exact ⟨hnet, hmem, haccesses, hnext⟩

theorem commandTaken_oper (s : State) (n : Nat) (fl : Flight) :
    ((commandTaken s n fl).oper fl.dst).moves = (s.oper fl.dst).moves ∧ ((commandTaken s n fl).oper fl.dst).region = (s.oper fl.dst).region := by
  obtain ⟨fences, hf⟩ := takeNoted_oper fl.msg fl.dst [s.nextAcc] (Without s n) fl.dst
  obtain ⟨owed, ho⟩ := dropFlight_oper s n fl.dst
  rw [commandTaken, hf, ho]
  exact ⟨rfl, rfl⟩

theorem commandBegun_rest (code : Nat) (t : Token) (h : headOfLane s.net n = some fl) :
    (commandBegun s n code fl t).net = s.net.eraseIdx n ∧ (commandBegun s n code fl t).mem = s.mem ∧
    (commandBegun s n code fl t).accesses = s.accesses ++ [transferEntry s fl.dst code t] := by
  obtain ⟨hnet, hmem, haccesses, hnext⟩ := commandTaken_rest h
  refine ⟨hnet, hmem, ?_⟩
  change (commandTaken s n fl).accesses ++ [{ transferEntry s fl.dst code t with id := (commandTaken s n fl).nextAcc }] = _
  rw [haccesses, hnext]
  rfl

theorem commandBegun_oper (s : State) (n code : Nat) (fl : Flight) (t : Token) :
    ((commandBegun s n code fl t).oper fl.dst).moves = (s.oper fl.dst).moves ++ [newTransfer s fl.dst code t] ∧
    ((commandBegun s n code fl t).oper fl.dst).region = (s.oper fl.dst).region := by
  obtain ⟨hmoves, hregion⟩ := commandTaken_oper s n fl
  rw [commandBegun, State.oper_onOper_self, ← hmoves, ← hregion]
  exact ⟨rfl, rfl⟩

theorem transferCommand_begins (h : Takes s n fl t) (hport : t.port = .c) (hkind : ctlKind t = code)
    (hr : (s.oper fl.dst).region = k + 1) (hroom : cabooseRoom s (some k) 1 = true) (hfence : commandFenced s fl = false) :
    transferCommand code s n = some (operAccess fl.dst .read code s.nextAcc t.tag.toNat 0 (field t.payload 50 0 * 64) 64 [] []
      (some t) (commandBegun s n code fl t)) := by
  have hcommand := h.command hport hkind
  have htake := h.take
  obtain ⟨-, hhead, -⟩ := h
  obtain ⟨-, -, -, hnext⟩ := commandTaken_rest hhead
  rw [commandTaken] at hnext
  simp [transferCommand, hcommand, htake, hr, hroom, hfence, hnext, commandTaken, commandBegun, newTransfer, transferEntry, addAccess]

/-- A transfer command that is taken up makes its entry and the read of its descriptor, and joins the transfers of its PORT (R215). -/
theorem transferCommand_makes (h : Takes s n fl t) (hport : t.port = .c) (hkind : ctlKind t = code)
    (hr : (s.oper fl.dst).region = k + 1) (hroom : cabooseRoom s (some k) 1 = true) (hfence : commandFenced s fl = false) :
    ∃ v, transferCommand code s n = some v ∧ (v.oper fl.dst).moves = (s.oper fl.dst).moves ++ [newTransfer s fl.dst code t] ∧
      v.accesses = s.accesses ++ [transferEntry s fl.dst code t, sectorAccess (commandBegun s n code fl t) fl.dst code s.nextAcc t.tag.toNat 0
        (field t.payload 50 0) (some t)] ∧ v.net = s.net.eraseIdx n ∧ v.mem = s.mem := by
  refine ⟨_, transferCommand_begins h hport hkind hr hroom hfence, ?_⟩
  obtain ⟨-, hhead, -⟩ := h
  obtain ⟨hnet, hmem, haccesses⟩ := commandBegun_rest code t hhead
  obtain ⟨hmoves, hregion⟩ := commandBegun_oper s n code fl t
  obtain ⟨hreadAccesses, hreadOpers, hreadNet, hreadMem⟩ := operAccess_sector (op := code) (elem := s.nextAcc) (tag := t.tag.toNat)
    (seq := 0) (f := field t.payload 50 0) (tok := some t) (hregion.trans hr)
  refine ⟨?_, ?_, hreadNet.trans hnet, hreadMem.trans hmem⟩
  · rw [State.oper, hreadOpers]
    exact hmoves
  · rw [hreadAccesses, haccesses, List.append_assoc]
    rfl

end

/-! ### Completions -/

theorem linkCompletion_write {s : State} {n : Nat} {e : Access} {m : Transfer} {data : List Byte} (he : s.access n = some e)
    (hm : moveOf s e.oper n = some m) (hp : m.phase = 2) (hk : m.kind = 0x1A) :
    linkCompletion s n data = some (endTransfer e.oper m 0 s) := by
  simp [linkCompletion, he, hm, hp, hk]

theorem linkCompletion_read {s : State} {n : Nat} {e : Access} {m : Transfer} {data : List Byte} (he : s.access n = some e)
    (hm : moveOf s e.oper n = some m) (hp : m.phase = 2) (hk : m.kind = 0x19) (hlen : data.length = m.len.toNat) :
    linkCompletion s n data = some (if data = [] then endTransfer e.oper m 0 (onMove e.oper m { m with phase := 1 } s) else
      (sectorParts (data.length / 64 + 2) m.dst.toNat data.length).foldl (fun s p =>
        moveAccess e.oper .write m p.1 p.2 ((data.drop (p.1 - m.dst.toNat)).take p.2) s) (onMove e.oper m { m with phase := 1 } s)) := by
  simp only [linkCompletion, he, hm, hp, hk, hlen]
  cases data <;> simp

theorem nvmeEnds_completes {s : State} {n status : Nat} {e : Access} {m : Transfer} (he : s.access n = some e)
    (hm : moveOf s e.oper n = some m) (hp : m.phase = 2) (hk : m.kind = 0x1B ∨ m.kind = 0x1C)
    (hlast : ∀ a ∈ s.accesses, a.oper = e.oper → a.req = none → a.op = m.kind → a.elem = n → a.id = n) :
    let w2 := pairWord s m.qp 2
    let head := ((Map.get s.modRegs.nqp 0 (1088 + m.qp)).toNat + 1) % 2 ^ field w2 35 32
    let u : State := { s with
      hostMem := Memory.writeBytes s.hostMem ((pairWord s m.qp 3).toNat + 4 * 2 ^ field w2 46 43) (leBytes 4 head)
      modRegs := { s.modRegs with nqp := Map.put s.modRegs.nqp (1088 + m.qp) (BitVec.ofNat 64 head) } }
    nvmeEnds s n status = some (if m.status = 3 then endTransfer e.oper m 3 u else if status = 0 then
        endTransfer e.oper { m with pos := Transfer.blocks m } 0 (onMove e.oper m { m with pos := Transfer.blocks m } u)
      else endTransfer e.oper m 4 u) := by
  have hclass : transferClass m.kind = 2 := by obtain h | h := hk <;> rw [h] <;> rfl
  have hwaits : s.accesses.any (fun a => a.oper == e.oper && a.req.isNone && a.op == m.kind && a.elem == n && a.id != n) = false := by
    simpa [and_imp] using hlast
  simp only [nvmeEnds, he, hm, hp, hclass, hwaits]
  rfl

theorem driveAccess_serves {s : State} {q addr site : Nat} {write : Bool} {data : List Byte} {m : Transfer}
    (hon : bit (pairWord s q 2) 63 = true) (haddr : s.modRegs.nwin.toNat ≤ addr)
    (hm : driveMove s q write (addr - s.modRegs.nwin.toNat) data.length = some (site, m)) :
    let va := addr - s.modRegs.nwin.toNat
    driveAccess s q write addr data = some ((sectorParts (data.length / 64 + 2) va data.length).foldl (fun v p =>
      addAccess { Access.none with
        kind := if write then .write else .read, op := m.kind, oper := site, region := (v.oper site).region, ctx := field (pairWord s q 2) 42 40
        unit := ioUnit, tok := some m.token, stream := 2 * site, va := BitVec.ofNat 64 p.1, size := p.2
        data := if write then (data.drop (p.1 - va)).take p.2 else [], elem := m.id, tag := m.tag, part := p.1 - va } v)
      (if write then s else { s with hostBytes := List.replicate data.length 0 })) := by
  simp only [driveAccess, hon, Nat.not_lt.mpr haddr, hm]
  rfl

/-! ### Requests that arrive -/

section
variable {s : State} {n : Nat} {fl : Flight} {q : PortReq}

/-- What a queue form looks up does not depend on the flights under way. -/
theorem without_port (h : headOfLane s.net n = some fl) (hm : fl.msg = .port q) : (Without s n).queues = s.queues ∧
    queuePa (Without s n) = queuePa s ∧ rangePoisoned (Without s n) = rangePoisoned s ∧ migrating (Without s n) = migrating s ∧
    (Without s n).mem = s.mem ∧ (Without s n).accesses = s.accesses ∧ (Without s n).oper = s.oper := by
  rw [Without, dropFlight_of_port h hm]
  exact ⟨rfl, rfl, rfl, rfl, rfl, rfl, rfl⟩

end

/-- Settles O53: a request splits on its form and what its PORT or queue answers; each transfer step is given by its lemma. -/
theorem portsAndTransfers : Obligations.PortsAndTransfers := by
  unfold Obligations.PortsAndTransfers
  refine ⟨?request, fun n index s => markPush_launch, ?serve, atomicNew_cases, ?fence,
    fun site region g t s => ⟨respond_valid, respond_invalid⟩, ?command, ?completion, ?drive⟩
  case request =>
    intro s n fl q u o d io q2 taken hf hh h hm
    obtain ⟨hqueues, hpa, hpoisoned, hmigrating, hmem, haccesses, hoper⟩ := without_port h hm
    have hd : Map.get u.queues QueueReg.zero (q.aux % 256) = d := by rw [hqueues]
    refine ⟨fun hlo hhi hkind hout hfence hbusy hahead =>
        exec_portRequest hf hh (portRequest_serves h hm hlo hhi hkind hout hfence hbusy hahead),
      fun hlo hop hkind => exec_portRequest hf hh (portRequest_not_port h hm hop hkind),
      fun hop hkind hsite hahead => ⟨fun hnew => ?joins, fun hnoted => ?marks⟩,
      fun hlo hhi hheld => ?queue⟩
    case joins =>
      exact exec_portRequest hf hh ((portRequest_fence h hm hop hkind hahead).trans
        (congrArg some (fenceArrive_joins hsite (by rw [hoper]; exact hnew))))
    case marks =>
      exact exec_portRequest hf hh ((portRequest_fence h hm hop hkind hahead).trans
        (congrArg some (fenceArrive_marks hsite (by rw [hoper]; exact hnoted))))
    case queue =>
      intro barred place room
      refine ⟨fun hbar => ?barred, fun hopen hbar hroom hplace => ?denied, fun hopen hbar hroom level cause hplace => ?faults,
        fun hop hopen hbar hroom pa hplace => ?push, fun hop hopen hbar hroom pa hplace hmove => ?pop,
        fun hop hopen hbar hempty => ?peekEmpty, fun hop hopen hbar hroom pa hplace hmove => ?peek⟩
      case barred =>
        exact exec_portRequest_served hf hh h hm hlo hhi hheld (serveQueue_barred hd hbar) ((requestFault_accesses _ _ _).trans haccesses)
      case denied =>
        exact exec_portRequest_served hf hh h hm hlo hhi hheld
          (serveQueue_denied hd hopen hbar hlo hhi hroom (by rw [hpa]; exact hplace)) ((requestFault_accesses _ _ _).trans haccesses)
      case faults =>
        exact exec_portRequest_held hf hh h hm hlo hhi hheld
          (serveQueue_faults hd hopen hbar hlo hhi hroom (by rw [hpa]; exact hplace))
      case push =>
        simp only [place, room, if_pos hop] at hplace hroom
        have hserve := serveQueue_push (held := s) hd hopen hbar hop hroom (by rw [hpa]; exact hplace)
        rw [hqueues] at hserve
        exact exec_portRequest_served hf hh h hm hlo hhi hheld hserve
          (by simp only [u, respond_accesses, markPush_accesses, writeHome_accesses, haccesses])
      case pop =>
        have hother : ¬q.op = 0x213 := by omega
        simp only [place, room, if_neg hother] at hplace hroom
        have hserve := serveQueue_pop (held := s) hd hopen hbar hop hroom (by rw [hpa]; exact hplace) (by rw [hmigrating]; exact hmove)
          (congrArg (Memory.readBytes · pa 16) hmem) (congrFun (congrFun hpoisoned pa) 16)
        rw [hqueues] at hserve
        exact exec_portRequest_served hf hh h hm hlo hhi hheld hserve (by simp only [u, respond_accesses, logQueue_accesses, haccesses])
      case peekEmpty =>
        exact exec_portRequest_served hf hh h hm hlo hhi hheld (serveQueue_peek_empty hd hopen hbar hop hempty)
          (by simp only [u, respond_accesses, haccesses])
      case peek =>
        have hother : ¬q.op = 0x213 := by omega
        simp only [place, room, if_neg hother] at hplace hroom
        have hserve := serveQueue_peek (held := s) hd hopen hbar hop hroom (by rw [hpa]; exact hplace) (by rw [hmigrating]; exact hmove)
          (congrArg (Memory.readBytes · pa 8) hmem) (congrFun (congrFun hpoisoned pa) 8)
        exact exec_portRequest_served hf hh h hm hlo hhi hheld hserve (by simp only [u, respond_accesses, logQueue_accesses, haccesses])
  case serve =>
    intro site q s hlo hhi size
    refine ⟨serveRequest_bounds site, serveRequest_unaligned site, fun h hm => ?_⟩
    obtain ⟨haccesses, hmem, hnet⟩ := serveRequest_access (s := s) site h hm
    obtain ⟨hload, hstore, hatomic⟩ := requestAccess_kind s site q
    exact ⟨{ requestAccess s site q with id := s.nextAcc }, haccesses, rfl, rfl, rfl, rfl, rfl, rfl, hmem, hnet, hload, hstore, hatomic⟩
  case fence =>
    intro s site n f hf hn harrived hcovered hahead
    exact congrArg Host.Outcome.next (orSelf_some hf (fenceEnds_complete hn harrived hcovered hahead))
  case command =>
    intro s n k fl t h hport hkind hr hroom hfence hh x hx hctl
    obtain ⟨v, hv, hmoves, haccesses, hnet, hmem⟩ := transferCommand_makes h hport hctl hr hroom hfence
    refine ⟨v, _, _, _, ?_, hmoves, rfl, rfl, rfl, rfl, rfl, rfl, haccesses, rfl, rfl, rfl, ?place, rfl, rfl, rfl, hnet, hmem⟩
    case place => exact congrArg (BitVec.ofNat 64) (Nat.mul_comm _ _)
    obtain ⟨hf, -⟩ := h
    have hstep := orHeld_some hf hh hv
    simp only [List.mem_cons, List.not_mem_nil, or_false] at hx
    obtain rfl | rfl | rfl | rfl | rfl | rfl := hx <;> exact congrArg Host.Outcome.next hstep
  case completion =>
    intro s n e m hf he hm hp
    refine ⟨fun data hk => congrArg Host.Outcome.next (orSelf_some hf (linkCompletion_write he hm hp hk)), fun hk hlen => ?empty,
      fun data hk hlen hne => ?read, fun hk hlast status => congrArg Host.Outcome.next (orSelf_some hf (nvmeEnds_completes he hm hp hk hlast))⟩
    case empty =>
      exact congrArg Host.Outcome.next (orSelf_some hf (linkCompletion_read (data := []) he hm hp hk (by simp [hlen])))
    case read =>
      exact congrArg Host.Outcome.next (orSelf_some hf ((linkCompletion_read he hm hp hk hlen).trans (by rw [if_neg hne])))
  case drive =>
    intro s q addr write data site m w2 va hf hon haddr hm
    exact congrArg Host.Outcome.next (orSelf_some hf (driveAccess_serves hon haddr hm))

end Sys2Proof.Machine
end


section
/-! The matrix array's forms (O31, O32, O33): a controller form that takes its turn at once or in the line, what each form does to
the matrix state and the PEs, and the tokens that it sends. -/

namespace Sys2Proof.Machine

/-! ### Fields of a word -/

theorem field_eq {n : Nat} (w : BitVec n) (hi lo : Nat) : field w hi lo = w.toNat / 2 ^ lo % 2 ^ (hi + 1 - lo) := by
  rw [field, Nat.shiftRight_eq_div_pow]

/-- A field up to the top of a word is what stands above its low bits. -/
theorem field_top (w : Word) {lo : Nat} (h : lo ≤ 64) : field w 63 lo = w.toNat / 2 ^ lo := by
  rw [field_eq]
  refine Nat.mod_eq_of_lt (Nat.div_lt_of_lt_mul ?_)
  rw [← pow_add, Nat.add_sub_of_le h]
  exact w.isLt

/-! ### Taking turns (R189, R433) -/

section
variable {op : Nat} {f : Fields} {s : State}

theorem control_idle (h : (s.matrix s.firing.site).queue = []) : control op f s = ctlEffect op f s :=
  if_pos (List.isEmpty_iff.mpr h)

theorem control_joins (h : (s.matrix s.firing.site).queue ≠ []) : control op f s =
    s.onMatrix s.firing.site (fun m => { m with queue := m.queue ++ [matOpOf op f s] }) :=
  if_neg (mt List.isEmpty_iff.mp h)

theorem startRun_idle (h : (s.matrix s.firing.site).queue = []) : startRun op f s = beginRun op f s :=
  if_pos (List.isEmpty_iff.mpr h)

theorem startRun_joins (h : (s.matrix s.firing.site).queue ≠ []) : startRun op f s =
    s.onMatrix s.firing.site (fun m => { m with queue := m.queue ++ [matOpOf op f s] }) :=
  if_neg (mt List.isEmpty_iff.mp h)

theorem modeForm_unowned (hmode : f.aux16.toNat % 4 = 0) (howner : (s.matrix s.firing.site).ownerAfter ≠ some s.firing.ctx) :
    modeForm f s = finishL 0x300 f s :=
  if_pos (by simp [hmode, fireMatrix, howner])

theorem modeForm_turn (h : f.aux16.toNat % 4 ≠ 0 ∨ (s.matrix s.firing.site).ownerAfter = some s.firing.ctx) :
    modeForm f s = control 0x300 f s :=
  if_neg (by rcases h with h | h <;> simp [fireMatrix, h])

/-- With no form waiting, a change of mode takes effect at once, whoever owns the array. -/
theorem modeForm_idle (h : (s.matrix s.firing.site).queue = []) : modeForm f s = modeEffect f s := by
  by_cases hturn : f.aux16.toNat % 4 ≠ 0 ∨ (s.matrix s.firing.site).ownerAfter = some s.firing.ctx
  · exact (modeForm_turn hturn).trans (control_idle h)
  · obtain ⟨hmode, howner⟩ := not_or.mp hturn
    have howner' : (fireMatrix s).owner ≠ some s.firing.ctx := by simpa [fireMatrix, Matrix.ownerAfter, h] using howner
    rw [modeForm_unowned (not_not.mp hmode) howner, modeEffect]
    simp [not_not.mp hmode, howner']

/-- The L that a form emits is read from the firing, so no change of another part of the state changes it (R180). -/
theorem finishL_leaves (op : Nat) (f : Fields) {s u : State} (h : u.firing = s.firing) :
    Leaves op f false 0 (emitAll f (emitted op f s (opL f s).payload f.fmtOut (opL f s).poison)) u (finishL op f u) := by
  have hraw : rawL op f u = rawL op f s := by simp only [rawL, emitted, fireSeq, opL, operands, h]
  rw [finishL, hraw]
  exact finishWith_leaves op f _ u

end

/-- Settles O31: a form is `control`, which has its effect or joins the line (`control_idle`, `control_joins`); a change of mode
splits on who owns the array after the line. -/
theorem controllerFormsTakeTurns : Obligations.ControllerFormsTakeTurns := by
  unfold Obligations.ControllerFormsTakeTurns
  refine ⟨fun f s h => ?idle, fun f s h => ?waits, fun f s h hturn => ?mode, fun f s hmode howner => ?unowned⟩
  case idle =>
    exact ⟨⟨_, rfl, modeForm_idle h⟩, ⟨_, rfl, control_idle h⟩, ⟨_, rfl, control_idle h⟩, ⟨_, rfl, control_idle h⟩,
      ⟨_, rfl, control_idle h⟩, ⟨_, rfl, control_idle h⟩, ⟨_, rfl, control_idle h⟩, ⟨_, rfl, control_idle h⟩⟩
  case waits =>
    exact ⟨⟨_, rfl, control_joins h⟩, ⟨_, rfl, startRun_joins h⟩, ⟨_, rfl, startRun_joins h⟩, ⟨_, rfl, control_joins h⟩,
      ⟨_, rfl, control_joins h⟩, ⟨_, rfl, control_joins h⟩, ⟨_, rfl, control_joins h⟩, ⟨_, rfl, control_joins h⟩,
      ⟨_, rfl, control_joins h⟩⟩
  case mode => exact ⟨_, rfl, (modeForm_turn hturn).trans (control_joins h)⟩
  case unowned => exact ⟨_, congrArg Host.Outcome.next (modeForm_unowned hmode howner), finishWith_leaves 0x300 f _ s⟩

/-! ### A change at many PEs -/

section
variable {g : Pe → Pe} {xs : List Site} {s : State} {k : Nat}

theorem onPes_rest (xs : List Site) (g : Pe → Pe) (s : State) : { onPes xs g s with pes := s.pes } = s :=
  foldl_onPe_rest Site.key g xs s

theorem onPes_firing (xs : List Site) (g : Pe → Pe) (s : State) : (onPes xs g s).firing = s.firing :=
  (congrArg State.firing (onPes_rest xs g s) :)

theorem onPes_matrix (xs : List Site) (g : Pe → Pe) (s : State) (k : Nat) : (onPes xs g s).matrix k = s.matrix k :=
  (congrArg (fun u : State => u.matrix k) (onPes_rest xs g s) :)

/-- A PE that no site of the list names keeps its state. -/
theorem onPes_pe_of_forall_ne (h : ∀ x ∈ xs, Site.key x ≠ k) : (onPes xs g s).pe k = s.pe k := by
  induction xs generalizing s with
  | nil => rfl
  | cons x xs ih =>
    obtain ⟨hx, hxs⟩ := List.forall_mem_cons.mp h
    exact (ih hxs).trans (State.pe_onPe_ne s g hx.symm)

/-- A change that may be made twice has been made at every PE that a site of the list names. -/
theorem onPes_pe_of_mem (hg : ∀ p, g (g p) = g p) (h : ∃ x ∈ xs, Site.key x = k) : (onPes xs g s).pe k = g (s.pe k) := by
  induction xs generalizing s with
  | nil => simp at h
  | cons x xs ih =>
    change (onPes xs g (s.onPe (Site.key x) g)).pe k = _
    by_cases hlater : ∃ y ∈ xs, Site.key y = k
    · rw [ih hlater, State.pe_onPe]
      split
      · next hk => rw [hk, hg]
      · rfl
    · have hx : Site.key x = k := by simpa [hlater] using h
      rw [onPes_pe_of_forall_ne (by simpa using hlater), hx, State.pe_onPe_self]

end

/-! ### Effects on the matrix state (R433, R179 to R181) -/

section
variable {f : Fields} {s : State}

theorem modeEffect_none (hmode : f.aux16.toNat % 4 = 0) (howner : (s.matrix s.firing.site).owner ≠ some s.firing.ctx) :
    modeEffect f s = finishL 0x300 f s :=
  (if_pos hmode).trans (if_neg howner)

theorem modeEffect_off (hmode : f.aux16.toNat % 4 = 0) (howner : (s.matrix s.firing.site).owner = some s.firing.ctx) :
    modeEffect f s = finishL 0x300 f (s.onMatrix s.firing.site (fun m => { m with mode := 0 })) :=
  (if_pos hmode).trans (if_pos howner)

/-- The matrix state with the mode and feed station that `mm.mode` sets, owned by the firing's context (R433). -/
def setMode (f : Fields) (s : State) (m : Matrix) : Matrix :=
  { m with
    mode := f.aux16.toNat % 4, feed := f.aux16.toNat / 4, owner := some s.firing.ctx, height := s.fireReg.height,
    width := s.fireReg.width }

theorem modeEffect_kept (hmode : f.aux16.toNat % 4 ≠ 0) (howner : (s.matrix s.firing.site).owner = some s.firing.ctx) :
    modeEffect f s = finishL 0x300 f (s.onMatrix s.firing.site (setMode f s)) := by
  unfold modeEffect
  rw [if_neg hmode, if_pos (show (fireMatrix s).owner = some s.firing.ctx from howner)]
  rfl

theorem modeEffect_new (hmode : f.aux16.toNat % 4 ≠ 0) (howner : (s.matrix s.firing.site).owner ≠ some s.firing.ctx) :
    modeEffect f s = finishL 0x300 f ((clearMatrix s).onMatrix s.firing.site (setMode f s)) := by
  unfold modeEffect
  rw [if_neg hmode, if_neg (show ¬(fireMatrix s).owner = some s.firing.ctx from howner)]
  rfl

/-- Nothing but PEs and matrix states changes when a new owner's array is cleared (R172). -/
theorem clearMatrix_rest (s : State) : { clearMatrix s with pes := s.pes, matrices := s.matrices } = s :=
  congrArg (fun u : State => { u with matrices := s.matrices }) (onPes_rest s.fireReg.peSites clearPe _)

theorem clearMatrix_matrix (s : State) (k : Nat) : (clearMatrix s).matrix k =
    (s.onMatrix s.firing.site (fun m => { m with mask := 0, biases := [], feed := 0 })).matrix k :=
  onPes_matrix ..

theorem clrEffect_clears (h : (opL f s).payload.toNat / 2 ^ 6 = 0) : clrEffect f s =
    (let p := (opL f s).payload
     let u := onPes s.fireReg.peSites (fun q => { q with cells := if bit p 4 then [] else Map.del q.cells (p.toNat % 16) }) s
     finishL 0x305 f (if bit p 5 then u.onMatrix s.firing.site (fun m => { m with biases := [] }) else u)) := by
  have hlow : field (opL f s).payload 3 0 = (opL f s).payload.toNat % 16 := by simp [field_eq]
  unfold clrEffect
  rw [if_neg (by rw [field_top _ (by decide)]; exact not_not.mpr h), hlow]

theorem clrEffect_faults (h : (opL f s).payload.toNat / 2 ^ 6 ≠ 0) : clrEffect f s = finishFault 0x305 f 0x07 s :=
  if_pos (by rwa [field_top _ (by decide)])

theorem maskEffect_sets (h : (opL f s).payload.toNat / 2 ^ 50 = 0) : maskEffect f s =
    finishL 0x307 f (s.onMatrix s.firing.site (fun m => { m with mask := (opL f s).payload })) :=
  if_neg (by rw [field_top _ (by decide)]; exact not_not.mpr h)

theorem maskEffect_faults (h : (opL f s).payload.toNat / 2 ^ 50 ≠ 0) : maskEffect f s = finishFault 0x307 f 0x07 s :=
  if_pos (by rwa [field_top _ (by decide)])

end

/-! ### Bias registers (R180) -/

section
variable (w : Nat) (b c : Bias) (col : Nat) (m : Matrix)

theorem putBias_rest : { putBias w b col m with biases := m.biases } = m := by
  unfold putBias
  split <;> rfl

theorem putBias_find (j : Nat) : Map.find (putBias w b col m).biases j = if j < w ∧ j = col then some b else Map.find m.biases j := by
  unfold putBias
  by_cases hcol : col < w
  · rw [if_pos hcol, Map.find_put]
    exact if_congr ⟨fun h => ⟨h ▸ hcol, h⟩, And.right⟩ rfl rfl
  · rw [if_neg hcol, if_neg (by rintro ⟨hj, rfl⟩; exact hcol hj)]

end

/-- The matrix state after `mm.bias` writes the biases `b` of two FP32 lanes, or of one lane of another format, for a
token of seq `q` (R180). -/
def putBiases (g : Fmt) (w q : Nat) (b : Nat → Bias) (m : Matrix) : Matrix :=
  if g == .f32 then putBias w (b 1) (2 * q + 1) (putBias w (b 0) (2 * q) m) else putBias w (b 0) q m

theorem putBiases_rest (g : Fmt) (w q : Nat) (b : Nat → Bias) (m : Matrix) : { putBiases g w q b m with biases := m.biases } = m := by
  unfold putBiases
  split
  · exact (congrArg (fun n : Matrix => { n with biases := m.biases }) (putBias_rest w (b 1) (2 * q + 1) _)).trans (putBias_rest ..)
  · exact putBias_rest ..

theorem putBiases_find (g : Fmt) (w q : Nat) (b : Nat → Bias) (m : Matrix) (col : Nat) :
    Map.find (putBiases g w q b m).biases col =
      if g = .f32 ∧ col < w ∧ (col = 2 * q ∨ col = 2 * q + 1) then some (b (col - 2 * q))
      else if g ≠ .f32 ∧ col < w ∧ col = q then some (b 0) else Map.find m.biases col := by
  unfold putBiases
  by_cases hg : g = .f32
  · simp only [hg, beq_self_eq_true, if_true, putBias_find, true_and, ne_eq, not_true_eq_false, false_and, if_false]
    by_cases h0 : col = 2 * q
    · simp [h0]
    · by_cases h1 : col = 2 * q + 1 <;> simp [h0, h1]
  · simp [hg, putBias_find]

/-- `mm.bias` writes the biases of L's lanes and emits them as they were read (R180). -/
theorem biasEffect_leaves (f : Fields) (s : State) :
    let p := leftOf f s
    let bad := (opL f s).poison || p.cause.isSome
    Leaves 0x30A f p.converted (causeNum p.cause) (emitAll f (emitted 0x30A f s (packLanes f.fmtOut p.lanes) f.fmtOut bad))
      (s.onMatrix s.firing.site (putBiases f.fmtOut s.fireReg.width (opL f s).seq.toNat
        (fun k => ⟨BitVec.ofNat 64 (p.lanes.getD k 0), f.fmtOut, bad⟩)))
      (biasEffect f s) :=
  pushResult_leaves ..

/-- Settles O32: the effect of each form where the controller's line is empty (`modeEffect_…`, `clrEffect_…`, `maskEffect_…`,
`biasEffect_leaves`). -/
theorem matrixControlEffects : Obligations.MatrixControlEffects := by
  unfold Obligations.MatrixControlEffects
  refine ⟨fun f s h => ⟨fun hmode howner => ⟨_, rfl, ?none⟩, fun hmode howner => ⟨_, rfl, ?off⟩,
      fun hmode howner => ⟨_, rfl, ?kept⟩, fun hmode howner => ⟨_, rfl, ?new⟩⟩,
    fun f s h => ⟨_, rfl, ?swap⟩, fun f s h hp => ⟨_, rfl, ?mask⟩, fun f s h hp => ⟨_, rfl, ?badMask⟩,
    fun f s h hp => ⟨_, rfl, ?clr⟩, fun f s h hp => ⟨_, rfl, ?badClr⟩, fun f s h => ⟨_, rfl, ?bias⟩⟩
  case none =>
    rw [modeForm_idle h, modeEffect_none hmode howner]
    exact finishL_leaves 0x300 f rfl
  case off =>
    rw [modeForm_idle h, modeEffect_off hmode howner]
    exact finishL_leaves 0x300 f rfl
  case kept =>
    rw [modeForm_idle h, modeEffect_kept hmode howner]
    exact finishL_leaves 0x300 f rfl
  case new =>
    rw [modeForm_idle h, modeEffect_new hmode howner]
    refine ⟨_, finishL_leaves 0x300 f (onPes_firing ..), ?_, fun j hj => ?_, fun x hx => ?_, fun k hk => ?_, ?_⟩
    · rw [State.matrix_onMatrix_self, clearMatrix_matrix, State.matrix_onMatrix_self]
      rfl
    · rw [State.matrix_onMatrix_ne _ _ hj, clearMatrix_matrix, State.matrix_onMatrix_ne _ _ hj]
    · exact onPes_pe_of_mem (fun _ => rfl) ⟨x, hx, rfl⟩
    · exact onPes_pe_of_forall_ne hk
    · exact clearMatrix_rest s
  case swap =>
    rw [control_idle h]
    exact finishL_leaves 0x302 f (onPes_firing ..)
  case mask =>
    rw [control_idle h, show ctlEffect 0x307 f s = maskEffect f s from rfl, maskEffect_sets hp]
    exact finishL_leaves 0x307 f rfl
  case badMask =>
    rw [control_idle h, show ctlEffect 0x307 f s = maskEffect f s from rfl, maskEffect_faults hp]
    exact finishFault_faults 0x307 f 0x07 s
  case clr =>
    rw [control_idle h, show ctlEffect 0x305 f s = clrEffect f s from rfl, clrEffect_clears hp]
    refine ⟨_, _, rfl, rfl, finishL_leaves 0x305 f ?_⟩
    split <;> exact onPes_firing ..
  case badClr =>
    rw [control_idle h, show ctlEffect 0x305 f s = clrEffect f s from rfl, clrEffect_faults hp]
    exact finishFault_faults 0x305 f 0x07 s
  case bias =>
    rw [control_idle h]
    refine ⟨_, biasEffect_leaves f s, rfl, fun j hj => State.matrix_onMatrix_ne s _ hj, ?_, fun col => ?_⟩
    · rw [State.matrix_onMatrix_self]
      exact putBiases_rest ..
    · rw [State.matrix_onMatrix_self]
      exact putBiases_find ..

end Sys2Proof.Machine
end


section
/-! Weights, runs and what leaves the array (O33): `mm.wload`, `mm.run`, `mm.orun`, `mm.drain`, `mm.rowstat`, `mm.scale` and
`mm.act`. -/

namespace Sys2Proof.Machine

/-! ### Loading weights (R178) -/

section
variable {f : Fields} {s : State}

/-- All eight words of row `row` of a PE's shadow bank are present. -/
def shadowFull (row : Nat) (p : Pe) : Bool :=
  (List.range 8).all (fun k => (Map.get p.shadow WeightWord.zero (row * 8 + k)).present)

theorem wloadEffect_faults (h : 64 ≤ s.firing.tag ∨ 8 ≤ (opL f s).seq.toNat) : wloadEffect f s = finishFault 0x301 f 0x07 s :=
  if_pos (by simpa using h)

theorem wloadEffect_leaves (hrow : s.firing.tag < 64) (hseq : (opL f s).seq.toNat < 8) :
    let u := s.onPe s.firing.site (fun p => { p with
      shadow := Map.put p.shadow (s.firing.tag * 8 + (opL f s).seq.toNat) ⟨(opL f s).payload, (opL f s).poison, true⟩ })
    Leaves 0x301 f false 0
      (if shadowFull s.firing.tag (s.pe s.firing.site) = false ∧ shadowFull s.firing.tag (u.pe s.firing.site) = true then
        emitAll f (emitted 0x301 f s (BitVec.ofNat 64 s.firing.tag) .i64 (opL f s).poison) else []) u (wloadEffect f s) := by
  intro u
  have hin : ¬(64 ≤ s.firing.tag || 8 ≤ (opL f s).seq.toNat) = true := by simp; omega
  have hwload : wloadEffect f s = finishWith 0x301 f
      (if (!shadowFull s.firing.tag (s.pe s.firing.site) && shadowFull s.firing.tag (u.pe s.firing.site)) = true then
        emitAll f (emitted 0x301 f s (BitVec.ofNat 64 s.firing.tag) .i64 (opL f s).poison) else []) u := if_neg hin
  rw [hwload]
  simp only [Bool.and_eq_true, Bool.not_eq_true']
  exact finishWith_leaves ..

/-! ### Runs (R182) -/

/-- The limits of R182, as statements on the numbers of the payloads. -/
theorem runOk_iff (op : Nat) (f : Fields) (s : State) : runOk op f s = true ↔
    (let l := (opL f s).payload.toNat
     let p := (opR op f s).payload.toNat
     let m := s.matrix s.firing.site
     let steps := p % 2 ^ 16
     let g := p / 2 ^ 16 % 2 ^ 8
     l < 2 ^ 7 ∧ p < 2 ^ 30 ∧ 1 ≤ g ∧ g ≤ 64 ∧ m.owner = some s.firing.ctx ∧ 1 ≤ l ∧ 1 ≤ steps ∧
       (if op = 0x303 then m.mode = 1 ∧ l ≤ 64 ∧ steps ≤ s.fireReg.height ∧ f.aux16.toNat / 2 ^ 9 % 2 ^ 6 + g ≤ 64
        else m.mode = 2 ∧ l ≤ min s.fireReg.height 64 ∧ steps ≤ 64)) := by
  simp only [runOk, fireMatrix, Bool.and_eq_true, beq_iff_eq, decide_eq_true_eq, field_top _ (show 7 ≤ 64 by decide),
    field_top _ (show 30 ≤ 64 by decide), field_eq _ 6 0, field_eq _ 15 0, field_eq _ 23 16, field_eq _ 14 9, Nat.div_eq_zero_iff,
    Nat.reducePow, Nat.reduceAdd, Nat.reduceSub, Nat.div_one]
  by_cases hl : (opL f s).payload.toNat < 128
  · simp only [hl, Nat.mod_eq_of_lt hl, OfNat.ofNat_ne_zero, false_or, or_true, true_and]
    split <;> simp only [Bool.and_eq_true, beq_iff_eq, decide_eq_true_eq] <;> tauto
  · simp [hl]

theorem beginRun_begins {op : Nat} (hidle : (s.matrix s.firing.site).queue = []) (hp : anyPoison (operands f s) = false)
    (hok : runOk op f s = true) : beginRun op f s =
      s.onMatrix s.firing.site (fun m => { m with queue := [{ matOpOf op f s with started := true }] }) := by
  unfold beginRun
  rw [if_neg (by simp [hp]), if_pos hok]
  simp only [State.onMatrix, Map.alter, show (Map.get s.matrices Matrix.clear s.firing.site).queue = [] from hidle]

theorem beginRun_faults {op : Nat} (hp : anyPoison (operands f s) = false) (hok : ¬runOk op f s = true) :
    beginRun op f s = finishFault op f 0x07 s :=
  (if_neg (by simp [hp])).trans (if_neg hok)

theorem beginRun_reports {op : Nat} (hp : anyPoison (operands f s) = true) : beginRun op f s = finishReport op f s := if_pos hp

/-! ### Draining (R185, R186) -/

/-- A list over the numbers below `n` holds at `i` its function of `i`. -/
theorem getD_map_range {α : Type} (g : Nat → α) {n i : Nat} (h : i < n) (d : α) : ((List.range n).map g).getD i d = g i := by
  simp [h]

/-- The masked values of row `i` of the entry that L names (R185). -/
def rowOf (f : Fields) (s : State) (i : Nat) : Fmt × List Nat × List Bool × Option Cause :=
  rowValues s f s.fireReg (s.matrix s.firing.site).mask ((opL f s).payload.toNat % 16) i

/-- The tokens of the rows of an entry, with the rows' values computed once each. -/
theorem drained_rows (n : Nat) :
    ((((List.range n).map (fun i => drainRow f s (((List.range n).map (rowOf f s)).getD i (.f32, [], [], none)) i
      (i + 1 == n))).flatten.map (emitAll f)).flatten) =
    (List.range n).flatMap (fun i => (drainRow f s (rowOf f s i) i (i + 1 == n)).flatMap (emitAll f)) := by
  have hrows : (List.range n).map (fun i => drainRow f s
      (((List.range n).map (rowOf f s)).getD i (.f32, [], [], none)) i (i + 1 == n)) =
      (List.range n).map (fun i => drainRow f s (rowOf f s i) i (i + 1 == n)) :=
    List.map_congr_left fun i hi => by rw [getD_map_range _ (List.mem_range.mp hi)]
  rw [hrows]
  simp only [← List.flatMap_def, List.flatMap_assoc]

theorem drainEffect_leaves (h : (opL f s).payload.toNat / 2 ^ 5 = 0) :
    let n := activeRows s ((opL f s).payload.toNat % 16)
    Leaves 0x306 f false (causeNum (causeOf ((List.range n).map (fun i => ⟨0, (rowOf f s i).2.2.2⟩))))
      ((List.range n).flatMap (fun i => (drainRow f s (rowOf f s i) i (i + 1 == n)).flatMap (emitAll f)))
      (if bit (opL f s).payload 4 then onPes s.fireReg.peSites (fun q => { q with
        cells := Map.del q.cells ((opL f s).payload.toNat % 16) }) s else s) (drainEffect f s) := by
  intro n
  have hlow : field (opL f s).payload 3 0 = (opL f s).payload.toNat % 16 := by simp [field_eq]
  have hcause : ((List.range n).map (rowOf f s)).map (fun rv => (⟨0, rv.2.2.2⟩ : LaneRes)) =
      (List.range n).map (fun i => ⟨0, (rowOf f s i).2.2.2⟩) := List.map_map
  have htop : ¬field (opL f s).payload 63 5 ≠ 0 := by rw [field_top _ (by decide)]; exact not_not.mpr h
  rw [← drained_rows, ← hcause, drainEffect]
  simp only [if_neg htop, hlow]
  exact pushResult_leaves ..

theorem drainEffect_faults (h : (opL f s).payload.toNat / 2 ^ 5 ≠ 0) : drainEffect f s = finishFault 0x306 f 0x07 s :=
  if_pos (by rwa [field_top _ (by decide)])

/-- A drained row is cut into tokens of one or two lanes; the last of them closes the row (R185). -/
theorem drainRow_getElem? (rv : Fmt × List Nat × List Bool × Option Cause) (i k : Nat) (last : Bool) :
    let per := if rv.1 = .f32 then 2 else 1
    let n := (rv.2.1.length + per - 1) / per
    (drainRow f s rv i last).length = n ∧ (k < n → ∃ w, (drainRow f s rv i last)[k]? = some w ∧
      w.payload = packLanes rv.1 ((List.range per).map (fun j => rv.2.1.getD (per * k + j) 0)) ∧ w.fmt = rv.1 ∧
      w.tag = BitVec.ofNat 16 (emitTag f s.firing.tag + i) ∧ w.seq = BitVec.ofNat 6 k ∧
      w.ends = (if k + 1 = n then (if last then 3 else 1) else 0) ∧
      (w.poison = true ↔ (opL f s).poison = true ∨ ∃ j < per, rv.2.2.1.getD (per * k + j) false = true)) := by
  intro per n
  have hper : (if (rv.1 == .f32) = true then 2 else 1) = per := by simp only [beq_iff_eq, per]
  unfold drainRow
  simp only [hper]
  refine ⟨by simp [n], fun hk => ⟨_, by rw [List.getElem?_map, List.getElem?_range hk]; rfl, rfl, rfl, rfl, rfl, rfl, ?_⟩⟩
  simp [or_comm]

/-- The greatest of a row's values, in FP32 (R186). -/
def rowMax (f : Fields) (rv : Fmt × List Nat × List Bool × Option Cause) : LaneRes :=
  convert rv.1 .f32 f.round f.sat (foldLanes (pickLane rv.1 true) rv.2.1)

/-- The token that `mm.rowstat` sends of row `i` of `n` (R186). -/
def rowStat (f : Fields) (s : State) (n i : Nat) (rv : Fmt × List Nat × List Bool × Option Cause) : Token :=
  { Token.zero with
    payload := packLanes .f32 [(rowMax f rv).bits, if rv.2.1.all (fun v => decodeF rv.1 v == .inf true) then 0x3F800000 else 0]
    fmt := .f32, poison := rv.2.2.1.any id || (rowMax f rv).cause.isSome || (opL f s).poison
    ctx := BitVec.ofNat 3 (emitCtx 0x308 f s.firing.ctx), tag := BitVec.ofNat 16 (emitTag f s.firing.tag)
    seq := BitVec.ofNat 6 i, ends := if i + 1 = n then 1 else 0 }

/-- `mm.rowstat` faults on a payload of more than an entry, and on a row of integers (R186). -/
theorem rowstat_bad_iff : (field (opL f s).payload 63 4 ≠ 0 || ((List.range (activeRows s ((opL f s).payload.toNat % 16))).map
      (fun i => rowValues s f s.fireReg (fireMatrix s).mask ((opL f s).payload.toNat % 16) i)).any (fun rv => rv.1 == .i64)) = true ↔
    (opL f s).payload.toNat / 2 ^ 4 ≠ 0 ∨ ∃ i < activeRows s ((opL f s).payload.toNat % 16), (rowOf f s i).1 = .i64 := by
  rw [field_top _ (by decide)]
  simp [rowOf, fireMatrix]

theorem rowstatEffect_leaves (h : (opL f s).payload.toNat / 2 ^ 4 = 0)
    (hfloat : ∀ i < activeRows s ((opL f s).payload.toNat % 16), (rowOf f s i).1 ≠ .i64) :
    let n := activeRows s ((opL f s).payload.toNat % 16)
    Leaves 0x308 f false (causeNum (causeOf ((List.range n).map (fun i => ⟨0, (rowOf f s i).2.2.2⟩) ++
        (List.range n).map (fun i => rowMax f (rowOf f s i)))))
      ((List.range n).flatMap (fun i => emitAll f (rowStat f s n i (rowOf f s i)))) s (rowstatEffect f s) := by
  intro n
  have hlow : field (opL f s).payload 3 0 = (opL f s).payload.toNat % 16 := by simp [field_eq]
  have hgood := (rowstat_bad_iff (f := f) (s := s)).not.mpr (by rintro (hp | ⟨i, hi, h64⟩); exacts [hp h, hfloat i hi h64])
  have hcause : ((List.range n).map (rowOf f s)).map (fun rv => (⟨0, rv.2.2.2⟩ : LaneRes)) =
      (List.range n).map (fun i => ⟨0, (rowOf f s i).2.2.2⟩) := List.map_map
  have hmost : (List.range n).map (fun i => rowMax f (((List.range n).map (rowOf f s)).getD i (.f32, [], [], none))) =
      (List.range n).map (fun i => rowMax f (rowOf f s i)) :=
    List.map_congr_left fun i hi => by rw [getD_map_range _ (List.mem_range.mp hi)]
  have hstat : (List.range n).map (fun i => emitAll f (rowStat f s n i
      (((List.range n).map (rowOf f s)).getD i (.f32, [], [], none)))) =
      (List.range n).map (fun i => emitAll f (rowStat f s n i (rowOf f s i))) :=
    List.map_congr_left fun i hi => by rw [getD_map_range _ (List.mem_range.mp hi)]
  rw [List.flatMap_def, ← hstat, ← hmost, ← hcause, rowstatEffect]
  simp only [hlow, if_neg hgood]
  exact pushResult_leaves ..

theorem rowstatEffect_faults (h : (opL f s).payload.toNat / 2 ^ 4 ≠ 0 ∨
    ∃ i < activeRows s ((opL f s).payload.toNat % 16), (rowOf f s i).1 = .i64) : rowstatEffect f s = finishFault 0x308 f 0x07 s := by
  have hlow : field (opL f s).payload 3 0 = (opL f s).payload.toNat % 16 := by simp [field_eq]
  rw [rowstatEffect]
  simp only [hlow]
  exact if_pos (rowstat_bad_iff.mpr h)

end

/-! ### Scaling (R187) -/

/-- A PE with an accumulator entry replaced, where it holds the entry. -/
def putCell (a : Nat) (c : Cell) (p : Pe) : Pe :=
  match Map.find p.cells a with
  | some _ => { p with cells := Map.put p.cells a c }
  | none => p

theorem putCell_find {a : Nat} {p : Pe} {e : Cell} (c : Cell) (h : Map.find p.cells a = some e) :
    Map.find (putCell a c p).cells a = some c := by
  simp [putCell, h]

/-- The entry `c x` put at every PE `x` of a list. -/
def putCells (a : Nat) (c : Nat → Cell) (xs : List Nat) (s : State) : State := xs.foldl (fun s x => s.onPe x (putCell a (c x))) s

section
variable (a : Nat) (c : Nat → Cell) {xs : List Nat} {s : State} {k : Nat}

theorem putCells_rest (xs : List Nat) (s : State) : { putCells a c xs s with pes := s.pes } = s := by
  induction xs generalizing s with
  | nil => rfl
  | cons x xs ih => exact (congrArg (fun u : State => { u with pes := s.pes }) (ih (s.onPe x (putCell a (c x)))) :)

theorem putCells_pe_of_not_mem (h : k ∉ xs) : (putCells a c xs s).pe k = s.pe k := by
  induction xs generalizing s with
  | nil => rfl
  | cons x xs ih =>
    obtain ⟨hx, hxs⟩ : k ≠ x ∧ k ∉ xs := by simpa using h
    exact (ih hxs).trans (State.pe_onPe_ne s _ hx)

/-- A PE of the list that held the entry holds the new one. -/
theorem putCells_find {e : Cell} (hk : k ∈ xs) (h : Map.find (s.pe k).cells a = some e) :
    Map.find ((putCells a c xs s).pe k).cells a = some (c k) := by
  induction xs generalizing s e with
  | nil => simp at hk
  | cons x xs ih =>
    change Map.find ((putCells a c xs (s.onPe x (putCell a (c x)))).pe k).cells a = _
    by_cases hx : k = x
    · subst hx
      have hnow : Map.find ((s.onPe k (putCell a (c k))).pe k).cells a = some (c k) := by
        rw [State.pe_onPe_self]
        exact putCell_find _ h
      by_cases hlater : k ∈ xs
      · exact ih hlater hnow
      · rw [putCells_pe_of_not_mem a c hlater, hnow]
    · exact ih ((List.mem_cons.mp hk).resolve_left hx) (by rw [State.pe_onPe_ne _ _ hx]; exact h)

end

section
variable (f : Fields) (s : State)

/-- The entry that R names (R187). -/
def scaleEntry : Nat := (prepareR 0x309 .i64 f s).lanes.getD 0 0

/-- The PEs of the row that L's seq names (R187). -/
def scaleSites : List Nat := (List.range s.fireReg.width).map (fun j => Site.key (s.fireReg.peAt (opL f s).seq.toNat j))

/-- The poison that `mm.scale` brings to each entry (R57). -/
def scaleBad : Bool := anyPoison (operands f s) || (leftOf f s).cause.isSome || (prepareR 0x309 .i64 f s).cause.isSome

/-- The entry of PE `x` times the factor in L. -/
def scaledCell (x : Nat) : Cell × Option Cause :=
  scaleCell f ((leftOf f s).lanes.getD 0 0) (scaleBad f s) (Map.get (s.pe x).cells Cell.clear (scaleEntry f s))

variable {f s}

theorem scaleEffect_leaves (ha : scaleEntry f s < 16) (hi : (opL f s).seq.toNat < s.fireReg.height) :
    Leaves 0x309 f ((leftOf f s).converted || (prepareR 0x309 .i64 f s).converted)
      (causeNum (minCause (minCause (leftOf f s).cause (prepareR 0x309 .i64 f s).cause)
        (causeOf ((scaleSites f s).map (fun x => ⟨0, (scaledCell f s x).2⟩)))))
      (emitAll f (emitted 0x309 f s (packLanes f.fmtOut (leftOf f s).lanes) f.fmtOut (scaleBad f s)))
      (putCells (scaleEntry f s) (fun x => (scaledCell f s x).1) (scaleSites f s) s) (scaleEffect f s) := by
  have hgood : ¬((prepareR 0x309 .i64 f s).lanes.getD 0 0 / 16 ≠ 0 || s.fireReg.height ≤ (opL f s).seq.toNat) = true := by
    unfold scaleEntry at ha
    simp only [Bool.or_eq_true, decide_eq_true_eq]
    omega
  have hlow : (prepareR 0x309 .i64 f s).lanes.getD 0 0 % 16 = scaleEntry f s := Nat.mod_eq_of_lt ha
  rw [scaleEffect]
  simp only [if_neg hgood, hlow]
  have hcause : (((scaleSites f s).map (fun x => (x, scaledCell f s x))).map (fun xr => (⟨0, xr.2.2⟩ : LaneRes))) =
    (scaleSites f s).map (fun x => ⟨0, (scaledCell f s x).2⟩) := List.map_map
  have hfold : ((scaleSites f s).map (fun x => (x, scaledCell f s x))).foldl (fun u xr => u.onPe xr.1 (putCell (scaleEntry f s) xr.2.1)) s =
    putCells (scaleEntry f s) (fun x => (scaledCell f s x).1) (scaleSites f s) s := by
    rw [List.foldl_map]
    rfl
  rw [← hcause, ← hfold]
  exact pushResult_leaves ..

theorem scaleEffect_faults (h : 16 ≤ scaleEntry f s ∨ s.fireReg.height ≤ (opL f s).seq.toNat) :
    scaleEffect f s = finishFault 0x309 f 0x07 s := by
  refine if_pos ?_
  unfold scaleEntry at h
  simp only [Bool.or_eq_true, decide_eq_true_eq]
  omega

end

/-! ### Activation functions (R188) -/

theorem actLane_nan {f : Fields} {x : Nat} (h : isNaN f.fmtOut x = true) : actLane f x = ⟨Fmt.nan f.fmtOut, none⟩ := by
  have hnan : decodeF f.fmtOut x = .nan := by simpa [isNaN] using h
  unfold actLane
  simp only [hnan, beq_self_eq_true, if_true]
  split
  · rfl
  · split
    · rfl
    · split <;> rfl

theorem actLane_relu {f : Fields} {x : Nat} (hfn : f.aux16.toNat % 16 = 0) (h : isNaN f.fmtOut x = false)
    (hx : x < 2 ^ Fmt.width f.fmtOut) : actLane f x = ⟨if signBit f.fmtOut ≤ x then 0 else x, none⟩ := by
  have hdouble : 2 ^ Fmt.width f.fmtOut = 2 * signBit f.fmtOut := by cases f.fmtOut <;> rfl
  have hneg : x / signBit f.fmtOut % 2 = 1 ↔ signBit f.fmtOut ≤ x := by
    by_cases hle : signBit f.fmtOut ≤ x
    · simp [hle, Nat.div_eq_of_lt_le (k := 1) (n := signBit f.fmtOut) (m := x) (by omega) (by omega)]
    · simp [hle, Nat.div_eq_of_lt (Nat.lt_of_not_le hle)]
  unfold isNaN at h
  simp [actLane, hfn, h, hneg]

/-- Settles O33: each form's effect by its lemmas (`wloadEffect_…`, `beginRun_…`, `drainEffect_…`, `rowstatEffect_…`,
`scaleEffect_…`, `actLane_…`), where the controller's line is empty. -/
theorem weightsRunsActivation : Obligations.WeightsRunsActivation := by
  unfold Obligations.WeightsRunsActivation
  refine ⟨⟨fun f s hrow hseq => ⟨_, rfl, wloadEffect_leaves hrow hseq⟩, fun f s h => ⟨_, rfl, ?badLoad⟩⟩,
    ⟨fun f s h hp => ⟨fun hok => ⟨_, rfl, ?run⟩, fun hok => ⟨_, rfl, ?badRun⟩, fun hok => ⟨_, rfl, ?orun⟩, fun hok => ⟨_, rfl, ?badOrun⟩⟩,
      fun f s h hp => ⟨⟨_, rfl, ?poisonRun⟩, ⟨_, rfl, ?poisonOrun⟩⟩⟩,
    ⟨fun f s h hp => ⟨_, congrArg Host.Outcome.next (control_idle h), drainEffect_leaves hp⟩, fun f s h hp => ⟨_, rfl, ?badDrain⟩,
      fun f s rv i k last => drainRow_getElem? rv i k last,
      fun f s h hp hfloat => ⟨_, congrArg Host.Outcome.next (control_idle h), rowstatEffect_leaves hp hfloat⟩,
      fun f s h hbad => ⟨_, rfl, ?badRowstat⟩⟩,
    ⟨fun f s h ha hi => ⟨_, congrArg Host.Outcome.next (control_idle h), ?scale⟩, fun f s h hbad => ⟨_, rfl, ?badScale⟩⟩,
    oneFloat_of actLane (fun _ _ => rfl) (fun _ _ => rfl), fun f x h => actLane_nan h, fun f x hfn h hx => actLane_relu hfn h hx⟩
  case badLoad =>
    rw [wloadEffect_faults h]
    exact finishFault_faults 0x301 f 0x07 s
  case run => exact (startRun_idle h).trans (beginRun_begins h hp ((runOk_iff ..).mpr hok))
  case orun => exact (startRun_idle h).trans (beginRun_begins h hp ((runOk_iff ..).mpr hok))
  case badRun =>
    rw [startRun_idle h, beginRun_faults hp ((runOk_iff ..).not.mpr hok)]
    exact finishFault_faults 0x303 f 0x07 s
  case badOrun =>
    rw [startRun_idle h, beginRun_faults hp ((runOk_iff ..).not.mpr hok)]
    exact finishFault_faults 0x304 f 0x07 s
  case poisonRun =>
    rw [startRun_idle h, beginRun_reports hp]
    exact finishReport_reports 0x303 f s
  case poisonOrun =>
    rw [startRun_idle h, beginRun_reports hp]
    exact finishReport_reports 0x304 f s
  case badDrain =>
    rw [control_idle h, show ctlEffect 0x306 f s = drainEffect f s from rfl, drainEffect_faults hp]
    exact finishFault_faults 0x306 f 0x07 s
  case badRowstat =>
    rw [control_idle h, show ctlEffect 0x308 f s = rowstatEffect f s from rfl, rowstatEffect_faults hbad]
    exact finishFault_faults 0x308 f 0x07 s
  case badScale =>
    rw [control_idle h, show ctlEffect 0x309 f s = scaleEffect f s from rfl, scaleEffect_faults hbad]
    exact finishFault_faults 0x309 f 0x07 s
  case scale =>
    intro p q bad cell causes
    have hleaves := scaleEffect_leaves ha hi
    have hcauses : (scaleSites f s).map (fun x => (⟨0, (scaledCell f s x).2⟩ : LaneRes)) = causes := List.map_map
    rw [hcauses] at hleaves
    refine ⟨_, hleaves, putCells_rest .., fun x hx => putCells_pe_of_not_mem _ _ ?_, fun j hj e he => ?_⟩
    · simpa [scaleSites] using hx
    · have hmem : Site.key (s.fireReg.peAt (opL f s).seq.toNat j) ∈ scaleSites f s := List.mem_map_of_mem (List.mem_range.mpr hj)
      refine (putCells_find _ _ hmem he).trans ?_
      have hget : Map.get (s.pe (Site.key (s.fireReg.peAt (opL f s).seq.toNat j))).cells Cell.clear (scaleEntry f s) = e :=
        congrArg (fun c : Option Cell => c.getD Cell.clear) he
      rw [scaledCell, hget]
      rfl

end Sys2Proof.Machine
end


section
/-! The status of a LOOKUP that waits for an engine slot (R194, R358): `statusState` has a case of its own for it, which the statement
on operator commands leaves out (O51). -/

namespace Sys2Proof.Machine

/-- The LOOKUP at operator site (0, 0, 65). -/
def lookupSite : Nat := Site.key ⟨0, 0, 65⟩

/-- A LOAD of region 0 that runs a pass of one element of 8 bytes, requested and not yet returned. -/
def slottedLoad : Oper := { Oper.idle with region := 1, state := 2, pos := 1, sent := 1, counts := [1], pm := [(1, 3), (2, 8)] }

/-- A position for the LOOKUP. -/
def positionToken : Token := { Token.zero with col := 65, fmt := .i64 }

/-- A status command for the LOOKUP, with an invalid reply target (R194). -/
def statusToken : Token := { Token.zero with payload := BitVec.ofNat 64 (0x13 * 2 ^ 56), col := 65, port := .c, fmt := .i64 }

/-- A token on its way from PE (0, 1, 1) to the LOOKUP, inside region 0. -/
def toLookup (c : Cls) (t : Token) : Flight := ⟨Site.key ⟨0, 1, 1⟩, 0, c, lookupSite, Token.lane t, .token t, 1, false, false⟩

/-- Region 0 with 64 LOADs that hold the 64 engine slots of tender 0, and the LOOKUP of the same tender, to which a position and a
status command are on their way. -/
def fullTender : State :=
  { State.reset with
    regions := [(0, placedRegion)]
    opers := (List.range 64).map (fun i => (Site.key ⟨0, 0, 1 + i⟩, slottedLoad)) ++ [(lookupSite, { Oper.idle with kind := 6, region := 1 })]
    slots := (List.range 64).map (fun i => (Site.key ⟨0, 0, 1 + i⟩, i + 1))
    net := [toLookup .data positionToken, toLookup .control statusToken] }

theorem fullTender_takes : Takes fullTender 1 (toLookup .control statusToken) statusToken :=
  ⟨rfl, by decide +kernel, rfl, by decide +kernel, by decide +kernel, rfl, by decide +kernel⟩

/-- No load of `fullTender` has a handler, so no fault buffer is full. -/
theorem fullTender_buffers (k : Nat) : handlerFull fullTender k 0x01 = false := by
  have hhandler : Region.handler placedRegion = false := by decide +kernel
  have hnone : fullTender.handlerOf k = none := by simp [State.handlerOf, State.findRegion, fullTender, hhandler]
  simp [handlerFull, hnone]

/-- The LOOKUP waits for an engine slot, idle as its record is. -/
theorem fullTender_status : statusState fullTender lookupSite = 4 ∧ (fullTender.oper lookupSite).state = 0 ∧
    (fullTender.oper lookupSite).arms = [] := by decide +kernel

/-- Refutes O51: in `fullTender` the LOOKUP, whose record is idle and unarmed, shows state 4 while it waits for an engine slot, where
the clause on `statusState` wants 0. -/
theorem not_operatorCommands : ¬ Obligations.OperatorCommands := by
  unfold Obligations.OperatorCommands
  rintro ⟨hcommands, -⟩
  obtain ⟨-, -, -, -, -, -, -, -, -, -, -, hstate, -⟩ := hcommands fullTender 1 _ statusToken fullTender_takes rfl fullTender_buffers
  obtain ⟨hwaits, hidle, harms⟩ := fullTender_status
  rw [show (toLookup .control statusToken).dst = lookupSite from rfl, hwaits, hidle, harms] at hstate
  exact absurd hstate (by decide)

end Sys2Proof.Machine
end


section
/-! Numbers that operators compute: the elements of a pattern (R196), the payload of an iteration (R206), raw XF8 blocks (R66, R67)
and the sum test of a SIEVE (R211). -/

namespace Sys2Proof.Machine

/-! ### Patterns (R196) -/

/-- The indices of element `j`, the lowest level fastest, make `j` again and stay below their counts. -/
theorem mixed_indices (counts : List Nat) {j : Nat} (h : j < total counts) : mixed (indices counts j) counts = j ∧
    (indices counts j).length = counts.length ∧ ∀ i < counts.length, (indices counts j).getD i 0 < counts.getD i 0 := by
  induction counts generalizing j with
  | nil => exact ⟨(Nat.lt_one_iff.mp h).symm, rfl, fun i hi => absurd hi (Nat.not_lt_zero i)⟩
  | cons n ns ih =>
    obtain ⟨hmixed, hlength, hbound⟩ := ih (Nat.div_lt_of_lt_mul h)
    have hn : 0 < n := Nat.pos_of_mul_pos_right (Nat.zero_lt_of_lt h)
    refine ⟨?_, congrArg Nat.succ hlength, fun i hi => ?_⟩
    · rw [indices, mixed, hmixed, Nat.mod_add_div]
    · cases i with
      | zero => exact Nat.mod_lt j hn
      | succ i => exact hbound i (Nat.lt_of_succ_lt_succ hi)

/-- The payload of a LOOP's iteration: 16 bits of each of four indices (R206). -/
theorem loopPayload_eq (ix : List Nat) : loopPayload ix = BitVec.ofNat 64 (ix.getD 0 0 % 2 ^ 16 + ix.getD 1 0 % 2 ^ 16 * 2 ^ 16 +
    ix.getD 2 0 % 2 ^ 16 * 2 ^ 32 + ix.getD 3 0 % 2 ^ 16 * 2 ^ 48) := by
  simp only [loopPayload, List.range_succ, List.range_zero, List.nil_append, List.cons_append, List.map_cons, List.map_nil, sumNat]
  congr 1
  omega

/-! ### Raw blocks of an XF8 stream (R66, R67) -/

/-- Bits at the front of a stream are taken most significant first. -/
theorem takeBits_append (bs rest : List Bool) (v : Nat) :
    takeBits bs.length v (bs ++ rest) = some (bs.foldl (fun v b => 2 * v + one b) v, rest) := by
  induction bs generalizing v with
  | nil => rfl
  | cons b bs ih => exact ih (2 * v + one b)

theorem streamBits_cons (b : Byte) (bs : List Byte) : streamBits (b :: bs) = streamBits [b] ++ streamBits bs := by simp [streamBits]

theorem streamBits_byte (b : Byte) : (streamBits [b]).foldl (fun v b => 2 * v + one b) 0 = b.toNat := by
  revert b
  decide

theorem takeBits_byte (b : Byte) (bs : List Byte) : takeBits 8 0 (streamBits (b :: bs)) = some (b.toNat, streamBits bs) := by
  rw [streamBits_cons, ← streamBits_byte b]
  exact takeBits_append (streamBits [b]) _ 0

theorem readRaw_streamBits (xs : List Byte) : readRaw xs.length (streamBits xs) = .got (xs.map BitVec.toNat) [] := by
  induction xs with
  | nil => rfl
  | cons x xs ih =>
    rw [List.length_cons, readRaw, takeBits_byte]
    simp only [ih, List.map_cons]

/-- A block with the raw header holds its 32 bytes as they are (R67). -/
theorem readBlock_raw {xs : List Byte} (h : xs.length = 32) : readBlock (streamBits (0x02 :: 0x00 :: xs)) = .got (xs.map BitVec.toNat) [] := by
  have hheader : takeBits 16 0 (streamBits (0x02 :: 0x00 :: xs)) = some (0x200, streamBits xs) := by
    rw [streamBits_cons, streamBits_cons 0x00, ← List.append_assoc]
    exact takeBits_append (streamBits [0x02] ++ streamBits [0x00]) _ 0
  unfold readBlock
  rw [hheader, ← h]
  exact readRaw_streamBits xs

/-! ### The sum test of a SIEVE (R211) -/

/-- Finite values are compared exactly, at the least of their exponents. -/
theorem geSum_iff {a b c : FVal} (ha : FVal.finite a = true) (hb : FVal.finite b = true) (hc : FVal.finite c = true) :
    geSum a b c = true ↔ FVal.rat c ≤ FVal.rat a + FVal.rat b := by
  have hfrom := finFrom_minExp (xs := [a, b, c]) 0 (by simp [ha, hb, hc])
  have hpow : (0 : ℚ) < 2 ^ minExp [a, b, c] 0 := by positivity
  have hsum : geSum a b c = decide (c.scaled (minExp [a, b, c] 0) ≤ a.scaled (minExp [a, b, c] 0) + b.scaled (minExp [a, b, c] 0)) := by
    obtain ⟨_, _, _, rfl⟩ := FVal.exists_fin ha
    obtain ⟨_, _, _, rfl⟩ := FVal.exists_fin hb
    obtain ⟨_, _, _, rfl⟩ := FVal.exists_fin hc
    rfl
  rw [hsum, decide_eq_true_iff, ← scaled_mul_zpow (hfrom a (by simp)), ← scaled_mul_zpow (hfrom b (by simp)),
    ← scaled_mul_zpow (hfrom c (by simp)), ← add_mul, mul_le_mul_iff_left₀ hpow]
  norm_cast

end Sys2Proof.Machine
end


section
/-! What operators do with the elements and tokens that come to them (O52): returns, passes that end, and the data tokens of each kind. -/

namespace Sys2Proof.Machine

/-! ### Elements that return (R201, R204, R208) and passes that end (R195) -/

theorem operSend_of_can {site : Nat} {g : Target} {t : Token} {s : State} (h : operCan site g t s = true) :
    operSend site g t s = some (outGo site ⟨g, t, true, false⟩ s) := if_pos h

section
variable {s : State} {n : Nat} {a : Access}

/-- The state with every part of an element kept or forgotten, and a poisoned one logged (R282, R417). -/
def keepParts (site tag : Nat) (ps : List Access) (s : State) : State :=
  ps.foldl (fun s p => keepAccess p s) (if ps.any Access.poison then logMemory site tag s else s)

theorem partsReady_of_performed {ps : List Access} (hne : ps ≠ []) (h : ∀ p ∈ ps, p.phase = 5) : partsReady ps = true := by
  simpa [partsReady, hne] using h

variable (ha : s.access n = some a) (hreq : a.req = none) (hread : a.kind = .read) (hready : partsReady (elementParts s a) = true)
  (hawake : operAwake s a.oper = true)

/-- The token of a LOAD's element (R201). -/
def loadToken (o : Oper) (a : Access) (ps : List Access) : Token :=
  { Token.zero with
    payload := BitVec.ofNat 64 (leNat (ps.map Access.bytes).flatten)
    fmt := Fmt.ofCode (BitVec.ofNat 3 (field (Map.get o.pm 0 1) 4 2))
    poison := ps.any Access.poison
    ends := BitVec.ofNat 4 (patternEnds (indices o.counts a.elem) o.counts)
    tag := BitVec.ofNat 16 a.tag
    seq := BitVec.ofNat 6 a.seq }

include ha hreq hread hready hawake

/-- A LOAD's next element leaves as a token (R201). -/
theorem elementReturn_load (hkind : (s.oper a.oper).kind = 0) (helem : a.elem = (s.oper a.oper).done)
    (hstate : (s.oper a.oper).state = 2 ∨ (s.oper a.oper).state = 3)
    (hcan : operCan a.oper (toA (s.oper a.oper)) (loadToken (s.oper a.oper) a (elementParts s a)) s = true) :
    elementReturn s n = some (issueNext a.oper (elementDone a.oper (keepParts a.oper a.tag (elementParts s a)
      (outGo a.oper ⟨toA (s.oper a.oper), loadToken (s.oper a.oper) a (elementParts s a), true, false⟩ s)))) := by
  have hload : ((s.oper a.oper).kind = 0 && a.elem = (s.oper a.oper).done &&
      ((s.oper a.oper).state = 2 || (s.oper a.oper).state = 3)) = true := by simp [hkind, helem, hstate]
  have hsend := congrArg (Option.map (fun s1 => issueNext a.oper (elementDone a.oper (keepParts a.oper a.tag (elementParts s a) s1))))
    (operSend_of_can hcan)
  simp only [elementReturn, ha]
  rw [if_neg (by simp [hreq, hread, hready, hawake]), if_pos hload]
  exact hsend

/-- A GATHER's item leaves as the tokens of its block (R204). -/
theorem elementReturn_gather (hkind : (s.oper a.oper).kind = 2) (hop : a.op ≠ 1)
    (hcan : ∀ t ∈ blockTokens (s.oper a.oper) a (elementParts s a), operCan a.oper (toA (s.oper a.oper)) t s = true) :
    elementReturn s n = some (issueNext a.oper (itemDone a.oper (elementDone a.oper (keepParts a.oper a.tag (elementParts s a)
      ((blockTokens (s.oper a.oper) a (elementParts s a)).foldl (fun u t => operForce a.oper (toA (s.oper a.oper)) t u) s))))) := by
  simp only [elementReturn, ha]
  rw [if_neg (by simp [hreq, hread, hready, hawake]), if_neg (by simp [hkind]), if_pos (by simp [hkind, hop]),
    if_pos (List.all_eq_true.mpr hcan)]
  rfl

end

section
variable {s : State} {n : Nat} {a : Access} {t : Token} {rest : List Token}

/-- What a LOOKUP makes of position `t` and its entry: a target and a token (R208). -/
def lookupOut (o : Oper) (a : Access) (ps : List Access) (t : Token) : Target × Token :=
  let e := leNat (ps.map Access.bytes).flatten
  (if a.op = 3 ∨ e < 2 ^ 63 then toA o else toB o,
    { t with
      payload := BitVec.ofNat 64 (if a.op = 3 then 0
        else if e < 2 ^ 63 then e + t.payload.toNat % 2 ^ field (Map.get o.pm 0 1) 37 32 * field (Map.get o.pm 0 2) 31 0
        else e % 2 ^ 63)
      fmt := .i64, poison := ps.any Access.poison || a.op == 3 })

/-- The LOOKUP's own case split on a failed access and on the top bit of the entry. -/
theorem lookupOut_eq (o : Oper) (a : Access) (ps : List Access) (t : Token) : lookupOut o a ps t =
    (let e := leNat (ps.map Access.bytes).flatten
     (if (a.op == 3) = true then toA o else if e / 2 ^ 63 = 0 then toA o else toB o,
      { t with
        payload := if (a.op == 3) = true then 0 else BitVec.ofNat 64 (if e / 2 ^ 63 = 0
          then e + t.payload.toNat % 2 ^ field (Map.get o.pm 0 1) 37 32 * field (Map.get o.pm 0 2) 31 0 else e % 2 ^ 63)
        fmt := .i64, poison := ps.any Access.poison || a.op == 3 })) := by
  have htop (e : Nat) : e / 2 ^ 63 = 0 ↔ e < 2 ^ 63 := by omega
  by_cases hop : a.op = 3
  · simp [lookupOut, hop]
  · simp only [lookupOut, hop, false_or, beq_iff_eq, if_false, htop]

/-- A LOOKUP's next output leaves in input order; its slot and pins are released when it holds no position (R208, R358). -/
theorem lookupReturn_sends (ha : s.access n = some a) (hready : partsReady (elementParts s a) = true) (hawake : operAwake s a.oper = true)
    (hkind : (s.oper a.oper).kind = 6) (helem : a.elem = (s.oper a.oper).done) (hheld : (s.oper a.oper).held = t :: rest)
    (hcan : operCan a.oper (lookupOut (s.oper a.oper) a (elementParts s a) t).1 (lookupOut (s.oper a.oper) a (elementParts s a) t).2 s = true) :
    lookupReturn s n = some
      (let w := (keepParts a.oper a.tag (elementParts s a) (outGo a.oper ⟨(lookupOut (s.oper a.oper) a (elementParts s a) t).1,
        (lookupOut (s.oper a.oper) a (elementParts s a) t).2, true, false⟩ s)).onOper a.oper (fun o => { o with held := rest, done := o.done + 1 })
       if rest = [] then unpin (2 * a.oper) { w with slots := Map.del w.slots a.oper } else w) := by
  have hsend := operSend_of_can hcan
  rw [lookupOut_eq] at hsend ⊢
  simp only [lookupReturn, ha, hheld]
  rw [if_neg (by simp [hkind, helem, hready, hawake]), hsend]
  simp only [Option.map_some, List.isEmpty_iff]
  rfl

end

section
variable {s : State} {x : Site}

/-- A pass all of whose elements are done ends (R195). -/
theorem passEnds_done (hawake : operAwake s (Site.key x) = true) (h : (s.oper (Site.key x)).state = 5) :
    passEnds s x = some (endPass (Site.key x) true s) := by
  simp [passEnds, hawake, h]

/-- A STORE or SCATTER that can receive no more data ends its pass with status 1 (R336). -/
theorem passEnds_closed (hawake : operAwake s (Site.key x) = true) (hkind : (s.oper (Site.key x)).kind = 1 ∨ (s.oper (Site.key x)).kind = 3)
    (hstate : (s.oper (Site.key x)).state = 2) (hclosed : closed (s.oper (Site.key x)) = true)
    (hnone : ∀ a ∈ s.accesses, a.oper = Site.key x → a.req = none → 8 ≤ a.phase) :
    passEnds s x = some (endPass (Site.key x) true (s.onOper (Site.key x) (fun o => { o with status := 1 }))) := by
  have hdone : s.accesses.any (fun a => a.oper == Site.key x && a.req.isNone && a.phase < 8) = false := by simpa using hnone
  simp [passEnds, hawake, hkind, hstate, hclosed, hdone]

end

/-! ### Data tokens at a STORE (R202) -/

/-- A token from inside the region is taken without a record of it. -/
theorem takeFlight_inside {fl : Flight} (h : fl.input = false) (n : Nat) (s : State) : takeFlight n fl s = Without s n := by
  unfold takeFlight
  simp only []
  split
  · rfl
  · exact acceptInput_inside _ _ h

theorem Takes.inside {s : State} {n : Nat} {fl : Flight} {t : Token} (h : Takes s n fl t) (u : State) : takeFlight n fl u = Without u n := by
  obtain ⟨-, -, -, -, -, hin, -⟩ := h
  exact takeFlight_inside hin n u

section
variable {s : State} {n : Nat} {fl : Flight} {t : Token} (h : Takes s n fl t) (hkind : (s.oper fl.dst).kind = 1) (hport : t.port = .l)
  (hstate : (s.oper fl.dst).state = 2) (hpos : (s.oper fl.dst).pos < (s.oper fl.dst).sent) (hmay : operMay s fl.dst = true)
  (hroom : accessRoom s fl.dst (elemSize (s.oper fl.dst)) = true) (hzero : 0 ∉ (s.oper fl.dst).counts)
include h hkind hport hstate hpos hmay hroom hzero

/-- What a STORE does with a token that it takes, by the element that the token names. -/
theorem storeToken_eq : storeToken s n =
    (let site := fl.dst
     let o := s.oper site
     let w := Without (numberSlot site s) n
     let key := t.tag.toNat * 64 + t.seq.toNat
     match storeElement o t (Map.get o.arrivals 0 key) with
     | none => some (operError site 0x07 t.tag.toNat (some t) w)
     | some ix => if !inSpace (elementAddr o ix) (elemSize o) then
         some (operError site 0x0B t.tag.toNat (some t) (w.onOper site (fun p => { p with
           status := 3, sent := p.pos, state := if p.done = p.pos then 5 else p.state })))
       else some (operAccess site .write 0 (mixed ix o.counts) t.tag.toNat t.seq.toNat (elementAddr o ix).toNat (elemSize o)
         (leBytes (elemSize o) t.payload.toNat) (leBytes 8 t.payload.toNat ++ leBytes 4 o.epoch) (some t)
         (sinkReport site t (w.onOper site (fun p => { p with
           arrivals := Map.put p.arrivals key (Map.get o.arrivals 0 key + 1), pos := p.pos + 1 }))))) := by
  have hcontains : (s.oper fl.dst).counts.contains 0 = false := by simpa using hzero
  simp only [storeToken, h.data hkind hport]
  rw [if_neg (by simp [hstate, hpos, hmay]), if_neg (by simp [hroom])]
  simp only [hcontains, h.inside] <;> rfl

/-- A token that names no element faults (R202). -/
theorem storeToken_unnamed (he : storeElement (s.oper fl.dst) t (Map.get (s.oper fl.dst).arrivals 0 (t.tag.toNat * 64 + t.seq.toNat)) = none) :
    storeToken s n = some (operError fl.dst 0x07 t.tag.toNat (some t) (Without (numberSlot fl.dst s) n)) := by
  rw [storeToken_eq h hkind hport hstate hpos hmay hroom hzero]
  simp only [he]

variable {ix : List Nat}
  (he : storeElement (s.oper fl.dst) t (Map.get (s.oper fl.dst).arrivals 0 (t.tag.toNat * 64 + t.seq.toNat)) = some ix)
include he

/-- A token whose element lies in the address space is written there (R202). -/
theorem storeToken_writes (hin : inSpace (elementAddr (s.oper fl.dst) ix) (elemSize (s.oper fl.dst)) = true) : storeToken s n = some
    (operAccess fl.dst .write 0 (mixed ix (s.oper fl.dst).counts) t.tag.toNat t.seq.toNat (elementAddr (s.oper fl.dst) ix).toNat
      (elemSize (s.oper fl.dst)) (leBytes (elemSize (s.oper fl.dst)) t.payload.toNat) (leBytes 8 t.payload.toNat ++ leBytes 4 (s.oper fl.dst).epoch)
      (some t) (sinkReport fl.dst t ((Without (numberSlot fl.dst s) n).onOper fl.dst (fun p => { p with
        arrivals := Map.put p.arrivals (t.tag.toNat * 64 + t.seq.toNat)
          (Map.get (s.oper fl.dst).arrivals 0 (t.tag.toNat * 64 + t.seq.toNat) + 1)
        pos := p.pos + 1 })))) := by
  rw [storeToken_eq h hkind hport hstate hpos hmay hroom hzero]
  simp only [he, hin, Bool.not_true, Bool.false_eq_true, if_false]

/-- One whose element lies beyond it ends the pass there (R198). -/
theorem storeToken_beyond (hin : ¬inSpace (elementAddr (s.oper fl.dst) ix) (elemSize (s.oper fl.dst)) = true) : storeToken s n = some
    (operError fl.dst 0x0B t.tag.toNat (some t) ((Without (numberSlot fl.dst s) n).onOper fl.dst (fun p => { p with
      status := 3, sent := p.pos, state := if p.done = p.pos then 5 else p.state }))) := by
  rw [storeToken_eq h hkind hport hstate hpos hmay hroom hzero]
  simp only [he, Bool.eq_false_iff.mpr hin, Bool.not_false, if_true]

end

theorem Takes.fatal {s : State} {n : Nat} {fl : Flight} {t : Token} (h : Takes s n fl t) : s.fatal = false := by
  obtain ⟨hf, -⟩ := h
  exact hf

end Sys2Proof.Machine
end


section
/-! Data tokens of the other operator kinds (O52): GATHER, SCATTER, LOOKUP, REORDER, DECODE, SIEVE and COMPARE. -/

namespace Sys2Proof.Machine

/-! ### GATHER (R203, R204) -/

section
variable {s : State} {n : Nat} {fl : Flight} {t : Token} (h : Takes s n fl t) (hkind : (s.oper fl.dst).kind = 2)
include h hkind

theorem gatherToken_pass (hport : t.port = .l) (hmode : itemMode (s.oper fl.dst) = 2) : gatherToken s n = some
    (if t.poison then operError fl.dst 0x03 t.tag.toNat none (Without s n)
     else armPass fl.dst ⟨t.tag.toNat, some t.payload⟩ (Without s n)) := by
  simp only [gatherToken, h.data hkind hport, h.take, if_pos hmode]

theorem gatherToken_item (hport : t.port = .l) (hmode : itemMode (s.oper fl.dst) ≠ 2)
    (hstate : (s.oper fl.dst).state = 2 ∨ (s.oper fl.dst).state = 3) (hpos : (s.oper fl.dst).pos < field (Map.get (s.oper fl.dst).pm 0 5) 31 0)
    (hout : itemsOut s fl.dst < 64) (hmask : maskReady (s.oper fl.dst) = true) (hmay : operMay s fl.dst = true)
    (hroom : accessRoom s fl.dst (itemSize (s.oper fl.dst)) = true) : gatherToken s n = some
      (dropMask fl.dst (s.oper fl.dst).pos (takeItem fl.dst (s.oper fl.dst).pos t
        ((Without (numberSlot fl.dst s) n).onOper fl.dst (fun p => { p with pos := p.pos + 1 })))) := by
  have hrun : (s.oper fl.dst).state ≠ 0 := by omega
  simp only [gatherToken, h.data hkind hport, if_neg hmode, if_neg hrun, h.inside]
  rw [if_neg (by simp [hrun]), if_neg (by obtain hs | hs := hstate <;> simpa [hs, hout, hmask, hmay, hroom] using hpos)]

theorem maskToken_taken (hport : t.port = .p) (hmask : (s.oper fl.dst).mask = none) : maskToken s n = some
    (let v := (Without s n).onOper fl.dst (fun p => { p with mask := some t })
     issueNext fl.dst (if t.poison then operError fl.dst 0x03 t.tag.toNat none v else v)) := by
  simp [maskToken, h.data hkind hport, h.take, hmask]

end

section
variable {site k : Nat} {t : Token} {s : State}

theorem takeItem_masked (h : bit (Map.get (s.oper site).pm 0 1) 5 = true ∧ ((s.oper site).mask.getD .zero).poison = false ∧
    bit ((s.oper site).mask.getD .zero).payload (k % 64) = false) : takeItem site k t s = itemDone site s := by
  obtain ⟨hmasked, hpoison, hbit⟩ := h
  exact if_pos (by simpa [hpoison, hbit] using hmasked)

theorem takeItem_fetches (h : bit (Map.get (s.oper site).pm 0 1) 5 = false ∨ ((s.oper site).mask.getD .zero).poison = true ∨
    bit ((s.oper site).mask.getD .zero).payload (k % 64) = true) : takeItem site k t s =
      fetchItem site k t.tag.toNat t.seq.toNat t.payload t.poison
        (bit (Map.get (s.oper site).pm 0 1) 5 && ((s.oper site).mask.getD .zero).poison) (some t) s :=
  if_neg (by generalize bit (Map.get (s.oper site).pm 0 1) 5 = b at h ⊢; obtain h | h | h := h <;> simp [h])

end

section
variable {site k tag seq : Nat} {x : Word} {marked : Bool} {tok : Option Token} {s : State}

theorem fetchItem_poisoned : fetchItem site k tag seq x true marked tok s =
    itemDone site (poisonItem site tag (operError site 0x03 tag none s)) := if_pos rfl

theorem fetchItem_faults {code : Nat} (ha : itemAddr (s.oper site) x = .error code) :
    fetchItem site k tag seq x false marked tok s = itemFault site code tag x tok s := by
  simp only [fetchItem, Bool.false_eq_true, if_false, ha]

theorem fetchItem_reads {a : Nat} (ha : itemAddr (s.oper site) x = .ok a) : fetchItem site k tag seq x false marked tok s =
    operAccess site .read (if marked then 2 else 0) k tag seq a (itemSize (s.oper site)) [] (leBytes 8 x.toNat) tok s := by
  simp only [fetchItem, Bool.false_eq_true, if_false, ha]

end

/-! ### SCATTER (R205) -/

section
variable {s : State} {n : Nat} {fl : Flight} {t u : Token} (h : Takes s n fl t) (hkind : (s.oper fl.dst).kind = 3) (hport : t.port ≠ .c)
  (hstate : (s.oper fl.dst).state = 2) (hpos : (s.oper fl.dst).pos < field (Map.get (s.oper fl.dst).pm 0 5) 31 0)
  (hmay : operMay s fl.dst = true) (hroom : accessRoom s fl.dst (itemSize (s.oper fl.dst)) = true)
include h hkind hport hstate hpos hmay hroom

/-- What a SCATTER that takes a token does, by whether its twin or another of its key is held. -/
theorem scatterToken_eq : scatterToken s n =
    (let o := s.oper fl.dst
     let same := fun (u : Token) => u.tag == t.tag && u.seq == t.seq
     match (if t.port == .l then o.held2 else o.held).find? same with
     | some u =>
       let s1 := (Without s n).onOper fl.dst (fun o =>
         if t.port == .l then { o with held2 := o.held2.erase u } else { o with held := o.held.erase u })
       some (if t.port == .l then scatterPair fl.dst t u s1 else scatterPair fl.dst u t s1)
     | none =>
       if (if t.port == .l then o.held else o.held2).any same then none
       else some ((Without s n).onOper fl.dst (fun o =>
         if t.port == .l then { o with held := o.held ++ [t] } else { o with held2 := o.held2 ++ [t] }))) := by
  simp only [scatterToken, h.flight, h.take]
  rw [if_neg (by simpa [hkind, hport, hstate, hmay, hroom] using hpos)] <;> rfl

theorem scatterToken_left_pair (hleft : t.port = .l) (hu : (s.oper fl.dst).held2.find? (fun y => y.tag == t.tag && y.seq == t.seq) = some u) :
    scatterToken s n = some (scatterPair fl.dst t u ((Without s n).onOper fl.dst (fun p => { p with held2 := p.held2.erase u }))) := by
  rw [scatterToken_eq h hkind hport hstate hpos hmay hroom]
  simp [hleft, hu]

theorem scatterToken_right_pair (hright : t.port ≠ .l) (hu : (s.oper fl.dst).held.find? (fun y => y.tag == t.tag && y.seq == t.seq) = some u) :
    scatterToken s n = some (scatterPair fl.dst u t ((Without s n).onOper fl.dst (fun p => { p with held := p.held.erase u }))) := by
  rw [scatterToken_eq h hkind hport hstate hpos hmay hroom]
  simp [hright, hu]

theorem scatterToken_left_held (hleft : t.port = .l) (hnone : (s.oper fl.dst).held2.find? (fun y => y.tag == t.tag && y.seq == t.seq) = none)
    (hfirst : (s.oper fl.dst).held.any (fun y => y.tag == t.tag && y.seq == t.seq) = false) :
    scatterToken s n = some ((Without s n).onOper fl.dst (fun p => { p with held := p.held ++ [t] })) := by
  rw [scatterToken_eq h hkind hport hstate hpos hmay hroom]
  simp only [hleft, beq_self_eq_true, if_true, hnone, hfirst, Bool.false_eq_true, if_false]

theorem scatterToken_right_held (hright : t.port ≠ .l) (hnone : (s.oper fl.dst).held.find? (fun y => y.tag == t.tag && y.seq == t.seq) = none)
    (hfirst : (s.oper fl.dst).held2.any (fun y => y.tag == t.tag && y.seq == t.seq) = false) :
    scatterToken s n = some ((Without s n).onOper fl.dst (fun p => { p with held2 := p.held2 ++ [t] })) := by
  rw [scatterToken_eq h hkind hport hstate hpos hmay hroom]
  simp only [beq_eq_false_iff_ne.mpr hright, hnone, hfirst, Bool.false_eq_true, if_false]

end

section
variable {site : Nat} {l r : Token} {s : State}

/-- The SCATTER whose pair has been taken (R205). -/
def pairTaken (site : Nat) (s : State) : State := (numberSlot site s).onOper site (fun p => { p with pos := p.pos + 1 })

theorem scatterPair_poisoned (h : l.poison = true) :
    scatterPair site l r s = itemDone site (operError site 0x03 l.tag.toNat none (pairTaken site s)) := if_pos h

theorem scatterPair_faults {code : Nat} (h : l.poison = false) (ha : itemAddr (s.oper site) l.payload = .error code) :
    scatterPair site l r s = itemFault site code l.tag.toNat l.payload (some l) (pairTaken site s) := by
  simp only [scatterPair, h, ha]
  rfl

theorem scatterPair_writes {a : Nat} (h : l.poison = false) (ha : itemAddr (s.oper site) l.payload = .ok a) :
    scatterPair site l r s = operAccess site .write 0 (s.oper site).pos l.tag.toNat l.seq.toNat a (itemSize (s.oper site))
      (leBytes (itemSize (s.oper site)) r.payload.toNat) (leBytes 8 l.payload.toNat ++ leBytes 4 (s.oper site).epoch) (some l)
      (sinkReport site r (pairTaken site s)) := by
  simp only [scatterPair, h, ha]
  rfl

end

/-! ### LOOKUP (R208) -/

section
variable {s : State} {n : Nat} {fl : Flight} {t : Token} (h : Takes s n fl t) (hkind : (s.oper fl.dst).kind = 6) (hport : t.port = .l)
  (hmay : operMay s fl.dst = true) (hroom : accessRoom s fl.dst 8 = true)

/-- The table entry that a position names (R208). -/
def lookupIndex (o : Oper) (t : Token) : Nat := t.payload.toNat / 2 ^ field (Map.get o.pm 0 1) 37 32

/-- Where that entry lies. -/
def lookupAddr (o : Oper) (t : Token) : Nat := (Map.get o.pm 0 0).toNat + 8 * lookupIndex o t

theorem inSpace_natCast (a size : Nat) : inSpace (a : Int) size = decide (a + size ≤ 2 ^ 57) := by
  rw [Bool.eq_iff_iff]
  simp only [inSpace, Bool.and_eq_true, decide_eq_true_eq]
  omega

include h hkind hport hmay hroom

theorem lookupToken_poisoned (hp : t.poison = true) : lookupToken s n = some (operError fl.dst 0x03 t.tag.toNat none (Without s n)) := by
  simp only [lookupToken, h.data hkind hport, h.take]
  rw [if_neg (by simp [hmay, hroom]), if_pos hp]

/-- A position in its table claims the engine slot and asks for its entry (R208, R358). -/
theorem lookupToken_reads (hp : t.poison = false) (hx : lookupIndex (s.oper fl.dst) t < field (Map.get (s.oper fl.dst).pm 0 1) 31 0)
    (ha : lookupAddr (s.oper fl.dst) t + 8 ≤ 2 ^ 57) (hslot : slotRoom s fl.dst = true) : lookupToken s n = some
      (operAccess fl.dst .read 0 (s.oper fl.dst).pos t.tag.toNat t.seq.toNat (lookupAddr (s.oper fl.dst) t) 8 [] (leBytes 8 t.payload.toNat)
        (some t) ((Without (claimSlot fl.dst s) n).onOper fl.dst (fun p => { p with held := p.held ++ [t], pos := p.pos + 1 }))) := by
  unfold lookupIndex at hx
  have haddr : ((Map.get (s.oper fl.dst).pm 0 0).toNat : Int) +
    ((8 * (t.payload.toNat / 2 ^ field (Map.get (s.oper fl.dst).pm 0 1) 37 32) : Nat) : Int) = (lookupAddr (s.oper fl.dst) t : Int) := rfl
  simp only [lookupToken, h.data hkind hport, h.inside, haddr, inSpace_natCast, Int.toNat_natCast]
  rw [if_neg (by simp [hmay, hroom]), if_neg (by simp [hp]), if_neg (Nat.not_le.mpr hx), if_neg (by simpa using ha), if_neg (by simp [hslot])]

/-- A position past its table, or whose entry would cross 2^57, goes on poisoned when no other is held, and faults (R208, R352). -/
theorem lookupToken_bad (hp : t.poison = false)
    (hbad : field (Map.get (s.oper fl.dst).pm 0 1) 31 0 ≤ lookupIndex (s.oper fl.dst) t ∨ 2 ^ 57 < lookupAddr (s.oper fl.dst) t + 8)
    (hheld : (s.oper fl.dst).held = []) : lookupToken s n = some
      (operError fl.dst (if field (Map.get (s.oper fl.dst).pm 0 1) 31 0 ≤ lookupIndex (s.oper fl.dst) t then 0x07 else 0x0B) t.tag.toNat (some t)
        (operForce fl.dst (toA (s.oper fl.dst)) { t with
          payload := 0, poison := true, fmt := .i64
          ends := if field (Map.get (s.oper fl.dst).pm 0 1) 31 0 ≤ lookupIndex (s.oper fl.dst) t then t.ends else 3 } (Without s n))) := by
  have haddr : ((Map.get (s.oper fl.dst).pm 0 0).toNat : Int) +
    ((8 * (t.payload.toNat / 2 ^ field (Map.get (s.oper fl.dst).pm 0 1) 37 32) : Nat) : Int) = (lookupAddr (s.oper fl.dst) t : Int) := rfl
  simp only [lookupToken, h.data hkind hport, h.inside, haddr, inSpace_natCast, hheld, List.isEmpty_nil, if_true]
  rw [if_neg (by simp [hmay, hroom]), if_neg (by simp [hp])]
  by_cases hx : field (Map.get (s.oper fl.dst).pm 0 1) 31 0 ≤ lookupIndex (s.oper fl.dst) t
  · rw [if_pos (show _ ≤ t.payload.toNat / 2 ^ _ from hx)]
    simp only [if_pos hx]
    rfl
  · rw [if_neg (show ¬_ ≤ t.payload.toNat / 2 ^ _ from hx), if_pos (by simp only [Bool.not_eq_true', decide_eq_false_iff_not]; omega)]
    simp only [if_neg hx]

end

/-! ### REORDER, DECODE and SIEVE (R209 to R211) -/

section
variable {s : State} {n : Nat} {fl : Flight} {t : Token} (h : Takes s n fl t) (hport : t.port = .l)
include h hport

theorem reorderTake_next (hkind : (s.oper fl.dst).kind = 7) (hnext : t.tag.toNat = (s.oper fl.dst).expTag ∧
    (bit (Map.get (s.oper fl.dst).pm 0 0) 0 = false ∨ t.seq.toNat = (s.oper fl.dst).expSeq))
    (hcan : operCan fl.dst (toA (s.oper fl.dst)) t s = true) : reorderTake s n = some (reorderDrain fl.dst 64
      (operForce fl.dst (toA (s.oper fl.dst)) t ((Without s n).onOper fl.dst (fun p => reorderStep p t)))) := by
  have hfirst : reorderNext (s.oper fl.dst) t = true := by simpa [reorderNext] using hnext
  simp only [reorderTake, h.data hkind hport, h.take, hfirst, hcan, if_true]

theorem reorderTake_held (hkind : (s.oper fl.dst).kind = 7) (hnext : ¬(t.tag.toNat = (s.oper fl.dst).expTag ∧
    (bit (Map.get (s.oper fl.dst).pm 0 0) 0 = false ∨ t.seq.toNat = (s.oper fl.dst).expSeq)))
    (hroom : (s.oper fl.dst).held.length < field (Map.get (s.oper fl.dst).pm 0 1) 6 0) :
    reorderTake s n = some ((Without s n).onOper fl.dst (fun p => { p with held := p.held ++ [t] })) := by
  have hlater : ¬reorderNext (s.oper fl.dst) t = true := by simpa [reorderNext] using hnext
  simp only [reorderTake, h.data hkind hport, h.take, if_neg hlater, if_neg (Nat.not_le.mpr hroom)]

theorem decodeToken_discarded (hkind : (s.oper fl.dst).kind = 8) (hdiscard : (s.oper fl.dst).discard = true) :
    decodeToken s n = some (Without s n) := by
  simp only [decodeToken, h.data hkind hport, h.take, hdiscard, if_true]

theorem decodeToken_taken (hkind : (s.oper fl.dst).kind = 8) (hdiscard : (s.oper fl.dst).discard = false) (hstate : (s.oper fl.dst).state = 2)
    (hmay : operMay s fl.dst = true) : decodeToken s n = some
      (decodeBlocks fl.dst 4 ((Without s n).onOper fl.dst (fun p => { p with held := p.held ++ [t] }))) := by
  simp [decodeToken, h.data hkind hport, h.take, hdiscard, hstate, hmay]

theorem sieveToken_new (hkind : (s.oper fl.dst).kind = 9) (hnew : ∀ y ∈ (s.oper fl.dst).sieve, y.tag ≠ t.tag.toNat)
    (hroom : (s.oper fl.dst).sieve.length < 16) : sieveToken s n = some (sieveRun fl.dst t.tag.toNat 65
      ((Without s n).onOper fl.dst (fun p => { p with sieve := p.sieve ++ [⟨t.tag.toNat, 0xFF800000, 0, 0, 0, [t]⟩] }))) := by
  have hunknown : (s.oper fl.dst).sieve.any (fun x => x.tag == t.tag.toNat) = false := by simpa using hnew
  simp [sieveToken, h.data hkind hport, h.take, hunknown, hroom]

theorem sieveToken_known (hkind : (s.oper fl.dst).kind = 9) (hold : ∃ y ∈ (s.oper fl.dst).sieve, y.tag = t.tag.toNat) :
    sieveToken s n = some (sieveRun fl.dst t.tag.toNat 65 ((Without s n).onOper fl.dst (fun p => { p with
      sieve := p.sieve.map (fun y => if y.tag == t.tag.toNat then { y with waiting := y.waiting ++ [t] } else y) }))) := by
  have hknown : (s.oper fl.dst).sieve.any (fun x => x.tag == t.tag.toNat) = true := by simpa using hold
  simp only [sieveToken, h.data hkind hport, h.take, hknown, if_true]
  rfl

end

/-! ### COMPARE (R212) -/

section
variable {s : State} {n : Nat} {fl : Flight} {t : Token} (h : Takes s n fl t) (hkind : (s.oper fl.dst).kind = 10) (hport : t.port ≠ .c)
  (hroom : (if t.port == .l then (s.oper fl.dst).held else (s.oper fl.dst).held2).length < compareDepth (s.oper fl.dst))
include h hkind hport hroom

/-- What a COMPARE with room on the token's side does, by what the other side holds. -/
theorem compareTake_eq : compareTake s n =
    (let o := s.oper fl.dst
     let left := t.port == .l
     match (if left then o.held2 else o.held) with
     | [] => some ((Without s n).onOper fl.dst (fun o => { o with
         held := if left then o.held ++ [t] else o.held
         held2 := if left then o.held2 else o.held2 ++ [t]
         counts := o.counts ++ [s.now (Site.ofKey fl.dst).die] }))
     | u :: rest => if pairMatches t u then
         some (compareSend fl.dst (if left then t else u) ((Without s n).onOper fl.dst (fun o => { o with
           held := if left then o.held else rest, held2 := if left then rest else o.held2
           counts := o.counts.drop 1, mismatch := false })))
       else some (mismatch fl.dst (if left then t else u).tag.toNat ((Without s n).onOper fl.dst (fun o => { o with
           held := if left then o.held ++ [t] else o.held, held2 := if left then o.held2 else o.held2 ++ [t] })))) := by
  simp only [compareTake, h.flight, h.take]
  rw [if_neg (by simpa [hkind, hport] using hroom)] <;> rfl

/-- The first of the two sides is held (R212). -/
theorem compareTake_holds (hother : (if t.port == .l then (s.oper fl.dst).held2 else (s.oper fl.dst).held) = []) :
    compareTake s n = some ((Without s n).onOper fl.dst (fun p => { p with
      held := if t.port == .l then p.held ++ [t] else p.held
      held2 := if t.port == .l then p.held2 else p.held2 ++ [t]
      counts := p.counts ++ [s.now (Site.ofKey fl.dst).die] })) := by
  rw [compareTake_eq h hkind hport hroom]
  simp only [hother]

variable {y : Token} {ys : List Token} (hother : (if t.port == .l then (s.oper fl.dst).held2 else (s.oper fl.dst).held) = y :: ys)
include hother

/-- A pair that matches goes on as one token (R212). -/
theorem compareTake_matches (hmatch : pairMatches t y = true) :
    compareTake s n = some (compareSend fl.dst (if t.port == .l then t else y) ((Without s n).onOper fl.dst (fun p => { p with
      held := if t.port == .l then p.held else ys
      held2 := if t.port == .l then ys else p.held2
      counts := p.counts.drop 1
      mismatch := false }))) := by
  rw [compareTake_eq h hkind hport hroom]
  simp only [hother, hmatch, if_true]

theorem compareTake_mismatches (hmatch : pairMatches t y = false) :
    compareTake s n = some (mismatch fl.dst (if t.port == .l then t else y).tag.toNat ((Without s n).onOper fl.dst (fun p => { p with
      held := if t.port == .l then p.held ++ [t] else p.held
      held2 := if t.port == .l then p.held2 else p.held2 ++ [t] }))) := by
  rw [compareTake_eq h hkind hport hroom]
  simp only [hother, hmatch, Bool.false_eq_true, if_false]

end

theorem compareExpires_late {s : State} {x : Site} {since : Nat} {cs : List Nat} (hkind : (s.oper (Site.key x)).kind = 10)
    (hcounts : (s.oper (Site.key x)).counts = since :: cs) (hlimit : field (Map.get (s.oper (Site.key x)).pm 0 0) 63 32 ≠ 0)
    (hlate : since + field (Map.get (s.oper (Site.key x)).pm 0 0) 63 32 ≤ s.now x.die) : compareExpires s x =
      some (mismatch (Site.key x) (((s.oper (Site.key x)).held ++ (s.oper (Site.key x)).held2).getD 0 .zero).tag.toNat s) := by
  simp only [compareExpires, hcounts]
  rw [if_neg]
  simp only [hkind, bne_self_eq_false, Bool.false_or, Bool.or_eq_true, decide_eq_true_eq, not_or, Nat.not_lt]
  exact ⟨hlimit, hlate⟩

/-- A mismatch leaves the COMPARE with nothing held (R212). -/
theorem mismatch_clears (site tag : Nat) (s : State) :
    ((mismatch site tag s).oper site).held = [] ∧ ((mismatch site tag s).oper site).held2 = [] ∧
      ((mismatch site tag s).oper site).mismatch = true := by
  have hclear (u : State) : let v := u.onOper site (fun o => { o with held := [], held2 := [], counts := [], mismatch := true })
      (v.oper site).held = [] ∧ (v.oper site).held2 = [] ∧ (v.oper site).mismatch = true := by simp
  unfold mismatch
  simp only []
  split
  · split <;> exact hclear _
  · exact hclear _

end Sys2Proof.Machine
end


section
/-! Iterations of a LOOP (R206, R230), the accesses that an operator makes (R276, R401), and the statement on data and returns
(O52). -/

namespace Sys2Proof.Machine

/-! ### LOOP (R206, R230) -/

/-- The token of a LOOP's next iteration (R206). -/
def iterationToken (o : Oper) : Token :=
  { Token.zero with
    payload := loopPayload (indices o.counts o.pos), fmt := .i64, tag := BitVec.ofNat 16 (loopTag o)
    ends := BitVec.ofNat 4 (patternEnds (indices o.counts o.pos) o.counts) }

/-- The state in which a LOOP's iteration has left (R206). -/
def iterationSent (site : Nat) (o : Oper) (s : State) : State :=
  (operForce site (toA o) (iterationToken o) s).onOper site (fun o => { o with
    pos := o.pos + 1, done := o.done + 1, state := if o.pos + 1 = o.sent then 5 else o.state })

section
variable {s : State} {x : Site} {k i : Nat} (hregion : (s.oper (Site.key x)).region = k + 1)
  (hafter : ((retireTags s k).oper (Site.key x)).region = k + 1) (hkind : ((retireTags s k).oper (Site.key x)).kind = 4)
  (hstate : ((retireTags s k).oper (Site.key x)).state = 2)
  (hpos : ((retireTags s k).oper (Site.key x)).pos < ((retireTags s k).oper (Site.key x)).sent)
  (hout : ((retireTags s k).oper (Site.key x)).out = []) (hmay : operMay (retireTags s k) (Site.key x) = true)
  (hvalid : (toA ((retireTags s k).oper (Site.key x))).valid = true) (hroom : cabooseRoom (retireTags s k) (some k) 1 = true)
include hregion hafter hkind hstate hpos hout hmay hvalid hroom

/-- A LOOP's next iteration leaves under a tag of no domain, a live tag, or a tag that it admits in its turn (R228, R230). -/
theorem loopNext_eq : loopNext s x =
    (let u := retireTags s k
     let o := u.oper (Site.key x)
     match (u.region k).domainOf (member (Site.key x) 0) with
     | none => some (iterationSent (Site.key x) o u)
     | some i =>
       if ((u.region k).domains.getD i Domain.none).isLive (loopTag o) then some (iterationSent (Site.key x) o u)
       else if canAdmit u k i (some (member (Site.key x) 0)) (loopTag o) && isNext u k i (loopTag o) (member (Site.key x) 0) then
         some (iterationSent (Site.key x) o (admitTag k i (some (member (Site.key x) 0)) (loopTag o) u))
       else none) := by
  simp only [loopNext, hregion, Nat.add_sub_cancel, if_neg (Nat.add_one_ne_zero k)]
  rw [if_neg (by simp [hkind, hstate, hpos, hout, hmay]), if_neg (by simp [hvalid, hafter]), if_neg (by simp [hroom])] <;> rfl

theorem loopNext_free (hdomain : ((retireTags s k).region k).domainOf (member (Site.key x) 0) = none) :
    loopNext s x = some (iterationSent (Site.key x) ((retireTags s k).oper (Site.key x)) (retireTags s k)) := by
  rw [loopNext_eq hregion hafter hkind hstate hpos hout hmay hvalid hroom]
  simp only [hdomain]

theorem loopNext_live (hdomain : ((retireTags s k).region k).domainOf (member (Site.key x) 0) = some i)
    (hlive : (((retireTags s k).region k).domains.getD i Domain.none).isLive (loopTag ((retireTags s k).oper (Site.key x))) = true) :
    loopNext s x = some (iterationSent (Site.key x) ((retireTags s k).oper (Site.key x)) (retireTags s k)) := by
  rw [loopNext_eq hregion hafter hkind hstate hpos hout hmay hvalid hroom]
  simp only [hdomain, hlive, if_true]

theorem loopNext_admits (hdomain : ((retireTags s k).region k).domainOf (member (Site.key x) 0) = some i)
    (hlive : (((retireTags s k).region k).domains.getD i Domain.none).isLive (loopTag ((retireTags s k).oper (Site.key x))) = false)
    (hcan : canAdmit (retireTags s k) k i (some (member (Site.key x) 0)) (loopTag ((retireTags s k).oper (Site.key x))) = true)
    (hnext : isNext (retireTags s k) k i (loopTag ((retireTags s k).oper (Site.key x))) (member (Site.key x) 0) = true) :
    loopNext s x = some (iterationSent (Site.key x) ((retireTags s k).oper (Site.key x))
      (admitTag k i (some (member (Site.key x) 0)) (loopTag ((retireTags s k).oper (Site.key x))) (retireTags s k))) := by
  rw [loopNext_eq hregion hafter hkind hstate hpos hout hmay hvalid hroom]
  simp only [hdomain, hlive, hcan, hnext, Bool.false_eq_true, if_false, Bool.and_self, if_true]

end

/-! ### Accesses of one sector (R276, R401) -/

theorem sectorParts_single {va size : Nat} (hpos : 0 < size) (hfits : va % 64 + size ≤ 64) :
    sectorParts (size / 64 + 2) va size = [(va, size)] := by
  have hmin : min size (64 - va % 64) = size := by omega
  simp only [sectorParts, if_neg (Nat.ne_of_gt hpos), hmin, Nat.sub_self, if_true]

section
variable {site k elem tag seq va size : Nat} {kind : AccKind} {op : Nat} {data cmp : List Byte} {tok : Option Token} {s : State}

/-- The access of an element that lies in one sector, waiting in the caboose (R156, R276). -/
def partAccess (s : State) (site : Nat) (kind : AccKind) (op elem tag seq va size : Nat) (data cmp : List Byte) (tok : Option Token) : Access :=
  { Access.none with
    id := s.nextAcc, kind := kind, op := op, oper := site, region := (s.oper site).region, ctx := operCtx (s.oper site)
    unit := servingUnit s site, stream := 2 * site, va := BitVec.ofNat 64 va, size := size, data := data, cmp := cmp, phase := 6, elem := elem
    tag := tag, seq := seq, tok := tok }

theorem operAccess_single (hregion : (s.oper site).region = k + 1) (hpos : 0 < size) (hfits : va % 64 + size ≤ 64) (hdata : data.length ≤ size) :
    operAccess site kind op elem tag seq va size data cmp tok s =
      enterCaboose k site 0 tag (s.region k).wave seq (.access s.nextAcc)
        (addAccess (partAccess s site kind op elem tag seq va size data cmp tok) s) := by
  simp only [operAccess, sectorParts_single hpos hfits, List.foldl_cons, List.foldl_nil, hregion, Nat.add_one_ne_zero, if_false,
    Nat.add_sub_cancel, Nat.sub_self, List.drop_zero, List.take_of_length_le hdata, partAccess]
  rfl

end

/-- Settles O52: each return, pass and token is given by the lemma of its kind and case; the pattern's numbers by `mixed_indices`. -/
theorem operatorData : Obligations.OperatorData := by
  unfold Obligations.OperatorData
  refine ⟨fun counts j h => mixed_indices counts h, ?returns, ?passes, ?tokens, ?items, ?pairs, ?timeouts,
    fun site tag s => mismatch_clears site tag s, ?loops, ?accesses, fun xs h => readBlock_raw h, fun a b c ha hb hc => geSum_iff ha hb hc⟩
  case returns =>
    intro s n a site o ps bad keep hf hh ha hreq hread hne hphase hawake
    have hready := partsReady_of_performed hne hphase
    refine ⟨fun hkind helem hstate => ?load, fun hkind hop hcan => ?gather, fun hkind helem t rest hheld => ?entry⟩
    case load =>
      intro t hcan
      exact congrArg Host.Outcome.next (orHeld_some hf hh (elementReturn_load ha hreq hread hready hawake hkind helem hstate hcan))
    case gather =>
      exact congrArg Host.Outcome.next (orHeld_some hf hh (elementReturn_gather ha hreq hread hready hawake hkind hop hcan))
    case entry =>
      intro e v g u hcan
      exact congrArg Host.Outcome.next (orSelf_some hf (lookupReturn_sends ha hready hawake hkind helem hheld hcan))
  case passes =>
    intro s x hf hh hawake o
    refine ⟨fun hstate => congrArg Host.Outcome.next (orHeld_some hf hh (passEnds_done hawake hstate)), fun hkind hstate hclosed hnone => ?_⟩
    exact congrArg Host.Outcome.next (orHeld_some hf hh (passEnds_closed hawake hkind hstate hclosed hnone))
  case tokens =>
    intro s n fl t h hh site o u w room x a same
    have hf := h.fatal
    refine ⟨?store, ?gatherPass, ?gatherItem, ?mask, ?scatter, ?lookup, ?reorder, ?decode, ?sieve, ?compare⟩
    case store =>
      intro hkind hport hstate hpos hmay hroom hzero key
      split
      next he => exact congrArg Host.Outcome.next (orHeld_some hf hh (storeToken_unnamed h hkind hport hstate hpos hmay hroom hzero he))
      next ix he =>
        split
        next hin => exact congrArg Host.Outcome.next (orHeld_some hf hh (storeToken_writes h hkind hport hstate hpos hmay hroom hzero he hin))
        next hin => exact congrArg Host.Outcome.next (orHeld_some hf hh (storeToken_beyond h hkind hport hstate hpos hmay hroom hzero he hin))
    case gatherPass =>
      intro hkind hport hmode
      exact congrArg Host.Outcome.next (orHeld_some hf hh (gatherToken_pass h hkind hport hmode))
    case gatherItem =>
      intro hkind hport hmode hstate hpos hout hmask hmay hroom
      exact congrArg Host.Outcome.next (orHeld_some hf hh (gatherToken_item h hkind hport hmode hstate hpos hout hmask hmay hroom))
    case mask =>
      intro hkind hport hmask
      exact congrArg Host.Outcome.next (orHeld_some hf hh (maskToken_taken h hkind hport hmask))
    case scatter =>
      intro hkind hport hstate hpos hmay hroom
      refine ⟨fun hleft r hr => ?_, fun hright l hl => ?_, fun hleft hnone hfirst => ?_, fun hright hnone hfirst => ?_⟩
      · exact congrArg Host.Outcome.next (orHeld_some hf hh (scatterToken_left_pair h hkind hport hstate hpos hmay hroom hleft hr))
      · exact congrArg Host.Outcome.next (orHeld_some hf hh (scatterToken_right_pair h hkind hport hstate hpos hmay hroom hright hl))
      · exact congrArg Host.Outcome.next (orHeld_some hf hh (scatterToken_left_held h hkind hport hstate hpos hmay hroom hleft hnone hfirst))
      · exact congrArg Host.Outcome.next (orHeld_some hf hh (scatterToken_right_held h hkind hport hstate hpos hmay hroom hright hnone hfirst))
    case lookup =>
      intro hkind hport hmay hroom
      refine ⟨fun hp => ?_, fun hp hx ha hslot => ?_, fun hp hbad hheld => ?_⟩
      · exact congrArg Host.Outcome.next (orHeld_some hf hh (lookupToken_poisoned h hkind hport hmay hroom hp))
      · exact congrArg Host.Outcome.next (orHeld_some hf hh (lookupToken_reads h hkind hport hmay hroom hp hx ha hslot))
      · exact congrArg Host.Outcome.next (orHeld_some hf hh (lookupToken_bad h hkind hport hmay hroom hp hbad hheld))
    case reorder =>
      intro hkind hport next
      refine ⟨fun hnext hcan => ?_, fun hnext hroom => ?_⟩
      · exact congrArg Host.Outcome.next (orSelf_some hf (reorderTake_next h hport hkind hnext hcan))
      · exact congrArg Host.Outcome.next (orSelf_some hf (reorderTake_held h hport hkind hnext hroom))
    case decode =>
      intro hkind hport
      refine ⟨fun hdiscard => ?_, fun hdiscard hstate hmay => ?_⟩
      · exact congrArg Host.Outcome.next (orHeld_some hf hh (decodeToken_discarded h hport hkind hdiscard))
      · exact congrArg Host.Outcome.next (orHeld_some hf hh (decodeToken_taken h hport hkind hdiscard hstate hmay))
    case sieve =>
      intro hkind hport
      refine ⟨fun hnew hroom => ?_, fun hold => ?_⟩
      · exact congrArg Host.Outcome.next (orSelf_some hf (sieveToken_new h hport hkind hnew hroom))
      · exact congrArg Host.Outcome.next (orSelf_some hf (sieveToken_known h hport hkind hold))
    case compare =>
      intro hkind hport left mine other hroom
      refine ⟨fun hother => ?_, fun y ys hother hmatch => ?_, fun y ys hother hmatch => ?_⟩
      · exact congrArg Host.Outcome.next (orSelf_some hf (compareTake_holds h hkind hport hroom hother))
      · exact congrArg Host.Outcome.next (orSelf_some hf (compareTake_matches h hkind hport hroom hother hmatch))
      · exact congrArg Host.Outcome.next (orSelf_some hf (compareTake_mismatches h hkind hport hroom hother hmatch))
  case items =>
    intro site k t s o masked m
    refine ⟨fun h => takeItem_masked h, fun h => (takeItem_fetches h).trans ?_⟩
    split
    next hp => rw [hp, fetchItem_poisoned]
    next hp =>
      rw [Bool.eq_false_iff.mpr hp]
      split
      next code ha => exact fetchItem_faults ha
      next a ha => exact (fetchItem_reads ha).trans (by simp only [Bool.and_eq_true]; rfl)
  case pairs =>
    intro site l r s o v
    exact ⟨fun hp => scatterPair_poisoned hp, fun hp code ha => scatterPair_faults hp ha, fun hp a ha => scatterPair_writes hp ha⟩
  case timeouts =>
    intro s x since cs o hf hkind hcounts hlimit hlate
    exact congrArg Host.Outcome.next (orSelf_some hf (compareExpires_late hkind hcounts hlimit hlate))
  case loops =>
    intro s x k site u o tag ix t go hf hregion hafter hkind hstate hpos hout hmay hvalid hroom
    have hgo (v : State) : go v = iterationSent site o v := by
      simp only [go, iterationSent, iterationToken, loopPayload_eq]
      rfl
    simp only [hgo]
    refine ⟨fun hdomain => ?_, fun i hdomain => ⟨fun hlive => ?_, fun hlive hcan hnext => ?_⟩⟩
    · exact congrArg Host.Outcome.next (orSelf_some hf (loopNext_free hregion hafter hkind hstate hpos hout hmay hvalid hroom hdomain))
    · exact congrArg Host.Outcome.next (orSelf_some hf (loopNext_live hregion hafter hkind hstate hpos hout hmay hvalid hroom hdomain hlive))
    · exact congrArg Host.Outcome.next (orSelf_some hf
        (loopNext_admits hregion hafter hkind hstate hpos hout hmay hvalid hroom hdomain hlive hcan hnext))
  case accesses =>
    intro site k elem tag seq va size kind op data cmp tok s hregion hpos hfits hdata v
    have hv : v = _ := operAccess_single hregion hpos hfits hdata
    obtain ⟨e, hcaboose, hact, htag, -, -, -, -, hnet, hmem⟩ := enterCaboose_spec
      (addAccess (partAccess s site kind op elem tag seq va size data cmp tok) s) k site 0 tag (s.region k).wave seq (.access s.nextAcc)
    rw [hv]
    exact ⟨_, e, rfl, rfl, rfl, rfl, rfl, rfl, rfl, rfl, rfl, rfl, hcaboose, hact, htag, hmem, hnet⟩

end Sys2Proof.Machine
end

section
/-! The issue selector (R223): what the entry it picks meets, what an issue leaves, and the statement on its order (O40). -/

namespace Sys2Proof.Machine

/-! ### The least element under a key -/

section
variable {α : Type} {key : α → Nat} {xs : List α} {y : α}

@[simp] theorem leastBy_eq_none : leastBy key xs = none ↔ xs = [] := by
  cases xs with
  | nil => simp [leastBy]
  | cons x xs =>
    simp only [leastBy, reduceCtorEq, iff_false]
    split
    · simp
    · split <;> simp

/-- The least element is in the list, and no key of the list is below its key. -/
theorem leastBy_spec (h : leastBy key xs = some y) : y ∈ xs ∧ ∀ z ∈ xs, key y ≤ key z := by
  induction xs generalizing y with
  | nil => simp [leastBy] at h
  | cons x xs ih =>
    rw [leastBy] at h
    split at h
    next hnone =>
      obtain rfl : x = y := Option.some.inj h
      simp [leastBy_eq_none.mp hnone]
    next w hw =>
      obtain ⟨hmem, hleast⟩ := ih hw
      split at h
      next hle =>
        obtain rfl : x = y := Option.some.inj h
        simpa using fun z hz => hle.trans (hleast z hz)
      next hlt =>
        obtain rfl : w = y := Option.some.inj h
        simpa [hmem] using ⟨(Nat.lt_of_not_le hlt).le, hleast⟩

end

/-! ### The entry picked -/

section
variable {s : State} {x : Nat} {full : List Nat} {p : Pe} {e : Ready}

/-- The entry of one context is ready, of that context and eligible, and no eligible entry of the context was matched
earlier. -/
theorem pickIn_some {c : Nat} (h : pickIn s x full p c = some e) :
    e ∈ p.ready ∧ e.ctx = c ∧ eligible s x full p e = true ∧
    ∀ e' ∈ p.ready, e'.ctx = c → eligible s x full p e' = true → e.matched ≤ e'.matched := by
  obtain ⟨hmem, hleast⟩ := leastBy_spec h
  simp only [List.mem_filter, Bool.and_eq_true, beq_iff_eq] at hmem hleast
  obtain ⟨hready, hctx, helig⟩ := hmem
  exact ⟨hready, hctx, helig, fun e' hready' hctx' helig' => hleast e' ⟨hready', hctx', helig'⟩⟩

/-- A context that yields no entry has no eligible one. -/
theorem pickIn_none {c : Nat} (h : pickIn s x full p c = none) :
    ∀ e' ∈ p.ready, e'.ctx = c → eligible s x full p e' = false := by
  simpa [pickIn, List.filter_eq_nil_iff] using h

/-- The search answers with the entry of one of the next `k` contexts, and those between have no eligible entry. -/
theorem pickFrom_some {k c : Nat} (h : pickFrom s x full p k c = some e) :
    ∃ n, 1 ≤ n ∧ n ≤ k ∧ pickIn s x full p ((c + n) % 8) = some e ∧
      ∀ m, 1 ≤ m → m < n → pickIn s x full p ((c + m) % 8) = none := by
  induction k generalizing c with
  | zero => simp [pickFrom] at h
  | succ k ih =>
    rw [pickFrom] at h
    split at h
    next w hw =>
      obtain rfl : w = e := Option.some.inj h
      exact ⟨1, le_rfl, by omega, hw, fun m hlo hhi => by omega⟩
    next hnone =>
      obtain ⟨n, hpos, hle, hpick, hskip⟩ := ih h
      have hshift (m : Nat) : ((c + 1) % 8 + m) % 8 = (c + (m + 1)) % 8 := by omega
      refine ⟨n + 1, by omega, by omega, hshift n ▸ hpick, fun m hlo hhi => ?_⟩
      obtain ⟨j, rfl⟩ := Nat.exists_eq_add_of_le' hlo
      cases j with
      | zero => exact hnone
      | succ i => exact hshift (i + 1) ▸ hskip (i + 1) (by omega) (by omega)

/-- A PE issues only in a machine that runs, once its next cycle of issue has come. -/
theorem State.pick_some (h : s.pick x full = some e) :
    (s.pe x).nextIssue ≤ s.now (Site.ofKey x).die ∧ s.fatal = false ∧
    pickFrom s x full (s.pe x) 8 (s.pe x).lastCtx = some e := by
  simp only [State.pick] at h
  split at h
  · cases h
  next hopen =>
    simp only [Bool.or_eq_true, decide_eq_true_eq, not_or, Bool.not_eq_true, not_lt] at hopen
    obtain ⟨⟨-, hfatal⟩, hnow⟩ := hopen
    exact ⟨hnow, hfatal, h⟩

/-- Until its next cycle of issue a PE issues nothing. -/
theorem State.pick_early (h : s.now (Site.ofKey x).die < (s.pe x).nextIssue) : s.pick x full = none := by
  simp [State.pick, h]

end

/-! ### What an issue leaves as it was -/

section
variable (s : State) (x : Nat) (e : Ready)

@[simp] theorem State.now_issue (d : Nat) : (s.issue x e).now d = s.now d := by
  unfold State.issue
  split <;> rfl

@[simp] theorem State.mem_issue : (s.issue x e).mem = s.mem := by
  unfold State.issue
  split <;> rfl

theorem State.pe_issue_ne {k : Nat} (h : k ≠ x) : (s.issue x e).pe k = s.pe k := by
  unfold State.issue
  split <;> exact State.pe_onPe_ne s (fun p => p.afterIssue e (s.now (Site.ofKey x).die + 1)) h

/-- After an issue the PE issues no other entry in the same cycle (R223). -/
theorem State.pick_issue (full : List Nat) : (s.issue x e).pick x full = none :=
  State.pick_early (by simp [pe_issue, Pe.afterIssue])

end

/-- Settles O40: the search stops at the first context with an eligible entry (`pickFrom_some`), of which it takes the earliest
matched (`pickIn_some`), and an issue puts the PE's next one into a later cycle (`State.pick_issue`). -/
theorem selectorOrder : Obligations.SelectorOrder := by
  refine ⟨?picked, ?issued⟩
  case picked =>
    intro s x full e h
    obtain ⟨hnow, hfatal, hfrom⟩ := State.pick_some h
    obtain ⟨n, hpos, hle, hpick, hskip⟩ := pickFrom_some hfrom
    obtain ⟨hready, hctx, helig, hfirst⟩ := pickIn_some hpick
    exact ⟨hready, helig, hnow, hfatal, fun e' hready' hctx' => hfirst e' hready' (hctx'.trans hctx),
      n, hpos, hle, hctx, fun m hlo hhi => pickIn_none (hskip m hlo hhi)⟩
  case issued =>
    intro s x full e
    have hpe := pe_issue s x e
    exact ⟨congrArg Pe.nextIssue hpe, congrArg Pe.lastCtx hpe, congrArg Pe.ready hpe, rfl, State.mem_issue s x e,
      fun k => State.pe_issue_ne s x e, State.pick_issue s x e full⟩

end Sys2Proof.Machine
end


section
/-! The 128 bytes of a drawbar beat and its CRC (O60). -/

namespace Sys2Proof.Machine

theorem crcBits_lt (n : Nat) {c : Nat} (h : c < 2 ^ 32) : crcBits n c < 2 ^ 32 := by
  induction n generalizing c with
  | zero => exact h
  | succ n ih =>
    refine ih ?_
    have hhalf : c / 2 < 2 ^ 32 := by omega
    split
    · exact Nat.xor_lt_two_pow hhalf (by decide)
    · exact hhalf

theorem crc32c_lt (bs : List Byte) : crc32c bs < 2 ^ 32 := by
  have hfold (c : Nat) (h : c < 2 ^ 32) : bs.foldl (fun c b => crcBits 8 (Nat.xor c b.toNat)) c < 2 ^ 32 := by
    induction bs generalizing c with
    | nil => exact h
    | cons b bs ih => exact ih _ (crcBits_lt 8 (Nat.xor_lt_two_pow h (by omega)))
  exact Nat.xor_lt_two_pow (hfold _ (by decide)) (by decide)

@[simp] theorem LinkSlot.bytes_length (x : LinkSlot) : (LinkSlot.bytes x).length = 32 := by
  simp [LinkSlot.bytes]

/-- At most three slots, filled up with zeros, are the first 96 bytes. -/
theorem Beat.body_length (b : Beat) : (Beat.body b).length = 124 := by
  have hslots (xs : List LinkSlot) : (xs.map LinkSlot.bytes).flatten.length = 32 * xs.length := by
    simp [List.length_flatten, Function.comp_def, Nat.mul_comm]
  have hthree : (b.slots.take 3).length ≤ 3 := by simp
  have hack : (if b.kind = .streamAck then leBytes 4 b.ackSite.toNat ++ leBytes 4 b.ackSeq else List.replicate 8 0).length = 8 := by
    split <;> simp
  simp only [Beat.body, List.length_append, hslots, hack, List.length_map, List.length_replicate, leBytes_length]
  omega

theorem Beat.bytes_length (b : Beat) : (Beat.bytes b).length = 128 := by
  simp [Beat.bytes, Beat.body_length]

/-- What is sent passes the check of its CRC. -/
theorem Beat.read_bytes_good (b : Beat) : (Beat.read (Beat.bytes b)).good = true := by
  have hbody : (Beat.bytes b).take 124 = Beat.body b := List.take_left' (Beat.body_length b)
  have hcrc : ((Beat.bytes b).drop 124).take 4 = leBytes 4 (crc32c (Beat.body b)) := by
    rw [Beat.bytes, List.drop_left' (Beat.body_length b), List.take_of_length_le (by simp)]
  have hvalue : leNat (leBytes 4 (crc32c (Beat.body b))) = crc32c (Beat.body b) :=
    (leNat_leBytes 4 _).trans (Nat.mod_eq_of_lt (crc32c_lt _))
  simp only [Beat.read, Beat.bytes_length, hbody, hcrc, hvalue, beq_self_eq_true, Bool.and_self]

end Sys2Proof.Machine
end


section
/-! Drawbar ports (O60): LSTAT, the beats that a port sends, and what it makes of a beat, of silence, of training and of its loss. -/

namespace Sys2Proof.Machine

/-! ### LSTAT (R391) -/

theorem LinkPort.state_mark (p : LinkPort) {state : Nat} (reason : Nat) (h : state < 8) :
    LinkPort.state (LinkPort.mark state reason p) = state := by
  simp only [LinkPort.state, LinkPort.mark, setField, field_eq, BitVec.toNat_ofNat]
  omega

theorem LinkPort.reason_mark (p : LinkPort) (state : Nat) {reason : Nat} (h : reason < 16) :
    field (LinkPort.mark state reason p).lstat 7 4 = reason := by
  simp only [LinkPort.mark, setField, field_eq, BitVec.toNat_ofNat]
  omega

theorem LinkPort.state_lose (p : LinkPort) (reason : Nat) : LinkPort.state (LinkPort.lose reason p) = 3 :=
  LinkPort.state_mark p reason (by decide)

theorem LinkPort.reason_lose (p : LinkPort) {reason : Nat} (h : reason < 16) : field (LinkPort.lose reason p).lstat 7 4 = reason :=
  LinkPort.reason_mark p 3 h

@[simp] theorem LinkPort.state_withControl (p : LinkPort) (w : Word) : LinkPort.state { p with lctl := w } = p.state := rfl

@[simp] theorem LinkPort.state_withSilence (p : LinkPort) (n : Nat) : LinkPort.state { p with silence := n } = p.state := rfl

@[simp] theorem LinkPort.state_train (module port now : Nat) (again : Bool) (p : LinkPort) :
    LinkPort.state (LinkPort.train module port now again p) = 1 :=
  LinkPort.state_mark p 0 (by decide)

/-- A training that ends without the link up (R389, R391): a retraining loses it, a first one leaves it down. -/
theorem LinkPort.failed_training (q : LinkPort) {reason : Nat} (h : reason < 16) :
    LinkPort.state (if q.again then LinkPort.lose reason q else LinkPort.mark 0 reason q) = (if q.again = true then 3 else 0) ∧
    field (if q.again then LinkPort.lose reason q else LinkPort.mark 0 reason q).lstat 7 4 = reason := by
  split
  · exact ⟨LinkPort.state_lose q reason, LinkPort.reason_lose q h⟩
  · exact ⟨LinkPort.state_mark q reason (by decide), LinkPort.reason_mark q 0 h⟩

/-- A port that has come up shows its state, the far module and port, and the flight time. -/
theorem LinkPort.up_lstat (minor flight : Nat) (q : LinkPort) {module port : Nat} (hm : module < 256) (hp : port < 128) :
    LinkPort.state (LinkPort.up minor module port flight q) = 2 ∧
    field (LinkPort.up minor module port flight q).lstat 15 8 = module ∧
    field (LinkPort.up minor module port flight q).lstat 22 16 = port ∧
    field (LinkPort.up minor module port flight q).lstat 47 32 = flight % 65536 := by
  simp only [LinkPort.state, LinkPort.up, field_eq, BitVec.toNat_ofNat]
  omega

/-! ### What a port sends (R388, R389) -/

/-- Port `q` is port `p` after the beats `ys` have left: they are on the wire and wait for their acknowledgement, and besides only
the sequence to send and what waits to be sent may differ. -/
structure LinkPort.Sends (p : LinkPort) (ys : List Beat) (q : LinkPort) : Prop where
  unacked : q.unacked = p.unacked ++ ys
  wire : q.wire = p.wire ++ ys.map Beat.bytes
  rest : { q with sendSeq := p.sendSeq, unacked := p.unacked, wire := p.wire, ask := p.ask, outQ := p.outQ } = p

namespace LinkPort.Sends

variable {p q r : LinkPort} {xs ys : List Beat}

theorem refl (p : LinkPort) : Sends p [] p := ⟨by simp, by simp, rfl⟩

theorem trans (h : Sends p xs q) (h' : Sends q ys r) : Sends p (xs ++ ys) r where
  unacked := by rw [h'.unacked, h.unacked, List.append_assoc]
  wire := by rw [h'.wire, h.wire, List.map_append, List.append_assoc]
  rest := by
    have hrest := h.rest
    rw [← h'.rest] at hrest
    exact hrest

theorem lstat (h : Sends p ys q) : q.lstat = p.lstat := (congrArg LinkPort.lstat h.rest :)
theorem recvSeq (h : Sends p ys q) : q.recvSeq = p.recvSeq := (congrArg LinkPort.recvSeq h.rest :)
theorem fails (h : Sends p ys q) : q.fails = p.fails := (congrArg LinkPort.fails h.rest :)
theorem silence (h : Sends p ys q) : q.silence = p.silence := (congrArg LinkPort.silence h.rest :)
theorem resend (h : Sends p ys q) : q.resend = p.resend := (congrArg LinkPort.resend h.rest :)
theorem inQ (h : Sends p ys q) : q.inQ = p.inQ := (congrArg LinkPort.inQ h.rest :)
theorem acksIn (h : Sends p ys q) : q.acksIn = p.acksIn := (congrArg LinkPort.acksIn h.rest :)

theorem state (h : Sends p ys q) : q.state = p.state := congrArg (fun w => field w 2 0) h.lstat

end LinkPort.Sends

section
variable {module : Nat} {p : LinkPort}

/-- A beat as it leaves a port. -/
def LinkPort.beat (module : Nat) (kind : BeatKind) (slots : List LinkSlot) (ackSite : BitVec 32) (ackSeq : Nat) (p : LinkPort) : Beat :=
  ⟨true, kind, slots, p.sendSeq, (p.recvSeq + (2 ^ 32 - 1)) % 2 ^ 32, module, ackSite, ackSeq⟩

theorem LinkPort.send_sends (kind : BeatKind) (slots : List LinkSlot) (ackSite : BitVec 32) (ackSeq : Nat) :
    Sends p [beat module kind slots ackSite ackSeq p] (send module kind slots ackSite ackSeq p) :=
  ⟨rfl, rfl, rfl⟩

theorem LinkPort.maySend_iff : p.maySend = true ↔ p.state = 2 ∧ p.unacked.length < 512 := by
  simp [LinkPort.maySend]

theorem LinkPort.drain_blocked (h : p.maySend = false) (n : Nat) : drain module n p = p := by
  cases n with
  | zero => rfl
  | succ n => simp [drain, h]

/-- A retry request that is to go back leaves before anything else. -/
theorem LinkPort.drain_ask (h : p.maySend = true) (hask : p.ask = true) (n : Nat) :
    drain module (n + 1) p = drain module n (send module .retry [] 0 0 { p with ask := false }) := by
  simp [drain, h, hask]

theorem LinkPort.drain_slots (h : p.maySend = true) (hask : p.ask = false) (hq : p.outQ ≠ []) (n : Nat) :
    drain module (n + 1) p = drain module n { send module .data (p.outQ.take 3) 0 0 p with outQ := p.outQ.drop 3 } := by
  simp [drain, h, hask, hq]

theorem LinkPort.drain_quiet (hask : p.ask = false) (hq : p.outQ = []) (n : Nat) : drain module n p = p := by
  cases n with
  | zero => rfl
  | succ n => simp [drain, hask, hq]

/-- What waits leaves as beats; a port that sends none is as it was. -/
theorem LinkPort.drain_sends (n : Nat) : ∃ ys, Sends p ys (drain module n p) ∧ (ys = [] → drain module n p = p) := by
  induction n generalizing p with
  | zero => exact ⟨[], .refl p, fun _ => rfl⟩
  | succ n ih =>
    have hsame (h : drain module (n + 1) p = p) : ∃ ys, Sends p ys (drain module (n + 1) p) ∧ (ys = [] → drain module (n + 1) p = p) :=
      ⟨[], h.symm ▸ .refl p, fun _ => h⟩
    cases hmay : p.maySend with
    | false => exact hsame (drain_blocked hmay _)
    | true =>
      cases hask : p.ask with
      | true =>
        obtain ⟨ys, hsent, -⟩ := ih (p := send module .retry [] 0 0 { p with ask := false })
        have hfirst : Sends p _ (send module .retry [] 0 0 { p with ask := false }) := ⟨rfl, rfl, rfl⟩
        exact ⟨_, drain_ask hmay hask n ▸ hfirst.trans hsent, by simp⟩
      | false =>
        by_cases hq : p.outQ = []
        · exact hsame (drain_quiet hask hq _)
        · obtain ⟨ys, hsent, -⟩ := ih (p := { send module .data (p.outQ.take 3) 0 0 p with outQ := p.outQ.drop 3 })
          have hfirst : Sends p _ { send module .data (p.outQ.take 3) 0 0 p with outQ := p.outQ.drop 3 } := ⟨rfl, rfl, rfl⟩
          exact ⟨_, drain_slots hmay hask hq n ▸ hfirst.trans hsent, by simp⟩

end

section
variable (p : Nat) (s : State)

theorem link_drainLink : (drainLink p s).link p =
    LinkPort.drain (field s.modRegs.modid 7 0) ((s.link p).outQ.length + 2) (s.link p) :=
  State.link_onLink_self s p _

theorem drainLink_rest : { drainLink p s with links := s.links } = s := rfl

theorem answerLink_rest : { answerLink p s with links := s.links } = s := by
  unfold answerLink
  simp only []
  split <;> rfl

/-- An answering port sends at least one beat where it may: what waits, or an idle beat. -/
theorem answerLink_sends : ∃ ys, LinkPort.Sends (s.link p) ys ((answerLink p s).link p) ∧
    (ys = [] → (s.link p).maySend = false) := by
  obtain ⟨ys, hsent, hnone⟩ := LinkPort.drain_sends (module := field s.modRegs.modid 7 0) (p := s.link p) ((s.link p).outQ.length + 2)
  rw [← link_drainLink p s] at hsent hnone
  unfold answerLink
  simp only [Bool.and_eq_true, decide_eq_true_eq]
  split
  next =>
    rw [State.link_onLink_self]
    exact ⟨_, hsent.trans (LinkPort.send_sends .idle [] 0 0), by simp⟩
  next hno =>
    refine ⟨ys, hsent, fun he => Bool.eq_false_iff.mpr fun hmay => hno ?_⟩
    rw [hnone he]
    exact ⟨rfl, hmay⟩

end

/-! ### Beats that arrive (R389) -/

/-- A port on which a beat has just arrived. -/
def heardPort (s : State) (p : Nat) : LinkPort := { s.link p with silence := s.now 24 }

section
variable {s : State} {p : Nat} {bytes : List Byte}
  (hf : s.fatal = false) (hp : p < 96) (hup : LinkPort.state (s.link p) = 2)
include hf hp hup

theorem receiveBeat_up : receiveBeat p bytes s =
    (let s1 := s.onLink p (fun q => { q with silence := s.now 24 })
     if (Beat.read bytes).good && (Beat.read bytes).seq == (s.link p).recvSeq then
       some (answerLink p (s1.onLink p (LinkPort.accept (Beat.read bytes))))
     else some (drainLink p (s1.onLink p (LinkPort.reject (Beat.read bytes).seq)))) := by
  have hopen : (s.fatal || 96 ≤ p || (s.link p).state != 2) = false := by simp [hf, hp, hup]
  simp only [receiveBeat, hopen, Bool.false_eq_true, if_false]

/-- A good beat in its turn is accepted, and its port answers. -/
theorem receiveBeat_accepts (hgood : (Beat.read bytes).good = true) (hseq : (Beat.read bytes).seq = (s.link p).recvSeq) :
    ∃ u ys, receiveBeat p bytes s = some u ∧ LinkPort.Sends (LinkPort.accept (Beat.read bytes) (heardPort s p)) ys (u.link p) ∧
      (ys = [] → (LinkPort.accept (Beat.read bytes) (heardPort s p)).maySend = false) ∧ { u with links := s.links } = s := by
  obtain ⟨ys, hsent, hnone⟩ := answerLink_sends p
    ((s.onLink p (fun q => { q with silence := s.now 24 })).onLink p (LinkPort.accept (Beat.read bytes)))
  simp only [State.link_onLink_self] at hsent hnone
  refine ⟨_, ys, (receiveBeat_up hf hp hup).trans (if_pos (by simp [hgood, hseq])), hsent, hnone, ?_⟩
  exact congrArg (fun u : State => { u with links := s.links }) (answerLink_rest p _)

/-- Any other beat is a failure, and its port sends what it can. -/
theorem receiveBeat_rejects (hbad : (Beat.read bytes).good = false ∨ (Beat.read bytes).seq ≠ (s.link p).recvSeq) :
    ∃ u, receiveBeat p bytes s = some u ∧ { u with links := s.links } = s ∧
      u.link p = LinkPort.drain (field s.modRegs.modid 7 0) ((LinkPort.reject (Beat.read bytes).seq (heardPort s p)).outQ.length + 2)
        (LinkPort.reject (Beat.read bytes).seq (heardPort s p)) := by
  have hfails : ((Beat.read bytes).good && (Beat.read bytes).seq == (s.link p).recvSeq) ≠ true := by
    rcases hbad with hbad | hbad <;> simp [hbad]
  refine ⟨_, (receiveBeat_up hf hp hup).trans (if_neg hfails),
    (congrArg (fun u : State => { u with links := s.links }) (drainLink_rest p _) :), ?_⟩
  rw [link_drainLink]
  simp only [State.link_onLink_self, State.onLink_modRegs]
  rfl

end

section
variable {q : LinkPort} {seq : Nat}

/-- A port with one more failure of a sequence counted. -/
def LinkPort.failed (seq : Nat) (q : LinkPort) : LinkPort := { q with fails := Map.put q.fails seq (Map.get q.fails 0 seq + 1) }

theorem LinkPort.reject_few (h : Map.get q.fails 0 seq < 7) : reject seq q = { failed seq q with ask := true } :=
  if_neg (by omega)

/-- The eighth failure of one sequence loses the link. -/
theorem LinkPort.reject_eighth (h : 7 ≤ Map.get q.fails 0 seq) : reject seq q = lose 3 (failed seq q) :=
  if_pos (by omega)

theorem LinkPort.reject_fails (seq : Nat) (q : LinkPort) : Map.get (reject seq q).fails 0 seq = Map.get q.fails 0 seq + 1 := by
  have hfails : (reject seq q).fails = Map.put q.fails seq (Map.get q.fails 0 seq + 1) := by
    simp only [reject]
    split <;> rfl
  rw [hfails, Map.get_put_self]

theorem LinkPort.reject_rest (seq : Nat) (q : LinkPort) :
    { reject seq q with fails := q.fails, lstat := q.lstat, ask := q.ask, told := q.told } = q := by
  simp only [reject]
  split <;> rfl

/-- The retry request of a failure is the first beat that leaves. -/
theorem LinkPort.drain_ask_wire {module n : Nat} {p : LinkPort} (hmay : p.maySend = true) (hask : p.ask = true) :
    ∃ y ys, y.kind = .retry ∧ (drain module (n + 1) p).wire = p.wire ++ Beat.bytes y :: ys := by
  obtain ⟨ys, hsent, -⟩ := drain_sends (module := module) (p := send module .retry [] 0 0 { p with ask := false }) n
  refine ⟨beat module .retry [] 0 0 p, ys.map Beat.bytes, rfl, ?_⟩
  rw [drain_ask hmay hask, hsent.wire]
  exact List.append_assoc _ _ _

/-- A failure that does not lose the link: the retry request leaves at once, or waits for room. -/
theorem LinkPort.drain_reject_few (module n : Nat) (hup : q.state = 2) (h : Map.get q.fails 0 seq < 7) :
    (drain module (n + 1) (reject seq q)).state = 2 ∧
    (q.unacked.length < 512 → ∃ y ys, y.kind = .retry ∧ (drain module (n + 1) (reject seq q)).wire = q.wire ++ Beat.bytes y :: ys) ∧
    (512 ≤ q.unacked.length → (drain module (n + 1) (reject seq q)).ask = true ∧ (drain module (n + 1) (reject seq q)).wire = q.wire) := by
  rw [reject_few h]
  refine ⟨?_, fun hroom => drain_ask_wire (maySend_iff.mpr ⟨hup, hroom⟩) rfl, fun hfull => ?_⟩
  · obtain ⟨ys, hsent, -⟩ := drain_sends (module := module) (p := { failed seq q with ask := true }) (n + 1)
    exact hsent.state.trans hup
  · have hblocked : maySend { failed seq q with ask := true } = false :=
      Bool.eq_false_iff.mpr fun hmay => absurd (maySend_iff.mp hmay).2 (Nat.not_lt.mpr hfull)
    rw [drain_blocked hblocked]
    exact ⟨rfl, rfl⟩

/-- A failure that loses the link sends nothing. -/
theorem LinkPort.drain_reject_eighth (module n : Nat) (h : 7 ≤ Map.get q.fails 0 seq) :
    (drain module n (reject seq q)).state = 3 ∧ field (drain module n (reject seq q)).lstat 7 4 = 3 := by
  rw [reject_eighth h]
  have hblocked : maySend (lose 3 (failed seq q)) = false :=
    Bool.eq_false_iff.mpr fun hmay => absurd ((state_lose _ 3).symm.trans (maySend_iff.mp hmay).1) (by decide)
  rw [drain_blocked hblocked]
  exact ⟨state_lose _ 3, reason_lose _ (by decide)⟩

end

/-! ### Retries, silence and training (R389, R391) -/

section
variable {s : State} {p : Nat}

theorem resendBeats_asked (hf : s.fatal = false) (hup : LinkPort.state (s.link p) = 2) (hask : (s.link p).resend = true) :
    resendBeats p s = some (s.onLink p (fun q => { q with
      resend := false, wire := q.wire ++ q.unacked.map Beat.bytes, lrtry := BitVec.ofNat 64 ((field q.lrtry 31 0 + 1) % 2 ^ 32) })) := by
  simp only [resendBeats, hf, hup, hask, bne_self_eq_false, Bool.not_true, Bool.or_self, Bool.false_eq_true, if_false]

theorem linkSilent_up (hf : s.fatal = false) (hup : LinkPort.state (s.link p) = 2) (hlate : (s.link p).silence + 4096 ≤ s.now 24) :
    linkSilent p s = some (s.onLink p (LinkPort.lose 4)) := by
  simp [linkSilent, hf, hup, Nat.not_lt.mpr hlate]

theorem linkSilent_training (hf : s.fatal = false) (htrains : LinkPort.state (s.link p) = 1)
    (hlate : (s.link p).silence + 4096 ≤ s.now 24) :
    linkSilent p s = some (s.onLink p (fun q => if q.again then LinkPort.lose 2 q else LinkPort.mark 0 2 q)) := by
  simp [linkSilent, hf, htrains, Nat.not_lt.mpr hlate]

theorem trainLink_up (minor module port flight : Nat) (hf : s.fatal = false) (hp : p < 96) (htrains : LinkPort.state (s.link p) = 1) :
    trainLink p 1 minor module port flight s =
      some (answerLink p (s.onLink p (fun q => { LinkPort.up minor module port flight q with silence := s.now 24 }))) := by
  simp [trainLink, hf, hp, htrains]

theorem trainLink_fails {major : Nat} (minor module port flight : Nat) (hf : s.fatal = false) (hp : p < 96)
    (htrains : LinkPort.state (s.link p) = 1) (hmajor : major ≠ 1) :
    trainLink p major minor module port flight s =
      some (s.onLink p (fun q => if q.again then LinkPort.lose 1 q else LinkPort.mark 0 1 q)) := by
  simp [trainLink, hf, hp, htrains, hmajor]

theorem retrainLink_enabled (hp : p < 96) (hon : bit (s.link p).lctl 0 = true) : retrainLink p s =
    s.onLink p (fun q => LinkPort.train (field s.modRegs.modid 7 0) p (s.now 24) (q.state != 0) q) :=
  if_neg (by simp [hp, hon])

theorem enableLink_on (hp : p < 96) (hoff : bit (s.link p).lctl 0 = false) : enableLink p true s =
    s.onLink p (fun q => { LinkPort.train (field s.modRegs.modid 7 0) p (s.now 24) false q with lctl := 1 }) := by
  simp [enableLink, hp, hoff]

theorem enableLink_off (hp : p < 96) (hon : bit (s.link p).lctl 0 = true) : enableLink p false s =
    s.onLink p (fun q => { LinkPort.mark 0 0 q with lctl := 0 }) := by
  simp [enableLink, hp, hon]

end

/-! ### A link that is lost (R390) -/

section
variable (s : State)

/-- A report, put into the queue or held, touches the queue, the host's memory and the vectors alone. -/
theorem State.report_rest (kind : Nat) (r : ErrRec) (payload : Word) :
    { s.report kind r payload with
      hostMem := s.hostMem, modRegs := s.modRegs, reports := s.reports, msixPending := s.msixPending, msixHeld := s.msixHeld } = s := by
  simp only [State.report, State.putReport]
  split
  · split <;> rfl
  · rfl

theorem State.report_regions (kind : Nat) (r : ErrRec) (payload : Word) : (s.report kind r payload).regions = s.regions :=
  (congrArg State.regions (s.report_rest kind r payload) :)

theorem State.report_mvec (kind : Nat) (r : ErrRec) (payload : Word) : (s.report kind r payload).modRegs.mvec = s.modRegs.mvec := by
  simp only [State.report, State.putReport]
  split
  · split <;> rfl
  · rfl

theorem State.deviceReport_links (kind : Nat) (g : ErrRec → ErrRec) (w : Option Word) : (s.deviceReport kind g w).links = s.links :=
  (congrArg State.links (State.report_rest _ _ _ _) :)

theorem State.deviceReport_opers (kind : Nat) (g : ErrRec → ErrRec) (w : Option Word) : (s.deviceReport kind g w).opers = s.opers :=
  (congrArg State.opers (State.report_rest _ _ _ _) :)

theorem State.deviceReport_mvec (kind : Nat) (g : ErrRec → ErrRec) (w : Option Word) :
    (s.deviceReport kind g w).modRegs.mvec = s.modRegs.mvec :=
  State.report_mvec _ _ _ _

/-- A port whose loss has been acted on: nothing waits on it any more. -/
def LinkPort.tell (q : LinkPort) : LinkPort := { q with told := true, unacked := [], resend := false, ask := false }

variable {s}

/-- The loss of a link that no PORT streams over is recorded, with its vector where the queue takes the record and was empty
(R385). -/
theorem loseLink_streamless {p : Nat} (hf : s.fatal = false) (hlost : LinkPort.state (s.link p) = 3) (htold : (s.link p).told = false)
    (hnone : ∀ ko ∈ s.opers, ko.2.kind = 11 → Oper.portClass ko.2 = 3 → streamLink ko.2 ≠ p) :
    loseLink p s = some (if s.reportRoom && s.reports.isEmpty && ringUsed s.modRegs.rqFull s.modRegs.rqtail s.modRegs.rqhead = 0 then
      ((s.onLink p LinkPort.tell).deviceReport 0xF3 id none).raiseVector (field s.modRegs.mvec 15 8)
      else (s.onLink p LinkPort.tell).deviceReport 0xF3 id none) := by
  have hopen : (s.fatal || (s.link p).state != 3 || (s.link p).told) = false := by simp [hf, hlost, htold]
  have hstreams : s.opers.filter (fun ko => ko.2.kind == 11 && ko.2.portClass == 3 && streamLink ko.2 == p) = [] := by
    simpa [List.filter_eq_nil_iff, and_imp] using hnone
  simp only [loseLink, hopen, Bool.false_eq_true, if_false, State.deviceReport_mvec, State.onLink_modRegs]
  rw [apply_ite State.opers, State.raiseVector_opers, ite_self, State.deviceReport_opers, State.onLink_opers, hstreams]
  rfl

/-- After it nothing waits on the port, no operator has changed, and the vector is on its way. -/
theorem loseLink_records {p : Nat} (hf : s.fatal = false) (hlost : LinkPort.state (s.link p) = 3) (htold : (s.link p).told = false)
    (hnone : ∀ ko ∈ s.opers, ko.2.kind = 11 → Oper.portClass ko.2 = 3 → streamLink ko.2 ≠ p) :
    ∃ u, loseLink p s = some u ∧ u.link p = LinkPort.tell (s.link p) ∧ u.opers = s.opers ∧
      (s.reportRoom = true → s.reports = [] → ringUsed s.modRegs.rqFull s.modRegs.rqtail s.modRegs.rqhead = 0 →
        field s.modRegs.mvec 15 8 ∈ u.msixPending) := by
  refine ⟨_, loseLink_streamless hf hlost htold hnone, ?_, ?_, fun hroom hempty hring => ?_⟩
  · rw [State.link, apply_ite State.links, State.raiseVector_links, ite_self, State.deviceReport_links]
    exact State.link_onLink_self s p LinkPort.tell
  · rw [apply_ite State.opers, State.raiseVector_opers, ite_self, State.deviceReport_opers, State.onLink_opers]
  · rw [if_pos (by simp [hroom, hempty, hring]), State.raiseVector_msixPending]
    exact List.mem_append_right _ (List.mem_singleton_self _)

end

end Sys2Proof.Machine
end


section
/-! Streams that PORTs send and receive over drawbar links, and the statement on drawbar links (O60). -/

namespace Sys2Proof.Machine

/-! ### Streams to another module (R216, R390) -/

section
variable {s : State}

theorem wave_onRegion {k : Nat} {g : Region → Region} (j : Nat) (hg : ∀ r, (g r).wave = r.wave := by intro; rfl) :
    ((s.onRegion k g).region j).wave = (s.region j).wave := by
  by_cases hj : j = k
  · subst hj
    rw [State.region_onRegion_self, hg]
  · rw [State.region_onRegion_ne s g hj]

theorem enterCaboose_wave (k site st tag wave seq : Nat) (a : Act) (j : Nat) :
    ((enterCaboose k site st tag wave seq a s).region j).wave = (s.region j).wave :=
  wave_onRegion (s := s.onPe site _) j

theorem State.raiseError_wave (region : Nat) (r : ErrRec) (saved : Option Token) (hasDst : Bool) (j : Nat) :
    ((s.raiseError region r saved hasDst).region j).wave = (s.region j).wave := by
  obtain ⟨-, he⟩ | ⟨h, -, -, he⟩ | ⟨h, e, -, -, -, he⟩ | ⟨h, -, -, -, he⟩ := State.raiseError_cases s region r saved hasDst
  · rw [he, State.region, State.report_regions, State.region]
  · rw [he, State.region_post]
  · rw [he, State.region_post]
    exact wave_onRegion j
  · rw [he]
    exact wave_onRegion j

theorem siteError_wave (site tag : Nat) (r : ErrRec) (saved : Option Token) (j : Nat) :
    ((siteError site tag r saved s).region j).wave = (s.region j).wave := by
  unfold siteError
  simp only []
  split
  · exact State.raiseError_wave _ _ _ _ j
  · simp only [sendOne]
    split
    · exact State.raiseError_wave _ _ _ _ j
    · exact enterCaboose_wave _ _ _ _ _ _ _ j

theorem State.sinkFirst_wave (region site st ctx tag j : Nat) :
    ((s.sinkFirst region site st ctx tag).2.region j).wave = (s.region j).wave := by
  unfold State.sinkFirst
  simp only []
  split
  · rfl
  · exact wave_onRegion j

/-- A sink's report leaves the waves as they are. -/
theorem sinkReport_wave (site : Nat) (t : Token) (j : Nat) : ((sinkReport site t s).region j).wave = (s.region j).wave := by
  unfold sinkReport
  simp only []
  split
  · rfl
  split
  · exact (siteError_wave _ _ _ _ j).trans (State.sinkFirst_wave _ _ _ _ _ j)
  · exact State.sinkFirst_wave _ _ _ _ _ j

theorem dropFlight_regions (n : Nat) : (dropFlight s n).regions = s.regions := by
  by_cases hn : n < s.net.length
  · obtain ⟨-, hrest, -⟩ := dropFlight_rest s n hn
    exact (congrArg State.regions hrest :)
  · simp [dropFlight, List.getElem?_eq_none (Nat.not_lt.mp hn)]

end

section
variable {s : State} {n : Nat} {fl : Flight} {t : Token} (h : Takes s n fl t) (hport : t.port = .r) (hkind : (s.oper fl.dst).kind = 11)
  (hclass : Oper.portClass (s.oper fl.dst) = 3) (hroom : (s.oper fl.dst).unacked.length + forwardsHeld s fl.dst < 1024)
include h hport hkind hclass hroom

/-- A PORT of no region sends the token at once. -/
theorem forwardToken_sends (hregion : (s.oper fl.dst).region = 0) :
    forwardToken s n = some (sendNumbered fl.dst t (sinkReport fl.dst t (takeFlight n fl s))) := by
  simp [forwardToken, h.data hkind hport, hclass, Nat.not_le.mpr hroom, hregion]

/-- A PORT of a region sends it through the caboose (R156, R191). -/
theorem forwardToken_enters {k : Nat} (hregion : (s.oper fl.dst).region = k + 1) (hcaboose : cabooseRoom s (some k) 1 = true) :
    forwardToken s n = some (enterCaboose k fl.dst 0 t.tag.toNat ((sinkReport fl.dst t (takeFlight n fl s)).region k).wave t.seq.toNat
      (.forward fl.dst t) (sinkReport fl.dst t (takeFlight n fl s))) := by
  have hwave : ((sinkReport fl.dst t (takeFlight n fl s)).region k).wave = (s.region k).wave := by
    rw [sinkReport_wave, h.take, State.region, dropFlight_regions, State.region]
  simp [forwardToken, h.data hkind hport, hclass, Nat.not_le.mpr hroom, hregion, hcaboose, hwave]

end

/-- A token that a PORT sends is numbered, and kept until it is acknowledged. -/
theorem sendNumbered_oper (site : Nat) (t : Token) (s : State) : (sendNumbered site t s).oper site =
    { s.oper site with
      streamSeq := ((s.oper site).streamSeq + 1) % 2 ^ 32
      unacked := (s.oper site).unacked ++ [linkSlot site (s.oper site) ((s.oper site).streamSeq, t)] } :=
  State.oper_onOper_self s site (fun o => { o with
    streamSeq := (o.streamSeq + 1) % 2 ^ 32
    unacked := o.unacked ++ [linkSlot site (s.oper site) ((s.oper site).streamSeq, t)] })

theorem sendNumbered_waits {site : Nat} {s : State} (t : Token)
    (h : LinkPort.maySend (s.link (streamLink (s.oper site))) = false) :
    ((sendNumbered site t s).link (streamLink (s.oper site))).outQ =
      (s.link (streamLink (s.oper site))).outQ ++ [linkSlot site (s.oper site) ((s.oper site).streamSeq, t)] := by
  unfold sendNumbered
  rw [link_drainLink, LinkPort.drain_blocked (by rw [State.link_onLink_self]; exact h), State.link_onLink_self]
  rfl

/-! ### Streams from another module (R285, R390) -/

/-- The operator site that a slot is for. -/
def slotSite (slot : LinkSlot) : Nat := Site.key (Target.site (targetOf slot.dst.toNat))

/-- The record of the stream that a slot is of: a new one for the first slot of a stream. -/
def slotStream (s : State) (module p : Nat) (slot : LinkSlot) : StreamIn :=
  (s.streamsIn.find? (fun x => x.module == module && x.src == slot.src)).getD
    ⟨module, slot.src, 0, p, slotSite slot, 0⟩

theorem slotStream_names (s : State) (module p : Nat) (slot : LinkSlot) :
    (slotStream s module p slot).module = module ∧ (slotStream s module p slot).src = slot.src := by
  unfold slotStream
  cases hx : s.streamsIn.find? (fun x => x.module == module && x.src == slot.src) with
  | none => exact ⟨rfl, rfl⟩
  | some x => simpa using List.find?_some hx

/-- The record after one more of its tokens has arrived, of which `n` is the next one expected. -/
def arrived (e : StreamIn) (p : Nat) (slot : LinkSlot) (n : Nat) : StreamIn :=
  { e with next := n, link := p, site := slotSite slot, due := e.due + 1 }

/-- The token that a slot carries. -/
def slotToken (slot : LinkSlot) : Token :=
  Token.ofWords (BitVec.ofNat 64 (slot.token.toNat % 2 ^ 64)) (BitVec.ofNat 64 (slot.token.toNat / 2 ^ 64))

/-- The state with one more token of the stream arrived. -/
def countSlot (e : StreamIn) (module p : Nat) (slot : LinkSlot) (n : Nat) (s : State) : State :=
  { s with streamsIn := s.streamsIn.filter (fun x => !(x.module == module && x.src == slot.src)) ++ [arrived e p slot n] }

section
variable {s : State} {module p : Nat} {slot : LinkSlot}

theorem takeSlot_eq (hf : s.fatal = false) (hslot : slotPort s module slot = some p) : takeSlot s module slot =
    (receiveSlot p module slot s).map (fun s1 => s1.onLink p (fun q => { q with inQ := q.inQ.drop 1 })) := by
  simp [takeSlot, hslot, hf]

variable (hkind : (s.oper (slotSite slot)).kind = 11)
include hkind

/-- With 64 tokens that are not yet acknowledged, a slot waits while the acknowledgement can be sent. -/
theorem receiveSlot_waits (hdue : 64 ≤ (slotStream s module p slot).due)
    (hup : LinkPort.state (s.link (slotStream s module p slot).link) = 2) : receiveSlot p module slot s = none := by
  have hwaits : (64 ≤ (slotStream s module p slot).due && (s.link (slotStream s module p slot).link).state == 2) = true := by
    simp [hdue, hup]
  unfold receiveSlot
  exact (if_neg (by simpa [slotSite] using hkind)).trans (if_pos hwaits)

variable (hopen : (slotStream s module p slot).due < 64 ∨ LinkPort.state (s.link (slotStream s module p slot).link) ≠ 2)
include hopen

theorem receiveSlot_open : receiveSlot p module slot s =
    if slot.seq != (slotStream s module p slot).next then
      some (countSlot (slotStream s module p slot) module p slot (slotStream s module p slot).next s)
    else (operSend (slotSite slot) (toA (s.oper (slotSite slot))) (slotToken slot) s).map
      (countSlot (slotStream s module p slot) module p slot (((slotStream s module p slot).next + 1) % 2 ^ 32)) := by
  have hgo : ¬ (64 ≤ (slotStream s module p slot).due && (s.link (slotStream s module p slot).link).state == 2) = true := by
    simpa [Decidable.imp_iff_not_or] using hopen
  unfold receiveSlot
  exact (if_neg (by simpa [slotSite] using hkind)).trans (if_neg hgo)

/-- A slot out of its turn is discarded, and an acknowledgement is due. -/
theorem receiveSlot_discards (hseq : slot.seq ≠ (slotStream s module p slot).next) : receiveSlot p module slot s =
    some (countSlot (slotStream s module p slot) module p slot (slotStream s module p slot).next s) :=
  (receiveSlot_open hkind hopen).trans (if_pos (by simpa using hseq))

/-- The next slot of its stream is emitted to `to`. -/
theorem receiveSlot_emits (hseq : slot.seq = (slotStream s module p slot).next)
    (hcan : operCan (slotSite slot) (toA (s.oper (slotSite slot))) (slotToken slot) s = true) : receiveSlot p module slot s =
    some (countSlot (slotStream s module p slot) module p slot (((slotStream s module p slot).next + 1) % 2 ^ 32)
      (outGo (slotSite slot) ⟨toA (s.oper (slotSite slot)), slotToken slot, true, false⟩ s)) := by
  rw [receiveSlot_open hkind hopen, if_neg (by simpa using hseq), operSend_of_can hcan, Option.map_some]

variable (hf : s.fatal = false) (hslot : slotPort s module slot = some p)
include hf hslot

/-- A slot out of its turn leaves its port, and its stream has one more to acknowledge. -/
theorem takeSlot_discards (hseq : slot.seq ≠ (slotStream s module p slot).next) :
    ∃ u, takeSlot s module slot = some u ∧ u.net = s.net ∧ (u.link p).inQ = (s.link p).inQ.drop 1 ∧
      arrived (slotStream s module p slot) p slot (slotStream s module p slot).next ∈ u.streamsIn := by
  refine ⟨_, (takeSlot_eq hf hslot).trans (congrArg _ (receiveSlot_discards hkind hopen hseq)), rfl, ?_,
    List.mem_append_right _ (List.mem_singleton_self _)⟩
  rw [State.link_onLink_self]
  rfl

/-- The next slot of a stream leaves its port too, with the effects of its token's emission. -/
theorem takeSlot_emits (hseq : slot.seq = (slotStream s module p slot).next)
    (hcan : operCan (slotSite slot) (toA (s.oper (slotSite slot))) (slotToken slot) s = true) :
    ∃ u v, takeSlot s module slot = some u ∧
      outGo (slotSite slot) ⟨toA (s.oper (slotSite slot)), slotToken slot, true, false⟩ s = v ∧
      u.net = v.net ∧ (u.link p).inQ = (v.link p).inQ.drop 1 ∧
      arrived (slotStream s module p slot) p slot (((slotStream s module p slot).next + 1) % 2 ^ 32) ∈ u.streamsIn := by
  refine ⟨_, _, (takeSlot_eq hf hslot).trans (congrArg _ (receiveSlot_emits hkind hopen hseq hcan)), rfl, rfl, ?_,
    List.mem_append_right _ (List.mem_singleton_self _)⟩
  rw [State.link_onLink_self]
  rfl

end

/-! ### Stream acknowledgements (R388, R390) -/

section
variable {s : State} {x : Site}

theorem takeAck_found {seq p : Nat} {q : LinkPort} (hf : s.fatal = false)
    (hfound : s.links.find? (fun kp => kp.2.acksIn.contains (BitVec.ofNat 32 (siteBits x 0), seq)) = some (p, q)) :
    takeAck x seq s = some ((s.onLink p (fun q => { q with acksIn := q.acksIn.erase (BitVec.ofNat 32 (siteBits x 0), seq) })).onOper
      (Site.key x) (fun o => { o with unacked := o.unacked.filter (fun u => !acked seq u.seq) })) := by
  simp only [takeAck, hfound, hf, Bool.false_eq_true, if_false]

theorem sendAck_found {e : StreamIn} (hf : s.fatal = false)
    (hfound : s.streamsIn.find? (fun e => e.site == Site.key x && decide (0 < e.due) && LinkPort.maySend (s.link e.link)) = some e) :
    sendAck x s = some ({ s with streamsIn := s.streamsIn.map (fun y => if y == e then { y with due := 0 } else y) }.onLink e.link
      (LinkPort.send (field s.modRegs.modid 7 0) .streamAck [] e.src ((e.next + (2 ^ 32 - 1)) % 2 ^ 32))) := by
  simp only [sendAck, hfound, hf, Bool.false_eq_true, if_false]

end

/-- Settles O60: a beat is accepted or fails (`receiveBeat_accepts`, `receiveBeat_rejects`), after which its port sends what it can
(`LinkPort.Sends`); each other step is given by the lemma of its case. -/
theorem drawbarLinks : Obligations.DrawbarLinks := by
  unfold Obligations.DrawbarLinks
  refine ⟨?beats, fun b => ⟨Beat.bytes_length b, Beat.read_bytes_good b⟩, ?link, ?host, ?forward, fun s k site t => rfl,
    ?numbered, ?received, ?acknowledged, ?acknowledges⟩
  case beats =>
    intro s p bytes q b hf hp hup
    refine ⟨fun hgood hseq => ?_, fun hbad => ?_⟩
    · obtain ⟨u, ys, hu, hsent, hnone, hrest⟩ := receiveBeat_accepts hf hp hup hgood hseq
      refine ⟨u, ys, congrArg Host.Outcome.next (orSelf_some hf hu), hsent.recvSeq, hsent.fails, hsent.silence, fun hk => ?_,
        fun hk => ?_, fun hk => ?_, hsent.unacked, hsent.wire, fun he => ?_, hrest⟩
      · exact hsent.inQ.trans (congrArg (q.inQ ++ ·) (if_pos (beq_iff_eq.mpr hk)))
      · exact hsent.acksIn.trans (congrArg (q.acksIn ++ ·) (if_pos (beq_iff_eq.mpr hk)))
      · exact hsent.resend.trans (Bool.or_eq_true_iff.mpr (.inr (beq_iff_eq.mpr hk)))
      · exact Nat.not_lt.mp fun hroom => Bool.eq_false_iff.mp (hnone he)
          (LinkPort.maySend_iff (p := LinkPort.accept b (heardPort s p)) |>.mpr ⟨hup, hroom⟩)
    · obtain ⟨u, hu, hrest, hlink⟩ := receiveBeat_rejects hf hp hup hbad
      obtain ⟨ys, hsent, -⟩ := LinkPort.drain_sends (module := field s.modRegs.modid 7 0) (p := LinkPort.reject b.seq (heardPort s p))
        ((LinkPort.reject b.seq (heardPort s p)).outQ.length + 2)
      rw [← hlink] at hsent
      have hsame := LinkPort.reject_rest b.seq (heardPort s p)
      refine ⟨u, congrArg Host.Outcome.next (orSelf_some hf hu), hsent.recvSeq.trans (congrArg LinkPort.recvSeq hsame :), ?_,
        hsent.inQ.trans (congrArg LinkPort.inQ hsame :), hsent.acksIn.trans (congrArg LinkPort.acksIn hsame :), hrest,
        fun hfew => ?_, fun hmany => ?_⟩
      · rw [hsent.fails]
        exact LinkPort.reject_fails b.seq (heardPort s p)
      · rw [hlink]
        exact LinkPort.drain_reject_few _ _ (q := heardPort s p) hup hfew
      · rw [hlink]
        exact LinkPort.drain_reject_eighth _ _ (q := heardPort s p) hmany
  case link =>
    intro s p q hf
    refine ⟨fun hup hask => congrArg Host.Outcome.next (orSelf_some hf (resendBeats_asked hf hup hask)), fun hup hlate => ?silent,
      fun htrains hlate => ?unanswered, fun hlost htold hnone => ?lost,
      fun minor module port flight hp htrains hmodule hport => ?comesUp,
      fun major minor module port flight hp htrains hmajor => ?refused⟩
    case silent =>
      refine ⟨_, congrArg Host.Outcome.next (orSelf_some hf (linkSilent_up hf hup hlate)), ?_, ?_, rfl⟩
      · rw [State.link_onLink_self]
        exact LinkPort.state_lose _ 4
      · rw [State.link_onLink_self]
        exact LinkPort.reason_lose _ (by decide)
    case unanswered =>
      obtain ⟨hstate, hreason⟩ := LinkPort.failed_training q (reason := 2) (by decide)
      refine ⟨_, congrArg Host.Outcome.next (orSelf_some hf (linkSilent_training hf htrains hlate)), ?_, ?_, rfl⟩
      · rw [State.link_onLink_self]
        exact hstate
      · rw [State.link_onLink_self]
        exact hreason
    case lost =>
      obtain ⟨u, hu, hlink, hopers, hvector⟩ := loseLink_records hf hlost htold hnone
      exact ⟨u, congrArg Host.Outcome.next (orSelf_some hf hu), congrArg LinkPort.told hlink, congrArg LinkPort.unacked hlink, hopers, hvector⟩
    case comesUp =>
      obtain ⟨hstate, hmod, hfar, hflight⟩ := LinkPort.up_lstat minor flight q hmodule hport
      obtain ⟨ys, hsent, -⟩ := answerLink_sends p
        (s.onLink p (fun q => { LinkPort.up minor module port flight q with silence := s.now 24 }))
      rw [State.link_onLink_self] at hsent
      refine ⟨_, ys, congrArg Host.Outcome.next (orSelf_some hf (trainLink_up minor module port flight hf hp htrains)),
        hsent.state.trans ((LinkPort.state_withSilence _ _).trans hstate), ?_, ?_, ?_, hsent.recvSeq, hsent.unacked, ?_, ?_⟩
      · rw [hsent.lstat]
        exact hmod
      · rw [hsent.lstat]
        exact hfar
      · rw [hsent.lstat]
        exact hflight
      · rw [hsent.wire, hsent.unacked, List.map_append, ← List.append_assoc]
        rfl
      · exact (congrArg (fun u : State => { u with links := s.links }) (answerLink_rest p _) :)
    case refused =>
      obtain ⟨hstate, hreason⟩ := LinkPort.failed_training q (reason := 1) (by decide)
      refine ⟨_, congrArg Host.Outcome.next (orSelf_some hf (trainLink_fails minor module port flight hf hp htrains hmajor)), ?_, ?_, rfl⟩
      · rw [State.link_onLink_self]
        exact hstate
      · rw [State.link_onLink_self]
        exact hreason
  case host =>
    intro s p ho hp beat
    refine ⟨fun hon => ⟨_, congrArg Host.Outcome.next ((hostEvent_open ho).trans (retrainLink_enabled hp hon)), ?retrains, ?probe, rfl⟩,
      fun hoff => ⟨_, congrArg Host.Outcome.next ((hostEvent_open ho).trans (enableLink_on hp hoff)), ?trains, ?enabled, ?first, rfl⟩,
      fun hon => ⟨_, congrArg Host.Outcome.next ((hostEvent_open ho).trans (enableLink_off hp hon)), ?down, ?disabled, rfl⟩⟩
    all_goals rw [State.link_onLink_self]
    case retrains => rw [LinkPort.state_train]
    case trains => rw [LinkPort.state_withControl, LinkPort.state_train]
    case down => rw [LinkPort.state_withControl, LinkPort.state_mark _ 0 (by decide)]
    all_goals rfl
  case forward =>
    intro s n fl t h hport hkind hclass hroom u
    exact ⟨fun hregion => congrArg Host.Outcome.next (orSelf_some h.fatal (forwardToken_sends h hport hkind hclass hroom hregion)),
      fun k hregion hcaboose => congrArg Host.Outcome.next
        (orSelf_some h.fatal (forwardToken_enters h hport hkind hclass hroom hregion hcaboose))⟩
  case numbered =>
    intro s site t o x u
    have hoper := sendNumbered_oper site t s
    exact ⟨congrArg Oper.streamSeq hoper, congrArg Oper.unacked hoper, rfl, rfl, rfl, rfl, rfl, sendNumbered_waits t⟩
  case received =>
    intro s module p slot site t e hf hslot hkind
    obtain ⟨hmodule, hsrc⟩ := slotStream_names s module p slot
    refine ⟨fun hopen => ⟨fun hseq hcan => ?_, fun hseq => ?_⟩, fun hdue hup => ?_⟩
    · obtain ⟨u, v, hu, hv, hnet, hq, hin⟩ := takeSlot_emits hkind hopen hf hslot hseq hcan
      exact ⟨u, v, congrArg Host.Outcome.next (orSelf_some hf hu), hv, hnet, hq, _, hin, hmodule, hsrc, rfl, rfl⟩
    · obtain ⟨u, hu, hnet, hq, hin⟩ := takeSlot_discards hkind hopen hf hslot hseq
      exact ⟨u, congrArg Host.Outcome.next (orSelf_some hf hu), hnet, hq, _, hin, rfl, rfl, rfl, rfl⟩
    · have hnone : takeSlot s module slot = none := (takeSlot_eq hf hslot).trans (congrArg _ (receiveSlot_waits hkind hdue hup))
      exact congrArg Host.Outcome.next (by simp [State.orSelf, hnone])
  case acknowledged =>
    intro s x seq p q hf hfound
    refine ⟨_, congrArg Host.Outcome.next (orSelf_some hf (takeAck_found hf hfound)), ?_, rfl⟩
    rw [State.oper_onOper_self]
    rfl
  case acknowledges =>
    intro s x e hf hfound
    refine ⟨_, LinkPort.beat (field s.modRegs.modid 7 0) .streamAck [] e.src ((e.next + (2 ^ 32 - 1)) % 2 ^ 32) (s.link e.link),
      congrArg Host.Outcome.next (orSelf_some hf (sendAck_found hf hfound)), ?_, ?_, rfl, rfl, rfl, rfl⟩
    all_goals
      rw [State.link_onLink_self]
      rfl

end Sys2Proof.Machine
end

section
/-! What a change of sites, regions and pins leaves alone, and what a flushed region holds (R339). -/

namespace Sys2Proof.Machine

/-! ### Changes of sites, regions and pins alone -/

/-- From `s` to `u` at most PEs, tiles, operators, matrix states, regions and pins have changed. -/
def State.SitesOnly (s u : State) : Prop :=
  { u with
    pes := s.pes, tiles := s.tiles, opers := s.opers, matrices := s.matrices, regions := s.regions, pins := s.pins } = s

namespace State.SitesOnly
variable {s u v : State}

theorem trans (h : s.SitesOnly u) (h' : u.SitesOnly v) : s.SitesOnly v := by
  have hv : { v with
      pes := s.pes, tiles := s.tiles, opers := s.opers, matrices := s.matrices, regions := s.regions, pins := s.pins } = _ :=
    (congrArg (fun w : State => { w with
      pes := s.pes, tiles := s.tiles, opers := s.opers, matrices := s.matrices, regions := s.regions, pins := s.pins }) h' :)
  exact hv.trans h

theorem refl (s : State) : s.SitesOnly s := rfl

theorem of_pes (h : { u with pes := s.pes } = s) : s.SitesOnly u :=
  (congrArg (fun w : State => { w with
    tiles := s.tiles, opers := s.opers, matrices := s.matrices, regions := s.regions, pins := s.pins }) h :)

theorem of_tiles (h : { u with tiles := s.tiles } = s) : s.SitesOnly u :=
  (congrArg (fun w : State => { w with
    pes := s.pes, opers := s.opers, matrices := s.matrices, regions := s.regions, pins := s.pins }) h :)

theorem of_pins (h : { u with pins := s.pins } = s) : s.SitesOnly u :=
  (congrArg (fun w : State => { w with
    pes := s.pes, tiles := s.tiles, opers := s.opers, matrices := s.matrices, regions := s.regions }) h :)

theorem net (h : s.SitesOnly u) : u.net = s.net := (congrArg State.net h :)

theorem mem (h : s.SitesOnly u) : u.mem = s.mem := (congrArg State.mem h :)

theorem accesses (h : s.SitesOnly u) : u.accesses = s.accesses := (congrArg State.accesses h :)

theorem onRegion (h : s.SitesOnly u) (k : Nat) (g : Region → Region) : s.SitesOnly (u.onRegion k g) := h

theorem onMatrix (h : s.SitesOnly u) (k : Nat) (g : Matrix → Matrix) : s.SitesOnly (u.onMatrix k g) := h

theorem onRegionOpers (h : s.SitesOnly u) (k : Nat) (g : Nat → Oper → Oper) : s.SitesOnly (onRegionOpers k g u) := h

theorem onRegionPes (h : s.SitesOnly u) (k : Nat) (g : Pe → Pe) : s.SitesOnly (onRegionPes k g u) :=
  h.trans (of_pes (onRegionPes_rest k g u))

theorem resetNames (h : s.SitesOnly u) (k : Nat) : s.SitesOnly (resetNames k u) := h.trans (of_tiles (resetNames_rest k u))

end State.SitesOnly

/-- A field of a region that a change of any region keeps. -/
theorem State.regionField_onRegion {α : Type} (f : Region → α) {g : Region → Region} (hg : ∀ r, f (g r) = f r) (s : State)
    (j k : Nat) : f ((s.onRegion j g).region k) = f (s.region k) := by
  by_cases hk : k = j
  · rw [hk, State.region_onRegion_self, hg]
  · rw [State.region_onRegion_ne s g hk]

theorem resetNames_pe (k x : Nat) (s : State) : (resetNames k s).pe x = s.pe x :=
  (congrArg (fun u : State => u.pe x) (resetNames_rest k s) :)

theorem resetNames_region (j k : Nat) (s : State) : (resetNames k s).region j = s.region j :=
  (congrArg (fun u : State => u.region j) (resetNames_rest k s) :)

/-! ### Changes at the PEs of a region -/

section
variable {g : Pe → Pe} {s : State} {k : Nat}

/-- What a change makes of any PE holds at every PE of the region after it. -/
theorem onRegionPes_pe {P : Pe → Prop} (hg : ∀ p, P (g p)) {x : Site} (hx : x ∈ (s.region k).peSites) :
    P ((onRegionPes k g s).pe (Site.key x)) :=
  foldPe g P hg (fun p _ => hg p) _ s _ (.inl (List.mem_map_of_mem hx))

theorem foldPe_entries (hg : ∀ p, (g p).entries = p.entries) (xs : List Nat) (s : State) (x : Nat) :
    ((xs.foldl (fun s x => s.onPe x g) s).pe x).entries = (s.pe x).entries := by
  induction xs generalizing s with
  | nil => rfl
  | cons y ys ih =>
    rw [List.foldl_cons, ih, State.pe_onPe]
    split
    · next hx => rw [hg, hx]
    · rfl

theorem onRegionPes_entries (hg : ∀ p, (g p).entries = p.entries) (x : Nat) :
    ((onRegionPes k g s).pe x).entries = (s.pe x).entries :=
  foldPe_entries hg _ s x

theorem purgeCtx_entries_ctx (c : Nat) (p : Pe) : ∀ e ∈ (purgeCtx c p).entries, e.ctx ≠ c :=
  fun _ he => by simpa using (List.mem_filter.mp he).2

end

/-! ### A flush (R339) -/

section
variable (k : Nat) (s : State)

theorem foldl_unpin_rest {α : Type} (f : α → Nat) (xs : List α) (s : State) :
    { xs.foldl (fun s a => unpin (f a) s) s with pins := s.pins } = s := by
  induction xs generalizing s with
  | nil => rfl
  | cons x xs ih => exact congrArg (fun u : State => { u with pins := s.pins }) (ih (unpin (f x) s))

theorem flushMatrix_sites : s.SitesOnly (flushMatrix k s) := by
  unfold flushMatrix
  dsimp only
  split
  · exact (State.SitesOnly.of_pes (onRegionPes_rest k _ s)).onMatrix _ _
  · exact (State.SitesOnly.refl s).onMatrix _ _

theorem flushMatrix_entries (x : Nat) : ((flushMatrix k s).pe x).entries = (s.pe x).entries := by
  unfold flushMatrix
  dsimp only
  split
  · exact onRegionPes_entries (g := fun p => { p with west := [], north := [] }) (fun _ => rfl) x
  · rfl

/-- The state of a flush before it touches PEs, operators and the record: what was released goes on without targets, and what was
not is dropped. -/
def orphaned (k : Nat) (s : State) : State :=
  let gone := (s.accesses.filter (fun a => a.region == k + 1 && (orphanAccess k a).isNone)).map Access.id
  let moves := ((regionOpers s k).map (fun ko => ko.2.moves)).flatten
  { dropMigration ((moves.filter (fun m => m.phase != 3)).map Transfer.id) s with
    net := (s.net.filter (fun f => !(s.inside k f || answersTo s k f))).map (orphanFlight k)
    tiles := s.tiles.map (fun kt => (kt.1, orphanTile s k kt.2))
    opers := s.opers.map (fun ko => (ko.1, if ko.2.kind = 11 then orphanPort s k ko.2 else ko.2))
    accesses := s.accesses.filterMap (orphanAccess k)
    holds := s.holds.filter (fun h => !(gone.contains h.access))
    slots := s.slots.filter (fun kv => (s.oper kv.1).region != k + 1)
    snaps := s.snaps.filter (fun x => x.region != k) }

/-- The pins of a region's operators and transfers go. -/
def unpinned (k : Nat) (s : State) : State :=
  (regionOpers (orphaned k s) k).foldl (fun s ko => unpin (2 * ko.1) s)
    (((regionOpers s k).map (fun ko => ko.2.moves)).flatten.foldl (fun s m => unpin (2 * m.id + 1) s) (orphaned k s))

theorem unpinned_rest : { unpinned k s with pins := (orphaned k s).pins } = orphaned k s :=
  (congrArg (fun u : State => { u with pins := (orphaned k s).pins }) (foldl_unpin_rest _ _ _)).trans (foldl_unpin_rest _ _ _)

theorem unpinned_region : (unpinned k s).region k = s.region k :=
  (congrArg (fun u : State => u.region k) (unpinned_rest k s) :)

/-- The PEs, operators and matrix state of a region without what the flush takes. -/
def purgedSites (k : Nat) (s : State) : State :=
  flushMatrix k (onRegionOpers k (fun _ o => flushOper o) (onRegionPes k (purgeCtx (s.region k).ctx) (unpinned k s)))

theorem purgedSites_sites : (orphaned k s).SitesOnly (purgedSites k s) :=
  (((State.SitesOnly.of_pins (unpinned_rest k s)).onRegionPes k _).onRegionOpers k _).trans (flushMatrix_sites k _)

theorem purgedSites_entries {x : Site} (hx : x ∈ (s.region k).peSites) :
    ∀ e ∈ ((purgedSites k s).pe (Site.key x)).entries, e.ctx ≠ (s.region k).ctx := by
  rw [purgedSites, flushMatrix_entries]
  rw [← unpinned_region] at hx
  exact onRegionPes_pe (P := fun p => ∀ e ∈ p.entries, e.ctx ≠ (s.region k).ctx) (purgeCtx_entries_ctx _) hx

/-- A flush is its sites purged, its record emptied, its barriers without its waits, and its named storage reset. -/
theorem flushRegion_eq : ∃ (g : Region → Region) (f : Region → Map Barrier),
    flushRegion k s =
      resetNames k (((purgedSites k s).onRegion k g).onRegion (s.region k).loadBase (fun b => { b with barriers := f b })) ∧
    ∀ r, (g r).caboose = [] ∧ (g r).inputs = [] ∧ (g r).launchQ = [] ∧ (g r).frames = [] :=
  ⟨_, _, rfl, fun _ => ⟨rfl, rfl, rfl, rfl⟩⟩

theorem flushRegion_sites : (orphaned k s).SitesOnly (flushRegion k s) := by
  obtain ⟨g, f, he, -⟩ := flushRegion_eq k s
  rw [he]
  exact (((purgedSites_sites k s).onRegion k g).onRegion _ _).resetNames k

theorem flushRegion_record : ((flushRegion k s).region k).caboose = [] ∧ ((flushRegion k s).region k).inputs = [] ∧
    ((flushRegion k s).region k).launchQ = [] ∧ ((flushRegion k s).region k).frames = [] := by
  obtain ⟨g, f, he, hg⟩ := flushRegion_eq k s
  obtain ⟨hcaboose, hinputs, hlaunch, hframes⟩ := hg ((purgedSites k s).region k)
  have hkept {α : Type} (p : Region → α) (hp : ∀ r bs, p { r with barriers := bs } = p r) :
      p ((flushRegion k s).region k) = p (g ((purgedSites k s).region k)) := by
    rw [he, resetNames_region, State.regionField_onRegion p (fun r => hp r _), State.region_onRegion_self]
  exact ⟨(hkept Region.caboose fun _ _ => rfl).trans hcaboose, (hkept Region.inputs fun _ _ => rfl).trans hinputs,
    (hkept Region.launchQ fun _ _ => rfl).trans hlaunch, (hkept Region.frames fun _ _ => rfl).trans hframes⟩

theorem flushRegion_entries {x : Site} (hx : x ∈ (s.region k).peSites) :
    ∀ e ∈ ((flushRegion k s).pe (Site.key x)).entries, e.ctx ≠ (s.region k).ctx := by
  obtain ⟨g, f, he, -⟩ := flushRegion_eq k s
  rw [he, resetNames_pe, State.pe_onRegion, State.pe_onRegion]
  exact purgedSites_entries k s hx

variable {k s}

/-- What an access of the region keeps of itself after a flush is not waiting for the caboose. -/
theorem orphanAccess_phase {a b : Access} (h : orphanAccess k a = some b) (hb : b.region = k + 1) : b.phase ≠ 6 := by
  unfold orphanAccess at h
  split at h
  · next hother =>
    cases h
    simp [hb] at hother
  split at h
  · cases h
  next hkept =>
    have hphase : a.phase ≠ 6 := fun h6 => hkept (by simp [h6])
    split at h
    · cases h
      exact hphase
    split at h
    · cases h
    · cases h
      exact hphase

end

end Sys2Proof.Machine
end

section
/-! The configuration loader (R329 to R332): registering an image, the delivery of words, and a context that becomes resident. -/

namespace Sys2Proof.Machine

section
variable {s : State}

/-! ### Images (R329) -/

theorem imageCommand_of {c : Nat} (hf : s.fatal = false) (hbusy : bit s.modRegs.imgstat 0 = true) (hc : s.modRegs.imgcmd.toNat = c) :
    imageCommand s c = true := by
  simp [imageCommand, hf, hbusy, hc]

theorem exec_imageRegister (hf : s.fatal = false) (hbusy : bit s.modRegs.imgstat 0 = true) (hc : s.modRegs.imgcmd.toNat = 1) :
    exec .imageRegister s = .next (registerImage s) :=
  congrArg Host.Outcome.next (if_pos (imageCommand_of hf hbusy hc))

theorem exec_imageUnregister (hf : s.fatal = false) (hbusy : bit s.modRegs.imgstat 0 = true) (hc : s.modRegs.imgcmd.toNat = 2) :
    exec .imageUnregister s = .next (unregisterImage s) :=
  congrArg Host.Outcome.next (if_pos (imageCommand_of hf hbusy hc))

theorem registerImage_rejected {x : Reject} (h : imageReject s s.modRegs.imgaddr.toNat s.modRegs.imglen.toNat = some x) :
    registerImage s = s.onRegs (fun g => { g with imgcmd := 0, imgstat := imgStat 2 x.code, ldrep := x.ldrep }) := by
  simp only [registerImage, h]

theorem registerImage_accepted (h : imageReject s s.modRegs.imgaddr.toNat s.modRegs.imglen.toNat = none) :
    registerImage s = { s.onRegs (fun g => { g with imgcmd := 0, imgstat := imgStat 1 0 }) with
      images := s.images ++ [⟨BitVec.ofNat 64 (memNat s (s.modRegs.imgaddr.toNat + 16) 8), s.modRegs.imgaddr.toNat,
        s.modRegs.imglen.toNat⟩] } := by
  simp only [registerImage, h]

theorem unregisterImage_used
    (h : (s.regions.any (fun kr => kr.2.valid && kr.2.image == s.modRegs.imghdl) || headNames s s.modRegs.imghdl) = true) :
    unregisterImage s = (s.onRegs (fun g => { g with imgcmd := 0, imgstat := imgStat 4 0 })).refuseWrite :=
  if_pos h

theorem unregisterImage_unused
    (h : (s.regions.any (fun kr => kr.2.valid && kr.2.image == s.modRegs.imghdl) || headNames s s.modRegs.imghdl) = false) :
    unregisterImage s = { s.onRegs (fun g => { g with imgcmd := 0, imgstat := imgStat 3 0 }) with
      images := s.images.filter (fun x => x.handle != s.modRegs.imghdl) } :=
  if_neg (Bool.eq_false_iff.mp h)

/-! ### Configuration words (R330, R331) -/

/-- The context of a load placed at the PEs of its region: resident, with nothing of an earlier load (R331). -/
def contextPlaced (k : Nat) (l : LoadSec) (s : State) : State :=
  ((l.entries.filter (fun e => (s.region k).holdsPe e.1)).map (fun e => Site.key e.1)).foldl
    (fun s x => s.onPe x (fun p => (purgeCtx l.ctx p).setState l.ctx 1)) s

/-- The state in which a region's load has become resident, before its first mark. -/
def loadResident (k : Nat) (l : LoadSec) (s : State) : State :=
  resetNames k ((releaseMatrix k (contextPlaced k l s)).onRegion k (fun r =>
    freshRegion r l (regionSecs s k) k (s.now r.die)))

section
variable {k : Nat} {l : LoadSec} (hload : regionLoad s k = some l) (hstatus : (s.region k).status = 1)
  (hhalted : (s.region k).halted = false)
include hload hstatus hhalted

theorem deliverNext_delivers {w : CfgItem} (hw : (configWords s k l)[(s.region k).words]? = some w) :
    deliverNext s k = some ((deliver k l.ctx w s).onRegion k (fun r => { r with words := r.words + 1 })) := by
  simp [deliverNext, hload, hstatus, hhalted, hw]

theorem becomeResident_whole (hwords : (configWords s k l).length ≤ (s.region k).words) :
    becomeResident s k = some (firstMark k (loadResident k l s)) := by
  have hopen : ((s.region k).status != 1 || (s.region k).halted || decide ((s.region k).words < (configWords s k l).length)) = false := by
    simp [hstatus, hhalted, hwords]
  simp only [becomeResident, hload, hopen, Bool.false_eq_true, if_false]
  rfl

end

theorem deliver_word (k c x st n : Nat) (w : StationWord) (s : State) :
    deliver k c (.word x st w n) s = s.onPe x (fun p => { p with
      store := Map.put p.store (p.ctxBase c + st) w, coupling := Map.put p.coupling (stKey c st) n }) :=
  rfl

/-! ### Residency (R331, R332) -/

/-- A context-table entry shows the state that was put into it (R29). -/
theorem Pe.ctxState_setState (c : Nat) {n : Nat} (hn : n < 4) (p : Pe) : (p.setState c n).ctxState c = n := by
  have hcount : p.ctxCount c < 1024 := Nat.mod_lt _ (by decide)
  have hbase : p.ctxBase c < 512 := Nat.mod_lt _ (by decide)
  simp only [Pe.ctxState, Pe.setState, Map.get_put_self, ctxEntry, field_eq, BitVec.toNat_ofNat]
  omega

theorem releaseMatrix_sites (k : Nat) (s : State) : s.SitesOnly (releaseMatrix k s) := by
  unfold releaseMatrix
  split
  · exact (State.SitesOnly.refl s).onMatrix _ _
  · exact .refl s

theorem releaseMatrix_pe (k x : Nat) (s : State) : (releaseMatrix k s).pe x = s.pe x := by
  unfold releaseMatrix
  split <;> rfl

/-- The first mark of a region sets its waves and what is kept of it. -/
theorem firstMark_rest (k : Nat) (s : State) : { firstMark k s with regions := s.regions, snaps := s.snaps } = s := by
  unfold firstMark
  dsimp only
  split <;> rfl

theorem firstMark_region (k : Nat) (s : State) : (firstMark k s).region k =
    { s.region k with wave := 0, oldest := 0, markAt := s.now (s.region k).die, unprot := !s.savePool } := by
  have hregion : (firstMark k s).region k = (s.onRegion k (fun r => { r with
      wave := 0, oldest := 0, markAt := s.now r.die, unprot := !s.savePool })).region k := by
    unfold firstMark
    dsimp only
    split <;> rfl
  rw [hregion, State.region_onRegion_self]

theorem loadResident_sites (k : Nat) (l : LoadSec) (s : State) : s.SitesOnly (loadResident k l s) :=
  (((State.SitesOnly.of_pes (foldPe_rest _ _ s)).trans (releaseMatrix_sites k (contextPlaced k l s))).onRegion k _).resetNames k

theorem loadResident_region (k : Nat) (l : LoadSec) (s : State) :
    ((loadResident k l s).region k).status = 2 ∧ ((loadResident k l s).region k).caboose = [] := by
  rw [loadResident, resetNames_region, State.region_onRegion_self]
  exact ⟨rfl, rfl⟩

theorem loadResident_ctxState {k : Nat} {l : LoadSec} {e : Site × BitVec 32} (he : e ∈ l.entries)
    (hin : (s.region k).holdsPe e.1 = true) : ((loadResident k l s).pe (Site.key e.1)).ctxState l.ctx = 1 := by
  rw [loadResident, resetNames_pe, State.pe_onRegion, releaseMatrix_pe]
  exact foldPe _ (fun p => p.ctxState l.ctx = 1) (fun p => Pe.ctxState_setState l.ctx (by decide) (purgeCtx l.ctx p))
    (fun p _ => Pe.ctxState_setState l.ctx (by decide) (purgeCtx l.ctx p)) _ s _
    (.inl (List.mem_map_of_mem (List.mem_filter.mpr ⟨he, hin⟩)))

end

end Sys2Proof.Machine
end

section
/-! The arbiter (R341 to R347): which attempt succeeds, how a chosen load starts, its data, tokens and end, and the statement on loads
and launches (O55). -/

namespace Sys2Proof.Machine

/-! ### The first attempt that succeeds -/

section
variable {α β : Type} {g : α → Option β} {xs : List α} {t : β}

theorem firstSome_map (g : α → Option β) (xs : List α) : firstSome (xs.map g) = xs.findSome? g := by
  induction xs with
  | nil => rfl
  | cons x xs ih => cases hx : g x <;> simp [firstSome, hx, ih]

theorem firstSome_map_none (h : ∀ x ∈ xs, g x = none) : firstSome (xs.map g) = none := by
  rw [firstSome_map, List.findSome?_eq_none_iff]
  exact h

/-- Where all that succeed agree, and some attempt does, the order does not matter. -/
theorem firstSome_map_agree {x : α} (hx : x ∈ xs) (hsome : g x = some t) (h : ∀ y ∈ xs, g y = none ∨ g y = some t) :
    firstSome (xs.map g) = some t := by
  rw [firstSome_map]
  have hfound : (xs.findSome? g).isSome = true := List.findSome?_isSome_iff.mpr ⟨x, hx, by simp [hsome]⟩
  obtain ⟨u, hu⟩ := Option.isSome_iff_exists.mp hfound
  obtain ⟨y, hy, hgy⟩ := List.exists_of_findSome?_eq_some hu
  rcases h y hy with hnone | hsame
  · simp [hnone] at hgy
  · rw [hu, ← hgy, hsame]

/-- The attempts before the first that succeeds do not. -/
theorem firstSome_range {g : Nat → Option β} {n q : Nat} (hq : q < n) (hbefore : ∀ p < q, g p = none) (hsome : g q = some t) :
    firstSome ((List.range n).map g) = some t := by
  rw [firstSome_map, List.findSome?_eq_some_iff]
  refine ⟨List.range q, q, (List.range (n - q - 1)).map (fun j => q + 1 + j), ?_, hsome, fun p hp => hbefore p (List.mem_range.mp hp)⟩
  have hn : n = q + 1 + (n - q - 1) := by omega
  conv_lhs => rw [hn, List.range_add, List.range_succ]
  simp only [List.append_assoc, List.singleton_append]

end

/-! ### Arbitration (R344, R345) -/

section
variable {s : State} {q n : Nat} {va : Word} {b : Launch}

theorem dropMalformed_of_none (h : headBlock s q = none) : dropMalformed s q = none := by
  simp only [dropMalformed, h]

theorem dropMalformed_of_head (h : headBlock s q = some (va, n, b)) : dropMalformed s q =
    (launchReason s va b).map (fun r => (popLaunch q s).deviceReport 0xF0 (fun x => { x with tag := r }) (some va)) := by
  simp only [dropMalformed, h]

/-- The first queue whose head is malformed loses it (R345). -/
theorem arbitrate_malformed {r : Nat} (hq : q < 64) (hbefore : ∀ p < q, dropMalformed s p = none)
    (hhead : headBlock s q = some (va, n, b)) (hreason : launchReason s va b = some r) :
    arbitrate s = some ((popLaunch q s).deviceReport 0xF0 (fun x => { x with tag := r }) (some va)) := by
  have hdrop : dropMalformed s q = _ := (dropMalformed_of_head hhead).trans (congrArg _ hreason)
  rw [arbitrate, firstSome_range hq hbefore hdrop]

theorem tryQueue_of_none (p : Nat) (h : headBlock s q = none) : tryQueue s p q = none := by
  simp [tryQueue, h]

theorem tryQueue_of_prio {p : Nat} (h : headBlock s q = some (va, n, b)) (hp : b.prio ≠ p) : tryQueue s p q = none := by
  simp [tryQueue, h, hp]

theorem queueBusy_eq_false (h : ∀ i ∈ s.insts, ¬(i.queue = q ∧ i.phase < 2)) : queueBusy s q = false := by
  rw [queueBusy, List.any_eq_false]
  intro i hi hbusy
  simp only [Bool.and_eq_true, Bool.or_eq_true, beq_iff_eq] at hbusy
  obtain ⟨⟨hqueue, hphase⟩, -⟩ := hbusy
  exact h i hi ⟨hqueue, by omega⟩

/-- A candidate whose footprint is free, or is made free by evictions, is chosen (R344). -/
theorem tryQueue_chooses {l : LoadSec} {gone : List Nat} (hfree : queueBusy s q = false) (hhead : headBlock s q = some (va, n, b))
    (hreason : launchReason s va b = none) (hpreds : ∀ p ∈ b.preds, predMet s q p = true) (hload : launchLoad s b = some l)
    (hgone : evictions s (s.taken + 1) b.handle l false [] = some gone) : tryQueue s b.prio q = some (chooseInst q n b s) := by
  have hmet : b.preds.all (predMet s q) = true := List.all_eq_true.mpr hpreds
  simp [tryQueue, hfree, hhead, hreason, hmet, hload, hgone]

theorem tryPrio_of_none_parked (p : Nat) (h : ∀ i ∈ s.insts, i.phase ≠ 5) :
    tryPrio s p = firstSome ((List.range 64).map (fun j => tryQueue s p ((Map.get s.lastQ 0 p + 1 + j) % 64))) := by
  have hparked : s.insts.filter (fun x => x.phase == 5 && !x.byHost && x.prio == p) = [] := by
    rw [List.filter_eq_nil_iff]
    intro i hi
    simp [h i hi]
  rw [tryPrio, hparked]
  rfl

/-- The queues are tried one after another behind the last one served: each has its turn. -/
theorem exists_turn (last : Nat) (hq : q < 64) : ∃ j ∈ List.range 64, (last + 1 + j) % 64 = q :=
  ⟨(q + 64 - (last + 1) % 64) % 64, List.mem_range.mpr (by omega), by omega⟩

/-- With one head block in all, and nothing parked, its queue is served at its priority (R344). -/
theorem arbitrate_chooses {l : LoadSec} {gone : List Nat} (hq : q < 64) (hprio : b.prio < 8)
    (hothers : ∀ p, p ≠ q → headBlock s p = none) (hhead : headBlock s q = some (va, n, b)) (hreason : launchReason s va b = none)
    (hinsts : ∀ i ∈ s.insts, i.phase ≠ 5 ∧ ¬(i.queue = q ∧ i.phase < 2)) (hpreds : ∀ p ∈ b.preds, predMet s q p = true)
    (hload : launchLoad s b = some l) (hgone : evictions s (s.taken + 1) b.handle l false [] = some gone) :
    arbitrate s = some (chooseInst q n b s) := by
  have hwell : firstSome ((List.range 64).map (dropMalformed s)) = none := firstSome_map_none fun p _ => by
    by_cases hp : p = q
    · rw [hp, dropMalformed_of_head hhead, hreason, Option.map_none]
    · exact dropMalformed_of_none (hothers p hp)
  have hparked : ∀ i ∈ s.insts, i.phase ≠ 5 := fun i hi => (hinsts i hi).1
  have hchosen := tryQueue_chooses (queueBusy_eq_false fun i hi => (hinsts i hi).2) hhead hreason hpreds hload hgone
  have hqueues (p : Nat) : tryQueue s b.prio p = none ∨ tryQueue s b.prio p = some (chooseInst q n b s) := by
    by_cases hp : p = q
    · exact .inr (hp ▸ hchosen)
    · exact .inl (tryQueue_of_none _ (hothers p hp))
  have hserved : tryPrio s b.prio = some (chooseInst q n b s) := by
    obtain ⟨j, hj, hturn⟩ := exists_turn (Map.get s.lastQ 0 b.prio) hq
    rw [tryPrio_of_none_parked _ hparked]
    exact firstSome_map_agree hj (hturn ▸ hchosen) fun i _ => hqueues _
  have hprios (p : Nat) : tryPrio s p = none ∨ tryPrio s p = some (chooseInst q n b s) := by
    by_cases hp : b.prio = p
    · exact .inr (hp ▸ hserved)
    · rw [tryPrio_of_none_parked _ hparked]
      refine .inl (firstSome_map_none fun j _ => ?_)
      by_cases hj : (Map.get s.lastQ 0 p + 1 + j) % 64 = q
      · rw [hj, tryQueue_of_prio hhead hp]
      · exact tryQueue_of_none _ (hothers _ hj)
  have hlevel : 7 - (7 - b.prio) = b.prio := by omega
  rw [arbitrate, hwell]
  exact firstSome_map_agree (x := 7 - b.prio) (List.mem_range.mpr (by omega)) (by rw [hlevel, hserved]) fun j _ => hprios _

end

/-! ### Starting (R344, R346) -/

section
variable {s : State} {n : Nat} {x : Inst}

theorem startInst_starts {im : Image} {l : LoadSec} {gone : List Nat} (hx : s.inst n = some x) (hphase : x.phase = 0)
    (him : s.imageOf x.image = some im) (hl : readLoad s im.addr x.load = l)
    (hgone : evictions s x.entry x.image l false [] = some gone) :
    startInst s n = some (shareBarriers n (((List.range l.heads.length).foldl (fun s i => placeRegion x l i s)
      (gone.foldl (fun s k => evictRegion k s) s)).onInst n (fun x => { x with phase := 1 }))) := by
  simp [startInst, hx, hphase, him, hl, hgone]

theorem placeRegion_reuses {l : LoadSec} {i k : Nat} (h : reusable s x.image l i = some k) : placeRegion x l i s =
    (s.onRegion k (fun r => { r with inst := x.num, running := true, triggers := 0 })).onInst x.num (fun y => { y with
      regions := y.regions ++ [k] }) := by
  simp only [placeRegion, h]

theorem placeRegion_loads {l : LoadSec} {i k : Nat} (h : reusable s x.image l i = none)
    (hfree : freeRecord s (Region.die (l.regions.getD i Region.empty)) = some k) : placeRegion x l i s =
    ((takeSites l i s).onRegion k (fun _ => { l.regions.getD i Region.empty with
      image := x.image, load := x.load, index := i, status := 1, inst := x.num, running := true })).onInst x.num (fun y => { y with
        regions := y.regions ++ [k] }) := by
  simp only [placeRegion, h, hfree]

theorem State.region_onInst (i k : Nat) (g : Inst → Inst) : (s.onInst i g).region k = s.region k := rfl

/-! ### Initial data and tokens (R346, R347) -/

section
variable {l : LoadSec} (hx : s.inst n = some x) (hphase : x.phase = 1) (hload : instLoad s x = some l) (hresident : instResident s x = true)
include hx hphase hload hresident

theorem writeBlock_written {b : DataBlock} {v : State} (hb : l.blocks[x.dataNext]? = some b) (hfits : b.va.toNat + b.len ≤ 2 ^ 57)
    (hv : writeVa l.ctx (vaParts b.va.toNat b.len) (Memory.readBytes s.mem b.start b.len) s = some v) :
    writeBlock s n = some (v.onInst n (fun x => { x with dataNext := x.dataNext + 1 })) := by
  have hdone : (if 2 ^ 57 < b.va.toNat + b.len then none
      else writeVa l.ctx (vaParts b.va.toNat b.len) (Memory.readBytes s.mem b.start b.len) s) = some v := by
    rw [if_neg (Nat.not_lt.mpr hfits), hv]
  simp only [writeBlock, hx, hphase, hload, hresident, hb, hdone]
  rfl

theorem writeBlock_fails {b : DataBlock} (hb : l.blocks[x.dataNext]? = some b)
    (hfails : 2 ^ 57 < b.va.toNat + b.len ∨
      writeVa l.ctx (vaParts b.va.toNat b.len) (Memory.readBytes s.mem b.start b.len) s = none) :
    writeBlock s n = some (abortInst n (some x.dataNext) (popLaunch x.queue s)) := by
  have hnone : (if 2 ^ 57 < b.va.toNat + b.len then none
      else writeVa l.ctx (vaParts b.va.toNat b.len) (Memory.readBytes s.mem b.start b.len) s) = none :=
    hfails.elim (fun h => if_pos h) (fun h => by rw [h, ite_self])
  simp only [writeBlock, hx, hphase, hload, hresident, hb, hnone]
  rfl

theorem injectTokens_injects (hwritten : l.blocks.length ≤ x.dataNext) : injectTokens s n = some (popLaunch x.queue
    ((x.regions.foldl (fun s k => launchRegion l (x.tokens.map (fun t => Token.ofWords t.1 t.2)) k s) s).onInst n
      (fun x => { x with phase := 3 }))) := by
  simp [injectTokens, hx, hphase, hload, hresident, Nat.not_lt.mpr hwritten]

end

/-! ### Ending (R342) -/

theorem endInst_ends (hx : s.inst n = some x) (hphase : x.phase = 3)
    (hquiet : ∀ k ∈ x.regions, quiescent s k = true ∧ nothingDue s k = true ∧ (s.region k).rolling = false) :
    endInst s n = some (instOver x (doneStore x x.num s)) := by
  have hall : x.regions.all (fun k => quiescent s k && nothingDue s k && !(s.region k).rolling) = true := by
    rw [List.all_eq_true]
    intro k hk
    obtain ⟨hq, hdue, hroll⟩ := hquiet k hk
    simp [hq, hdue, hroll]
  simp [endInst, hx, hphase, hall]

theorem doneStore_of_none (v : Nat) (h : x.doneAt = 0) : doneStore x v s = s :=
  if_pos (by simp [h])

theorem doneStore_written {v : Nat} {u : State} (h : x.doneAt ≠ 0) (hfits : x.doneAt.toNat + 8 ≤ 2 ^ 57)
    (hu : writeVa (instCtx s x) (vaParts x.doneAt.toNat 8) (leBytes 8 v) s = some u) : doneStore x v s = u := by
  have hstore : (x.doneAt = 0 || 2 ^ 57 < x.doneAt.toNat + 8) = false := by
    simp only [h, Nat.not_lt.mpr hfits, decide_false, Bool.or_self]
  simp only [doneStore, hstore, hu]
  rfl

end

/-- Settles O55: each step is the function of its event in the case at hand (`registerImage_…`, `arbitrate_…`, `startInst_starts`,
`writeBlock_…`, `endInst_ends`, `deliverNext_delivers`, `becomeResident_whole`), and the records and PEs that it leaves are read off. -/
theorem loaderAndArbiter : Obligations.LoaderAndArbiter := by
  unfold Obligations.LoaderAndArbiter
  refine ⟨?register, ?unregister, ?malformed, ?chooses, ?chosen, ?starts, ?placed, ?injects, ?ends, fun s x h => doneStore_of_none _ h,
    fun s v x h hfits hv => doneStore_written h hfits hv, ?delivers, ?word, ?resident⟩
  case register =>
    intro s hf hbusy hc a len
    exact ⟨fun x hx => (exec_imageRegister hf hbusy hc).trans (congrArg _ (registerImage_rejected hx)),
      fun hx => ⟨_, (exec_imageRegister hf hbusy hc).trans (congrArg _ (registerImage_accepted hx)), rfl, rfl, rfl, rfl⟩⟩
  case unregister =>
    intro s hf hbusy hc used
    refine ⟨fun h => ⟨_, (exec_imageUnregister hf hbusy hc).trans (congrArg _ (unregisterImage_unused h)), rfl, fun i => ?_, rfl⟩,
      fun h => (exec_imageUnregister hf hbusy hc).trans (congrArg _ (unregisterImage_used h))⟩
    simp
  case malformed =>
    intro s q n r va b hf hq hbefore hhead hreason
    exact congrArg Host.Outcome.next (orSelf_some hf (arbitrate_malformed hq hbefore hhead hreason))
  case chooses =>
    intro s q n va b l gone hf hq hprio hothers hhead hreason hinsts hpreds hload hgone
    exact congrArg Host.Outcome.next (orSelf_some hf
      (arbitrate_chooses hq hprio hothers hhead hreason hinsts hpreds hload hgone))
  case chosen =>
    intro q n b s
    exact ⟨_, List.mem_append_right _ (List.mem_singleton_self _), rfl, rfl, rfl, rfl, rfl, rfl, rfl, rfl, rfl, rfl⟩
  case starts =>
    intro s n x im gone hf hx hphase him l hgone
    exact congrArg Host.Outcome.next (orSelf_some hf (startInst_starts hx hphase him rfl hgone))
  case placed =>
    intro s x l i k
    refine ⟨fun h => ?_, fun h hfree => ?_⟩
    · rw [placeRegion_reuses h, State.region_onInst, State.region_onRegion_self]
      exact ⟨rfl, rfl, rfl⟩
    · rw [placeRegion_loads h hfree, State.region_onInst, State.region_onRegion_self]
      exact ⟨rfl, rfl, rfl, rfl⟩
  case injects =>
    intro s n x l hf hx hphase hload hresident
    refine ⟨fun b hb hfits v hv => ?_, fun b hb hfails => ?_, fun hwritten => ?_⟩
    · exact congrArg Host.Outcome.next (orSelf_some hf (writeBlock_written hx hphase hload hresident hb hfits hv))
    · exact congrArg Host.Outcome.next (orSelf_some hf (writeBlock_fails hx hphase hload hresident hb hfails))
    · exact congrArg Host.Outcome.next (orSelf_some hf (injectTokens_injects hx hphase hload hresident hwritten))
  case ends =>
    intro s n x hf hx hphase hquiet
    exact congrArg Host.Outcome.next (orSelf_some hf (endInst_ends hx hphase hquiet))
  case delivers =>
    intro s k l w hf hload hstatus hhalted hw
    exact congrArg Host.Outcome.next (orSelf_some hf (deliverNext_delivers hload hstatus hhalted hw))
  case word =>
    intro k c x st n w s
    rw [deliver_word]
    exact ⟨by rw [State.pe_onPe_self, Map.find_put_self], fun j hj => State.pe_onPe_ne s _ hj⟩
  case resident =>
    intro s k l hf hload hstatus hhalted hwords
    obtain ⟨hrunning, hcaboose⟩ := loadResident_region k l s
    have hsites := loadResident_sites k l s
    have hrest := firstMark_rest k (loadResident k l s)
    refine ⟨_, congrArg Host.Outcome.next (orSelf_some hf (becomeResident_whole hload hstatus hhalted hwords)), ?_,
      (congrArg State.mem hrest :).trans hsites.mem, (congrArg State.net hrest :).trans hsites.net, ?_, fun e he hin => ?_⟩
    · rw [firstMark_region]
      exact hrunning
    · rw [firstMark_region]
      exact hcaboose
    · rw [State.pe, (congrArg State.pes hrest :)]
      exact loadResident_ctxState he hin

end Sys2Proof.Machine
end

section
/-! Control of regions (R339, R349, R370 to R379): flush, halt and resume, the debug block, and pre-emption, with the statement on it
(O56). -/

namespace Sys2Proof.Machine

/-! ### Flush, halt and resume (R339, R375) -/

section
variable {s : State} {k : Nat}

theorem flushByHost_flushes (hvalid : (s.region k).valid = true) (hloading : (s.region k).status ≠ 1) :
    flushByHost k s = (flushRegion k s).onRegion k (fun g => { g with status := 4 }) :=
  if_pos (by simp [hvalid, hloading])

theorem haltCommand_halts (hvalid : (s.region k).valid = true) :
    haltCommand k s = s.onRegion k (fun r => { r with halted := true, progress := progressNow s k }) :=
  if_pos hvalid

theorem resumeRegion_resumes (hhalted : (s.region k).halted = true) (hidle : ∀ ko ∈ regionOpers s k, (s.oper ko.1).state ≠ 2) :
    resumeRegion k s = s.onRegion k (fun r => { r with halted := false, stepping := 0, progressAt := s.now r.die }) :=
  (if_pos hhalted).trans (wakeOpers_idle k _ hidle)

/-! ### The debug block (R377, R378) -/

section
variable {die : Nat} (ho : s.hostOpen = true) (hdie : die < 24)
include ho hdie

theorem exec_debugStep (v : Word) : exec (.debugStep die v) s = .next (debugStep die v s) :=
  congrArg Host.Outcome.next ((hostEvent_open ho).trans (if_pos hdie))

theorem exec_debugRead : exec (.debugRead die) s = .next (debugRead die s) := by
  obtain ⟨hready, hf⟩ := State.hostOpen_iff.mp ho
  simp only [exec, execDebugRead, hready, hf, hdie, Bool.not_true, Bool.false_eq_true, if_false, if_true]

end

theorem debugStep_steps {die : Nat} {v : Word} (hn : field v 15 8 ≠ 0) (hhalted : (s.region (64 * die + field v 5 0)).halted = true) :
    debugStep die v s = (s.onRegion (64 * die + field v 5 0) (fun r => { r with stepping := field v 15 8 })).onDie die (fun d => { d with
      dsstat := BitVec.ofNat 64 (field v 5 0 * 2 ^ 16) }) := by
  simp [debugStep, hn, hhalted]

theorem debugStep_refused {die : Nat} {v : Word} (h : field v 15 8 = 0 ∨ (s.region (64 * die + field v 5 0)).halted = false) :
    debugStep die v s = s.refuseWrite :=
  if_pos (by rcases h with h | h <;> simp [h])

/-- A die's registers with the item that a debug read has fetched. -/
def DieRegs.fetched (b : BitVec 128) (d : DieRegs) : DieRegs :=
  { d with ddata0 := BitVec.ofNat 64 (b.toNat % 2 ^ 64), ddata1 := BitVec.ofNat 64 (b.toNat / 2 ^ 64) }

theorem debugRead_readable {die : Nat} {b : BitVec 128} (hr : readable s (debugRegion s die (s.die die).daddr) = true)
    (hb : debugItem s (debugRegion s die (s.die die).daddr) die (s.die die).daddr = some b) :
    debugRead die s = { s.onDie die (DieRegs.fetched b) with hostRead := BitVec.ofNat 64 (b.toNat % 2 ^ 64) } := by
  simp only [debugRead, hr, hb, if_true]
  rfl

theorem debugRead_unreadable {die : Nat} (hr : readable s (debugRegion s die (s.die die).daddr) = false) :
    debugRead die s = { (s.onDie die (fun d => { d with ddata0 := 0, ddata1 := 0 })).refuseWrite with hostRead := 0 } := by
  simp only [debugRead, hr, Bool.false_eq_true, if_false]

/-! ### Requests of the host (R370, R373) -/

section
variable {i : Nat} {x : Inst} (hx : s.inst i = some x)
include hx

theorem hostPreempt_asks (mode : Nat) (hphase : x.phase = 3) (hpool : s.poolHolds x.regions = true) : hostPreempt i mode s =
    (x.regions.foldl (fun s k => askRegion mode x.budget x.policy true k s) s).onInst i (fun x => { x with byHost := true }) := by
  simp [hostPreempt, hx, hphase, hpool]

theorem hostPreempt_refused (mode : Nat) (h : x.phase ≠ 3 ∨ s.poolHolds x.regions = false) : hostPreempt i mode s = s.refuseWrite := by
  have hrefused : (x.phase != 3 || !s.poolHolds x.regions) = true := by simpa using h
  simp only [hostPreempt, hx, hrefused, if_true]

theorem hostResume_resumes (hphase : x.phase = 5) (hhost : x.byHost = true) :
    hostResume i s = s.onInst i (fun x => { x with byHost := false }) := by
  simp [hostResume, hx, hphase, hhost]

theorem hostResume_refused (h : x.phase ≠ 5 ∨ x.byHost = false) : hostResume i s = s.refuseWrite := by
  have hrefused : ¬((decide (x.phase = 5) && x.byHost) = true) := by simpa [← not_or, or_iff_not_imp_left] using h
  simp only [hostResume, hx, if_neg hrefused]

/-- What is parked and waits for its footprint alone goes on (R373). -/
theorem instResume_resumes {gone : List Nat} (hphase : x.phase = 5) (hhost : x.byHost = false) (hplan : resumePlan s x = some gone) :
    instResume s i = some (resumeInst x gone s) := by
  simp [instResume, hx, hphase, hhost, hplan]

end

theorem askRegion_preempt (mode budget policy : Nat) (b : Bool) (hnone : (s.region k).preempt.mode = 0)
    (hstatus : (s.region k).status ≠ 6) : ((askRegion mode budget policy b k s).region k).preempt =
      ⟨if (s.region k).status = 3 then mode + 2 else mode, s.now (s.region k).die, budget, policy, b⟩ := by
  simp [askRegion, hnone, hstatus]

/-! ### The park (R371 to R374) -/

theorem parkReady_of (hf : s.fatal = false) (hpool : s.poolHolds [k] = true) (hrolling : (s.region k).rolling = false)
    (hvalid : (s.region k).valid = true) (hloading : (s.region k).status ≠ 1) (hparked : (s.region k).status ≠ 6)
    (hdone : Region.saving (s.region k) = 1 ∧ (s.region k).halted = false ∧ waveBoundary s k = true ∨
      Region.saving (s.region k) = 2 ∧ saveReady s k = true) : parkReady s k = true := by
  have hsave : ((s.region k).saving == 1 && !(s.region k).halted && waveBoundary s k ||
      (s.region k).saving == 2 && saveReady s k) = true := by
    simpa [and_assoc] using hdone
  simp only [parkReady, hf, hpool, hrolling, hvalid, bne_iff_ne.mpr hloading, bne_iff_ne.mpr hparked, hsave, Bool.not_false,
    Bool.and_self]

theorem allParked_rest (s : State) (i : Nat) : { allParked s i with insts := s.insts } = s := by
  unfold allParked
  split
  · split <;> rfl
  · rfl

/-- A region's PEs as it is parked: their part of its context is gone, and the context's entry shows it parked. -/
def parkedPes (k : Nat) (s : State) : State :=
  onRegionPes k (fun p =>
    (if ownsMatrix s k then purgeMatrix (purgeCtx (s.region k).ctx p) else purgeCtx (s.region k).ctx p).setState (s.region k).ctx 3) s

/-- A region's sites as it is parked: the matrix state cleared, and what need not be saved discarded. -/
def parkedSites (k : Nat) (s : State) : State :=
  let s2 := if ownsMatrix s k then (parkedPes k s).onMatrix (Site.key (s.region k).corner) (fun _ => Matrix.clear) else parkedPes k s
  if (s.region k).saving = 2 then (regionTiles s2 k).foldl (fun s x => s.onTile x discardSlots) s2 else s2

theorem parkedPes_entries {x : Site} (hx : x ∈ (s.region k).peSites) :
    ∀ e ∈ ((parkedPes k s).pe (Site.key x)).entries, e.ctx ≠ (s.region k).ctx := by
  refine onRegionPes_pe (P := fun p => ∀ e ∈ p.entries, e.ctx ≠ (s.region k).ctx) (fun p => ?_) hx
  split <;> exact purgeCtx_entries_ctx _ p

theorem parkedSites_pe (k x : Nat) (s : State) : (parkedSites k s).pe x = (parkedPes k s).pe x := by
  unfold parkedSites
  dsimp only
  split
  · exact (congrArg (fun u : State => u.pe x) (foldTile_rest _ _ _) :).trans (by split <;> rfl)
  · split <;> rfl

theorem parkedSites_sites (k : Nat) (s : State) : s.SitesOnly (parkedSites k s) := by
  have hpes : s.SitesOnly (parkedPes k s) := .of_pes (onRegionPes_rest k _ s)
  have hmatrix : s.SitesOnly (if ownsMatrix s k then
      (parkedPes k s).onMatrix (Site.key (s.region k).corner) (fun _ => Matrix.clear) else parkedPes k s) := by
    split
    · exact hpes.onMatrix _ _
    · exact hpes
  unfold parkedSites
  dsimp only
  split
  · exact hmatrix.trans (.of_tiles (foldTile_rest _ _ _))
  · exact hmatrix

/-- A region that has left for the save pool, with what was on its way inside it (R373). -/
def regionSaved (k : Nat) (s : State) : State :=
  { parkedSites k s with
    parked := (parkedSites k s).parked ++ [parkSnap k s]
    net := (parkedSites k s).net.filter (fun f => !s.inside k f) }.onRegion k (fun r => { r with status := 6, progress := progressNow s k })

/-- A park saves the region; besides only the record of the launch, parked with its last region, may change. -/
theorem parkRegion_rest (k : Nat) (s : State) : { parkRegion k s with insts := (regionSaved k s).insts } = regionSaved k s :=
  allParked_rest (regionSaved k s) (s.region k).inst

theorem parkRegion_status (k : Nat) (s : State) : ((parkRegion k s).region k).status = 6 := by
  have hregion : (parkRegion k s).region k = (regionSaved k s).region k :=
    (congrArg (fun u : State => u.region k) (parkRegion_rest k s) :)
  rw [hregion, regionSaved, State.region_onRegion_self]

theorem parkRegion_mem (k : Nat) (s : State) : (parkRegion k s).mem = s.mem :=
  (congrArg State.mem (parkRegion_rest k s) :).trans (parkedSites_sites k s).mem

theorem parkRegion_net (k : Nat) (s : State) : (parkRegion k s).net = s.net.filter (fun f => !s.inside k f) :=
  (congrArg State.net (parkRegion_rest k s) :).trans (congrArg _ (parkedSites_sites k s).net)

theorem parkSnap_mem_parked (k : Nat) (s : State) : parkSnap k s ∈ (parkRegion k s).parked := by
  have hparked : (parkRegion k s).parked = (regionSaved k s).parked := (congrArg State.parked (parkRegion_rest k s) :)
  rw [hparked]
  exact List.mem_append_right _ (List.mem_singleton_self _)

theorem parkRegion_pe (k x : Nat) (s : State) : (parkRegion k s).pe x = (parkedPes k s).pe x :=
  (congrArg (fun u : State => u.pe x) (parkRegion_rest k s) :).trans (parkedSites_pe k x s)

/-! ### The budget of a drain (R371) -/

theorem budgetOver_status (hover : budgetOver s k = true) : (s.region k).status ≠ 6 := by
  simp only [budgetOver, Bool.and_eq_true, bne_iff_ne] at hover
  obtain ⟨⟨⟨-, hstatus⟩, -⟩, -⟩ := hover
  exact hstatus

/-- A region whose drain is given up is asked for nothing any more. -/
def drainGivenUp (k : Nat) (s : State) : State :=
  s.onRegion k (fun r => if r.status != 6 then { r with preempt := .none } else r)

theorem drainGivenUp_region (hparked : (s.region k).status ≠ 6) :
    (drainGivenUp k s).region k = { s.region k with preempt := .none } := by
  rw [drainGivenUp, State.region_onRegion_self, if_pos (bne_iff_ne.mpr hparked)]

section
variable {i : Nat} {x : Inst} (hx : s.inst i = some x) (hregions : x.regions = [k]) (hover : budgetOver s k = true)
include hx hregions hover

theorem budgetExpires_forces (hpolicy : x.policy = 3) : budgetExpires s i = some (s.onRegion k (fun r =>
    if r.preempt.mode = 1 && r.status != 6 then { r with preempt := { r.preempt with mode := 2 } } else r)) := by
  simp [budgetExpires, hx, hregions, hover, hpolicy]

/-- Under another policy the drain is given up, and with it what was to start in its place. -/
theorem budgetExpires_abandons (hpolicy : x.policy ≠ 3) : budgetExpires s i = some { drainGivenUp k s with
    insts := (s.onInst i (fun x => { x with byHost := false })).insts.filter (fun y => !(y.phase == 0 && x.prio < y.prio)) } := by
  have hstay : ((drainGivenUp k s).region k).status ≠ 6 := by
    rw [drainGivenUp_region (budgetOver_status hover)]
    exact budgetOver_status hover
  have hnone : [k].filter (fun j => ((drainGivenUp k s).region j).status == 6) = [] := by
    rw [List.filter_eq_nil_iff]
    simpa using hstay
  simp only [budgetExpires, hx, hregions, List.any_cons, hover, Bool.true_or, Bool.not_true, Bool.false_eq_true, if_false, if_neg hpolicy,
    List.foldl_cons, List.foldl_nil]
  rw [← drainGivenUp, hnone]
  rfl

end

end

/-- Settles O56: each command is the function of its event in the case at hand (`flushByHost_flushes`, `debugStep_…`, `hostPreempt_…`,
`budgetExpires_…`); what a flush and a park leave is that of `flushRegion_…` and `parkRegion_…`. -/
theorem regionControl : Obligations.RegionControl := by
  unfold Obligations.RegionControl
  refine ⟨?commands, ?flushed, ?steps, ?reads, ?requests, fun s k mode budget policy b hnone hstatus =>
    askRegion_preempt mode budget policy b hnone hstatus, ?parks, ?resumes, ?budget⟩
  case commands =>
    intro s k ho r
    refine ⟨fun hvalid hloading => ?_, fun hvalid => ?_, fun hhalted hidle => ?_, congrArg Host.Outcome.next (hostEvent_open ho),
      congrArg Host.Outcome.next (hostEvent_open ho)⟩
    · exact congrArg Host.Outcome.next ((hostEvent_open ho).trans (flushByHost_flushes hvalid hloading))
    · exact congrArg Host.Outcome.next ((hostEvent_open ho).trans (haltCommand_halts hvalid))
    · exact congrArg Host.Outcome.next ((hostEvent_open ho).trans (resumeRegion_resumes hhalted hidle))
  case flushed =>
    intro s k v
    obtain ⟨hcaboose, hinputs, hlaunch, hframes⟩ := flushRegion_record k s
    have hsites := flushRegion_sites k s
    refine ⟨hcaboose, hinputs, hlaunch, hframes, hsites.mem, hsites.net, fun x hx => flushRegion_entries k s hx, fun b hb hregion => ?_⟩
    obtain ⟨a, -, ha⟩ := List.mem_filterMap.mp (hsites.accesses ▸ hb)
    exact orphanAccess_phase ha hregion
  case steps =>
    intro s die v ho hdie k
    exact ⟨fun hn hhalted => (exec_debugStep ho hdie v).trans (congrArg _ (debugStep_steps hn hhalted)),
      fun h => (exec_debugStep ho hdie v).trans (congrArg _ (debugStep_refused h))⟩
  case reads =>
    intro s die ho hdie v
    refine ⟨fun b hr hb => ⟨_, (exec_debugRead ho hdie).trans (congrArg _ (debugRead_readable hr hb)), rfl, ?_, rfl⟩,
      fun hr => ⟨_, (exec_debugRead ho hdie).trans (congrArg _ (debugRead_unreadable hr)), rfl⟩⟩
    exact congrArg DieRegs.ddata1 (State.die_onDie_self s die (DieRegs.fetched b))
  case requests =>
    intro s i x ho hx
    refine ⟨fun hphase hpool => ?_, fun h => ?_, fun hphase hhost => ?_, fun h => ?_⟩
    · exact List.forall_mem_cons.mpr ⟨congrArg Host.Outcome.next ((hostEvent_open ho).trans (hostPreempt_asks hx 1 hphase hpool)),
        List.forall_mem_singleton.mpr (congrArg Host.Outcome.next ((hostEvent_open ho).trans (hostPreempt_asks hx 2 hphase hpool)))⟩
    · exact List.forall_mem_cons.mpr ⟨congrArg Host.Outcome.next ((hostEvent_open ho).trans (hostPreempt_refused hx 1 h)),
        List.forall_mem_singleton.mpr (congrArg Host.Outcome.next ((hostEvent_open ho).trans (hostPreempt_refused hx 2 h)))⟩
    · exact congrArg Host.Outcome.next ((hostEvent_open ho).trans (hostResume_resumes hx hphase hhost))
    · exact congrArg Host.Outcome.next ((hostEvent_open ho).trans (hostResume_refused hx h))
  case parks =>
    intro s k hf hpool r hrolling hvalid hloading hparked hdone
    refine ⟨_, congrArg Host.Outcome.next (if_pos (parkReady_of hf hpool hrolling hvalid hloading hparked hdone)), parkRegion_status k s,
      parkRegion_mem k s, parkRegion_net k s, ⟨_, parkSnap_mem_parked k s, rfl, rfl⟩, fun x hx => ?_⟩
    rw [parkRegion_pe]
    exact parkedPes_entries hx
  case resumes =>
    intro s i x gone hf hx hphase hhost hplan
    exact congrArg Host.Outcome.next (orSelf_some hf (instResume_resumes hx hphase hhost hplan))
  case budget =>
    intro s i k x hf hx hregions hover
    refine ⟨fun hpolicy hmode => ?_, fun hpolicy => ?_⟩
    · refine ⟨_, congrArg Host.Outcome.next (orSelf_some hf (budgetExpires_forces hx hregions hover hpolicy)), ?_, rfl⟩
      simp [hmode, budgetOver_status hover]
    · exact ⟨_, congrArg Host.Outcome.next (orSelf_some hf (budgetExpires_abandons hx hregions hover hpolicy)),
        congrArg (fun r => r.preempt.mode) (drainGivenUp_region (budgetOver_status hover))⟩

end Sys2Proof.Machine
end

section
/-! Translation (R351 to R367): the walk, translated and held elements, accesses at their home, invalidation and retirement, with the
statement on them (O54). -/

namespace Sys2Proof.Machine

/-! ### The walk (R353 to R355) -/

/-- The index of an address into a table of a level (R353). -/
def walkIndex (level va : Nat) : Nat :=
  if level = 0 then va / 2 ^ 42 % 32768 else if level = 1 then va / 2 ^ 29 % 8192 else va / 2 ^ 16 % 8192

theorem tableWord_clean {s : State} (h : s.poisonMem = []) (addr : Nat) : tableWord s addr = some (Memory.readWord s.mem addr) := by
  simp [tableWord, h]

/-- At a valid and well-formed entry the walk ends with the page of a leaf, or goes on at the next table. -/
theorem walkFrom_entry {s : State} {va n level table : Nat} {e : Word} (hclean : s.poisonMem = [])
    (he : Memory.readWord s.mem (table + 8 * walkIndex level va) = e) (hvalid : bit e 0 = true)
    (hgood : entryBad level (walkIndex level va) e = false) : walkFrom s va (n + 1) level table =
      if bit e 1 then entryPage level (walkIndex level va) e else walkFrom s va n (level + 1) (entryAddr e) := by
  have hword : tableWord s (table + 8 * walkIndex level va) = some e := by rw [tableWord_clean hclean, he]
  unfold walkIndex at hword hgood ⊢
  simp only [walkFrom, hword, hvalid, hgood]
  rfl

/-- Entries of the first table are no leaves. -/
theorem entryBad_root {index : Nat} {e : Word} (h : entryBad 0 index e = false) : bit e 1 = false := by
  by_contra hleaf
  simp [entryBad, hleaf] at h

/-- Entries of the last table are leaves. -/
theorem entryBad_last {index : Nat} {e : Word} (h : entryBad 2 index e = false) : bit e 1 = true := by
  by_contra hleaf
  simp [entryBad, hleaf] at h

theorem walk_invalid_root {s : State} {ctx : Nat} (va : Nat) (h : bit (Map.get s.modRegs.troot 0 ctx) 0 = false) :
    walk s ctx va = .fault 0 1 := by
  rw [walk, h, if_neg Bool.false_ne_true]

section
variable {s : State} {ctx va : Nat} {e0 e1 : Word} (hroot : bit (Map.get s.modRegs.troot 0 ctx) 0 = true) (hclean : s.poisonMem = [])
  (he0 : Memory.readWord s.mem (field (Map.get s.modRegs.troot 0 ctx) 51 18 * 2 ^ 18 + 8 * walkIndex 0 va) = e0) (hv0 : bit e0 0 = true)
  (hb0 : entryBad 0 (walkIndex 0 va) e0 = false) (he1 : Memory.readWord s.mem (entryAddr e0 + 8 * walkIndex 1 va) = e1)
  (hv1 : bit e1 0 = true) (hb1 : entryBad 1 (walkIndex 1 va) e1 = false)
include hroot hclean he0 hv0 hb0 he1 hv1 hb1

/-- A walk through two valid tables: a leaf of the second gives a page of 512 MiB, another entry the third table. -/
theorem walk_second : walk s ctx va =
    if bit e1 1 then entryPage 1 (walkIndex 1 va) e1 else walkFrom s va 1 2 (entryAddr e1) := by
  rw [walk, if_pos hroot, walkFrom_entry hclean he0 hv0 hb0, entryBad_root hb0, if_neg Bool.false_ne_true,
    walkFrom_entry hclean he1 hv1 hb1]

theorem walk_third {e2 : Word} (hbranch : bit e1 1 = false) (he2 : Memory.readWord s.mem (entryAddr e1 + 8 * walkIndex 2 va) = e2)
    (hv2 : bit e2 0 = true) (hb2 : entryBad 2 (walkIndex 2 va) e2 = false) : walk s ctx va = entryPage 2 (walkIndex 2 va) e2 := by
  rw [walk_second hroot hclean he0 hv0 hb0 he1 hv1 hb1, hbranch, if_neg Bool.false_ne_true, walkFrom_entry hclean he2 hv2 hb2,
    entryBad_last hb2, if_pos rfl]

end

theorem entryPage_middle (index : Nat) (e : Word) :
    entryPage 1 index e = .page 29 (field e 51 16 * 2 ^ 16) (bit e 2) (bit e 3) (decide (field e 15 8 ≠ 0)) := by
  simp [entryPage, entryAddr, bne, beq_eq_decide]

theorem entryPage_last (index : Nat) (e : Word) : entryPage 2 index e =
    if bit e 4 then .page 21 (field e 51 16 * 2 ^ 16 - 2 ^ 16 * (index % 32)) (bit e 2) (bit e 3) (decide (field e 15 8 ≠ 0))
    else .page 16 (field e 51 16 * 2 ^ 16) (bit e 2) (bit e 3) (decide (field e 15 8 ≠ 0)) := by
  simp [entryPage, entryAddr, bne, beq_eq_decide]

/-! ### The end of a walk (R354, R356, R360, R364) -/

/-- An event ends the walk of access `n` in state `u`, where the access stands as `b`: its walk has ended now, or a pin is granted and
it is translated again. -/
structure EndsWalk (s : State) (n : Nat) (a : Access) (i : Instr) (u : State) (b : Access) : Prop where
  access : u.access n = some b
  walks : b = { a with phase := 0 }
  turn : inTurn u b = true
  translation : translate u a.unit a.ctx a.va.toNat = translate s a.unit a.ctx a.va.toNat
  next : ∀ t, walkEnd u n = some t → exec i s = .next t

/-- The turn of an access hangs on earlier ones alone. -/
theorem inTurn_onAccess {s : State} {n : Nat} {a : Access} (g : Access → Access) (hn : a.id = n) (hid : ∀ x, (g x).id = x.id) :
    inTurn (s.onAccess n g) a = inTurn s a := by
  subst hn
  simp only [inTurn, State.onAccess, List.any_map]
  congr 2
  funext b
  by_cases hb : b.id = a.id
  · simp [hb, hid]
  · simp [hb]

theorem access_id {s : State} {n : Nat} {a : Access} (h : s.access n = some a) : a.id = n := by
  simpa using List.find?_some h

section
variable {s : State} {n : Nat} {a : Access} (hf : s.fatal = false) (hh : ∀ k, handlerFull s k 0x01 = false) (ha : s.access n = some a)
  (hturn : inTurn s a = true)
include hf hh ha hturn

theorem endsWalk_walkEnd (hphase : a.phase = 0) : EndsWalk s n a (.translationWalkEnd n) s a where
  access := ha
  walks := by rw [← hphase]
  turn := hturn
  translation := rfl
  next _ ht := congrArg Host.Outcome.next (orHeld_some hf hh ht)

theorem endsWalk_pinGranted (hwaits : waitsPin s a = true) (hpins : pinnedPages s a.unit < 1024) :
    EndsWalk s n a (.pinGranted n) (s.onAccess n (fun x => { x with phase := 0 })) { a with phase := 0 } where
  access := access_onAccess ha (fun _ => rfl)
  walks := rfl
  turn := by
    have hsame := inTurn_onAccess (s := s) (fun x => { x with phase := 0 }) (access_id ha) (fun _ => rfl)
    exact hsame.trans hturn
  translation := rfl
  next t ht := by
    have hgrant : pinGrant s n = walkEnd (s.onAccess n (fun x => { x with phase := 0 })) n := by
      simp [pinGrant, ha, hwaits, hpins]
    exact congrArg Host.Outcome.next (orHeld_some hf hh (hgrant.trans ht))

end

namespace EndsWalk

section
variable {s u : State} {n : Nat} {a b : Access} {i : Instr} (h : EndsWalk s n a i u b)
include h

/-- A translation that faults holds the stream at its element (R360). -/
theorem faults {level cause : Nat} (hw : translate s a.unit a.ctx a.va.toNat = .fault level cause) :
    exec i s = .next (holdAccess b level cause u) := by
  obtain ⟨haccess, rfl, hturn, htranslation, hnext⟩ := h
  apply hnext
  simp [walkEnd, haccess, hturn, htranslation, hw]

variable {sh fr : Nat} {r w refs : Bool} (hw : translate s a.unit a.ctx a.va.toNat = .page sh fr r w refs)
include hw

/-- A page that does not permit the access faults its element with protection (R354). -/
theorem denied (hpermits : permits a.kind r w = false) :
    exec i s = .next (elementFails b 0x09 (fillTlb a.unit a.ctx a.va.toNat (.page sh fr r w refs) u)) := by
  obtain ⟨haccess, rfl, hturn, htranslation, hnext⟩ := h
  apply hnext
  simp [walkEnd, haccess, hturn, htranslation, hw, hpermits]

/-- A first touch of a page of no references faults its element with retiring (R364). -/
theorem unreferenced (hpermits : permits a.kind r w = true) (hrefs : refs = false)
    (hpin : holdsPin u b (a.va.toNat / 2 ^ sh * 2 ^ sh) = false) :
    exec i s = .next (elementFails b 0x0C (fillTlb a.unit a.ctx a.va.toNat (.page sh fr r w refs) u)) := by
  obtain ⟨haccess, rfl, hturn, htranslation, hnext⟩ := h
  apply hnext
  simp [walkEnd, haccess, hturn, htranslation, hw, hpermits, hrefs, hpin]

/-- A page that may be touched is pinned (R364). -/
theorem pins (hpermits : permits a.kind r w = true) (hpin : refs = true ∨ holdsPin u b (a.va.toNat / 2 ^ sh * 2 ^ sh) = true) :
    exec i s = .next (takePin b (a.va.toNat / 2 ^ sh * 2 ^ sh) sh (fr + a.va.toNat % 2 ^ sh)
      (fillTlb a.unit a.ctx a.va.toNat (.page sh fr r w refs) u)) := by
  obtain ⟨haccess, rfl, hturn, htranslation, hnext⟩ := h
  apply hnext
  have hmay : (!refs && !holdsPin u { a with phase := 0 } (a.va.toNat / 2 ^ sh * 2 ^ sh)) = false := by
    rcases hpin with hpin | hpin <;> simp [hpin]
  simp [walkEnd, haccess, hturn, htranslation, hw, hpermits, hmay]

end

end EndsWalk

/-- A STORE requests no elements: its writes come of its data. -/
theorem issueNext_store {s : State} {site : Nat} (h : (s.oper site).kind = 1) : issueNext site s = s := by
  unfold issueNext
  simp [h]

theorem hasPin_pinPage (a : Access) (page sh : Nat) (s : State) : hasPin (pinPage a page sh s) a page = true := by
  unfold pinPage
  split
  next h => exact h
  next => simp [hasPin]

/-- The state in which a translated access has its pin and goes on to its home. -/
def pinTaken (a : Access) (page sh pa : Nat) (s : State) : State :=
  (pinPage a page sh s).onAccess a.id (fun x => { x with phase := 2, pa := pa })

theorem pinPage_rest (a : Access) (page sh : Nat) (s : State) : { pinPage a page sh s with pins := s.pins } = s := by
  unfold pinPage
  split <;> rfl

theorem takePin_store {s : State} {a : Access} (page sh pa : Nat) (hroom : pinnedPages s a.unit < 1024)
    (hstore : (s.oper a.oper).kind = 1) : takePin a page sh pa s = pinTaken a page sh pa s := by
  have hkind : ((pinTaken a page sh pa s).oper a.oper).kind = 1 := by
    have hoper := congrArg (fun v : State => (v.oper a.oper).kind) (pinPage_rest a page sh s)
    exact hoper.trans hstore
  simp only [takePin, hroom, decide_true, Bool.or_true, if_true]
  exact issueNext_store hkind

theorem pinTaken_access {s : State} {a : Access} (page sh pa : Nat) (ha : s.access a.id = some a) :
    (pinTaken a page sh pa s).access a.id = some { a with phase := 2, pa := pa } := by
  have haccess := congrArg (fun v : State => v.access a.id) (pinPage_rest a page sh s)
  exact access_onAccess (g := fun x => { x with phase := 2, pa := pa }) (haccess.trans ha) (fun _ => rfl)

/-! ### Engine slots (R358) -/

theorem slotFreed_starts {s : State} {unit site : Nat} {o : Oper}
    (hfirst : s.opers.find? (fun ko => ko.2.state == 4 && !ko.2.arms.isEmpty && servingUnit s ko.1 == unit) = some (site, o))
    (hfree : slotFree s unit = true) : slotFreed s unit = some (startNext site s) := by
  simp only [slotFreed, hfirst, hfree, if_true]

/-! ### At the home (R275, R359, R367) -/

theorem orderAccess_performs {s : State} {a : Access} (h : inT3 a.pa = false ∨ a.kind = .read) :
    orderAccess a s = performAccess a s :=
  if_neg (by rcases h with h | h <;> simp [h])

theorem orderAccess_waits {s : State} {a : Access} (ht3 : inT3 a.pa = true) (hkind : a.kind ≠ .read) :
    orderAccess a s = s.onAccess a.id (fun x => { x with phase := 4 }) :=
  if_pos (by simp [ht3, hkind])

section
variable {s : State} {n : Nat} {a : Access} (ha : s.access n = some a)
include ha

section
variable (hphase : a.phase = 2) (hturn : sectorTurn s a = true)
include hphase hturn

theorem tenderStep_filtered (h1 : filterAt s (homeOf a.pa) (filterSpots a.pa).1 ≠ [])
    (h2 : filterAt s (homeOf a.pa) (filterSpots a.pa).2 ≠ []) :
    tenderStep s n = some (s.onAccess n (fun x => { x with
      phase := 3
      before := (filterAt s (homeOf a.pa) (filterSpots a.pa).1 ++ filterAt s (homeOf a.pa) (filterSpots a.pa).2).eraseDups })) := by
  simp [tenderStep, ha, hphase, hturn, h1, h2]

theorem tenderStep_orders
    (h : filterAt s (homeOf a.pa) (filterSpots a.pa).1 = [] ∨ filterAt s (homeOf a.pa) (filterSpots a.pa).2 = []) :
    tenderStep s n = some (orderAccess a s) := by
  rcases h with h | h <;> simp [tenderStep, ha, hphase, hturn, h]

end

theorem tenderStep_counts (hphase : a.phase = 5) (hreq : a.req = none)
    (hkind : a.kind = .write ∨ (a.op = 1 ∧ operAwake s a.oper = true)) : tenderStep s n = some (afterPerform a s) := by
  rcases hkind with hkind | ⟨hop, hawake⟩
  · simp [tenderStep, ha, hphase, hreq, hkind]
  · simp [tenderStep, ha, hphase, hreq, hop, hawake]

theorem filterEnd_orders (hphase : a.phase = 3) (hbefore : ∀ b ∈ s.accesses, b.id ∈ a.before → 5 ≤ b.phase) :
    filterEnd s n = some (orderAccess a s) := by
  have hnone : s.accesses.any (fun b => a.before.contains b.id && b.phase < 5) = false := by
    simpa using hbefore
  simp only [filterEnd, ha, hphase, hnone]
  rfl

section
variable (hphase : a.phase = 4) (ht3 : inT3 a.pa = true)
include hphase ht3

theorem tenderStep_completes : tenderStep s n = some { performAccess a s with cxl := Map.del s.cxl n } := by
  simp [tenderStep, ha, hphase, ht3]

theorem cxlTimeout_retries (hfirst : Map.get s.cxl 0 n = 0) : cxlTimeout s n = some { s with cxl := Map.put s.cxl n 1 } := by
  simp [cxlTimeout, ha, hphase, ht3, hfirst]

theorem cxlTimeout_fatal (hsecond : Map.get s.cxl 0 n ≠ 0) : cxlTimeout s n = some (s.fatalStop 1 24 0) := by
  simp [cxlTimeout, ha, hphase, ht3, hsecond]

end

end

/-! ### Performing (R275, R417) -/

theorem overlay_unmasked (bs ds : List Byte) : overlay bs ds [] = bs := by
  cases bs <;> cases ds <;> rfl

section
variable {s : State} {a : Access} (hold : migrating s a.pa = none)
include hold

theorem performMem_read (hkind : a.kind = .read) (hcmp : a.cmp = []) :
    let bad := rangePoisoned s a.pa a.size || (inT3 a.pa && Config.expanderPoison a.id)
    performMem a s = (Memory.readBytes s.mem a.pa a.size, bad, if bad = true ∧ a.req ≠ none then logMemory a.oper a.tag s else s) := by
  simp [performMem, hkind, hcmp, readHome, hold, overlay_unmasked, Option.isSome_iff_ne_none]

theorem writeHome_mem (hnew : migratedTo s a.pa = none) (bs : List Byte) :
    (writeHome a.pa bs s).mem = Memory.writeBytes s.mem a.pa bs := by
  simp only [writeHome, hold, hnew]
  rfl

theorem performMem_write (hnew : migratedTo s a.pa = none) (hkind : a.kind = .write) :
    (performMem a s).2.2.mem = Memory.writeBytes s.mem a.pa a.data ∧ (performMem a s).1 = [] := by
  simp only [performMem, hkind]
  exact ⟨writeHome_mem hold hnew a.data, trivial⟩

end

/-! ### Responses (R158, R160) -/

/-- The token that answers a load of up to eight bytes. -/
def loadAnswer (q : PortReq) (bs : List Byte) : Token := { q.token with payload := BitVec.ofNat 64 (leNat bs) }

theorem answers_load {q : PortReq} {bs : List Byte} (hop : q.op = 0x207) (hsector : sectorRead q = false) :
    answers q bs false = [loadAnswer q bs] := by
  simp [answers, hop, hsector, loadAnswer]

section
variable {s : State} {site : Nat} {q : PortReq} {t : Token} (hvalid : q.targetB.valid = true)
include hvalid

/-- The place of a request is owed to the token that answers it. -/
theorem owePlace_owes (hsite : q.site ≠ 0) : owePlace site q [t] s = s.onOper site (fun o => { o with
    owed := o.owed ++ [⟨Token.lane (Token.toTarget t q.targetB), Token.toTarget t q.targetB, q.site,
      stKey q.token.ctx.toNat q.station⟩] }) := by
  simp [owePlace, hsite, hvalid]

theorem owePlace_rest : { owePlace site q [t] s with opers := s.opers } = s ∧
    ((owePlace site q [t] s).oper site).region = (s.oper site).region := by
  by_cases hsite : q.site = 0
  · simp [owePlace, hsite]
  · rw [owePlace_owes hvalid hsite, State.oper_onOper_self]
    exact ⟨rfl, rfl⟩

end

/-- The state in which an answered request's access is dropped, its place owed, and its pin released. -/
def requestReleased (a : Access) (q : PortReq) (ts : List Token) (s : State) : State :=
  unpin a.pinKey (owePlace a.oper q ts (s.dropAccesses (fun x => x.id == a.id)))

section
variable {s : State} {a : Access} {q : PortReq} {t : Token} (hvalid : q.targetB.valid = true)
include hvalid

theorem requestReleased_rest : (requestReleased a q [t] s).net = s.net ∧ (requestReleased a q [t] s).mem = s.mem ∧
    (requestReleased a q [t] s).accesses = s.accesses.filter (fun x => !(x.id == a.id)) ∧
    ((requestReleased a q [t] s).oper a.oper).region = (s.oper a.oper).region := by
  obtain ⟨hrest, hregion⟩ := owePlace_rest (s := s.dropAccesses (fun x => x.id == a.id)) (site := a.oper) (t := t) hvalid
  exact ⟨(congrArg State.net hrest :), (congrArg State.mem hrest :), (congrArg State.accesses hrest :), hregion⟩

theorem requestReleased_owed (hsite : q.site ≠ 0) : ((requestReleased a q [t] s).oper a.oper).owed = (s.oper a.oper).owed ++
    [⟨Token.lane (Token.toTarget t q.targetB), Token.toTarget t q.targetB, q.site, stKey q.token.ctx.toNat q.station⟩] := by
  have howed := owePlace_owes (s := s.dropAccesses (fun x => x.id == a.id)) (site := a.oper) (t := t) hvalid hsite
  have hself := congrArg (fun u : State => (u.oper a.oper).owed) howed
  exact hself.trans (by rw [State.oper_onOper_self]; rfl)

end

/-- A load that has been performed sends its one token to target B. -/
theorem requestDone_load {s : State} {a : Access} {q : PortReq} (hop : q.op = 0x207) (hsector : sectorRead q = false)
    (hpoison : a.poison = false) (hvalid : q.targetB.valid = true) : requestDone a q s =
      (requestReleased a q [loadAnswer q a.bytes] s).post
        ⟨a.oper, 0, .response, Site.key (Token.site (Token.toTarget (loadAnswer q a.bytes) q.targetB)),
          Token.lane (Token.toTarget (loadAnswer q a.bytes) q.targetB), .token (Token.toTarget (loadAnswer q a.bytes) q.targetB),
          (s.oper a.oper).region, true, false⟩ := by
  obtain ⟨-, -, -, hregion⟩ := requestReleased_rest (a := a) (s := s) (t := loadAnswer q a.bytes) hvalid
  unfold requestReleased at hregion ⊢
  simp only [requestDone, hpoison, answers_load hop hsector, List.foldl_cons, List.foldl_nil]
  simp [ordDone, hop, hregion, respond_valid hvalid, State.post]

/-! ### Resolutions (R361, R362, R369) -/

/-- A host's write that acts under a condition, while the interface is open. -/
theorem hostEvent_if {s : State} {g : State → State} {c : Prop} [Decidable c] (ho : s.hostOpen = true) (hc : c) :
    hostEvent s (fun s => if c then g s else s) = g s :=
  (hostEvent_open ho).trans (if_pos hc)

section
variable {s : State} {v : Word}

theorem tresRetry_counts (h : heldBy? s v = none) : tresRetry v s = s.onRegs (fun g => { g with
    tstat := setField g.tstat 31 16 (field g.tstat 31 16 + 1) }) := by
  simp only [tresRetry, h, ignoreTres]

section
variable {h : Hold} {a : Access} (hheld : heldBy? s v = some h)
include hheld

theorem tresRetry_walks (ha : (unhold h s).access h.access = some a) (hform : a.ofQueue = false) :
    tresRetry v s = (unhold h s).onAccess h.access (fun x => { x with phase := 0 }) := by
  simp [tresRetry, hheld, ha, hform]

theorem tresRetry_queue (ha : (unhold h s).access h.access = some a) (hform : a.ofQueue = true) :
    tresRetry v s = (unhold h s).dropAccesses (fun x => x.id == h.access) := by
  simp [tresRetry, hheld, ha, hform]

theorem tresFail_fails (ha : s.access h.access = some a) : tresFail v s = elementFails a 0x09 (unhold h s) := by
  simp only [tresFail, hheld, ha]

end

/-- With no record waiting for room a write of FQHEAD moves the head alone. -/
theorem fqheadWrite_moves (hqueue : s.faultQ = []) (hholds : s.holds = []) : fqheadWrite v s = s.onRegs (fun g => { g with
    fqhead := BitVec.ofNat 64 (field v 15 0), fqFull := g.fqFull && field v 15 0 == field g.fqhead 15 0 }) := by
  simp [fqheadWrite, State.onRegs, hqueue, hholds, drainRetire, drainHolds]

end

/-! ### Invalidation and retirement (R357, R365) -/

/-- The state in which the caches have dropped what a TINV value matches, and its invalidation has begun after none. -/
def invalidating (v : Word) (s : State) : State :=
  { s with
    tlb := s.tlb.filter (fun t => !tinvHits (field v 61 60) (field v 59 57) (field v 56 16 * 65536) t)
    inval := [⟨field v 61 60, field v 59 57, field v 56 16 * 65536,
      (s.accesses.filter (tinvWaits (field v 61 60) (field v 59 57) (field v 56 16 * 65536)
        (s.tlb.filter (tinvHits (field v 61 60) (field v 59 57) (field v 56 16 * 65536))))).map Access.id⟩] }

section
variable {s : State} {v : Word}

theorem tinvWrite_starts (hinval : s.inval = []) (hwait : s.tinvWait = []) : tinvWrite v s =
    if field v 61 60 = 0 then startRetire (field v 59 57) (field v 56 16 * 65536) (invalidating v s) else invalidating v s := by
  simp [tinvWrite, startTinv, invalidating, hinval, hwait]

theorem tinvWrite_waits (hinval : s.inval ≠ []) : tinvWrite v s = { s with tinvWait := s.tinvWait ++ [v] } := by
  simp [tinvWrite, hinval]

theorem invalEnds_completes {i : Invalid} {rest : List Invalid} (hinval : s.inval = i :: rest)
    (hwaits : ∀ a ∈ s.accesses, a.id ∈ i.waits → 5 ≤ a.phase) (hscope : i.scope ≠ 3) (hwait : s.tinvWait = []) :
    invalEnds s = some { s with inval := rest } := by
  simpa [invalEnds, hinval, hscope, hwait] using hwaits

end

/-- The record of a retired page (R361, R365). -/
def retireWords (ctx page : Nat) : List Word :=
  [BitVec.ofNat 64 (page % 2 ^ 57 + ctx * 2 ^ 57), BitVec.ofNat 64 (8 * 2 ^ 32 + 63 * 2 ^ 36), 0, 0]

theorem drainRetire_room {s : State} (ws : List Word) (hroom : s.faultRoom = true) :
    drainRetire [ws] s = { s.putFault ws with faultQ := [] } :=
  if_pos hroom

theorem retireRecord_records {s : State} {n ctx page sh : Nat} (hn : s.retire[n]? = some (ctx, page, sh)) (hinval : s.inval = [])
    (hpins : ∀ p ∈ s.pins, ¬(p.ctx = ctx ∧ p.page < page + 2 ^ sh ∧ page < p.page + 2 ^ p.shift)) (hqueue : s.faultQ = [])
    (hroom : s.faultRoom = true) : retireRecord s n =
      some { ({ s with retire := s.retire.eraseIdx n } : State).putFault (retireWords ctx page) with faultQ := [] } := by
  have hfree : (!s.inval.isEmpty ||
      s.pins.any (fun p => p.ctx == ctx && p.page < page + 2 ^ sh && page < p.page + 2 ^ p.shift)) = false := by
    simpa [hinval, and_assoc] using hpins
  simp only [retireRecord, hn, hfree]
  rw [if_neg Bool.false_ne_true, hqueue]
  refine congrArg some (drainRetire_room (retireWords ctx page) ?_)
  exact hroom

section
variable (ws : List Word) (s : State)

/-- A record goes into the ring at the tail. -/
theorem putFault_hostMem : (s.putFault ws).hostMem = Memory.writeBytes s.hostMem
    (s.modRegs.fqbase.toNat + 32 * (field s.modRegs.fqtail 15 0 % 2 ^ field s.modRegs.fqcfg 4 0)) (wordBytes ws) := by
  simp only [State.putFault]
  split <;> rfl

theorem putFault_fqtail : (s.putFault ws).modRegs.fqtail = BitVec.ofNat 64 ((field s.modRegs.fqtail 15 0 + 1) % 65536) := by
  simp only [State.putFault]
  split <;> rfl

/-- Besides its ring, its registers and its vector a record changes nothing. -/
theorem putFault_rest : { s.putFault ws with
    hostMem := s.hostMem, modRegs := s.modRegs, msixPending := s.msixPending, msixHeld := s.msixHeld } = s := by
  simp only [State.putFault]
  split <;> rfl

end

/-- Settles O54: a walk is followed from table to table (`walk_second`, `walk_third`); an event that ends one does what its translation
says (`EndsWalk`); the other steps are their functions in the case at hand. -/
theorem translation : Obligations.Translation := by
  unfold Obligations.Translation
  refine ⟨?walks, fun s ctx va h => walk_invalid_root va h, ?accesses, ?pinned, ?performed, ?answered, ?slots,
    ?host, ?completes, ?retires⟩
  case walks =>
    intro s ctx va e0 e1 e2 root i0 i1 i2 hroot hclean he0 hv0 hb0 he1 hv1 hb1
    refine ⟨fun hleaf => ?_, fun hbranch he2 hv2 hb2 => ?_⟩
    · rw [walk_second hroot hclean he0 hv0 hb0 he1 hv1 hb1, if_pos hleaf, entryPage_middle]
    · rw [walk_third hroot hclean he0 hv0 hb0 he1 hv1 hb1 hbranch he2 hv2 hb2, entryPage_last]
      rfl
  case accesses =>
    intro s n a hf hh ha
    have htender {t : State} (ht : tenderStep s n = some t) : exec (.tenderAccess n) s = .next t :=
      congrArg Host.Outcome.next (orHeld_some hf hh ht)
    have hfilter {t : State} (ht : filterEnd s n = some t) : exec (.filterWaitEnd n) s = .next t :=
      congrArg Host.Outcome.next (orHeld_some hf hh ht)
    refine ⟨fun i u b hi hturn => ?translated, fun hphase hturn => ⟨fun hn1 hn2 => ?waits, fun hempty hhome => ?performs,
        fun hempty ht3 hkind => ?orders⟩,
      fun hphase hreq hkind => htender (tenderStep_counts ha hphase hreq hkind),
      fun hphase hbefore hhome => ?filtered, fun hphase hbefore ht3 hkind => ?filteredWrite,
      fun hphase ht3 => ⟨htender (tenderStep_completes ha hphase ht3), fun hfirst => ?retried, fun hsecond => ?fatal⟩⟩
    case translated =>
      have h : EndsWalk s n a i u b := by
        rcases hi with ⟨rfl, hphase, rfl, rfl⟩ | ⟨rfl, hwaits, hpins, rfl, rfl⟩
        · exact endsWalk_walkEnd hf hh ha hturn hphase
        · exact endsWalk_pinGranted hf hh ha hturn hwaits hpins
      cases hw : translate s a.unit a.ctx a.va.toNat with
      | fault level cause => exact h.faults hw
      | page sh fr r w refs => exact ⟨h.denied hw, h.unreferenced hw, h.pins hw⟩
    case waits => exact htender (tenderStep_filtered ha hphase hturn hn1 hn2)
    case performs => exact htender ((tenderStep_orders ha hphase hturn hempty).trans (congrArg some (orderAccess_performs hhome)))
    case orders => exact htender ((tenderStep_orders ha hphase hturn hempty).trans (congrArg some (orderAccess_waits ht3 hkind)))
    case filtered => exact hfilter ((filterEnd_orders ha hphase hbefore).trans (congrArg some (orderAccess_performs hhome)))
    case filteredWrite => exact hfilter ((filterEnd_orders ha hphase hbefore).trans (congrArg some (orderAccess_waits ht3 hkind)))
    case retried => exact congrArg Host.Outcome.next (orSelf_some hf (cxlTimeout_retries ha hphase ht3 hfirst))
    case fatal => exact congrArg Host.Outcome.next (orSelf_some hf (cxlTimeout_fatal ha hphase ht3 hsecond))
  case pinned =>
    intro s a page sh pa hroom ha hstore
    rw [takePin_store page sh pa hroom hstore]
    exact ⟨_, pinTaken_access page sh pa ha, rfl, rfl, hasPin_pinPage a page sh s⟩
  case performed =>
    intro s a hold hnew bad
    exact ⟨performMem_read hold, performMem_write hold hnew⟩
  case answered =>
    intro s a q hop hsector hpoison hvalid
    obtain ⟨hnet, hmem, haccesses, -⟩ := requestReleased_rest (a := a) (s := s) (t := loadAnswer q a.bytes) hvalid
    refine ⟨Token.toTarget (loadAnswer q a.bytes) q.targetB, rfl, ?_⟩
    rw [requestDone_load hop hsector hpoison hvalid]
    refine ⟨congrArg (· ++ _) hnet, requestReleased_owed hvalid, fun b hb => ?_, hmem⟩
    have hdropped := (List.mem_filter.mp (haccesses ▸ hb)).2
    simpa using hdropped
  case slots =>
    intro s unit site o hf hh hfirst hfree
    exact congrArg Host.Outcome.next (orHeld_some hf hh (slotFreed_starts hfirst hfree))
  case host =>
    intro s v ho scope page ctx waits u
    refine ⟨fun hinval hwait => ⟨fun hscope => ?ofPage, fun hscope => ?ofContext, fun hscope => ?ofAll⟩, fun hinval => ?behind,
      fun hretry h a hheld ha => ⟨fun hform => ?walk, fun hform => ?queue⟩, fun hfail h a hheld ha => ?fails,
      fun hretry hheld => ?ignored, fun hqueue hholds => ?head⟩
    case ofPage =>
      have hstart := (tinvWrite_starts hinval hwait).trans (if_pos hscope)
      exact congrArg Host.Outcome.next ((hostEvent_if ho hscope).trans hstart)
    case ofContext =>
      have hstart := (tinvWrite_starts hinval hwait).trans (if_neg (ne_of_eq_of_ne hscope one_ne_zero))
      exact congrArg Host.Outcome.next ((hostEvent_if ho hscope).trans hstart)
    case ofAll =>
      have hstart := (tinvWrite_starts hinval hwait).trans (if_neg (ne_of_eq_of_ne hscope two_ne_zero))
      exact congrArg Host.Outcome.next ((hostEvent_if ho hscope).trans hstart)
    case behind =>
      have hwaits {k : Nat} (hk : field v 61 60 = k) : hostEvent s (fun s => if field v 61 60 = k then tinvWrite v s else s) =
          { s with tinvWait := s.tinvWait ++ [v] } :=
        (hostEvent_if ho hk).trans (tinvWrite_waits hinval)
      intro x hx hscope
      simp only [List.mem_cons, List.not_mem_nil, or_false] at hx
      obtain rfl | rfl | rfl := hx <;> exact congrArg Host.Outcome.next (hwaits hscope)
    case walk =>
      exact congrArg Host.Outcome.next ((hostEvent_if ho hretry).trans (tresRetry_walks hheld ha hform))
    case queue =>
      exact congrArg Host.Outcome.next ((hostEvent_if ho hretry).trans (tresRetry_queue hheld ha hform))
    case fails =>
      exact congrArg Host.Outcome.next ((hostEvent_if ho hfail).trans (tresFail_fails hheld ha))
    case ignored =>
      exact congrArg Host.Outcome.next ((hostEvent_if ho hretry).trans (tresRetry_counts hheld))
    case head =>
      refine ⟨_, congrArg Host.Outcome.next ((hostEvent_open ho).trans (fqheadWrite_moves hqueue hholds)), rfl, rfl, rfl⟩
  case completes =>
    intro s i rest hf hinval hwaits hscope hwait
    exact congrArg Host.Outcome.next (orSelf_some hf (invalEnds_completes hinval hwaits hscope hwait))
  case retires =>
    intro s n ctx page sh hf hn hinval hpins hqueue hroom
    have hrest := putFault_rest (retireWords ctx page) { s with retire := s.retire.eraseIdx n }
    exact ⟨_, congrArg Host.Outcome.next (orSelf_some hf (retireRecord_records hn hinval hpins hqueue hroom)),
      (congrArg State.retire hrest :), (congrArg State.mem hrest :), rfl, putFault_hostMem (retireWords ctx page) _,
      putFault_fqtail (retireWords ctx page) _⟩

end Sys2Proof.Machine
end

section
/-! A wait of a closed generation at a barrier of its load (R166; O28). The clause is on every state, and a `Map` is a plain list: where
the regions are not listed in rising order of their keys, writing the barrier back puts a second record of its region before the
firing's, and the released wait finds another region at its PE than the firing did. -/

namespace Sys2Proof.Machine

/-- The first region of the load of `placedRegion`, with a barrier 0 of one arrival whose generation 0 has closed, in wave 7. -/
def barrierRegion : Region := { placedRegion with wave := 7, barriers := [(0, ⟨1, [], [0], []⟩)] }

/-- Region 1, in wave 0, listed before region 0 of the same rectangle and context, and a `bar.wait` of generation 0 that fires at PE
(0, 1, 1). -/
def misplacedRegions : State :=
  { State.reset with
    firing := ⟨Site.key ⟨0, 1, 1⟩, 0, 0, 0, 0, [Token.zero], 0, 0⟩, regions := [(1, placedRegion), (0, barrierRegion)] }

/-- Barrier 0, with no target. -/
def barrierWait : Fields :=
  ⟨1, .i64, false, .rne, false, 0, 0, false, false, false, false, false, 0, 0, ⟨false, 0, 0, 0, 0, .l⟩, ⟨false, 0, 0, 0, 0, .l⟩⟩

/-- The wait fires in region 1, in wave 0; the barrier's write puts region 0 before it. -/
theorem misplacedRegions_fires : misplacedRegions.fireRegion = some 1 ∧ (misplacedRegions.region 1).wave = 0 ∧
    (misplacedRegions.pe misplacedRegions.firing.site).results = [] := by decide +kernel

/-- A declared barrier takes a wait as it issues. -/
theorem exec_barWait_declared {f : Fields} {s : State} (h : barrierCount s (f.aux16.toNat % 64) ≠ 0) : exec (.barWait f) s =
    .next (barrierTake s.fireReg.loadBase (f.aux16.toNat % 64)
      (some (emitAll f (rawL 0x283 f s), s.firing.site, (8 * s.firing.tag + s.firing.ctx) * 512 + s.firing.station)) s.firing.tag s) :=
  if_neg h

/-- The released wait's result carries the wave of region 0. -/
theorem exec_barWait_misplaced {t : State} (h : exec (.barWait barrierWait) misplacedRegions = .next t) :
    (t.pe misplacedRegions.firing.site).results.map Result.wave = [7] := by
  rw [exec_barWait_declared (by decide +kernel)] at h
  cases h
  decide +kernel

/-- Refutes O28: in `misplacedRegions` a wait of a closed generation leaves a result in wave 7 of region 0, where the third clause wants
wave 0, that of the region in which it fired. -/
theorem not_barriers : ¬ Obligations.Barriers := by
  unfold Obligations.Barriers
  rintro ⟨-, -, hclosed, -⟩
  obtain ⟨hfires, hwave, hnone⟩ := misplacedRegions_fires
  obtain ⟨t, hexec, hresults, -⟩ := hclosed barrierWait misplacedRegions 1 hfires (by decide +kernel) (by decide +kernel)
    (by decide +kernel) (by decide) (by decide)
  have hzero : (t.pe misplacedRegions.firing.site).results.map Result.wave = [0] := by
    rw [hresults, List.map_append, List.map_singleton, hwave, State.pe_onRegion, hnone]
    rfl
  exact absurd (hzero.symm.trans (exec_barWait_misplaced hexec)) (by decide)

end Sys2Proof.Machine
end

section
/-! Fatal stops, self-tests of sensors, the power monitor and the handshake (R381, R421, R422, R426; O58). -/

namespace Sys2Proof.Machine

/-! ### The fatal stop (R421, R422) -/

section
variable {s : State}

theorem bit_eq {n : Nat} (w : BitVec n) (i : Nat) : bit w i = (w.toNat / 2 ^ i % 2 == 1) := by
  rw [bit, Nat.shiftRight_eq_div_pow]

/-- FSTAT as a fatal stop leaves it: class and die, and no dump yet. -/
theorem fstat_of_stop {cls die : Nat} (hcls : cls < 16) (hdie : die < 32) :
    let w : Word := BitVec.ofNat 64 (cls % 16 + die % 32 * 2 ^ 6)
    field w 3 0 = cls ∧ field w 10 6 = die ∧ bit w 4 = false := by
  simp only [field_eq, bit_eq, BitVec.toNat_ofNat, beq_eq_false_iff_ne]
  omega

theorem LinkPort.state_down (q : LinkPort) : LinkPort.state { q with lstat := setField q.lstat 2 0 0 } = 0 := by
  simp only [LinkPort.state, setField, field_eq, BitVec.toNat_ofNat]
  omega

/-- A stop sets FSTAT and the site for the dump, takes every link down, and leaves the rest. -/
theorem fatalStop_stops {cls die : Nat} (site : Nat) (hf : s.fatal = false) (hcls : cls < 16) (hdie : die < 32) :
    let v := s.fatalStop cls die site
    v.fatal = true ∧ field v.modRegs.fstat 3 0 = cls ∧ field v.modRegs.fstat 10 6 = die ∧ bit v.modRegs.fstat 4 = false ∧
      v.fatalSite = BitVec.ofNat 64 (site % 2 ^ 32) ∧ (∀ kp ∈ v.links, LinkPort.state kp.2 = 0) ∧
      { v with fatal := s.fatal, fatalSite := s.fatalSite, modRegs := s.modRegs, links := s.links } = s := by
  obtain ⟨hclass, hplace, hdump⟩ := fstat_of_stop hcls hdie
  rw [show s.fatalStop cls die site = _ from if_neg (by simp [hf])]
  refine ⟨rfl, hclass, hplace, hdump, rfl, fun kp hkp => ?_, rfl⟩
  obtain ⟨kq, -, rfl⟩ := List.mem_map.mp hkp
  exact LinkPort.state_down kq.2

theorem fatalStop_fatal (cls die site : Nat) (hf : s.fatal = true) : s.fatalStop cls die site = s := if_pos hf

theorem fatalStop_dies (cls die site : Nat) : (s.fatalStop cls die site).dies = s.dies := by
  rw [State.fatalStop]
  split <;> rfl

theorem exec_fatalStop {cls die : Nat} (site : Nat) (h1 : 1 ≤ cls) (h4 : cls ≤ 4) (hdie : die ≤ 24) :
    exec (.fatalStop cls ⟨die, site⟩) s = .next (s.fatalStop cls die site) :=
  congrArg Host.Outcome.next (if_pos (by simp [h1, h4, hdie]))

theorem exec_fatalStop_fatal (cls : Nat) (place : Detector) (hf : s.fatal = true) : exec (.fatalStop cls place) s = .next s := by
  change Host.Outcome.next (if _ then s.fatalStop cls place.die place.site else s) = _
  rw [fatalStop_fatal cls place.die place.site hf, ite_self]

theorem afterFatal_iff (i : Instr) : afterFatal i = true ↔ i = .dumpWritten ∨ (∃ d, i = .debugRead d) ∨
    (∃ f ok, i = .moduleReset f ok) ∨ (∃ off data, i = .apertureAccess false off data) := by
  cases i <;> simp [afterFatal]

end

/-! ### Sensors (R421) -/

section
variable {s : State} {die sensor : Nat}

/-- SENSTAT after a self-test: its outcome, the sensor that failed, and one more test. -/
def senstatAfter (sensor : Nat) (ok : Bool) (w : Word) : Word :=
  BitVec.ofNat 64 (one ok + (if ok then 0 else sensor % 512 * 2) + (field w 63 32 + 1) % 2 ^ 32 * 2 ^ 32)

theorem senstatAfter_passed (sensor : Nat) (w : Word) : bit (senstatAfter sensor true w) 0 = true ∧
    field (senstatAfter sensor true w) 63 32 = (field w 63 32 + 1) % 2 ^ 32 := by
  simp only [senstatAfter, one, if_true, field_eq, bit_eq, BitVec.toNat_ofNat, beq_iff_eq]
  omega

theorem senstatAfter_failed (sensor : Nat) (w : Word) : bit (senstatAfter sensor false w) 0 = false ∧
    field (senstatAfter sensor false w) 9 1 = sensor % 512 ∧
    field (senstatAfter sensor false w) 63 32 = (field w 63 32 + 1) % 2 ^ 32 := by
  simp only [senstatAfter, one, Bool.false_eq_true, if_false, field_eq, bit_eq, BitVec.toNat_ofNat, beq_eq_false_iff_ne]
  omega

/-- A self-test is recorded in its die's registers. -/
def sensorTested (die sensor : Nat) (ok : Bool) (s : State) : State :=
  s.onDie die (fun d => { d with senstat := senstatAfter sensor ok d.senstat })

theorem sensorTested_senstat (ok : Bool) :
    ((sensorTested die sensor ok s).die die).senstat = senstatAfter sensor ok (s.die die).senstat :=
  congrArg DieRegs.senstat (State.die_onDie_self s die _)

theorem exec_sensorSelfTest (ok : Bool) (hf : s.fatal = false) (hdie : die < 24) (hsensor : sensor < 576) :
    exec (.sensorSelfTest die sensor ok) s =
      .next (if ok then sensorTested die sensor ok s else (sensorTested die sensor ok s).fatalStop 2 die 0) :=
  congrArg Host.Outcome.next (if_neg (by simp [hf, hdie, hsensor]))

end

/-! ### Power and the handshake (R381, R426) -/

section
variable {s : State}

/-- PWRSTAT shows the draw kept at the limit, and whether it was more. -/
theorem pwrstat_fields (draw : Nat) {cap : Nat} (hcap : cap ≤ 1050) :
    let w : Word := BitVec.ofNat 64 (min draw cap % 65536 + one (decide (cap < draw)) * 65536)
    field w 15 0 = min draw cap ∧ (bit w 16 = true ↔ cap < draw) := by
  have hkept : min draw cap ≤ 1050 := (min_le_right draw cap).trans hcap
  generalize min draw cap = kept at hkept ⊢
  by_cases hover : cap < draw
  · simp only [hover, decide_true, one, if_true, iff_true, field_eq, bit_eq, BitVec.toNat_ofNat, beq_iff_eq]
    omega
  · simp only [hover, decide_false, one, Bool.false_eq_true, if_false, iff_false, field_eq, bit_eq, BitVec.toNat_ofNat,
      beq_iff_eq]
    omega

theorem negotiate_open (v : Word) (hf : s.fatal = false) (hb : s.booted = true) (hopen : field s.modRegs.hifact 17 16 = 0) :
    negotiate v s = s.onRegs (fun g => { g with
      hifneg := BitVec.ofNat 64 (field v 16 0)
      hifact := if bit v 16 = false then g.hifact else if field v 15 8 = 1 then 0x10100 else 0x20000 }) := by
  rw [negotiate, if_neg (by simp [hf, hb, hopen])]
  simp

theorem negotiate_closed (v : Word) (h : s.fatal = true ∨ field s.modRegs.hifact 17 16 ≠ 0) : negotiate v s = s :=
  if_pos (by rcases h with h | h <;> simp [h])

theorem hostEvent_closed {g : State → State} (h : s.hostOpen = false) : hostEvent s g = s := by
  simp [hostEvent, h]

/-- Without a handshake, and after a fatal error, no write of a host has an effect. -/
theorem exec_hostWrite_closed (h : s.hostOpen = false) (k off len : Nat) (v : Word) (w : BitVec 128) (data : List Byte) :
    ∀ i ∈ [Instr.regionFlush k, .regionHalt k, .regionResume k, .clearPoisonLog k, .clearStall k, .rqheadWrite v, .fqheadWrite v,
      .dieReset v, .preemptResume k, .linkRetrain k, .queueHeadWrite k v, .queueTailWrite k v, .tinvPage v, .tresRetry v, .injectStrike k,
      .tokenWindowWrite off len w, .apertureAccess true off data], exec i s = .next s := by
  have hclosed (g : State → State) : Host.Outcome.next (hostEvent s g) = (.next s : Host.Outcome State Fault Refusal) :=
    congrArg Host.Outcome.next (hostEvent_closed h)
  simp only [List.forall_mem_cons]
  exact ⟨hclosed _, hclosed _, hclosed _, hclosed _, hclosed _, hclosed _, hclosed _, hclosed _, hclosed _, hclosed _, hclosed _, hclosed _,
    hclosed _, hclosed _, hclosed _, hclosed _, hclosed _, List.forall_mem_nil _⟩

theorem exec_registerWrite_closed (h : s.hostOpen = false) {off : Nat} (v : Word) (hoff : off ≠ 0x10) :
    exec (.registerWrite off v) s = .next s :=
  congrArg Host.Outcome.next ((if_neg hoff).trans (hostEvent_closed h))

/-- Before the handshake a read of a host returns zero. -/
theorem exec_hostRead_zero (h : bit s.modRegs.hifact 16 = false) (k off : Nat) (data : List Byte) :
    exec (.debugRead k) s = .next { s with hostRead := 0 } ∧
    exec (.apertureAccess false off data) s = .next { s with hostBytes := List.replicate data.length 0 } :=
  ⟨congrArg Host.Outcome.next (if_pos (by simp [h])),
    congrArg Host.Outcome.next ((if_neg Bool.false_ne_true).trans (if_pos (by simp [h])))⟩

end

end Sys2Proof.Machine
end

section
/-! The dump of a fatal stop, and the reset of a die (O58). -/

namespace Sys2Proof.Machine

/-! ### The dump (R422 to R425) -/

section
variable {m : Memory} {s : State}

/-- A part of a block that was written reads back. -/
theorem Memory.readBytes_writeBytes_part (hm : Memory.wf m = true) (a : Nat) {bs : List Byte} {i n : Nat} (h : i + n ≤ bs.length) :
    Memory.readBytes (Memory.writeBytes m a bs) (a + i) n = (bs.drop i).take n := by
  rw [Memory.readBytes_eq_map]
  refine List.ext_getElem (by simp; omega) fun j hj _ => ?_
  have hlt : i + j < bs.length := by
    rw [List.length_map, List.length_range] at hj
    omega
  simp [Nat.add_assoc, Memory.read_writeBytes_inside hm a (i + j) bs hlt, hlt]

theorem dumpBytes_length (s : State) (size : Nat) : 256 ≤ (dumpBytes s size).length := by
  simp only [dumpBytes, dumpHeader, List.length_append, leBytes_length, List.length_replicate]
  omega

/-- What the host reads of a dump's header: "DUMP", and at their offsets the class, the die and the site. -/
theorem readBytes_dump (hm : Memory.wf m = true) (a : Nat) (s : State) (size : Nat) :
    let d := Memory.writeBytes m a (dumpBytes s size)
    Memory.readBytes d a 4 = [0x44, 0x55, 0x4D, 0x50] ∧
    Memory.readBytes d (a + 8) 1 = leBytes 1 (field s.modRegs.fstat 3 0) ∧
    Memory.readBytes d (a + 10) 2 = leBytes 2 (field s.modRegs.fstat 10 6) ∧
    Memory.readBytes d (a + 12) 4 = leBytes 4 s.fatalSite.toNat := by
  have hpart {i n : Nat} (h : i + n ≤ 256) := Memory.readBytes_writeBytes_part hm a (h.trans (dumpBytes_length s size))
  exact ⟨(hpart (i := 0) (n := 4) (by decide)).trans rfl, (hpart (i := 8) (n := 1) (by decide)).trans rfl,
    (hpart (i := 10) (n := 2) (by decide)).trans rfl, (hpart (i := 12) (n := 4) (by decide)).trans rfl⟩

theorem writeDump_hostMem (s : State) : (writeDump s).hostMem =
    Memory.writeBytes s.hostMem s.modRegs.dmpbase.toNat (dumpBytes s (field s.modRegs.dmpsize 31 0 * 4096)) := by
  rw [writeDump, State.raiseVector_hostMem]

/-- The mark of a truncated dump leaves the one that it was written. -/
theorem fstat_dumped (w : Word) (cut : Nat) : bit (setField (setField w 4 4 1) 5 5 cut) 4 = true := by
  simp only [bit_eq, setField, field_eq, BitVec.toNat_ofNat, beq_iff_eq]
  omega

theorem exec_dumpWritten (hf : s.fatal = true) (hfirst : bit s.modRegs.fstat 4 = false) (hset : field s.modRegs.dmpsize 31 0 ≠ 0) :
    exec .dumpWritten s = .next (writeDump s) :=
  congrArg Host.Outcome.next (if_pos (by simp [hf, hfirst, hset]))

theorem exec_dumpWritten_none (h : s.fatal = false ∨ bit s.modRegs.fstat 4 = true) : exec .dumpWritten s = .next s :=
  congrArg Host.Outcome.next (if_neg (by rcases h with h | h <;> simp [h]))

end

/-! ### Regions that a die loses (R332, R425) -/

section
variable {s : State} {die : Nat}

/-- An eviction leaves memory and the registers of the dies. -/
theorem evictRegion_keeps (k : Nat) (s : State) : (evictRegion k s).mem = s.mem ∧ (evictRegion k s).dies = s.dies := by
  have hsites : (orphaned k s).SitesOnly ((regionTiles (flushRegion k s) k).foldl (fun s x => s.onTile x (fun _ => Tile.clear))
      (flushRegion k s)) := (flushRegion_sites k s).trans (.of_tiles (foldTile_rest _ _ _))
  have hall := (hsites.onRegionPes k (dropContext (s.region k).ctx)).onRegionOpers k (fun _ o => o.onLine Oper.idle)
  exact ⟨hall.mem, (congrArg State.dies hall :)⟩

/-- The configured regions of a die. -/
def dieRegions (die : Nat) (s : State) : Map Region := s.regions.filter (fun kr => kr.2.valid && kr.2.die == die)

/-- A die whose resident regions have left it. -/
def evictedDie (die : Nat) (s : State) : State :=
  (((dieRegions die s).filter (fun kr => kr.2.status != 6)).map Prod.fst).foldl (fun s k => evictRegion k s) (saveParked die s)

theorem evictedDie_keeps (die : Nat) (s : State) : (evictedDie die s).mem = s.mem ∧ (evictedDie die s).dies = s.dies := by
  refine List.foldlRecOn (motive := fun u => State.mem u = s.mem ∧ State.dies u = s.dies) _ _ ⟨rfl, rfl⟩ ?_
  rintro u ⟨hmem, hdies⟩ k -
  obtain ⟨hmem', hdies'⟩ := evictRegion_keeps k u
  exact ⟨hmem'.trans hmem, hdies'.trans hdies⟩

/-- A die at its reset values, before its PEs hold back the tokens of what is parked there. -/
def clearedDie (die : Nat) (s : State) : State :=
  let off := fun (k : Nat) => (Site.ofKey k).die != die
  let u := evictedDie die s
  { u.onDie die (fun d => { DieRegs.reset with repmap := d.repmap, mapped := d.repmap }) with
    pes := u.pes.keep off, tiles := u.tiles.keep off, opers := u.opers.keep off, matrices := u.matrices.keep off
    clocks := Map.put u.clocks die 0, net := u.net.filter (fun f => off f.dst) }

/-- The regions parked on a die. -/
def parkedOn (die : Nat) (s : State) : List Nat := ((dieRegions die s).filter (fun kr => kr.2.status == 6)).map Prod.fst

theorem resetDie_eq (die : Nat) (s : State) : resetDie die s =
    (parkedOn die s).foldl (fun s k => onRegionPes k (fun p => p.setState (s.region k).ctx 3) s) (clearedDie die s) := rfl

/-- What a parked region leaves of itself on its die stands in the PEs alone. -/
theorem resetDie_rest (die : Nat) (s : State) : { resetDie die s with pes := (clearedDie die s).pes } = clearedDie die s := by
  rw [resetDie_eq]
  refine List.foldlRecOn (motive := fun u : State => { u with pes := (clearedDie die s).pes } = clearedDie die s) _ _ rfl ?_
  intro u hu k _
  exact (congrArg (fun w : State => { w with pes := (clearedDie die s).pes }) (onRegionPes_rest k _ u) :).trans hu

theorem Map.find_keep_of_not {α : Type} {p : Nat → Bool} {q : Nat} (h : p q = false) (m : Map α) : Map.find (m.keep p) q = none := by
  induction m with
  | nil => rfl
  | cons kv m ih =>
    obtain ⟨k, v⟩ := kv
    rw [Map.keep, List.filter_cons]
    split
    · next hk =>
      have hne : q ≠ k := by
        rintro rfl
        exact absurd hk (by simp [h])
      rw [Map.find_cons, if_neg hne]
      exact ih
    · exact ih

theorem Map.get_keep_of_not {α : Type} {p : Nat → Bool} {q : Nat} (h : p q = false) (m : Map α) (d : α) :
    Map.get (m.keep p) d q = d := by
  rw [Map.get, Map.find_keep_of_not h, Option.getD_none]

/-- The registers, the counter and memory after the reset of a die. -/
theorem resetDie_registers (die : Nat) (s : State) : (resetDie die s).now die = 0 ∧ (resetDie die s).mem = s.mem ∧
    (resetDie die s).die die = { DieRegs.reset with repmap := (s.die die).repmap, mapped := (s.die die).repmap } := by
  have hrest := resetDie_rest die s
  obtain ⟨hmem, hdies⟩ := evictedDie_keeps die s
  have hdie : (evictedDie die s).die die = s.die die := (congrArg (fun d => Map.get d DieRegs.reset die) hdies :)
  refine ⟨(congrArg (fun u : State => u.now die) hrest :).trans (Map.get_put_self _ 0 die 0), (congrArg State.mem hrest :).trans hmem,
    (congrArg (fun u : State => u.die die) hrest :).trans ?_⟩
  rw [← hdie]
  exact State.die_onDie_self (evictedDie die s) die fun d => { DieRegs.reset with repmap := d.repmap, mapped := d.repmap }

/-- Its sites hold nothing, but for the PEs of what is parked there. -/
theorem resetDie_sites {k : Nat} (hk : (Site.ofKey k).die = die) : (resetDie die s).tile k = Tile.clear ∧
    (resetDie die s).oper k = Oper.idle ∧ (parkedOn die s = [] → (resetDie die s).pe k = Pe.idle) := by
  have hrest := resetDie_rest die s
  have hgone {α : Type} (m : Map α) (d : α) : Map.get (m.keep (fun j => (Site.ofKey j).die != die)) d k = d :=
    Map.get_keep_of_not (by simp [hk]) m d
  refine ⟨(congrArg (fun u : State => u.tile k) hrest :).trans (hgone _ _),
    (congrArg (fun u : State => u.oper k) hrest :).trans (hgone _ _), fun hnone => ?_⟩
  rw [resetDie_eq, hnone]
  exact hgone _ _

theorem parkedOn_eq_nil (h : ∀ kr ∈ s.regions, kr.2.status = 6 → Region.die kr.2 ≠ die) : parkedOn die s = [] := by
  simp only [parkedOn, dieRegions, List.map_eq_nil_iff, List.filter_eq_nil_iff, List.mem_filter]
  rintro kr ⟨hmem, hdie⟩ hparked
  exact h kr hmem (by simpa using hparked) (by simpa using (Bool.and_eq_true_iff.mp hdie).2)

theorem exec_dieReset {v : Word} (ho : s.hostOpen = true) (hfree : dieHeld s (field v 4 0) = false) (hgo : bit v 8 = true)
    (hdie : field v 4 0 < 24) : exec (.dieReset v) s = .next (resetDie (field v 4 0) s) :=
  congrArg Host.Outcome.next ((hostEvent_open ho).trans
    ((if_neg (ne_true_of_eq_false hfree)).trans (if_pos (by simp [hgo, hdie]))))

theorem exec_dieReset_held {v : Word} (ho : s.hostOpen = true) (hheld : dieHeld s (field v 4 0) = true) :
    exec (.dieReset v) s = .next s.refuseWrite :=
  congrArg Host.Outcome.next ((hostEvent_open ho).trans (if_pos hheld))

end

end Sys2Proof.Machine
end

section
/-! Fatal errors and resets: the statement, part by part (O58). -/

namespace Sys2Proof.Machine

/-- Settles O58: each event is the function of its name in the case at hand (`fatalStop_stops`, `senstatAfter_…`, `readBytes_dump`,
`negotiate_…`); what the reset of a die leaves is that of `clearedDie` and of the PEs of what is parked there (`resetDie_…`). -/
theorem fatalAndReset : Obligations.FatalAndReset := by
  unfold Obligations.FatalAndReset
  refine ⟨?stops, fun s cls die site hf => exec_fatalStop_fatal cls ⟨die, site⟩ hf,
    fun s i ts h hf hi => (step_turn h).trans (runTurn_event_fatal hf hi), afterFatal_iff, ?sensors, ?dump,
    fun s _ h => exec_dumpWritten_none (.inr h), fun s h => exec_dumpWritten_none (.inl h), ?dieReset,
    fun s v ho hheld => exec_dieReset_held ho hheld, ?moduleReset, ?moduleFails, ?power, ?handshake,
    fun s v h => congrArg Host.Outcome.next (negotiate_closed v h),
    fun s hf => congrArg Host.Outcome.next (if_neg (by simp [hf])), ?writes,
    fun s k off data h => exec_hostRead_zero h k off data⟩
  case stops =>
    intro s cls die site hf h1 h4 hdie
    exact ⟨_, exec_fatalStop site h1 h4 hdie, fatalStop_stops site hf (by omega) (by omega)⟩
  case sensors =>
    intro s die sensor hf hdie hsensor
    refine ⟨⟨_, exec_sensorSelfTest true hf hdie hsensor, ?passed⟩, ⟨_, exec_sensorSelfTest false hf hdie hsensor, ?failed⟩⟩
    case passed =>
      obtain ⟨hok, hcount⟩ := senstatAfter_passed sensor (s.die die).senstat
      rw [if_pos rfl, sensorTested_senstat]
      exact ⟨hok, hcount, rfl⟩
    case failed =>
      obtain ⟨hok, hsite, hcount⟩ := senstatAfter_failed sensor (s.die die).senstat
      obtain ⟨hfatal, hclass, hplace, -⟩ := fatalStop_stops (s := sensorTested die sensor false s) (cls := 2) (die := die) 0 hf
        (by decide) (by omega)
      rw [if_neg Bool.false_ne_true, State.die, fatalStop_dies, ← State.die, sensorTested_senstat]
      exact ⟨hfatal, hclass, hplace, hok, hsite, hcount⟩
  case dump =>
    rintro s ⟨-, hhost⟩ hf hfirst hset
    refine ⟨_, exec_dumpWritten hf hfirst hset, fstat_dumped _ _, rfl, rfl, rfl, rfl, ?_⟩
    rw [writeDump_hostMem]
    exact readBytes_dump hhost _ s _
  case dieReset =>
    intro s v ho hfree hgo hdie
    obtain ⟨hnow, hmem, hregs⟩ := resetDie_registers (field v 4 0) s
    refine ⟨_, exec_dieReset ho hfree hgo hdie, hnow, hmem, hregs, fun k hk => ?_⟩
    obtain ⟨htile, hoper, hpe⟩ := resetDie_sites (s := s) hk
    exact ⟨htile, hoper, fun hnone => hpe (parkedOn_eq_nil hnone)⟩
  case moduleReset =>
    intro s failed
    exact ⟨_, rfl, rfl, rfl, rfl, rfl, rfl, rfl, rfl, rfl, rfl, rfl, rfl, rfl, rfl, rfl, rfl, rfl⟩
  case moduleFails =>
    intro s failed
    exact ⟨_, rfl, rfl, rfl, (fstat_of_stop (cls := 2) (die := 0) (by decide) (by decide)).1, rfl⟩
  case power =>
    intro s draw hf cap
    obtain ⟨hdraw, hover⟩ := pwrstat_fields draw (min_le_left 1050 (field s.modRegs.pwrcap 15 0))
    exact ⟨_, congrArg Host.Outcome.next (if_neg (by simp [hf])), hdraw, hover, rfl⟩
  case handshake =>
    intro s v hf hb hopen
    refine ⟨_, congrArg Host.Outcome.next (negotiate_open v hf hb hopen), rfl, fun hgo => if_pos hgo, fun hgo hmajor => ?_,
      fun hgo hmajor => ?_, rfl⟩
    · exact (if_neg (by simp [hgo])).trans (if_pos hmajor)
    · exact (if_neg (by simp [hgo])).trans (if_neg hmajor)
  case writes =>
    intro s k off len v w data h
    exact ⟨exec_hostWrite_closed h k off len v w data, exec_registerWrite_closed h v⟩

end Sys2Proof.Machine
end
